-- ==== Sys2Proof/Word.lean ====
section
/-!
DEFINITION. The machine's words: the bit-vector widths the manual names (00 R3) and the small records that an
event of the machine carries as its input from outside.
-/

namespace Sys2Proof

/-- A byte of memory (00 R3). -/
abbrev Byte := BitVec 8
/-- A 32-bit word: an instruction word, a tagged scratchpad word, an element. -/
abbrev W32 := BitVec 32
/-- A 64-bit word: a scalar register, an address. -/
abbrev W64 := BitVec 64
/-- The number of a scalar register s0 to s63 (14 R218). -/
abbrev Reg := BitVec 6
/-- The number of a predicate p0 to p7. -/
abbrev Pred := BitVec 3
/-- The predicate selector q of an instruction (14 R220). -/
abbrev Sel := BitVec 4
/-- The number of a source or sink port (18). -/
abbrev Port := BitVec 4
/-- The number of a plane, 0 to 3. -/
abbrev Plane := BitVec 2
/-- The number of an OPM slot m0 to m31. -/
abbrev Slot := BitVec 5
/-- The number of an accumulator a0 to a7. -/
abbrev AccNo := BitVec 3

/-- One 32-byte image of a range entry, word by word (09 R150). -/
structure RangeImage where
  base  : W64
  limit : W64
  pa    : W64
  perm  : W64
  deriving DecidableEq, Repr

/-- The first four words of a queue descriptor; words 4 to 7 are reserved (05 R76). -/
structure QueueImage where
  ringBase : W64
  rptrWb   : W64
  errWord  : W64
  ctl      : W64
  deriving DecidableEq, Repr

/-- What Horlyn installs when it binds a context (04 R54): the job id, the page table root, the range entries by
number, the queue descriptors by queue number, and the fault vector. -/
structure BindImage where
  job    : BitVec 16
  ptRoot : BitVec 56
  ranges : List (Nat × RangeImage)
  queues : List (Nat × QueueImage)
  fltvec : W64
  deriving DecidableEq, Repr

namespace Machine

/-- The operations of a pile (08 R138 to R140). -/
inductive PileOp where
  | pinit (cap base : W32)
  | push (v : W64)
  | pop
  | popw
  | restore (v : W64)
  deriving DecidableEq, Repr

/-- What a request asks of its home (12 R180). -/
inductive ReqOp where
  | read (bytes : Nat) (zero : Bool)        -- LDG
  | write (bytes : Nat) (v : W64)           -- STG
  | setf (v : W32)
  | clre
  | tagrd
  | waitRead (take : Bool)                  -- LDF.G, LDX.G
  | waitStf                                 -- STF.G
  | take                                    -- the take of a remote hold at commit
  | release                                 -- the end of a hold or reservation at abandonment
  | stfWrite (v : W32)                      -- the write of a remote reservation at commit
  | atomic (fn : Nat) (w64 : Bool) (v v2 : W64)
  | pile (op : PileOp)
  | barr (amount : Nat)
  | binit (byteMode trap : Bool) (expect : BitVec 48)
  | brst
  | btest
  | bwait (phase : BitVec 8)
  | pass                                    -- a packet that only passes through this module (10 R406)
  deriving DecidableEq, Repr

/-- What a packet of another module carries: a request with its requester, a launch record for this module's CP with the number and
the priority of the launch there, the report that a launch's groups on that module have retired, a release, or something that
concerns a third module (04 R69, 06 R99, 10 R406, 11 R178). -/
inductive FarBody where
  | request (op : ReqOp) (fe seat pa : Nat) (va : W64) (lands : Bool)
  | launch (id : Nat) (prio : BitVec 2) (words : List W64)
  | retired (launch : Nat)
  | resume (time : W64)
  | other
  deriving DecidableEq, Repr

/-- A packet that crosses rigging: the modules that it comes from and goes to, its job, and what it carries (04 R69). -/
structure FarPacket where
  src  : Nat
  dst  : Nat
  job  : BitVec 16
  body : FarBody
  deriving DecidableEq, Repr

end Machine

/-- A rigging flit as a receiver reads it: its header (10 R162) and the packets of its payload that come from another module
without having been asked for (log 30). -/
structure Flit where
  seq    : Nat
  kind   : BitVec 4
  ackV   : Bool
  ackSeq : Nat
  keyPh  : Bool
  body   : List Machine.FarPacket := []
  deriving DecidableEq, Repr

/-- What the training of a link brings: the UCIe modules of a splice that trained at ×32, or, when not 0, that the margin of a
rigging port is below its threshold; and the round trip measured, in µs (10 R158, R159, R162). -/
structure Training where
  half  : BitVec 4
  rttUs : Nat
  deriving DecidableEq, Repr

/-- A hitch cause record, words 0 to 3 (11 R176). -/
structure CauseWords where
  ptime : W64
  hand  : W64
  who   : W64
  valid : Bool
  deriving DecidableEq, Repr

/-- What ECC reports for a fill or a write-back (13 R205); it comes from the memory devices, an input. -/
inductive EccResult where
  | clean
  | corrected
  | uncorrectable
  deriving DecidableEq, Repr

end Sys2Proof
end

