-- ==== Sys2Proof/Config.lean ====
section
/-!
DEFINITION. The free values: what the manual leaves open. Each is opaque and has no body, so that nothing can be
proved of its value; a number of State that the machine counts up makes each use a fresh one.
-/

namespace Sys2Proof.Config

/-- Whether a lane passes a training test, by channel, wires (64 and 65 are the spares') and delays (26 R395, R396); it comes from
the PHY. DESIGN CHOICE, log 8. -/
opaque phyRead : Nat → Nat → Nat → Bool
opaque phyWrite : Nat → Nat → Nat → Bool
opaque phyPattern : Nat → Nat → Nat → Nat → Bool
/-- Nanoseconds of pod time passed since TIME was read last (19 R352). DESIGN CHOICE, log 9. -/
opaque elapsedNs : Nat → Nat
/-- The spare row that a row swap draws at random (13 R206). DESIGN CHOICE, log 10. -/
opaque spareDraw : Nat → Nat
/-- The 32-bit staging marker that Horlyn draws at each boot (13 R210). DESIGN CHOICE, log 6. -/
opaque stagingMarker : W32
/-- The copy engine of a die that its card scheduler chooses (19 R341), taken modulo 12. DESIGN CHOICE, log 11. -/
opaque cardScheduler : Nat → Nat
/-- The C-die that the CP chooses for a TRANSFORM node with ANY set (05 R84), taken modulo 8. DESIGN CHOICE, log 11. -/
opaque anyDie : Nat → Nat

/-- A byte of code or of a table that lies on another module, by its fabric physical address. DESIGN CHOICE, log 17. -/
opaque farByte : Nat → Byte
/-- A word that another module answers a request with (log 23). DESIGN CHOICE. -/
opaque farWord : Nat → W64
/-- Packets that a die control unit's holding queue takes for one save block (04 R69). DESIGN CHOICE, log 24. -/
opaque holdingQueue : Nat
/-- The round trip of a link in microseconds, as training measures it (10 R162). DESIGN CHOICE, log 29. -/
opaque roundTripUs : Nat → Nat
/-- The word that stands in an element made empty, whose bits no rule gives (18 R300). DESIGN CHOICE, log 31. -/
opaque emptyElem : W32

/-- Whether a step of boot fails, and whether a channel's training gives no usable result or Horlyn's policy leaves it untrained
(27 R401). DESIGN CHOICE, log 28. -/
opaque bootFails : Nat → Nat → Bool
opaque channelDark : Nat → Nat → Bool

end Sys2Proof.Config
end

