-- ==== Sys2Proof/Syntax.lean ====
section
/-!
DEFINITION. The syntax: one constructor for each row of spec/opcode_table.json. The first 182 rows are operations of a
seat, with the fields of their encoding (14, 15); the last 118 are events of the machine, which have no encoding and
carry what comes from outside: which object the event names, and the outcome of a check that the model does not hold.
-/

namespace Sys2Proof

/-- The operations and events of the SK9-768. -/
inductive Instr where
  /-- `NOP` (R265): Does nothing. -/
  | nop (q : Sel)
  /-- `HALT` (R265): At commit the seat becomes RETIRED and its group may retire. -/
  | halt (q : Sel)
  /-- `YIELD` (R265): At commit, if a pre-emption is pending, the seat halts at the next belay point; otherwise it gives up its next round-robin turn. -/
  | yield (q : Sel)
  /-- `BRK` (R267): Commits its hand, writes the fault registers and starts a hitch wave. -/
  | brk (q : Sel)
  /-- `ERET` (R268): Returns from the handler or the rebuild stub, or jumps through RETHAND. -/
  | eret (q : Sel)
  /-- `WAITEV` (R269): Waits until an event record is present or a deadline passes, and reports which happened. -/
  | waitev (d : Reg) (a : Reg) (q : Sel)
  /-- `ADD` (R270): 64-bit integer addition. -/
  | add (d : Reg) (a : Reg) (b : Reg) (q : Sel)
  /-- `SUB` (R270): 64-bit integer subtraction. -/
  | sub (d : Reg) (a : Reg) (b : Reg) (q : Sel)
  /-- `MUL` (R270): Low 64 bits of the product. -/
  | mul (d : Reg) (a : Reg) (b : Reg) (q : Sel)
  /-- `MULH` (R270): High 64 bits of the signed product. -/
  | mulh (d : Reg) (a : Reg) (b : Reg) (q : Sel)
  /-- `MULHN` (R270): High 64 bits of the natural product. -/
  | mulhn (d : Reg) (a : Reg) (b : Reg) (q : Sel)
  /-- `DIV` (R270): Signed division truncated towards zero; a zero divisor raises INT_DIVZERO. -/
  | div (d : Reg) (a : Reg) (b : Reg) (q : Sel)
  /-- `DIVN` (R270): Natural division; a zero divisor raises INT_DIVZERO. -/
  | divn (d : Reg) (a : Reg) (b : Reg) (q : Sel)
  /-- `REM` (R270): Signed remainder; a zero divisor raises INT_DIVZERO. -/
  | rem (d : Reg) (a : Reg) (b : Reg) (q : Sel)
  /-- `REMN` (R270): Natural remainder; a zero divisor raises INT_DIVZERO. -/
  | remn (d : Reg) (a : Reg) (b : Reg) (q : Sel)
  /-- `AND` (R270): Bitwise and. -/
  | and (d : Reg) (a : Reg) (b : Reg) (q : Sel)
  /-- `OR` (R270): Bitwise or. -/
  | or (d : Reg) (a : Reg) (b : Reg) (q : Sel)
  /-- `XOR` (R270): Bitwise exclusive or. -/
  | xor (d : Reg) (a : Reg) (b : Reg) (q : Sel)
  /-- `ANDN` (R270): a and not b. -/
  | andn (d : Reg) (a : Reg) (b : Reg) (q : Sel)
  /-- `SHL` (R270): Shift left by b[5:0]. -/
  | shl (d : Reg) (a : Reg) (b : Reg) (q : Sel)
  /-- `SHR` (R270): Logical shift right by b[5:0]. -/
  | shr (d : Reg) (a : Reg) (b : Reg) (q : Sel)
  /-- `SRA` (R270): Arithmetic shift right by b[5:0]. -/
  | sra (d : Reg) (a : Reg) (b : Reg) (q : Sel)
  /-- `ROTL` (R271): Rotate left by b[5:0]. -/
  | rotl (d : Reg) (a : Reg) (b : Reg) (q : Sel)
  /-- `CLZ` (R271): Counts the leading zero bits. -/
  | clz (d : Reg) (a : Reg) (q : Sel)
  /-- `CTZ` (R271): Counts the trailing zero bits. -/
  | ctz (d : Reg) (a : Reg) (q : Sel)
  /-- `POPC` (R271): Counts the one bits. -/
  | popc (d : Reg) (a : Reg) (q : Sel)
  /-- `MIN` (R271): Signed minimum. -/
  | min (d : Reg) (a : Reg) (b : Reg) (q : Sel)
  /-- `MAX` (R271): Signed maximum. -/
  | max (d : Reg) (a : Reg) (b : Reg) (q : Sel)
  /-- `MINN` (R271): Natural minimum. -/
  | minn (d : Reg) (a : Reg) (b : Reg) (q : Sel)
  /-- `MAXN` (R271): Natural maximum. -/
  | maxn (d : Reg) (a : Reg) (b : Reg) (q : Sel)
  /-- `SEL` (R271): Selects a or b according to the destination register's old value. -/
  | sel (d : Reg) (a : Reg) (b : Reg) (q : Sel)
  /-- `MOV` (R271): Register copy. -/
  | mov (d : Reg) (a : Reg) (q : Sel)
  /-- `CMP` (R275): Compares the low w bits of two registers under the type in fn and writes a predicate. -/
  | cmp (ty : BitVec 3) (cc : BitVec 3) (pd : Pred) (a : Reg) (b : Reg) (q : Sel)
  /-- `FCMP` (R276): Compares two FP32 values and writes a predicate, with no flags. -/
  | fcmp (cc : BitVec 3) (pd : Pred) (a : Reg) (b : Reg) (q : Sel)
  /-- `PAND` (R277): Predicate and. -/
  | pand (pd : Pred) (pa : Pred) (pb : Pred) (q : Sel)
  /-- `POR` (R277): Predicate or. -/
  | por (pd : Pred) (pa : Pred) (pb : Pred) (q : Sel)
  /-- `PXOR` (R277): Predicate exclusive or. -/
  | pxor (pd : Pred) (pa : Pred) (pb : Pred) (q : Sel)
  /-- `PNOT` (R277): Predicate not. -/
  | pnot (pd : Pred) (pa : Pred) (q : Sel)
  /-- `ADDI` (R273): Adds a sign-extended 10-bit immediate. -/
  | addi (d : Reg) (a : Reg) (imm : BitVec 10) (q : Sel)
  /-- `ANDI` (R273): Ands with a sign-extended immediate. -/
  | andi (d : Reg) (a : Reg) (imm : BitVec 10) (q : Sel)
  /-- `ORI` (R273): Ors with a sign-extended immediate. -/
  | ori (d : Reg) (a : Reg) (imm : BitVec 10) (q : Sel)
  /-- `XORI` (R273): Xors with a sign-extended immediate. -/
  | xori (d : Reg) (a : Reg) (imm : BitVec 10) (q : Sel)
  /-- `SHLI` (R272): Shift left by an immediate amount. -/
  | shli (d : Reg) (a : Reg) (amt : BitVec 6) (q : Sel)
  /-- `SHRI` (R272): Logical shift right by an immediate amount. -/
  | shri (d : Reg) (a : Reg) (amt : BitVec 6) (q : Sel)
  /-- `SRAI` (R272): Arithmetic shift right by an immediate amount. -/
  | srai (d : Reg) (a : Reg) (amt : BitVec 6) (q : Sel)
  /-- `CMPI` (R275): Compares a register with a sign-extended immediate and writes a predicate. -/
  | cmpi (cc : BitVec 3) (pd : Pred) (a : Reg) (imm : BitVec 10) (q : Sel)
  /-- `MOVI` (R274): Loads a sign-extended 20-bit immediate. -/
  | movi (d : Reg) (imm : BitVec 20)
  /-- `MOVHI` (R274): Shifts the register left 20 bits and inserts a 20-bit immediate. -/
  | movhi (d : Reg) (imm : BitVec 20)
  /-- `FADD` (R281): FP32 addition rounded once under FPCTL. -/
  | fadd (d : Reg) (a : Reg) (b : Reg) (q : Sel)
  /-- `FSUB` (R281): FP32 subtraction. -/
  | fsub (d : Reg) (a : Reg) (b : Reg) (q : Sel)
  /-- `FMUL` (R281): FP32 multiplication. -/
  | fmul (d : Reg) (a : Reg) (b : Reg) (q : Sel)
  /-- `FDIV` (R281): FP32 division. -/
  | fdiv (d : Reg) (a : Reg) (b : Reg) (q : Sel)
  /-- `FMIN` (R281): FP32 minimum, with no flags. -/
  | fmin (d : Reg) (a : Reg) (b : Reg) (q : Sel)
  /-- `FMAX` (R281): FP32 maximum, with no flags. -/
  | fmax (d : Reg) (a : Reg) (b : Reg) (q : Sel)
  /-- `FABS` (R281): Clears the sign bit. -/
  | fabs (d : Reg) (a : Reg) (q : Sel)
  /-- `FNEG` (R281): Inverts the sign bit. -/
  | fneg (d : Reg) (a : Reg) (q : Sel)
  /-- `FFMA` (R281): Fused a × b + c with one rounding. -/
  | ffma (d : Reg) (a : Reg) (b : Reg) (q : Sel)
  /-- `FRCP` (R281): Correctly rounded reciprocal. -/
  | frcp (d : Reg) (a : Reg) (q : Sel)
  /-- `FRSQ` (R281): Correctly rounded reciprocal square root. -/
  | frsq (d : Reg) (a : Reg) (q : Sel)
  /-- `FSQRT` (R281): Correctly rounded square root. -/
  | fsqrt (d : Reg) (a : Reg) (q : Sel)
  /-- `FEXP2` (R281): Correctly rounded 2^a. -/
  | fexp2 (d : Reg) (a : Reg) (q : Sel)
  /-- `FLOG2` (R281): Correctly rounded log2 a. -/
  | flog2 (d : Reg) (a : Reg) (q : Sel)
  /-- `FCVT` (R282): Converts between the float and integer formats coded in fn and sb. -/
  | fcvt (dst : BitVec 4) (src : BitVec 4) (d : Reg) (a : Reg) (q : Sel)
  /-- `EXT_N` (R279): Extracts a bitfield with zero extension. -/
  | extN (d : Reg) (a : Reg) (b : Reg) (q : Sel)
  /-- `EXT_I` (R279): Extracts a bitfield with sign extension. -/
  | extI (d : Reg) (a : Reg) (b : Reg) (q : Sel)
  /-- `INS` (R279): Inserts a bitfield into the destination. -/
  | ins (d : Reg) (a : Reg) (b : Reg) (q : Sel)
  /-- `BR` (R257): Branches to a hand at a displacement. -/
  | br (disp : BitVec 22) (q : Sel)
  /-- `CALL` (R257): Branches to a hand and writes the link register. -/
  | call (disp : BitVec 22) (q : Sel)
  /-- `SKIP` (R259): Skips forward D slots within the hand. -/
  | skip (dist : BitVec 7) (q : Sel)
  /-- `LOOP` (R260): Activates a zero-overhead loop over a span of hands, or passes over the span when the count is 0. -/
  | loop (n : BitVec 2) (a : Reg) (last : BitVec 10) (q : Sel)
  /-- `CALLI` (R258): Indirect call through a register. -/
  | calli (a : Reg) (q : Sel)
  /-- `JMPI` (R258): Indirect jump through a register. -/
  | jmpi (a : Reg) (q : Sel)
  /-- `RET` (R258): Jumps through the link register. -/
  | ret (q : Sel)
  /-- `LOOPBRK` (R263): Deactivates loop n and every inner loop and continues after its span. -/
  | loopbrk (n : BitVec 2) (q : Sel)
  /-- `SVC` (R266): Commits its hand and takes a service trap with an immediate. -/
  | svc (imm : BitVec 10) (q : Sel)
  /-- `TRAP` (R266): Commits its hand and takes a trap with an immediate. -/
  | trap (imm : BitVec 10) (q : Sel)
  /-- `CSRR` (R352): Reads a system register. -/
  | csrr (d : Reg) (n : BitVec 6) (q : Sel)
  /-- `CSRW` (R352): Writes a system register at commit under its field rules. -/
  | csrw (n : BitVec 6) (a : Reg) (q : Sel)
  /-- `CSRX` (R352): Reads a system register and writes a new value. -/
  | csrx (d : Reg) (n : BitVec 6) (a : Reg) (q : Sel)
  /-- `LD` (R288): Local scratchpad load of the major's width, with spill redirection from sp. -/
  | ld (w : BitVec 2) (d : Reg) (a : Reg) (off : BitVec 16) (nz : Bool) (q : Sel)
  /-- `ST` (R288): Local scratchpad store at commit, leaving the tags as they are. -/
  | st (w : BitVec 2) (d : Reg) (a : Reg) (off : BitVec 16) (q : Sel)
  /-- `LDG` (R288): Split-phase global load whose reply fills a landing word. -/
  | ldg (w : BitVec 2) (d : Reg) (a : Reg) (off : BitVec 16) (nz : Bool) (q : Sel)
  /-- `STG` (R288): Global store issued at commit. -/
  | stg (w : BitVec 2) (d : Reg) (a : Reg) (off : BitVec 16) (q : Sel)
  /-- `LDF` (R289): Waits until a local word is full and reads it. -/
  | ldf (d : Reg) (a : Reg) (off : BitVec 16) (nz : Bool) (q : Sel)
  /-- `LDX` (R289): Waits until a local word is full, reads it, holds it and empties it at commit. -/
  | ldx (d : Reg) (a : Reg) (off : BitVec 16) (nz : Bool) (q : Sel)
  /-- `STF` (R289): Waits until a local word is empty, reserves it, then writes it and sets it full at commit. -/
  | stf (d : Reg) (a : Reg) (off : BitVec 16) (q : Sel)
  /-- `SETF` (R289): Writes a local word and sets it full. -/
  | setf (d : Reg) (a : Reg) (off : BitVec 16) (q : Sel)
  /-- `CLRE` (R289): Sets the tag of a local word empty. -/
  | clre (a : Reg) (off : BitVec 16) (q : Sel)
  /-- `TAGRD` (R289): Reads the tag of a local word. -/
  | tagrd (d : Reg) (a : Reg) (off : BitVec 16) (q : Sel)
  /-- `LDF_G` (R291): Sends a wait request to a remote bank and waits for the full word. -/
  | ldfG (d : Reg) (a : Reg) (off : BitVec 16) (nz : Bool) (q : Sel)
  /-- `LDX_G` (R291): Remote taking load that holds the word until its hand commits or is abandoned. -/
  | ldxG (d : Reg) (a : Reg) (off : BitVec 16) (nz : Bool) (q : Sel)
  /-- `STF_G` (R291): Remote reservation of an empty word, with the write sent at commit. -/
  | stfG (d : Reg) (a : Reg) (off : BitVec 16) (q : Sel)
  /-- `SETF_G` (R291): Remote write that sets the word full at commit. -/
  | setfG (d : Reg) (a : Reg) (off : BitVec 16) (q : Sel)
  /-- `CLRE_G` (R291): Remote tag clear at commit. -/
  | clreG (a : Reg) (off : BitVec 16) (q : Sel)
  /-- `TAGRD_G` (R291): Split-phase read of a remote word's tag. -/
  | tagrdG (d : Reg) (a : Reg) (off : BitVec 16) (q : Sel)
  /-- `AADD` (R292): Atomic add performed at the home, optionally fetching. -/
  | aadd (d : Reg) (a : Reg) (b : Reg) (off : BitVec 8) (nr : Bool) (g : Bool) (w64 : Bool) (q : Sel)
  /-- `AMIN` (R292): Atomic signed minimum. -/
  | amin (d : Reg) (a : Reg) (b : Reg) (off : BitVec 8) (nr : Bool) (g : Bool) (w64 : Bool) (q : Sel)
  /-- `AMAX` (R292): Atomic signed maximum. -/
  | amax (d : Reg) (a : Reg) (b : Reg) (off : BitVec 8) (nr : Bool) (g : Bool) (w64 : Bool) (q : Sel)
  /-- `AMINN` (R292): Atomic natural minimum. -/
  | aminn (d : Reg) (a : Reg) (b : Reg) (off : BitVec 8) (nr : Bool) (g : Bool) (w64 : Bool) (q : Sel)
  /-- `AMAXN` (R292): Atomic natural maximum. -/
  | amaxn (d : Reg) (a : Reg) (b : Reg) (off : BitVec 8) (nr : Bool) (g : Bool) (w64 : Bool) (q : Sel)
  /-- `AAND` (R292): Atomic and. -/
  | aand (d : Reg) (a : Reg) (b : Reg) (off : BitVec 8) (nr : Bool) (g : Bool) (w64 : Bool) (q : Sel)
  /-- `AOR` (R292): Atomic or. -/
  | aor (d : Reg) (a : Reg) (b : Reg) (off : BitVec 8) (nr : Bool) (g : Bool) (w64 : Bool) (q : Sel)
  /-- `AXOR` (R292): Atomic exclusive or. -/
  | axor (d : Reg) (a : Reg) (b : Reg) (off : BitVec 8) (nr : Bool) (g : Bool) (w64 : Bool) (q : Sel)
  /-- `AXCHG` (R292): Atomic exchange. -/
  | axchg (d : Reg) (a : Reg) (b : Reg) (off : BitVec 8) (nr : Bool) (g : Bool) (w64 : Bool) (q : Sel)
  /-- `ACAS` (R292): Atomic compare-and-swap with the new value in sb + 1. -/
  | acas (d : Reg) (a : Reg) (b : Reg) (off : BitVec 8) (nr : Bool) (g : Bool) (w64 : Bool) (q : Sel)
  /-- `AFADD` (R292): Atomic FP32 add in RNE with no flags and no traps. -/
  | afadd (d : Reg) (a : Reg) (b : Reg) (off : BitVec 8) (nr : Bool) (g : Bool) (q : Sel)
  /-- `ASIG` (R292): Non-fetching atomic add that releases at sys scope. -/
  | asig (a : Reg) (b : Reg) (off : BitVec 8) (g : Bool) (w64 : Bool) (q : Sel)
  /-- `PINIT` (R295): Initialises a pile header at its home. -/
  | pinit (d : Reg) (a : Reg) (b : Reg) (off : BitVec 8) (g : Bool) (q : Sel)
  /-- `PUSH` (R139): Split-phase push of a value onto a pile. -/
  | push (d : Reg) (a : Reg) (b : Reg) (off : BitVec 8) (g : Bool) (q : Sel)
  /-- `POP` (R139): Split-phase pop from a pile into a 16-byte landing area. -/
  | pop (d : Reg) (a : Reg) (off : BitVec 8) (g : Bool) (q : Sel)
  /-- `POPW` (R296): Blocking pop, sent at issue, that parks at the home while the pile is empty. -/
  | popw (d : Reg) (a : Reg) (b : Reg) (off : BitVec 8) (g : Bool) (q : Sel)
  /-- `LIT` (R278): Reads a 4- or 8-byte literal through the instruction cache. -/
  | lit (ty : BitVec 2) (d : Reg) (off : BitVec 21) (q : Sel)
  /-- `LEA` (R278): Writes a hand-relative address. -/
  | lea (d : Reg) (off : BitVec 21) (q : Sel)
  /-- `BINIT` (R297): Opens or frees a barrier object with a mode, a trap flag and an expected total. -/
  | binit (a : Reg) (b : Reg) (trap : Bool) (byteMode : Bool) (q : Sel)
  /-- `BARR` (R297): Arrival at a local or remote barrier object, with an amount. -/
  | barr (a : Reg) (b : Reg) (rem : Bool) (q : Sel)
  /-- `BWAIT` (R297): Waits until a barrier's phase differs from a given phase and returns PHASE and LAST. -/
  | bwait (d : Reg) (a : Reg) (b : Reg) (rem : Bool) (q : Sel)
  /-- `BTEST` (R297): Reads word 1 of a barrier object, split-phase when the object is remote. -/
  | btest (d : Reg) (a : Reg) (rem : Bool) (q : Sel)
  /-- `BRST` (R297): Resets a barrier's open phase and releases its waiters with RESET. -/
  | brst (a : Reg) (q : Sel)
  /-- `FENCE_LD` (R187): Makes earlier obtained reads acquires at the named scope. -/
  | fenceLd (scope : BitVec 3) (q : Sel)
  /-- `FENCE_ST` (R187): Makes later writes releases at the named scope. -/
  | fenceSt (scope : BitVec 3) (q : Sel)
  /-- `FENCE_ALL` (R187): Combines both fences, holds later global reads and joins the fence order. -/
  | fenceAll (scope : BitVec 3) (q : Sel)
  /-- `SIN_DENSE` (R311): Queues a dense stream of elements from memory into a source port. -/
  | sinDense (port : Port) (a : Reg) (b : Reg) (pl : Plane) (g : Bool) (esz : BitVec 2) (q : Sel)
  /-- `SIN_EXPAND` (R314): Queues the expansion of a sparse-form row into a source port. -/
  | sinExpand (port : Port) (a : Reg) (b : Reg) (pl : Plane) (g : Bool) (esz : BitVec 2) (q : Sel)
  /-- `SOUT_DENSE` (R312): Queues a dense drain of a sink port to memory, setting tags full. -/
  | soutDense (port : Port) (a : Reg) (b : Reg) (pl : Plane) (g : Bool) (esz : BitVec 2) (q : Sel)
  /-- `SOUT_SPARSE` (R313): Queues a sparse store of a row from sink ports p and p + 1 within a capacity. -/
  | soutSparse (port : Port) (a : Reg) (b : Reg) (pl : Plane) (g : Bool) (esz : BitVec 2) (q : Sel)
  /-- `SPUSH` (R317): Appends a one-element token to a source port at commit. -/
  | spush (port : Port) (a : Reg) (pl : Plane) (eor : Bool) (last : Bool) (q : Sel)
  /-- `SPULL` (R317): Reserves the next element of a sink port and removes it at commit. -/
  | spull (d : Reg) (port : Port) (pl : Plane) (q : Sel)
  /-- `SPEEK` (R317): Reads the head element of a sink port without reserving it. -/
  | speek (d : Reg) (port : Port) (pl : Plane) (q : Sel)
  /-- `PORTRST` (R318): Resets a port, its queue, channel, ERROR and DONE. -/
  | portrst (port : Port) (pl : Plane) (sink : Bool) (q : Sel)
  /-- `PORTSTAT` (R318): Returns a port's status word. -/
  | portstat (d : Reg) (port : Port) (pl : Plane) (sink : Bool) (q : Sel)
  /-- `CFG` (R307): Sends a configuration packet from memory at commit, with a plane rotation. -/
  | cfg (a : Reg) (p : Plane) (q : Sel)
  /-- `CFGW` (R307): Sends a single configuration write at commit. -/
  | cfgw (a : Reg) (b : Reg) (q : Sel)
  /-- `CFGSYNC` (R308): Waits until the seat's earlier packets are applied and raises their first failure. -/
  | cfgsync (q : Sel)
  /-- `PLANEON` (R309): Checks a plane and turns it on, latching FPCTL, the node seeds and the owner. -/
  | planeon (pl : Plane) (q : Sel)
  /-- `PLANEOFF` (R309): Stops a plane between firings and keeps its state. -/
  | planeoff (pl : Plane) (q : Sel)
  /-- `ARBW` (R309): Pins or unpins a plane's arbiter weight. -/
  | arbw (wt : BitVec 8) (pl : Plane) (q : Sel)
  /-- `MCLAIM` (R331): Claims an OPM slot for the seat at commit. -/
  | mclaim (m : Slot) (q : Sel)
  /-- `MREL` (R331): Releases an OPM slot and keeps its contents. -/
  | mrel (m : Slot) (q : Sel)
  /-- `MLOAD` (R334): Queues a 2 KiB copy from scratchpad into a slot. -/
  | mload (a : Reg) (m : Slot) (q : Sel)
  /-- `MSTORE` (R334): Queues a 2 KiB store of a slot to scratchpad, tags full. -/
  | mstore (a : Reg) (m : Slot) (q : Sel)
  /-- `MMA` (R335): Queues one K-step of matrix multiply-accumulate into an accumulator. -/
  | mma (x : AccNo) (ma : Slot) (mb : Slot) (fmt : BitVec 3) (q : Sel)
  /-- `MTILE` (R336): Hands a tile-level product to the macro sequencer. -/
  | mtile (d : Reg) (a : Reg) (b : Reg) (x : AccNo) (ma : Slot) (fmt : BitVec 3) (q : Sel)
  /-- `ACCZ` (R338): Queues the zeroing of an accumulator and its STEPS. -/
  | accz (x : AccNo) (q : Sel)
  /-- `ACCST` (R338): Queues a store of an accumulator in FP32, BF16 or FP16. -/
  | accst (a : Reg) (x : AccNo) (fmt : BitVec 3) (q : Sel)
  /-- `ACCRD` (R339): Waits for earlier array commands and reads one accumulator element. -/
  | accrd (d : Reg) (b : Reg) (x : AccNo) (q : Sel)
  /-- `ACCPEEK` (R339): Reads an accumulator element and STEPS at the last step boundary. -/
  | accpeek (d : Reg) (b : Reg) (x : AccNo) (q : Sel)
  /-- `MTRANS` (R340): Queues a transposition from one slot into another. -/
  | mtrans (a : Reg) (md : Slot) (ms : Slot) (w32 : Bool) (q : Sel)
  /-- `CPY` (R341): Posts a copy card to a copy engine. -/
  | cpy (a : Reg) (q : Sel)
  /-- `CPYX` (R341): Posts a copy card with a follow-on matrix command. -/
  | cpyx (a : Reg) (q : Sel)
  /-- `GSTRM` (R343): Posts a gather-unit stream job card. -/
  | gstrm (a : Reg) (q : Sel)
  /-- `COLL` (R345): Posts a collective card to a collective engine. -/
  | coll (a : Reg) (q : Sel)
  /-- `EVPOP` (R346): Takes the oldest event record, or returns the empty marker. -/
  | evpop (d : Reg) (q : Sel)
  /-- `EVWAIT` (R346): Waits for an event record, optionally with a matching tag, and takes it. -/
  | evwait (d : Reg) (b : Reg) (tagged : Bool) (q : Sel)
  /-- `LAUNCH` (R349): Starts a device-side child launch at commit. -/
  | launch (a : Reg) (b : Reg) (q : Sel)
  /-- `CARDSTAT` (R348): Reads the progress of the oldest outstanding card with a tag. -/
  | cardstat (d : Reg) (b : Reg) (q : Sel)
  /-- `BROW` (R115): Admits the next bight row and yields its number. -/
  | brow (d : Reg) (q : Sel)
  /-- `BEMIT` (R116): Issues the emission of the next output row through the bound taps. -/
  | bemit (port : Port) (pl : Plane) (q : Sel)
  /-- `BSTEP` (R117): Requests the retirement of the oldest real row. -/
  | bstep (q : Sel)
  /-- `BREAD` (R118): Reads one element of the bight under the boundary policy. -/
  | bread (d : Reg) (dr : BitVec 6) (dc : BitVec 6) (q : Sel)
  /-- `BTAP` (R116): Binds a tap to a source port. -/
  | btap (port : Port) (dr : BitVec 6) (dc : BitVec 6) (pl : Plane) (q : Sel)
  /-- `BSTAT` (R122): Reads the stage's status word or a counter. -/
  | bstat (d : Reg) (sel : BitVec 3) (q : Sel)
  /-- `BEND` (R119): Marks the last row at stage 0, setting N := RCV. -/
  | bend (q : Sel)
  /-- `BEND_ABORT` (R121): Aborts the cascade, which goes to DONE with ABORTED set. -/
  | bendAbort (q : Sel)
  /-- `BSEED_C` (R351): Sets the stage's boundary constant. -/
  | bseedC (a : Reg) (q : Sel)
  /-- `BSEED_R` (R351): Seeds the next wrap prologue row from scratchpad. -/
  | bseedR (a : Reg) (q : Sel)
  /-- `MAPR_RANGE` (R153): Privileged install of a range entry in every FE of a context, releasing parked nodes and atomics. -/
  | maprRange (d : Reg) (a : Reg) (b : Reg) (q : Sel)
  /-- `MAPR_PAGE` (R353): Privileged declaration that page mappings over a range are valid, dropping cached misses. -/
  | maprPage (d : Reg) (a : Reg) (b : Reg) (q : Sel)
  /-- `UNMAP` (R153): Privileged retirement of range entries and pages, sending re-latch tokens. -/
  | unmap (d : Reg) (a : Reg) (b : Reg) (q : Sel)
  /-- `ICINV` (R354): Invalidates a virtual range in the instruction caches within a scope. -/
  | icinv (a : Reg) (b : Reg) (scope : BitVec 3) (q : Sel)
  /-- `HITCH` (R354): Starts a hitch wave after its hand commits. -/
  | hitch (q : Sel)
  /-- `DSTEP` (R177): Runs one hand of a frozen seat and returns a status. -/
  | dstep (d : Reg) (a : Reg) (q : Sel)
  /-- `DRESUME` (R178): Arms the release of a frozen job at pod time T, or reports EARLY. -/
  | dresume (d : Reg) (a : Reg) (b : Reg) (q : Sel)
  /-- `PREEMPT` (R355): Privileged pre-emption request for a context, reporting when it leaves PREEMPTING. -/
  | preempt (d : Reg) (a : Reg) (dbg : Bool) (q : Sel)
  /-- `KEYLD` (R356): Loads a rigging key into the unused phase slot and zeroes the source bytes. -/
  | keyld (d : Reg) (a : Reg) (b : Reg) (q : Sel)
  /-- `LNKCTL_READ` (R357): Returns the LNKSTAT of a link direction. -/
  | lnkctlRead (d : Reg) (a : Reg) (q : Sel)
  /-- `LNKCTL_ENABLE` (R357): Enables a DOWN link, which starts training. -/
  | lnkctlEnable (d : Reg) (a : Reg) (q : Sel)
  /-- `LNKCTL_DISABLE` (R357): Takes a link DOWN, ending outstanding requests on it. -/
  | lnkctlDisable (d : Reg) (a : Reg) (q : Sel)
  /-- `LNKCTL_RESET` (R357): Resets a FAILED link to DOWN, discarding its replay buffer. -/
  | lnkctlReset (d : Reg) (a : Reg) (q : Sel)
  /-- `LNKCTL_CLEAR` (R357): Zeroes CRCERR and TAGFAIL. -/
  | lnkctlClear (d : Reg) (a : Reg) (q : Sel)
  /-- `LNKCTL_LONG_REACH` (R357): Sets long-reach mode and the HBM replay carve-out. -/
  | lnkctlLongReach (d : Reg) (a : Reg) (b : Reg) (q : Sel)
  /-- `LNKCTL_ENCRYPTION` (R357): Sets or clears ENC on a rigging port. -/
  | lnkctlEncryption (d : Reg) (a : Reg) (b : Reg) (q : Sel)
  /-- `LNKCTL_REPLAY_TIMEOUT` (R357): Sets the replay timeout of a long-reach port. -/
  | lnkctlReplayTimeout (d : Reg) (a : Reg) (b : Reg) (q : Sel)
  /-- `DEFERRED_FAULT` (R287): A refusal arriving after commit is taken at the next hand boundary or at once when WAITING. -/
  | deferredFault (fe : Nat) (k : Nat)
  /-- `SPLIT_PHASE_REPLY` (R59): A reply writes its landing words in ascending order and sets their tags full. -/
  | splitPhaseReply (n : Nat)
  /-- `BANK_PACKET` (R69): A packet arrives at a bank unit and is performed, diverted to the holding queue or discarded, depending on its context id. -/
  | bankPacket (n : Nat)
  /-- `REFUSED_RESEND` (R129): A refused remote request is re-sent after 256 cycles. -/
  | refusedResend (n : Nat)
  /-- `REMOTE_WAIT_REQUEST` (R291): A wait request from another FE enters the bank's wait list, or is refused when the shared entries are full. -/
  | remoteWaitRequest (n : Nat)
  /-- `HOLD_TAKE` (R131): A remote holder's commit sends a take that empties the held word. -/
  | holdTake (n : Nat)
  /-- `HOLD_RELEASE` (R131): A remote holder's abandonment sends a release that ends the hold or withdraws the wait. -/
  | holdRelease (n : Nat)
  /-- `SEAT_SAVE` (R65): A BELAYED seat whose replies have landed and whose plane is quiesced writes its record and becomes SAVED. -/
  | seatSave (fe : Nat) (k : Nat)
  /-- `CARD_CHECKPOINT` (R67): An in-flight engine card of a pre-empted context is checkpointed at its next 4 KiB boundary. -/
  | cardCheckpoint (card : Nat)
  /-- `QUANTUM_END` (R81): A slot's quantum of 256 packets or 65,536 cycles ends, and the queue returns to PENDING. -/
  | quantumEnd (qn : Nat)
  /-- `NOP_PACKET` (R83): The CP skips a NOP packet and advances RPTR. -/
  | nopPacket (qn : Nat)
  /-- `LAUNCH_PACKET` (R83): The CP enters a LAUNCH packet as a task-graph node. -/
  | launchPacket (qn : Nat)
  /-- `TRANSFORM_PACKET` (R84): The CP enters a TRANSFORM packet as a node that becomes a copy card when dispatched. -/
  | transformPacket (qn : Nat)
  /-- `COPY_PACKET` (R83): The CP enters a COPY packet as a task-graph node. -/
  | copyPacket (qn : Nat)
  /-- `WAIT_PACKET` (R86): A WAIT packet stops the queue's front end until a word meets its condition. -/
  | waitPacket (qn : Nat)
  /-- `SIGNAL_PACKET` (R86): A SIGNAL packet becomes a node that stores or adds with release when it dispatches. -/
  | signalPacket (qn : Nat)
  /-- `WAIT_REREAD` (R86): The CP re-reads a stalled WAIT's word after a SIGNAL or at least every 1 µs. -/
  | waitReread (qn : Nat)
  /-- `NODE_DISPATCH` (R88): A task-graph node whose dependency counter reaches zero is dispatched. -/
  | nodeDispatch (node : Nat)
  /-- `NODE_COMPLETE` (R88): A node completes, decrementing its dependants, or fails and discards them. -/
  | nodeComplete (node : Nat) (ok : Bool)
  /-- `REGION_PLACE` (R94): The placer places a waiting region at the first usable base, loading its image and cascades. -/
  | regionPlace (launch : Nat)
  /-- `DEAL` (R97): The dealer hands a deal of FE-level groups to a die dispatcher, which places them. -/
  | deal (launch : Nat)
  /-- `PLANE_FIRE` (R102): The arbiter fires one runnable plane in a cycle by slot or credit. -/
  | planeFire (fe : Nat)
  /-- `ARBITER_EPOCH` (R102): At the end of each 1,024-cycle epoch unpinned plane weights are recomputed and credits cleared. -/
  | arbiterEpoch (fe : Nat)
  /-- `GROUP_RETIRE` (R104): A group retires, releasing slots, planes, records, barriers and FEs, and posting launch completion. -/
  | groupRetire (fe : Nat)
  /-- `STAGE0_ROW_READ` (R114): Stage 0 reads an input row slice from SRC when a slot is free. -/
  | stage0RowRead (fe : Nat)
  /-- `ROW_SLICE_ARRIVAL` (R114): A row slice or halo arrives at a stage, and the row becomes whole when end-of-row and both halos are in. -/
  | rowSliceArrival (fe : Nat) (chan : Nat)
  /-- `EMISSION_COMPLETE` (R116): An emission's last element leaves the FE or is written, and EMT advances. -/
  | emissionComplete (fe : Nat)
  /-- `ROW_RETIRE` (R117): The bight unit applies a pending retire request once the needed emissions are complete. -/
  | rowRetire (fe : Nat)
  /-- `CASCADE_RELEASE` (R121): When every stage FE is restored and every stage seat is at its resume hand, the cascade leaves SAVED. -/
  | cascadeRelease (casc : Nat)
  /-- `ENGINE_PACKET_LANDING` (R136): An engine writes a packet at a receiver and credits its bytes, or fails the receiver. -/
  | enginePacketLanding (card : Nat) (rcv : Nat)
  /-- `PILE_OP_AT_HOME` (R138): The home performs a pile operation, restore push or parked POPW in one step. -/
  | pileOpAtHome (n : Nat)
  /-- `MELD_POINT_ARRIVAL` (R141): A pile operation at a meld point melds with an opposite operation, waits, or passes on. -/
  | meldPointArrival (n : Nat) (point : Nat)
  /-- `MELD_WINDOW_EXPIRY` (R141): A waiting pile operation's MELDWIN expires and it goes on towards the home. -/
  | meldWindowExpiry (n : Nat)
  /-- `STREAM_RELATCH` (R152): A stream crossing its latched limit translates again, or produces an error token. -/
  | streamRelatch (fe : Nat) (pl : Nat) (port : Nat)
  /-- `RELATCH_TOKEN` (R154): A re-latch token reaches a node, which drops its latch and translates again or parks. -/
  | relatchToken (ctx : Nat)
  /-- `UNMAP_COMPLETE` (R153): All re-latch tokens have emerged and accesses have reached their homes, so the entry becomes INVALID. -/
  | unmapComplete (ctx : Nat)
  /-- `CONFIG_PACKET_APPLY` (R233): A configuration packet is checked whole and applied at its targets together, or recorded as malformed. -/
  | configPacketApply (n : Nat)
  /-- `PORT_COMMAND_COMPLETE` (R312): A stream command takes its last position or LAST token and DONE counts it. -/
  | portCommandComplete (fe : Nat) (pl : Nat) (port : Nat)
  /-- `SPARSE_ROW_CHECK` (R313): At both EORs a staged sparse row is checked and written, or fails with FORMAT or STORE_OVERRUN. -/
  | sparseRowCheck (fe : Nat)
  /-- `ARRAY_COMMAND_PERFORM` (R333): The array performs the next command of the FE's array queue. -/
  | arrayCommandPerform (fe : Nat)
  /-- `MTILE_STEP` (R336): The macro sequencer loads slots for one K-chunk and performs one step, yielding at its boundary when pre-empted. -/
  | mtileStep (fe : Nat)
  /-- `FOLLOW_ON_MMA` (R344): At a receiver's last byte, the follow-on MMA enters its array queue before the final credit. -/
  | followOnMma (card : Nat) (rcv : Nat)
  /-- `CARD_CHECK` (R238): An engine checks a card before moving bytes and fails it with FORMAT when it is bad. -/
  | cardCheck (card : Nat)
  /-- `COMPLETION_RECORD_POST` (R240): After all of a card's events, its completion record is posted to the seat's event queue. -/
  | completionRecordPost (card : Nat)
  /-- `EVENT_RECORD_ARRIVAL` (R347): A record enters the event queue or the spill ring, or is held with EVENT_OVERFLOW. -/
  | eventRecordArrival (n : Nat)
  /-- `EVENT_RECORD_RETRY` (R347): A held record enters the queue when room frees. -/
  | eventRecordRetry (n : Nat)
  /-- `NAK_RECEIVE` (R162): A received NAK starts a replay from the named sequence number. -/
  | nakReceive (link : BitVec 32) (ackSeq : Nat)
  /-- `ACK_RECEIVE` (R158): An acknowledgement frees replay entries and may end REPLAY. -/
  | ackReceive (link : BitVec 32) (ackSeq : Nat)
  /-- `RIGGING_ROUTE` (R406): A packet leaving the module, or arriving for another, is routed by the rigging route table or discarded. -/
  | riggingRoute (n : Nat)
  /-- `HITCH_MARKER` (R172): An agent receiving a job's first marker freezes the job's agents and forwards the marker. -/
  | hitchMarker (job : BitVec 16) (epoch : BitVec 8) (cause : CauseWords)
  /-- `GU_REQUEST` (R200): A gather unit serves a request in its memory-side cache. -/
  | guRequest (n : Nat)
  /-- `FILL_COMPLETE` (R205): A fill or write-back completes, correcting or reporting ECC errors. -/
  | fillComplete (gu : Nat) (seg : Nat) (wb : Bool) (ecc : EccResult)
  /-- `ROW_SWAP` (R206): A row reaching THRESH activations in a window is copied to a spare row. -/
  | rowSwap (gu : Nat) (ch : Nat) (bank : Nat) (row : Nat)
  /-- `COLL_RING_STEP` (R215): A collective engine performs one ring step of encode, send and reduce. -/
  | collRingStep (card : Nat)
  /-- `CHANNEL_CLOSED` (R397): The drain ends and TRSTAT.OPEN becomes 0. -/
  | channelClosed (chan : Nat)
  /-- `WAITEV_DEADLINE` (R269): Pod time reaches the deadline in S[sa] of a waiting WAITEV, which then resumes with S[sd] := 0. -/
  | waitevDeadline (fe : Nat) (k : Nat)
  /-- `WAIT_REQUEST_REPLY` (R291): The reply to a wait request of LDF.G, LDX.G, STF.G or a remote BWAIT reaches the waiting seat with the value, hold or reservation. -/
  | waitRequestReply (n : Nat)
  /-- `POPW_ANSWER` (R140): The answer to a POPW request, from the home or a meld, reaches the waiting seat with its value and status. -/
  | popwAnswer (n : Nat)
  /-- `ROW_COPY_COMPLETE` (R206): A swapped row's copy to its spare ends within 1 µs, and the requests waiting on the row are performed on the spare. -/
  | rowCopyComplete (gu : Nat) (ch : Nat) (bank : Nat) (row : Nat)
  /-- `FRAME_PAD` (R164): A begun frame is completed with PAD flits within 64 cycles. -/
  | framePad (link : BitVec 32)
  /-- `SPLICE_FLIT_RECEIVE` (R389): A splice receiver accepts a flit in sequence, discards a duplicate, or NAKs on a CRC failure. -/
  | spliceFlitReceive (link : BitVec 32) (seq : Nat) (crcOk : Bool) (hdrOk : Bool)
  /-- `CONTEXT_BIND` (R54): Horlyn binds a FREE context, installing translation tables, queues and fault vector. -/
  | contextBind (ctx : Nat) (img : BindImage)
  /-- `EDGE_CORE_START` (R392): Horlyn starts an edge core at a hand address through the MSC. -/
  | edgeCoreStart (die : Nat) (hand : BitVec 64)
  /-- `KNOCK` (R78): A write to a queue's WPTR is accepted or puts the queue in ERROR with OVERFILL. -/
  | knock (qn : Nat) (wptr : BitVec 32)
  /-- `QUEUE_ENABLE` (R80): Horlyn sets EN and the queue becomes IDLE with RPTR := WPTR. -/
  | queueEnable (qn : Nat)
  /-- `PREEMPTION_REQUEST` (R63): A pre-emption request reaches a context's seats, which halt at belay points within the bound. -/
  | preemptionRequest (ctx : Nat) (cause : BitVec 2)
  /-- `CONTEXT_UNBIND` (R54): Horlyn unbinds a BOUND context to FREE. -/
  | contextUnbind (ctx : Nat)
  /-- `CONTEXT_RESUME` (R68): Horlyn resumes a SAVED context; save blocks are restored, held packets are performed and seats run their stubs. -/
  | contextResume (ctx : Nat) (moves : List (Nat × Nat))
  /-- `CONTEXT_KILL` (R54): Horlyn kills a SAVED or STOPPED context; its seats are discarded and its queues with work in flight enter ERROR. -/
  | contextKill (ctx : Nat)
  /-- `QUEUE_DISABLE` (R80): Horlyn clears EN and the queue becomes DISABLED, freeing its slot. -/
  | queueDisable (qn : Nat)
  /-- `QUEUE_RESET` (R80): Horlyn resets a queue in ERROR with a new RPTR. -/
  | queueReset (qn : Nat) (rptr : BitVec 32)
  /-- `PRIORITY_AGING` (R81): A PENDING queue's effective priority rises by 1 after each 65,536 cycles. -/
  | priorityAging (qn : Nat)
  /-- `STAGE_FAULT_RECORD` (R123): A stage records a fault, withdraws its emissions and sets REDO, stopping the cascade. -/
  | stageFaultRecord (fe : Nat) (code : BitVec 8) (kind : BitVec 2) (row : BitVec 32) (col : BitVec 13) (addr : BitVec 64)
  /-- `BARRIER_ARRIVAL` (R133): An arrival adds to ARRIVED and may complete a phase, releasing waiters. -/
  | barrierArrival (fe : Nat) (bar : Nat) (amount : Nat)
  /-- `ERROR_ARRIVAL` (R133): An engine error arrival puts an open barrier in ERROR and releases its waiters. -/
  | errorArrival (fe : Nat) (bar : Nat)
  /-- `INJECTION_STARVATION` (R23): After 64 cycles of waiting, local injection takes a starvation token and enters ahead. -/
  | injectionStarvation (fe : Nat)
  /-- `RIGGING_FLIT_RECEIVE` (R162): A rigging receiver checks CRC and SEQ, and verifies and delivers a whole frame or NAKs it. -/
  | riggingFlitReceive (link : BitVec 32) (flit : Flit) (crcOk : Bool) (tagOk : Bool) (hdrOk : Bool)
  /-- `REPLAY_TIMEOUT` (R162): No acknowledgement advances for the replay timeout and the transmitter replays. -/
  | replayTimeout (link : BitVec 32)
  /-- `ACK_INTERVAL` (R162): The receiver acknowledges after 128 accepted flits or its time interval. -/
  | ackInterval (link : BitVec 32)
  /-- `KEY_SOON` (R164): At 2^27 frames under a key the MSC receives a key-soon event. -/
  | keySoon (link : BitVec 32)
  /-- `KEY_SWITCH` (R164): At 2^28 frames the transmitter switches keys, or sets KEYWAIT when none is loaded. -/
  | keySwitch (link : BitVec 32)
  /-- `LINK_TRAINED` (R158): Training completes and the link enters UP_FULL, UP_DEGRADED or REPLAY. -/
  | linkTrained (link : BitVec 32) (out : Training)
  /-- `TRAINING_ATTEMPT_FAIL` (R408): A training attempt exceeds its time limit; at the third failure the link is FAILED. -/
  | trainingAttemptFail (link : BitVec 32)
  /-- `LANE_FAILURE` (R390): A lane fails; it is repaired onto a spare, or the UCIe module falls to ×32. -/
  | laneFailure (link : BitVec 32) (ucie : BitVec 2)
  /-- `UCIE_RETRAIN_DONE` (R390): A UCIe module at ×32 finishes retraining and takes turns again. -/
  | ucieRetrainDone (link : BitVec 32) (ucie : BitVec 2)
  /-- `FEC_MARGIN_LOW` (R158): The rigging FEC margin falls below threshold and the link becomes UP_DEGRADED. -/
  | fecMarginLow (link : BitVec 32)
  /-- `LOSS_OF_SIGNAL` (R158): Loss of signal or lock sends an UP link back to TRAINING. -/
  | lossOfSignal (link : BitVec 32)
  /-- `LINK_TIMEOUT` (R166): A request's reply timer runs out, or a link on its route fails, and the request ends in LINK_TIMEOUT. -/
  | linkTimeout (n : Nat)
  /-- `DEBUGGER_HITCH_REQUEST` (R170): A debugger hitch request through the MSC starts a hitch wave for a job. -/
  | debuggerHitchRequest (job : BitVec 16)
  /-- `FILL_MERGE_WINDOW` (R201): The 64-cycle window for joining misses to one fill closes. -/
  | fillMergeWindow (gu : Nat) (seg : Nat)
  /-- `SWAP_WINDOW_END` (R206): A hot-row tracker's window of WINDOW ms ends. -/
  | swapWindowEnd (gu : Nat)
  /-- `HEARTBEAT_RECEIVED` (R209): A base-die heartbeat arrives and may complete an armed handback. -/
  | heartbeatReceived (gu : Nat)
  /-- `HEARTBEAT_MISSED` (R209): 1.25 µs passes without a heartbeat; after two misses the GU takes over refresh. -/
  | heartbeatMissed (gu : Nat)
  /-- `TRCMD_READ_TEST` (R395): Runs a read test on all lanes and sets TRRES. -/
  | trcmdReadTest (chan : Nat)
  /-- `TRCMD_WRITE_TEST` (R395): Runs a write test on all lanes and sets TRRES. -/
  | trcmdWriteTest (chan : Nat)
  /-- `TRCMD_PATTERN_TEST` (R395): Runs a pattern test on all lanes and sets TRRES. -/
  | trcmdPatternTest (chan : Nat)
  /-- `TRBCAST` (R394): Writes one tap into RDLY or WDLY of all 64 TRDLY registers. -/
  | trbcast (chan : Nat) (v : BitVec 64)
  /-- `TRREPAIR` (R396): Moves logical lanes onto spare lanes, or back to their own wires. -/
  | trrepair (chan : Nat) (v : BitVec 64)
  /-- `TRCTL_OPEN` (R397): Opens a channel to traffic and performs waiting requests. -/
  | trctlOpen (chan : Nat)
  /-- `TRCTL_CLOSE` (R397): Begins closing a channel by draining accepted requests and dirty lines. -/
  | trctlClose (chan : Nat)
  /-- `HANDBACK` (R209): A write of HANDBACK arms the return of refresh to the base die. -/
  | handback (gu : Nat)
  /-- `PWRCTL_WRITE` (R402): Selects a power envelope, which takes effect at the next arbiter epoch. -/
  | pwrctlWrite (v : BitVec 64)
  /-- `CLOCK_THROTTLE` (R404): Power above the envelope lowers the clock in 50 MHz steps. -/
  | clockThrottle (power : BitVec 16) (temp : BitVec 8)
  /-- `MODULEID_WRITE` (R400): Sets the module id, which reaches every FE's FEID before the next hand. -/
  | moduleidWrite (v : BitVec 64)
  /-- `CTXCTL_WRITE` (R400): Sets a context's BELAYEN and MELDWIN policy. -/
  | ctxctlWrite (ctx : Nat) (v : BitVec 64)
  /-- `ROUTE_TABLE_WRITE` (R406): Writes a rigging route table entry, applying to packets that arrive after it. -/
  | routeTableWrite (n : Nat) (v : BitVec 64)
  /-- `REGISTER_WRITE` (R399): A write to a device register that has no row of its own, performed at its home. -/
  | registerWrite (reg : BitVec 32) (v : BitVec 64) (bytes : Nat)
  /-- `DATA_TOKEN_ARRIVAL` (R203): A sequence-numbered data token from a gather unit arrives at a receiving port's reorder window and is delivered in sequence order. -/
  | dataTokenArrival (fe : Nat) (pl : Nat) (port : Nat) (seq : BitVec 16) (words : List (BitVec 32)) (eor : Bool) (last : Bool)
  /-- `REFRESH` (R209): An all-bank refresh is issued at the standard rate, by the base die or by a GU that owns refresh, and holds requests and training tests on the channel until it ends. -/
  | refresh (gu : Nat)
  /-- `HAND_FETCH` (R155): Fetches and decodes a hand whole, raising fetch and decode faults before any slot executes. -/
  | handFetch
  /-- `HAND_COMMIT` (R57): Performs all seat-state writes and deferred commit effects of a hand in wave order. -/
  | handCommit
  /-- `MAPPER_BIND` (R81): The mapper binds the PENDING queue of highest effective priority to a free slot. -/
  | mapperBind
  /-- `RECEIVER_RELEASE` (R178): At pod time T each module unfreezes its receivers. -/
  | receiverRelease
  /-- `SENDER_RELEASE` (R178): At T + 100 ns each module unfreezes its senders. -/
  | senderRelease
  /-- `BELAY_DISTANCE` (R60): BELAYCNT exceeds BELAYMAX.MAX with enforcement on, and the hand being issued faults. -/
  | belayDistance
  /-- `HOST_LINK_DOWN` (R168): The host port leaves link-up, sets CAUSE HOST and ends outstanding host requests. -/
  | hostLinkDown
  /-- `POWER_GOOD` (R401): After power-good the module runs its boot steps in order. -/
  | powerGood
  /-- `MSC_FAILOVER` (R401): If the MSC of X-die 0 has not reached step 2 within 50 ms, the standby MSC boots instead. -/
  | mscFailover
  deriving DecidableEq, Repr

end Sys2Proof
end

