-- ==== Sys2Proof/WellFormed.lean ====
section
/-!
DEFINITION. Which instructions an encoding can hold: the ranges of fields and the reserved codes that the decoder turns
into RESERVED_FIELD (14 R219, 15 R242). An event of the machine has no encoding and no such check.
-/

namespace Sys2Proof

/-- The format codes of FCVT that are not reserved: all but 5, 6 and 7 (15 R248). -/
def fmtCode (c : BitVec 4) : Bool := c != 5#4 && c != 6#4 && c != 7#4

/-- A signed 6-bit tap offset lies from -16 to 16 (19 R350). -/
def tapRange (x : BitVec 6) : Bool := decide (-16 ≤ x.toInt) && decide (x.toInt ≤ 16)

/-- An event of the machine (95): the constructors after the 182 instructions that a hand can hold. -/
def Instr.event (i : Instr) : Bool := decide (182 ≤ i.ctorIdx)

/-- Every field of the instruction is in its stated range. -/
def Instr.wf (i : Instr) : Bool :=
  match i with
  | .nop _ => true
  | .halt _ => true
  | .yield _ => true
  | .brk _ => true
  | .eret _ => true
  | .waitev _ _ _ => true
  | .add _ _ _ _ => true
  | .sub _ _ _ _ => true
  | .mul _ _ _ _ => true
  | .mulh _ _ _ _ => true
  | .mulhn _ _ _ _ => true
  | .div _ _ _ _ => true
  | .divn _ _ _ _ => true
  | .rem _ _ _ _ => true
  | .remn _ _ _ _ => true
  | .and _ _ _ _ => true
  | .or _ _ _ _ => true
  | .xor _ _ _ _ => true
  | .andn _ _ _ _ => true
  | .shl _ _ _ _ => true
  | .shr _ _ _ _ => true
  | .sra _ _ _ _ => true
  | .rotl _ _ _ _ => true
  | .clz _ _ _ => true
  | .ctz _ _ _ => true
  | .popc _ _ _ => true
  | .min _ _ _ _ => true
  | .max _ _ _ _ => true
  | .minn _ _ _ _ => true
  | .maxn _ _ _ _ => true
  | .sel _ _ _ _ => true
  | .mov _ _ _ => true
  | .cmp _ cc _ _ _ _ => decide (cc.toNat < 6)
  | .fcmp cc _ _ _ _ => decide (cc.toNat < 7)
  | .pand _ _ _ _ => true
  | .por _ _ _ _ => true
  | .pxor _ _ _ _ => true
  | .pnot _ _ _ => true
  | .addi _ _ _ _ => true
  | .andi _ _ _ _ => true
  | .ori _ _ _ _ => true
  | .xori _ _ _ _ => true
  | .shli _ _ _ _ => true
  | .shri _ _ _ _ => true
  | .srai _ _ _ _ => true
  | .cmpi _ _ _ _ _ => true
  | .movi _ _ => true
  | .movhi _ _ => true
  | .fadd _ _ _ _ => true
  | .fsub _ _ _ _ => true
  | .fmul _ _ _ _ => true
  | .fdiv _ _ _ _ => true
  | .fmin _ _ _ _ => true
  | .fmax _ _ _ _ => true
  | .fabs _ _ _ => true
  | .fneg _ _ _ => true
  | .ffma _ _ _ _ => true
  | .frcp _ _ _ => true
  | .frsq _ _ _ => true
  | .fsqrt _ _ _ => true
  | .fexp2 _ _ _ => true
  | .flog2 _ _ _ => true
  | .fcvt dst src _ _ _ => fmtCode dst && fmtCode src && !(decide (8 ≤ dst.toNat) && decide (8 ≤ src.toNat))
  | .extN _ _ _ _ => true
  | .extI _ _ _ _ => true
  | .ins _ _ _ _ => true
  | .br _ _ => true
  | .call _ _ => true
  | .skip _ _ => true
  | .loop n _ _ _ => n != 3#2
  | .calli _ _ => true
  | .jmpi _ _ => true
  | .ret _ => true
  | .loopbrk n _ => n != 3#2
  | .svc _ _ => true
  | .trap _ _ => true
  | .csrr _ n _ => decide (n.toNat < 24)
  | .csrw n _ _ => decide (n.toNat < 24)
  | .csrx _ n _ _ => decide (n.toNat < 24)
  | .ld w _ _ _ nz _ => !nz || w != 3#2
  | .st _ _ _ _ _ => true
  | .ldg w _ _ _ nz _ => !nz || w != 3#2
  | .stg _ _ _ _ _ => true
  | .ldf _ _ _ _ _ => true
  | .ldx _ _ _ _ _ => true
  | .stf _ _ _ _ => true
  | .setf _ _ _ _ => true
  | .clre _ _ _ => true
  | .tagrd _ _ _ _ => true
  | .ldfG _ _ _ _ _ => true
  | .ldxG _ _ _ _ _ => true
  | .stfG _ _ _ _ => true
  | .setfG _ _ _ _ => true
  | .clreG _ _ _ => true
  | .tagrdG _ _ _ _ => true
  | .aadd d _ _ _ nr _ _ _ => !nr || d == 0#6
  | .amin d _ _ _ nr _ _ _ => !nr || d == 0#6
  | .amax d _ _ _ nr _ _ _ => !nr || d == 0#6
  | .aminn d _ _ _ nr _ _ _ => !nr || d == 0#6
  | .amaxn d _ _ _ nr _ _ _ => !nr || d == 0#6
  | .aand d _ _ _ nr _ _ _ => !nr || d == 0#6
  | .aor d _ _ _ nr _ _ _ => !nr || d == 0#6
  | .axor d _ _ _ nr _ _ _ => !nr || d == 0#6
  | .axchg d _ _ _ nr _ _ _ => !nr || d == 0#6
  | .acas d _ b _ nr _ _ _ => (!nr || d == 0#6) && !b.getLsbD 0
  | .afadd d _ _ _ nr _ _ => !nr || d == 0#6
  | .asig _ _ _ _ _ _ => true
  | .pinit _ _ _ _ _ _ => true
  | .push _ _ _ _ _ _ => true
  | .pop _ _ _ _ _ => true
  | .popw _ _ _ _ _ _ => true
  | .lit ty _ _ _ => ty != 3#2
  | .lea _ _ _ => true
  | .binit _ _ _ _ _ => true
  | .barr _ _ _ _ => true
  | .bwait _ _ _ _ _ => true
  | .btest _ _ _ _ => true
  | .brst _ _ => true
  | .fenceLd scope _ => decide (scope.toNat < 6)
  | .fenceSt scope _ => decide (scope.toNat < 6)
  | .fenceAll scope _ => decide (scope.toNat < 6)
  | .sinDense _ _ _ _ _ esz _ => esz != 3#2
  | .sinExpand _ _ _ _ _ esz _ => esz != 3#2
  | .soutDense _ _ _ _ _ esz _ => esz != 3#2
  | .soutSparse _ _ _ _ _ esz _ => esz != 3#2
  | .spush _ _ _ _ _ _ => true
  | .spull _ _ _ _ => true
  | .speek _ _ _ _ => true
  | .portrst _ _ _ _ => true
  | .portstat _ _ _ _ _ => true
  | .cfg _ _ _ => true
  | .cfgw _ _ _ => true
  | .cfgsync _ => true
  | .planeon _ _ => true
  | .planeoff _ _ => true
  | .arbw _ _ _ => true
  | .mclaim _ _ => true
  | .mrel _ _ => true
  | .mload _ _ _ => true
  | .mstore _ _ _ => true
  | .mma _ _ _ fmt _ => decide (fmt.toNat < 5)
  | .mtile _ _ _ _ ma fmt _ => decide (fmt.toNat < 5) && ma != 31#5
  | .accz _ _ => true
  | .accst _ _ fmt _ => decide (fmt.toNat < 3)
  | .accrd _ _ _ _ => true
  | .accpeek _ _ _ _ => true
  | .mtrans _ _ _ _ _ => true
  | .cpy _ _ => true
  | .cpyx _ _ => true
  | .gstrm _ _ => true
  | .coll _ _ => true
  | .evpop d _ => !d.getLsbD 0
  | .evwait d b tagged _ => !d.getLsbD 0 && (tagged || b == 0#6)
  | .launch _ _ _ => true
  | .cardstat _ _ _ => true
  | .brow _ _ => true
  | .bemit _ _ _ => true
  | .bstep _ => true
  | .bread _ dr dc _ => tapRange dr && tapRange dc
  | .btap _ dr dc _ _ => tapRange dr && tapRange dc
  | .bstat _ _ _ => true
  | .bend _ => true
  | .bendAbort _ => true
  | .bseedC _ _ => true
  | .bseedR _ _ => true
  | .maprRange _ _ _ _ => true
  | .maprPage _ _ _ _ => true
  | .unmap _ _ _ _ => true
  | .icinv _ _ scope _ => decide (scope.toNat < 6)
  | .hitch _ => true
  | .dstep _ _ _ => true
  | .dresume _ _ _ _ => true
  | .preempt _ _ _ _ => true
  | .keyld _ _ _ _ => true
  | .lnkctlRead _ _ _ => true
  | .lnkctlEnable _ _ _ => true
  | .lnkctlDisable _ _ _ => true
  | .lnkctlReset _ _ _ => true
  | .lnkctlClear _ _ _ => true
  | .lnkctlLongReach _ _ _ _ => true
  | .lnkctlEncryption _ _ _ _ => true
  | .lnkctlReplayTimeout _ _ _ _ => true
  | .handFetch => true
  | .handCommit => true
  | .belayDistance => true
  | .deferredFault _ _ => true
  | .splitPhaseReply _ => true
  | .bankPacket _ => true
  | .refusedResend _ => true
  | .remoteWaitRequest _ => true
  | .holdTake _ => true
  | .holdRelease _ => true
  | .preemptionRequest _ _ => true
  | .seatSave _ _ => true
  | .cardCheckpoint _ => true
  | .contextBind _ _ => true
  | .contextUnbind _ => true
  | .contextResume _ _ => true
  | .contextKill _ => true
  | .knock _ _ => true
  | .queueEnable _ => true
  | .queueDisable _ => true
  | .queueReset _ _ => true
  | .mapperBind => true
  | .quantumEnd _ => true
  | .priorityAging _ => true
  | .nopPacket _ => true
  | .launchPacket _ => true
  | .transformPacket _ => true
  | .copyPacket _ => true
  | .waitPacket _ => true
  | .signalPacket _ => true
  | .waitReread _ => true
  | .nodeDispatch _ => true
  | .nodeComplete _ _ => true
  | .regionPlace _ => true
  | .deal _ => true
  | .planeFire _ => true
  | .arbiterEpoch _ => true
  | .groupRetire _ => true
  | .stage0RowRead _ => true
  | .rowSliceArrival _ _ => true
  | .emissionComplete _ => true
  | .rowRetire _ => true
  | .stageFaultRecord _ _ _ _ _ _ => true
  | .cascadeRelease _ => true
  | .barrierArrival _ _ _ => true
  | .errorArrival _ _ => true
  | .enginePacketLanding _ _ => true
  | .pileOpAtHome _ => true
  | .meldPointArrival _ _ => true
  | .meldWindowExpiry _ => true
  | .streamRelatch _ _ _ => true
  | .relatchToken _ => true
  | .unmapComplete _ => true
  | .configPacketApply _ => true
  | .portCommandComplete _ _ _ => true
  | .sparseRowCheck _ => true
  | .arrayCommandPerform _ => true
  | .mtileStep _ => true
  | .followOnMma _ _ => true
  | .cardCheck _ => true
  | .completionRecordPost _ => true
  | .eventRecordArrival _ => true
  | .eventRecordRetry _ => true
  | .injectionStarvation _ => true
  | .spliceFlitReceive _ _ _ _ => true
  | .riggingFlitReceive _ _ _ _ _ => true
  | .nakReceive _ _ => true
  | .ackReceive _ _ => true
  | .replayTimeout _ => true
  | .ackInterval _ => true
  | .framePad _ => true
  | .keySoon _ => true
  | .keySwitch _ => true
  | .linkTrained _ _ => true
  | .trainingAttemptFail _ => true
  | .laneFailure _ _ => true
  | .ucieRetrainDone _ _ => true
  | .fecMarginLow _ => true
  | .lossOfSignal _ => true
  | .linkTimeout _ => true
  | .hostLinkDown => true
  | .riggingRoute _ => true
  | .debuggerHitchRequest _ => true
  | .hitchMarker _ _ _ => true
  | .receiverRelease => true
  | .senderRelease => true
  | .guRequest _ => true
  | .fillMergeWindow _ _ => true
  | .fillComplete _ _ _ _ => true
  | .rowSwap _ _ _ _ => true
  | .swapWindowEnd _ => true
  | .heartbeatReceived _ => true
  | .heartbeatMissed _ => true
  | .collRingStep _ => true
  | .trcmdReadTest _ => true
  | .trcmdWriteTest _ => true
  | .trcmdPatternTest _ => true
  | .trbcast _ _ => true
  | .trrepair _ _ => true
  | .trctlOpen _ => true
  | .trctlClose _ => true
  | .channelClosed _ => true
  | .handback _ => true
  | .pwrctlWrite _ => true
  | .clockThrottle _ _ => true
  | .moduleidWrite _ => true
  | .ctxctlWrite _ _ => true
  | .routeTableWrite _ _ => true
  | .registerWrite _ _ _ => true
  | .powerGood => true
  | .mscFailover => true
  | .waitevDeadline _ _ => true
  | .waitRequestReply _ => true
  | .popwAnswer _ => true
  | .dataTokenArrival _ _ _ _ _ _ _ => true
  | .refresh _ => true
  | .rowCopyComplete _ _ _ _ => true
  | .edgeCoreStart _ _ => true

end Sys2Proof
end

