-- ==== Sys2Proof/Decode.lean ====
section
/-!
DEFINITION. The decoder, from instruction words to an instruction or a named refusal, and the encoder, both from the
encoding tables of 14 (R217 to R222) and 15 (R241 to R252). A hand-level check (HAND_FORMAT, wave tags) is not made
here: it belongs to the fetch of the hand.
-/

namespace Sys2Proof

/-- Why a word is no instruction (15 R242). -/
inductive DecodeError where
  /-- an unassigned major or minor: ILLEGAL_OPCODE -/
  | illegalOpcode
  /-- a reserved field that is not 0, or a value outside a field's range: RESERVED_FIELD -/
  | reservedField
  /-- the bytes end before the instruction does (the decoder of bytes only) -/
  | truncated
  deriving DecidableEq, Repr

/-- The wave tags of a second word (14 R221). -/
structure Wave where
  own  : BitVec 7
  pred : BitVec 7
  succ : BitVec 7
  deriving DecidableEq, Repr

/-- The major opcode of a first word (14 R217). -/
def majorOf (lo : W32) : Nat := (lo.extractLsb' 26 6).toNat

/-- Majors 0x28 to 0x3F give a 64-bit instruction, undefined majors too (14 R217). -/
def isLong (lo : W32) : Bool := decide (40 ≤ majorOf lo)

/-- The wave tags that a second word carries (14 R221). -/
def waveOf (hi : W32) : Wave :=
  { own := hi.extractLsb' 25 7, pred := hi.extractLsb' 18 7, succ := hi.extractLsb' 11 7 }

/-- Keep an instruction whose unused fields are 0 and whose fields are in range (14 R219, 15 R242). -/
def keep (unused : Bool) (i : Instr) : Except DecodeError Instr :=
  if unused && i.wf then .ok i else .error .reservedField

/-- The minors of major 0x00. -/
def short0 (sd sa sb : BitVec 6) (fn : BitVec 4) (q : Sel) : Except DecodeError Instr :=
  match fn.toNat with
  | 0 => keep (sd == 0#6 && sa == 0#6 && sb == 0#6) (.nop q)
  | 1 => keep (sd == 0#6 && sa == 0#6 && sb == 0#6) (.halt q)
  | 2 => keep (sd == 0#6 && sa == 0#6 && sb == 0#6) (.yield q)
  | 3 => keep (sd == 0#6 && sa == 0#6 && sb == 0#6) (.brk q)
  | 4 => keep (sd == 0#6 && sa == 0#6 && sb == 0#6) (.eret q)
  | 5 => keep (sb == 0#6) (.waitev sd sa q)
  | _ => .error .illegalOpcode

/-- The minors of major 0x01. -/
def short1 (sd sa sb : BitVec 6) (fn : BitVec 4) (q : Sel) : Except DecodeError Instr :=
  match fn.toNat with
  | 0 => keep true (.add sd sa sb q)
  | 1 => keep true (.sub sd sa sb q)
  | 2 => keep true (.mul sd sa sb q)
  | 3 => keep true (.mulh sd sa sb q)
  | 4 => keep true (.mulhn sd sa sb q)
  | 5 => keep true (.div sd sa sb q)
  | 6 => keep true (.divn sd sa sb q)
  | 7 => keep true (.rem sd sa sb q)
  | 8 => keep true (.remn sd sa sb q)
  | 9 => keep true (.and sd sa sb q)
  | 10 => keep true (.or sd sa sb q)
  | 11 => keep true (.xor sd sa sb q)
  | 12 => keep true (.andn sd sa sb q)
  | 13 => keep true (.shl sd sa sb q)
  | 14 => keep true (.shr sd sa sb q)
  | 15 => keep true (.sra sd sa sb q)
  | _ => .error .illegalOpcode

/-- The minors of major 0x02. -/
def short2 (sd sa sb : BitVec 6) (fn : BitVec 4) (q : Sel) : Except DecodeError Instr :=
  match fn.toNat with
  | 0 => keep true (.rotl sd sa sb q)
  | 1 => keep (sb == 0#6) (.clz sd sa q)
  | 2 => keep (sb == 0#6) (.ctz sd sa q)
  | 3 => keep (sb == 0#6) (.popc sd sa q)
  | 4 => keep true (.min sd sa sb q)
  | 5 => keep true (.max sd sa sb q)
  | 6 => keep true (.minn sd sa sb q)
  | 7 => keep true (.maxn sd sa sb q)
  | 8 => keep true (.sel sd sa sb q)
  | 9 => keep (sb == 0#6) (.mov sd sa q)
  | _ => .error .illegalOpcode

/-- The minors of major 0x03. -/
def short3 (sd sa sb : BitVec 6) (fn : BitVec 4) (q : Sel) : Except DecodeError Instr :=
  match fn.toNat with
  | 0 | 1 | 2 | 3 | 4 | 5 | 6 | 7 => keep true (.cmp (fn.extractLsb' 0 3) (sd.extractLsb' 3 3) (sd.extractLsb' 0 3) sa sb q)
  | 8 => keep true (.fcmp (sd.extractLsb' 3 3) (sd.extractLsb' 0 3) sa sb q)
  | _ => .error .illegalOpcode

/-- The minors of major 0x04. -/
def short4 (sd sa sb : BitVec 6) (fn : BitVec 4) (q : Sel) : Except DecodeError Instr :=
  match fn.toNat with
  | 0 => keep (sd.extractLsb' 3 3 == 0#3 && sa.extractLsb' 3 3 == 0#3 && sb.extractLsb' 3 3 == 0#3) (.pand (sd.extractLsb' 0 3) (sa.extractLsb' 0 3) (sb.extractLsb' 0 3) q)
  | 1 => keep (sd.extractLsb' 3 3 == 0#3 && sa.extractLsb' 3 3 == 0#3 && sb.extractLsb' 3 3 == 0#3) (.por (sd.extractLsb' 0 3) (sa.extractLsb' 0 3) (sb.extractLsb' 0 3) q)
  | 2 => keep (sd.extractLsb' 3 3 == 0#3 && sa.extractLsb' 3 3 == 0#3 && sb.extractLsb' 3 3 == 0#3) (.pxor (sd.extractLsb' 0 3) (sa.extractLsb' 0 3) (sb.extractLsb' 0 3) q)
  | 3 => keep (sd.extractLsb' 3 3 == 0#3 && sa.extractLsb' 3 3 == 0#3 && sb == 0#6) (.pnot (sd.extractLsb' 0 3) (sa.extractLsb' 0 3) q)
  | _ => .error .illegalOpcode

/-- The minors of major 0x09. -/
def short9 (sd sa sb : BitVec 6) (fn : BitVec 4) (q : Sel) : Except DecodeError Instr :=
  match fn.toNat with
  | 0 => keep true (.shli sd sa sb q)
  | 1 => keep true (.shri sd sa sb q)
  | 2 => keep true (.srai sd sa sb q)
  | _ => .error .illegalOpcode

/-- The minors of major 0x10. -/
def short16 (sd sa sb : BitVec 6) (fn : BitVec 4) (q : Sel) : Except DecodeError Instr :=
  match fn.toNat with
  | 0 => keep true (.fadd sd sa sb q)
  | 1 => keep true (.fsub sd sa sb q)
  | 2 => keep true (.fmul sd sa sb q)
  | 3 => keep true (.fdiv sd sa sb q)
  | 4 => keep true (.fmin sd sa sb q)
  | 5 => keep true (.fmax sd sa sb q)
  | 6 => keep (sb == 0#6) (.fabs sd sa q)
  | 7 => keep (sb == 0#6) (.fneg sd sa q)
  | _ => .error .illegalOpcode

/-- The minors of major 0x11. -/
def short17 (sd sa sb : BitVec 6) (fn : BitVec 4) (q : Sel) : Except DecodeError Instr :=
  match fn.toNat with
  | 0 => keep true (.ffma sd sa sb q)
  | _ => .error .illegalOpcode

/-- The minors of major 0x12. -/
def short18 (sd sa sb : BitVec 6) (fn : BitVec 4) (q : Sel) : Except DecodeError Instr :=
  match fn.toNat with
  | 0 => keep (sb == 0#6) (.frcp sd sa q)
  | 1 => keep (sb == 0#6) (.frsq sd sa q)
  | 2 => keep (sb == 0#6) (.fsqrt sd sa q)
  | 3 => keep (sb == 0#6) (.fexp2 sd sa q)
  | 4 => keep (sb == 0#6) (.flog2 sd sa q)
  | _ => .error .illegalOpcode

/-- The minors of major 0x14. -/
def short20 (sd sa sb : BitVec 6) (fn : BitVec 4) (q : Sel) : Except DecodeError Instr :=
  match fn.toNat with
  | 0 => keep true (.extN sd sa sb q)
  | 1 => keep true (.extI sd sa sb q)
  | 2 => keep true (.ins sd sa sb q)
  | _ => .error .illegalOpcode

/-- The minors of major 0x1C. -/
def short28 (sd sa sb : BitVec 6) (fn : BitVec 4) (q : Sel) : Except DecodeError Instr :=
  match fn.toNat with
  | 0 => keep (sd == 0#6 && sb == 0#6) (.calli sa q)
  | 1 => keep (sd == 0#6 && sb == 0#6) (.jmpi sa q)
  | 2 => keep (sd == 0#6 && sa == 0#6 && sb == 0#6) (.ret q)
  | 3 => keep (sd.extractLsb' 2 4 == 0#4 && sa == 0#6 && sb == 0#6) (.loopbrk (sd.extractLsb' 0 2) q)
  | _ => .error .illegalOpcode

/-- The minors of major 0x20. -/
def short32 (sd sa sb : BitVec 6) (fn : BitVec 4) (q : Sel) : Except DecodeError Instr :=
  match fn.toNat with
  | 0 => keep (sa == 0#6) (.csrr sd sb q)
  | 1 => keep (sd == 0#6) (.csrw sb sa q)
  | 2 => keep true (.csrx sd sb sa q)
  | _ => .error .illegalOpcode

/-- The 32-bit majors (15 R241, R245). -/
def decodeShort (lo : W32) : Except DecodeError Instr :=
  let sd := lo.extractLsb' 20 6
  let sa := lo.extractLsb' 14 6
  let sb := lo.extractLsb' 8 6
  let imm := lo.extractLsb' 4 10
  let fn := lo.extractLsb' 4 4
  let q := lo.extractLsb' 0 4
  match majorOf lo with
  | 0 => short0 sd sa sb fn q
  | 1 => short1 sd sa sb fn q
  | 2 => short2 sd sa sb fn q
  | 3 => short3 sd sa sb fn q
  | 4 => short4 sd sa sb fn q
  | 5 => keep true (.addi sd sa imm q)
  | 6 => keep true (.andi sd sa imm q)
  | 7 => keep true (.ori sd sa imm q)
  | 8 => keep true (.xori sd sa imm q)
  | 9 => short9 sd sa sb fn q
  | 10 => keep true (.cmpi (sd.extractLsb' 3 3) (sd.extractLsb' 0 3) sa imm q)
  | 11 => keep true (.movi (lo.extractLsb' 20 6) (lo.extractLsb' 0 20))
  | 12 => keep true (.movhi (lo.extractLsb' 20 6) (lo.extractLsb' 0 20))
  | 16 => short16 sd sa sb fn q
  | 17 => short17 sd sa sb fn q
  | 18 => short18 sd sa sb fn q
  | 19 => if decide (8 ≤ fn.toNat ∧ 8 ≤ (sb.extractLsb' 0 4).toNat) then .error .illegalOpcode else keep (sb.extractLsb' 4 2 == 0#2) (.fcvt fn (sb.extractLsb' 0 4) sd sa q)
  | 20 => short20 sd sa sb fn q
  | 24 => keep true (.br (lo.extractLsb' 4 22) (lo.extractLsb' 0 4))
  | 25 => keep true (.call (lo.extractLsb' 4 22) (lo.extractLsb' 0 4))
  | 26 => keep (sd == 0#6 && sa == 0#6 && imm.extractLsb' 7 3 == 0#3) (.skip (imm.extractLsb' 0 7) q)
  | 27 => keep (sd.extractLsb' 2 4 == 0#4) (.loop (sd.extractLsb' 0 2) sa imm q)
  | 28 => short28 sd sa sb fn q
  | 29 => keep (sd == 0#6 && sa == 0#6) (.svc imm q)
  | 30 => keep (sd == 0#6 && sa == 0#6) (.trap imm q)
  | 32 => short32 sd sa sb fn q
  | _ => .error .illegalOpcode

/-- The loads and stores of width `w`, minors 0 to 3 of majors 0x28 to 0x2B. -/
def longMem (w : BitVec 2) (sd sa sb : BitVec 6) (fn : BitVec 4) (q : Sel) (ext : BitVec 11) : Except DecodeError Instr :=
  match fn.toNat with
  | 0 => keep true (.ld w sd sa ((sb.extractLsb' 0 5) ++ ext) (sb.extractLsb' 5 1 == 1#1) q)
  | 1 => keep (sb.extractLsb' 5 1 == 0#1) (.st w sd sa ((sb.extractLsb' 0 5) ++ ext) q)
  | 2 => keep true (.ldg w sd sa ((sb.extractLsb' 0 5) ++ ext) (sb.extractLsb' 5 1 == 1#1) q)
  | 3 => keep (sb.extractLsb' 5 1 == 0#1) (.stg w sd sa ((sb.extractLsb' 0 5) ++ ext) q)
  | _ => .error .illegalOpcode

/-- The minors of major 0x2A from 4 on. -/
def long42 (sd sa sb : BitVec 6) (fn : BitVec 4) (q : Sel) (ext : BitVec 11) : Except DecodeError Instr :=
  match fn.toNat with
  | 4 => keep true (.ldf sd sa ((sb.extractLsb' 0 5) ++ ext) (sb.extractLsb' 5 1 == 1#1) q)
  | 5 => keep true (.ldx sd sa ((sb.extractLsb' 0 5) ++ ext) (sb.extractLsb' 5 1 == 1#1) q)
  | 6 => keep (sb.extractLsb' 5 1 == 0#1) (.stf sd sa ((sb.extractLsb' 0 5) ++ ext) q)
  | 7 => keep (sb.extractLsb' 5 1 == 0#1) (.setf sd sa ((sb.extractLsb' 0 5) ++ ext) q)
  | 8 => keep (sd == 0#6 && sb.extractLsb' 5 1 == 0#1) (.clre sa ((sb.extractLsb' 0 5) ++ ext) q)
  | 9 => keep (sb.extractLsb' 5 1 == 0#1) (.tagrd sd sa ((sb.extractLsb' 0 5) ++ ext) q)
  | 10 => keep true (.ldfG sd sa ((sb.extractLsb' 0 5) ++ ext) (sb.extractLsb' 5 1 == 1#1) q)
  | 11 => keep true (.ldxG sd sa ((sb.extractLsb' 0 5) ++ ext) (sb.extractLsb' 5 1 == 1#1) q)
  | 12 => keep (sb.extractLsb' 5 1 == 0#1) (.stfG sd sa ((sb.extractLsb' 0 5) ++ ext) q)
  | 13 => keep (sb.extractLsb' 5 1 == 0#1) (.setfG sd sa ((sb.extractLsb' 0 5) ++ ext) q)
  | 14 => keep (sd == 0#6 && sb.extractLsb' 5 1 == 0#1) (.clreG sa ((sb.extractLsb' 0 5) ++ ext) q)
  | 15 => keep (sb.extractLsb' 5 1 == 0#1) (.tagrdG sd sa ((sb.extractLsb' 0 5) ++ ext) q)
  | _ => .error .illegalOpcode

/-- The minors of major 0x2C. -/
def long44 (sd sa sb : BitVec 6) (fn : BitVec 4) (q : Sel) (ext : BitVec 11) : Except DecodeError Instr :=
  match fn.toNat with
  | 0 => keep true (.aadd sd sa sb (ext.extractLsb' 3 8) (ext.extractLsb' 2 1 == 1#1) (ext.extractLsb' 1 1 == 1#1) (ext.extractLsb' 0 1 == 1#1) q)
  | 1 => keep true (.amin sd sa sb (ext.extractLsb' 3 8) (ext.extractLsb' 2 1 == 1#1) (ext.extractLsb' 1 1 == 1#1) (ext.extractLsb' 0 1 == 1#1) q)
  | 2 => keep true (.amax sd sa sb (ext.extractLsb' 3 8) (ext.extractLsb' 2 1 == 1#1) (ext.extractLsb' 1 1 == 1#1) (ext.extractLsb' 0 1 == 1#1) q)
  | 3 => keep true (.aminn sd sa sb (ext.extractLsb' 3 8) (ext.extractLsb' 2 1 == 1#1) (ext.extractLsb' 1 1 == 1#1) (ext.extractLsb' 0 1 == 1#1) q)
  | 4 => keep true (.amaxn sd sa sb (ext.extractLsb' 3 8) (ext.extractLsb' 2 1 == 1#1) (ext.extractLsb' 1 1 == 1#1) (ext.extractLsb' 0 1 == 1#1) q)
  | 5 => keep true (.aand sd sa sb (ext.extractLsb' 3 8) (ext.extractLsb' 2 1 == 1#1) (ext.extractLsb' 1 1 == 1#1) (ext.extractLsb' 0 1 == 1#1) q)
  | 6 => keep true (.aor sd sa sb (ext.extractLsb' 3 8) (ext.extractLsb' 2 1 == 1#1) (ext.extractLsb' 1 1 == 1#1) (ext.extractLsb' 0 1 == 1#1) q)
  | 7 => keep true (.axor sd sa sb (ext.extractLsb' 3 8) (ext.extractLsb' 2 1 == 1#1) (ext.extractLsb' 1 1 == 1#1) (ext.extractLsb' 0 1 == 1#1) q)
  | 8 => keep true (.axchg sd sa sb (ext.extractLsb' 3 8) (ext.extractLsb' 2 1 == 1#1) (ext.extractLsb' 1 1 == 1#1) (ext.extractLsb' 0 1 == 1#1) q)
  | 9 => keep true (.acas sd sa sb (ext.extractLsb' 3 8) (ext.extractLsb' 2 1 == 1#1) (ext.extractLsb' 1 1 == 1#1) (ext.extractLsb' 0 1 == 1#1) q)
  | 10 => keep (ext.extractLsb' 0 1 == 0#1) (.afadd sd sa sb (ext.extractLsb' 3 8) (ext.extractLsb' 2 1 == 1#1) (ext.extractLsb' 1 1 == 1#1) q)
  | 11 => keep (sd == 0#6 && ext.extractLsb' 2 1 == 0#1) (.asig sa sb (ext.extractLsb' 3 8) (ext.extractLsb' 1 1 == 1#1) (ext.extractLsb' 0 1 == 1#1) q)
  | _ => .error .illegalOpcode

/-- The minors of major 0x2D. -/
def long45 (sd sa sb : BitVec 6) (fn : BitVec 4) (q : Sel) (ext : BitVec 11) : Except DecodeError Instr :=
  match fn.toNat with
  | 0 => keep (ext.extractLsb' 2 1 == 0#1 && ext.extractLsb' 0 1 == 0#1) (.pinit sd sa sb (ext.extractLsb' 3 8) (ext.extractLsb' 1 1 == 1#1) q)
  | 1 => keep (ext.extractLsb' 2 1 == 0#1 && ext.extractLsb' 0 1 == 0#1) (.push sd sa sb (ext.extractLsb' 3 8) (ext.extractLsb' 1 1 == 1#1) q)
  | 2 => keep (sb == 0#6 && ext.extractLsb' 2 1 == 0#1 && ext.extractLsb' 0 1 == 0#1) (.pop sd sa (ext.extractLsb' 3 8) (ext.extractLsb' 1 1 == 1#1) q)
  | 3 => keep (ext.extractLsb' 2 1 == 0#1 && ext.extractLsb' 0 1 == 0#1) (.popw sd sa sb (ext.extractLsb' 3 8) (ext.extractLsb' 1 1 == 1#1) q)
  | _ => .error .illegalOpcode

/-- The minors of major 0x2E. -/
def long46 (sd sa : BitVec 6) (imm : BitVec 10) (q : Sel) (ext : BitVec 11) : Except DecodeError Instr :=
  match sa.toNat with
  | 0 | 1 | 2 => keep (sa.extractLsb' 2 4 == 0#4) (.lit (sa.extractLsb' 0 2) sd (ext ++ imm) q)
  | 3 => keep true (.lea sd (ext ++ imm) q)
  | _ => .error .illegalOpcode

/-- The minors of major 0x2F. -/
def long47 (sd sa sb : BitVec 6) (fn : BitVec 4) (q : Sel) (ext : BitVec 11) : Except DecodeError Instr :=
  match fn.toNat with
  | 0 => keep (sd == 0#6 && ext.extractLsb' 4 7 == 0#7 && ext.extractLsb' 0 2 == 0#2) (.binit sa sb (ext.extractLsb' 3 1 == 1#1) (ext.extractLsb' 2 1 == 1#1) q)
  | 1 => keep (sd == 0#6 && ext.extractLsb' 2 9 == 0#9 && ext.extractLsb' 0 1 == 0#1) (.barr sa sb (ext.extractLsb' 1 1 == 1#1) q)
  | 2 => keep (ext.extractLsb' 2 9 == 0#9 && ext.extractLsb' 0 1 == 0#1) (.bwait sd sa sb (ext.extractLsb' 1 1 == 1#1) q)
  | 3 => keep (sb == 0#6 && ext.extractLsb' 2 9 == 0#9 && ext.extractLsb' 0 1 == 0#1) (.btest sd sa (ext.extractLsb' 1 1 == 1#1) q)
  | 4 => keep (sd == 0#6 && sb == 0#6 && ext == 0#11) (.brst sa q)
  | 5 =>
    match (ext.extractLsb' 4 2).toNat with
    | 1 => keep (sd == 0#6 && sa == 0#6 && sb == 0#6 && ext.extractLsb' 6 5 == 0#5 && ext.extractLsb' 3 1 == 0#1) (.fenceLd (ext.extractLsb' 0 3) q)
    | 2 => keep (sd == 0#6 && sa == 0#6 && sb == 0#6 && ext.extractLsb' 6 5 == 0#5 && ext.extractLsb' 3 1 == 0#1) (.fenceSt (ext.extractLsb' 0 3) q)
    | 3 => keep (sd == 0#6 && sa == 0#6 && sb == 0#6 && ext.extractLsb' 6 5 == 0#5 && ext.extractLsb' 3 1 == 0#1) (.fenceAll (ext.extractLsb' 0 3) q)
    | _ => .error .reservedField
  | _ => .error .illegalOpcode

/-- The minors of major 0x30. -/
def long48 (sd sa sb : BitVec 6) (fn : BitVec 4) (q : Sel) (ext : BitVec 11) : Except DecodeError Instr :=
  match fn.toNat with
  | 0 =>
    match (ext.extractLsb' 3 2).toNat with
    | 0 => keep (sd.extractLsb' 4 2 == 0#2 && ext.extractLsb' 5 4 == 0#4) (.sinDense (sd.extractLsb' 0 4) sa sb (ext.extractLsb' 9 2) (ext.extractLsb' 2 1 == 1#1) (ext.extractLsb' 0 2) q)
    | 1 => keep (sd.extractLsb' 4 2 == 0#2 && ext.extractLsb' 5 4 == 0#4) (.sinExpand (sd.extractLsb' 0 4) sa sb (ext.extractLsb' 9 2) (ext.extractLsb' 2 1 == 1#1) (ext.extractLsb' 0 2) q)
    | _ => .error .reservedField
  | 1 =>
    match (ext.extractLsb' 3 2).toNat with
    | 0 => keep (sd.extractLsb' 4 2 == 0#2 && ext.extractLsb' 5 4 == 0#4) (.soutDense (sd.extractLsb' 0 4) sa sb (ext.extractLsb' 9 2) (ext.extractLsb' 2 1 == 1#1) (ext.extractLsb' 0 2) q)
    | 1 => keep (sd.extractLsb' 4 2 == 0#2 && ext.extractLsb' 5 4 == 0#4) (.soutSparse (sd.extractLsb' 0 4) sa sb (ext.extractLsb' 9 2) (ext.extractLsb' 2 1 == 1#1) (ext.extractLsb' 0 2) q)
    | _ => .error .reservedField
  | 2 => keep (sd.extractLsb' 4 2 == 0#2 && sb == 0#6 && ext.extractLsb' 2 7 == 0#7) (.spush (sd.extractLsb' 0 4) sa (ext.extractLsb' 9 2) (ext.extractLsb' 1 1 == 1#1) (ext.extractLsb' 0 1 == 1#1) q)
  | 3 => keep (sa.extractLsb' 4 2 == 0#2 && sb == 0#6 && ext.extractLsb' 0 9 == 0#9) (.spull sd (sa.extractLsb' 0 4) (ext.extractLsb' 9 2) q)
  | 4 => keep (sa.extractLsb' 4 2 == 0#2 && sb == 0#6 && ext.extractLsb' 0 9 == 0#9) (.speek sd (sa.extractLsb' 0 4) (ext.extractLsb' 9 2) q)
  | _ => .error .illegalOpcode

/-- The minors of major 0x31. -/
def long49 (sd sa sb : BitVec 6) (fn : BitVec 4) (q : Sel) (ext : BitVec 11) : Except DecodeError Instr :=
  match fn.toNat with
  | 0 => keep (sd.extractLsb' 4 2 == 0#2 && sa == 0#6 && sb == 0#6 && ext.extractLsb' 1 8 == 0#8) (.portrst (sd.extractLsb' 0 4) (ext.extractLsb' 9 2) (ext.extractLsb' 0 1 == 1#1) q)
  | 1 => keep (sa.extractLsb' 4 2 == 0#2 && sb == 0#6 && ext.extractLsb' 1 8 == 0#8) (.portstat sd (sa.extractLsb' 0 4) (ext.extractLsb' 9 2) (ext.extractLsb' 0 1 == 1#1) q)
  | _ => .error .illegalOpcode

/-- The minors of major 0x32. -/
def long50 (sd sa sb : BitVec 6) (fn : BitVec 4) (q : Sel) (ext : BitVec 11) : Except DecodeError Instr :=
  match fn.toNat with
  | 0 => keep (sd == 0#6 && sb == 0#6 && ext.extractLsb' 2 9 == 0#9) (.cfg sa (ext.extractLsb' 0 2) q)
  | 1 => keep (sd == 0#6 && ext == 0#11) (.cfgw sa sb q)
  | 2 => keep (sd == 0#6 && sa == 0#6 && sb == 0#6 && ext == 0#11) (.cfgsync q)
  | 3 => keep (sd == 0#6 && sa == 0#6 && sb == 0#6 && ext.extractLsb' 2 9 == 0#9) (.planeon (ext.extractLsb' 0 2) q)
  | 4 => keep (sd == 0#6 && sa == 0#6 && sb == 0#6 && ext.extractLsb' 2 9 == 0#9) (.planeoff (ext.extractLsb' 0 2) q)
  | 5 => keep (sd == 0#6 && sa == 0#6 && sb == 0#6 && ext.extractLsb' 2 1 == 0#1) (.arbw (ext.extractLsb' 3 8) (ext.extractLsb' 0 2) q)
  | _ => .error .illegalOpcode

/-- The minors of major 0x33. -/
def long51 (sd sa sb : BitVec 6) (fn : BitVec 4) (q : Sel) (ext : BitVec 11) : Except DecodeError Instr :=
  match fn.toNat with
  | 0 => keep (sd == 0#6 && sa == 0#6 && sb == 0#6 && ext.extractLsb' 8 3 == 0#3 && ext.extractLsb' 0 3 == 0#3) (.mclaim (ext.extractLsb' 3 5) q)
  | 1 => keep (sd == 0#6 && sa == 0#6 && sb == 0#6 && ext.extractLsb' 8 3 == 0#3 && ext.extractLsb' 0 3 == 0#3) (.mrel (ext.extractLsb' 3 5) q)
  | 2 => keep (sd == 0#6 && sb == 0#6 && ext.extractLsb' 8 3 == 0#3 && ext.extractLsb' 0 3 == 0#3) (.mload sa (ext.extractLsb' 3 5) q)
  | 3 => keep (sd == 0#6 && sb == 0#6 && ext.extractLsb' 8 3 == 0#3 && ext.extractLsb' 0 3 == 0#3) (.mstore sa (ext.extractLsb' 3 5) q)
  | 4 => keep (sd == 0#6 && sa == 0#6 && sb.extractLsb' 5 1 == 0#1) (.mma (ext.extractLsb' 8 3) (ext.extractLsb' 3 5) (sb.extractLsb' 0 5) (ext.extractLsb' 0 3) q)
  | 5 => keep true (.mtile sd sa sb (ext.extractLsb' 8 3) (ext.extractLsb' 3 5) (ext.extractLsb' 0 3) q)
  | 6 => keep (sd == 0#6 && sa == 0#6 && sb == 0#6 && ext.extractLsb' 0 8 == 0#8) (.accz (ext.extractLsb' 8 3) q)
  | 7 => keep (sd == 0#6 && sb == 0#6 && ext.extractLsb' 3 5 == 0#5) (.accst sa (ext.extractLsb' 8 3) (ext.extractLsb' 0 3) q)
  | 8 => keep (sa == 0#6 && ext.extractLsb' 3 5 == 0#5 && ext.extractLsb' 0 3 == 2#3) (.accrd sd sb (ext.extractLsb' 8 3) q)
  | 9 => keep (sa == 0#6 && ext.extractLsb' 3 5 == 0#5 && ext.extractLsb' 0 3 == 2#3) (.accpeek sd sb (ext.extractLsb' 8 3) q)
  | 10 => keep (sd == 0#6 && sb.extractLsb' 5 1 == 0#1 && ext.extractLsb' 8 3 == 0#3 && ext.extractLsb' 2 1 == 0#1 && ext.extractLsb' 0 1 == 0#1) (.mtrans sa (sb.extractLsb' 0 5) (ext.extractLsb' 3 5) (ext.extractLsb' 1 1 == 1#1) q)
  | _ => .error .illegalOpcode

/-- The minors of major 0x34. -/
def long52 (sd sa sb : BitVec 6) (fn : BitVec 4) (q : Sel) (ext : BitVec 11) : Except DecodeError Instr :=
  match fn.toNat with
  | 0 => keep (sd == 0#6 && sb == 0#6 && ext == 0#11) (.cpy sa q)
  | 1 => keep (sd == 0#6 && sb == 0#6 && ext == 0#11) (.cpyx sa q)
  | 2 => keep (sd == 0#6 && sb == 0#6 && ext == 0#11) (.gstrm sa q)
  | 3 => keep (sd == 0#6 && sb == 0#6 && ext == 0#11) (.coll sa q)
  | 4 => keep (sa == 0#6 && sb == 0#6 && ext == 0#11) (.evpop sd q)
  | 5 => keep (sa == 0#6 && ext.extractLsb' 1 10 == 0#10) (.evwait sd sb (ext.extractLsb' 0 1 == 1#1) q)
  | 6 => keep (sd == 0#6 && ext == 0#11) (.launch sa sb q)
  | 7 => keep (sa == 0#6 && ext == 0#11) (.cardstat sd sb q)
  | _ => .error .illegalOpcode

/-- The minors of major 0x35. -/
def long53 (sd sa sb : BitVec 6) (fn : BitVec 4) (q : Sel) (ext : BitVec 11) : Except DecodeError Instr :=
  match fn.toNat with
  | 0 => keep (sa == 0#6 && sb == 0#6 && ext == 0#11) (.brow sd q)
  | 1 => keep (sd.extractLsb' 4 2 == 0#2 && sa == 0#6 && sb == 0#6 && ext.extractLsb' 0 9 == 0#9) (.bemit (sd.extractLsb' 0 4) (ext.extractLsb' 9 2) q)
  | 2 => keep (sd == 0#6 && sa == 0#6 && sb == 0#6 && ext == 0#11) (.bstep q)
  | 3 => keep (ext == 0#11) (.bread sd sa sb q)
  | 4 => keep (sd.extractLsb' 4 2 == 0#2 && ext.extractLsb' 0 9 == 0#9) (.btap (sd.extractLsb' 0 4) sa sb (ext.extractLsb' 9 2) q)
  | 5 => keep (sa == 0#6 && sb == 0#6 && ext.extractLsb' 3 8 == 0#8) (.bstat sd (ext.extractLsb' 0 3) q)
  | 6 =>
    match (ext.extractLsb' 0 1).toNat with
    | 0 => keep (sd == 0#6 && sa == 0#6 && sb == 0#6 && ext.extractLsb' 1 10 == 0#10) (.bend q)
    | 1 => keep (sd == 0#6 && sa == 0#6 && sb == 0#6 && ext.extractLsb' 1 10 == 0#10) (.bendAbort q)
    | _ => .error .reservedField
  | 7 =>
    match (ext.extractLsb' 0 1).toNat with
    | 0 => keep (sd == 0#6 && sb == 0#6 && ext.extractLsb' 1 10 == 0#10) (.bseedC sa q)
    | 1 => keep (sd == 0#6 && sb == 0#6 && ext.extractLsb' 1 10 == 0#10) (.bseedR sa q)
    | _ => .error .reservedField
  | _ => .error .illegalOpcode

/-- The minors of major 0x36. -/
def long54 (sd sa sb : BitVec 6) (fn : BitVec 4) (q : Sel) (ext : BitVec 11) : Except DecodeError Instr :=
  match fn.toNat with
  | 0 =>
    match (ext.extractLsb' 0 1).toNat with
    | 0 => keep (ext.extractLsb' 1 10 == 0#10) (.maprRange sd sa sb q)
    | 1 => keep (ext.extractLsb' 1 10 == 0#10) (.maprPage sd sa sb q)
    | _ => .error .reservedField
  | 1 => keep (ext == 0#11) (.unmap sd sa sb q)
  | 2 => keep (sd == 0#6 && ext.extractLsb' 3 8 == 0#8) (.icinv sa sb (ext.extractLsb' 0 3) q)
  | 3 => keep (sd == 0#6 && sa == 0#6 && sb == 0#6 && ext == 0#11) (.hitch q)
  | 4 => keep (sb == 0#6 && ext == 0#11) (.dstep sd sa q)
  | 5 => keep (ext == 0#11) (.dresume sd sa sb q)
  | 6 => keep (sb == 0#6 && ext.extractLsb' 1 10 == 0#10) (.preempt sd sa (ext.extractLsb' 0 1 == 1#1) q)
  | 7 => keep (ext == 0#11) (.keyld sd sa sb q)
  | 8 =>
    match (ext.extractLsb' 0 4).toNat with
    | 0 => keep (ext.extractLsb' 4 7 == 0#7) (.lnkctlRead sd sa q)
    | 1 => keep (ext.extractLsb' 4 7 == 0#7) (.lnkctlEnable sd sa q)
    | 2 => keep (ext.extractLsb' 4 7 == 0#7) (.lnkctlDisable sd sa q)
    | 3 => keep (ext.extractLsb' 4 7 == 0#7) (.lnkctlReset sd sa q)
    | 4 => keep (ext.extractLsb' 4 7 == 0#7) (.lnkctlClear sd sa q)
    | 5 => keep (ext.extractLsb' 4 7 == 0#7) (.lnkctlLongReach sd sa sb q)
    | 6 => keep (ext.extractLsb' 4 7 == 0#7) (.lnkctlEncryption sd sa sb q)
    | 7 => keep (ext.extractLsb' 4 7 == 0#7) (.lnkctlReplayTimeout sd sa sb q)
    | _ => .error .reservedField
  | _ => .error .illegalOpcode

/-- The 64-bit majors (15 R241, R250 to R252); `ext` is the second word's EXT (14 R221). -/
def decodeLong (lo hi : W32) : Except DecodeError Instr :=
  let sd := lo.extractLsb' 20 6
  let sa := lo.extractLsb' 14 6
  let sb := lo.extractLsb' 8 6
  let imm := lo.extractLsb' 4 10
  let fn := lo.extractLsb' 4 4
  let q := lo.extractLsb' 0 4
  let ext := hi.extractLsb' 0 11
  match majorOf lo with
  | 40 => longMem 0#2 sd sa sb fn q ext
  | 41 => longMem 1#2 sd sa sb fn q ext
  | 42 => if fn.toNat < 4 then longMem 2#2 sd sa sb fn q ext else long42 sd sa sb fn q ext
  | 43 => longMem 3#2 sd sa sb fn q ext
  | 44 => long44 sd sa sb fn q ext
  | 45 => long45 sd sa sb fn q ext
  | 46 => long46 sd sa imm q ext
  | 47 => long47 sd sa sb fn q ext
  | 48 => long48 sd sa sb fn q ext
  | 49 => long49 sd sa sb fn q ext
  | 50 => long50 sd sa sb fn q ext
  | 51 => long51 sd sa sb fn q ext
  | 52 => long52 sd sa sb fn q ext
  | 53 => long53 sd sa sb fn q ext
  | 54 => long54 sd sa sb fn q ext
  | _ => .error .illegalOpcode

/-- The decoder on an instruction's words; a 32-bit instruction does not read `hi`. -/
def decode (lo hi : W32) : Except DecodeError Instr :=
  if isLong lo then decodeLong lo hi else decodeShort lo

/-- The second word with the wave tags `v` and the field EXT (14 R221). -/
def wave (v : Wave) (ext : BitVec 11) : W32 := v.own ++ v.pred ++ v.succ ++ ext

/-- The words of an instruction whose second word, if it has one, carries the wave tags `v`; an event of the machine
has no words. -/
def encode (i : Instr) (v : Wave) : List W32 :=
  match i with
  | .nop q => [0#6 ++ 0#6 ++ 0#6 ++ 0#6 ++ 0#4 ++ q]
  | .halt q => [0#6 ++ 0#6 ++ 0#6 ++ 0#6 ++ 1#4 ++ q]
  | .yield q => [0#6 ++ 0#6 ++ 0#6 ++ 0#6 ++ 2#4 ++ q]
  | .brk q => [0#6 ++ 0#6 ++ 0#6 ++ 0#6 ++ 3#4 ++ q]
  | .eret q => [0#6 ++ 0#6 ++ 0#6 ++ 0#6 ++ 4#4 ++ q]
  | .waitev d a q => [0#6 ++ d ++ a ++ 0#6 ++ 5#4 ++ q]
  | .add d a b q => [1#6 ++ d ++ a ++ b ++ 0#4 ++ q]
  | .sub d a b q => [1#6 ++ d ++ a ++ b ++ 1#4 ++ q]
  | .mul d a b q => [1#6 ++ d ++ a ++ b ++ 2#4 ++ q]
  | .mulh d a b q => [1#6 ++ d ++ a ++ b ++ 3#4 ++ q]
  | .mulhn d a b q => [1#6 ++ d ++ a ++ b ++ 4#4 ++ q]
  | .div d a b q => [1#6 ++ d ++ a ++ b ++ 5#4 ++ q]
  | .divn d a b q => [1#6 ++ d ++ a ++ b ++ 6#4 ++ q]
  | .rem d a b q => [1#6 ++ d ++ a ++ b ++ 7#4 ++ q]
  | .remn d a b q => [1#6 ++ d ++ a ++ b ++ 8#4 ++ q]
  | .and d a b q => [1#6 ++ d ++ a ++ b ++ 9#4 ++ q]
  | .or d a b q => [1#6 ++ d ++ a ++ b ++ 10#4 ++ q]
  | .xor d a b q => [1#6 ++ d ++ a ++ b ++ 11#4 ++ q]
  | .andn d a b q => [1#6 ++ d ++ a ++ b ++ 12#4 ++ q]
  | .shl d a b q => [1#6 ++ d ++ a ++ b ++ 13#4 ++ q]
  | .shr d a b q => [1#6 ++ d ++ a ++ b ++ 14#4 ++ q]
  | .sra d a b q => [1#6 ++ d ++ a ++ b ++ 15#4 ++ q]
  | .rotl d a b q => [2#6 ++ d ++ a ++ b ++ 0#4 ++ q]
  | .clz d a q => [2#6 ++ d ++ a ++ 0#6 ++ 1#4 ++ q]
  | .ctz d a q => [2#6 ++ d ++ a ++ 0#6 ++ 2#4 ++ q]
  | .popc d a q => [2#6 ++ d ++ a ++ 0#6 ++ 3#4 ++ q]
  | .min d a b q => [2#6 ++ d ++ a ++ b ++ 4#4 ++ q]
  | .max d a b q => [2#6 ++ d ++ a ++ b ++ 5#4 ++ q]
  | .minn d a b q => [2#6 ++ d ++ a ++ b ++ 6#4 ++ q]
  | .maxn d a b q => [2#6 ++ d ++ a ++ b ++ 7#4 ++ q]
  | .sel d a b q => [2#6 ++ d ++ a ++ b ++ 8#4 ++ q]
  | .mov d a q => [2#6 ++ d ++ a ++ 0#6 ++ 9#4 ++ q]
  | .cmp ty cc pd a b q => [3#6 ++ (cc ++ pd) ++ a ++ b ++ (0#1 ++ ty) ++ q]
  | .fcmp cc pd a b q => [3#6 ++ (cc ++ pd) ++ a ++ b ++ 8#4 ++ q]
  | .pand pd pa pb q => [4#6 ++ (0#3 ++ pd) ++ (0#3 ++ pa) ++ (0#3 ++ pb) ++ 0#4 ++ q]
  | .por pd pa pb q => [4#6 ++ (0#3 ++ pd) ++ (0#3 ++ pa) ++ (0#3 ++ pb) ++ 1#4 ++ q]
  | .pxor pd pa pb q => [4#6 ++ (0#3 ++ pd) ++ (0#3 ++ pa) ++ (0#3 ++ pb) ++ 2#4 ++ q]
  | .pnot pd pa q => [4#6 ++ (0#3 ++ pd) ++ (0#3 ++ pa) ++ 0#6 ++ 3#4 ++ q]
  | .addi d a imm q => [5#6 ++ d ++ a ++ imm ++ q]
  | .andi d a imm q => [6#6 ++ d ++ a ++ imm ++ q]
  | .ori d a imm q => [7#6 ++ d ++ a ++ imm ++ q]
  | .xori d a imm q => [8#6 ++ d ++ a ++ imm ++ q]
  | .shli d a amt q => [9#6 ++ d ++ a ++ amt ++ 0#4 ++ q]
  | .shri d a amt q => [9#6 ++ d ++ a ++ amt ++ 1#4 ++ q]
  | .srai d a amt q => [9#6 ++ d ++ a ++ amt ++ 2#4 ++ q]
  | .cmpi cc pd a imm q => [10#6 ++ (cc ++ pd) ++ a ++ imm ++ q]
  | .movi d imm => [11#6 ++ (d ++ imm)]
  | .movhi d imm => [12#6 ++ (d ++ imm)]
  | .fadd d a b q => [16#6 ++ d ++ a ++ b ++ 0#4 ++ q]
  | .fsub d a b q => [16#6 ++ d ++ a ++ b ++ 1#4 ++ q]
  | .fmul d a b q => [16#6 ++ d ++ a ++ b ++ 2#4 ++ q]
  | .fdiv d a b q => [16#6 ++ d ++ a ++ b ++ 3#4 ++ q]
  | .fmin d a b q => [16#6 ++ d ++ a ++ b ++ 4#4 ++ q]
  | .fmax d a b q => [16#6 ++ d ++ a ++ b ++ 5#4 ++ q]
  | .fabs d a q => [16#6 ++ d ++ a ++ 0#6 ++ 6#4 ++ q]
  | .fneg d a q => [16#6 ++ d ++ a ++ 0#6 ++ 7#4 ++ q]
  | .ffma d a b q => [17#6 ++ d ++ a ++ b ++ 0#4 ++ q]
  | .frcp d a q => [18#6 ++ d ++ a ++ 0#6 ++ 0#4 ++ q]
  | .frsq d a q => [18#6 ++ d ++ a ++ 0#6 ++ 1#4 ++ q]
  | .fsqrt d a q => [18#6 ++ d ++ a ++ 0#6 ++ 2#4 ++ q]
  | .fexp2 d a q => [18#6 ++ d ++ a ++ 0#6 ++ 3#4 ++ q]
  | .flog2 d a q => [18#6 ++ d ++ a ++ 0#6 ++ 4#4 ++ q]
  | .fcvt dst src d a q => [19#6 ++ d ++ a ++ (0#2 ++ src) ++ dst ++ q]
  | .extN d a b q => [20#6 ++ d ++ a ++ b ++ 0#4 ++ q]
  | .extI d a b q => [20#6 ++ d ++ a ++ b ++ 1#4 ++ q]
  | .ins d a b q => [20#6 ++ d ++ a ++ b ++ 2#4 ++ q]
  | .br disp q => [24#6 ++ (disp ++ q)]
  | .call disp q => [25#6 ++ (disp ++ q)]
  | .skip dist q => [26#6 ++ 0#6 ++ 0#6 ++ (0#3 ++ dist) ++ q]
  | .loop n a last q => [27#6 ++ (0#4 ++ n) ++ a ++ last ++ q]
  | .calli a q => [28#6 ++ 0#6 ++ a ++ 0#6 ++ 0#4 ++ q]
  | .jmpi a q => [28#6 ++ 0#6 ++ a ++ 0#6 ++ 1#4 ++ q]
  | .ret q => [28#6 ++ 0#6 ++ 0#6 ++ 0#6 ++ 2#4 ++ q]
  | .loopbrk n q => [28#6 ++ (0#4 ++ n) ++ 0#6 ++ 0#6 ++ 3#4 ++ q]
  | .svc imm q => [29#6 ++ 0#6 ++ 0#6 ++ imm ++ q]
  | .trap imm q => [30#6 ++ 0#6 ++ 0#6 ++ imm ++ q]
  | .csrr d n q => [32#6 ++ d ++ 0#6 ++ n ++ 0#4 ++ q]
  | .csrw n a q => [32#6 ++ 0#6 ++ a ++ n ++ 1#4 ++ q]
  | .csrx d n a q => [32#6 ++ d ++ a ++ n ++ 2#4 ++ q]
  | .ld w d a off nz q => [(10#4 ++ w) ++ d ++ a ++ ((BitVec.ofBool nz) ++ (off.extractLsb' 11 5)) ++ 0#4 ++ q, wave v (off.extractLsb' 0 11)]
  | .st w d a off q => [(10#4 ++ w) ++ d ++ a ++ (0#1 ++ (off.extractLsb' 11 5)) ++ 1#4 ++ q, wave v (off.extractLsb' 0 11)]
  | .ldg w d a off nz q => [(10#4 ++ w) ++ d ++ a ++ ((BitVec.ofBool nz) ++ (off.extractLsb' 11 5)) ++ 2#4 ++ q, wave v (off.extractLsb' 0 11)]
  | .stg w d a off q => [(10#4 ++ w) ++ d ++ a ++ (0#1 ++ (off.extractLsb' 11 5)) ++ 3#4 ++ q, wave v (off.extractLsb' 0 11)]
  | .ldf d a off nz q => [42#6 ++ d ++ a ++ ((BitVec.ofBool nz) ++ (off.extractLsb' 11 5)) ++ 4#4 ++ q, wave v (off.extractLsb' 0 11)]
  | .ldx d a off nz q => [42#6 ++ d ++ a ++ ((BitVec.ofBool nz) ++ (off.extractLsb' 11 5)) ++ 5#4 ++ q, wave v (off.extractLsb' 0 11)]
  | .stf d a off q => [42#6 ++ d ++ a ++ (0#1 ++ (off.extractLsb' 11 5)) ++ 6#4 ++ q, wave v (off.extractLsb' 0 11)]
  | .setf d a off q => [42#6 ++ d ++ a ++ (0#1 ++ (off.extractLsb' 11 5)) ++ 7#4 ++ q, wave v (off.extractLsb' 0 11)]
  | .clre a off q => [42#6 ++ 0#6 ++ a ++ (0#1 ++ (off.extractLsb' 11 5)) ++ 8#4 ++ q, wave v (off.extractLsb' 0 11)]
  | .tagrd d a off q => [42#6 ++ d ++ a ++ (0#1 ++ (off.extractLsb' 11 5)) ++ 9#4 ++ q, wave v (off.extractLsb' 0 11)]
  | .ldfG d a off nz q => [42#6 ++ d ++ a ++ ((BitVec.ofBool nz) ++ (off.extractLsb' 11 5)) ++ 10#4 ++ q, wave v (off.extractLsb' 0 11)]
  | .ldxG d a off nz q => [42#6 ++ d ++ a ++ ((BitVec.ofBool nz) ++ (off.extractLsb' 11 5)) ++ 11#4 ++ q, wave v (off.extractLsb' 0 11)]
  | .stfG d a off q => [42#6 ++ d ++ a ++ (0#1 ++ (off.extractLsb' 11 5)) ++ 12#4 ++ q, wave v (off.extractLsb' 0 11)]
  | .setfG d a off q => [42#6 ++ d ++ a ++ (0#1 ++ (off.extractLsb' 11 5)) ++ 13#4 ++ q, wave v (off.extractLsb' 0 11)]
  | .clreG a off q => [42#6 ++ 0#6 ++ a ++ (0#1 ++ (off.extractLsb' 11 5)) ++ 14#4 ++ q, wave v (off.extractLsb' 0 11)]
  | .tagrdG d a off q => [42#6 ++ d ++ a ++ (0#1 ++ (off.extractLsb' 11 5)) ++ 15#4 ++ q, wave v (off.extractLsb' 0 11)]
  | .aadd d a b off nr g w64 q => [44#6 ++ d ++ a ++ b ++ 0#4 ++ q, wave v (off ++ (BitVec.ofBool nr) ++ (BitVec.ofBool g) ++ (BitVec.ofBool w64))]
  | .amin d a b off nr g w64 q => [44#6 ++ d ++ a ++ b ++ 1#4 ++ q, wave v (off ++ (BitVec.ofBool nr) ++ (BitVec.ofBool g) ++ (BitVec.ofBool w64))]
  | .amax d a b off nr g w64 q => [44#6 ++ d ++ a ++ b ++ 2#4 ++ q, wave v (off ++ (BitVec.ofBool nr) ++ (BitVec.ofBool g) ++ (BitVec.ofBool w64))]
  | .aminn d a b off nr g w64 q => [44#6 ++ d ++ a ++ b ++ 3#4 ++ q, wave v (off ++ (BitVec.ofBool nr) ++ (BitVec.ofBool g) ++ (BitVec.ofBool w64))]
  | .amaxn d a b off nr g w64 q => [44#6 ++ d ++ a ++ b ++ 4#4 ++ q, wave v (off ++ (BitVec.ofBool nr) ++ (BitVec.ofBool g) ++ (BitVec.ofBool w64))]
  | .aand d a b off nr g w64 q => [44#6 ++ d ++ a ++ b ++ 5#4 ++ q, wave v (off ++ (BitVec.ofBool nr) ++ (BitVec.ofBool g) ++ (BitVec.ofBool w64))]
  | .aor d a b off nr g w64 q => [44#6 ++ d ++ a ++ b ++ 6#4 ++ q, wave v (off ++ (BitVec.ofBool nr) ++ (BitVec.ofBool g) ++ (BitVec.ofBool w64))]
  | .axor d a b off nr g w64 q => [44#6 ++ d ++ a ++ b ++ 7#4 ++ q, wave v (off ++ (BitVec.ofBool nr) ++ (BitVec.ofBool g) ++ (BitVec.ofBool w64))]
  | .axchg d a b off nr g w64 q => [44#6 ++ d ++ a ++ b ++ 8#4 ++ q, wave v (off ++ (BitVec.ofBool nr) ++ (BitVec.ofBool g) ++ (BitVec.ofBool w64))]
  | .acas d a b off nr g w64 q => [44#6 ++ d ++ a ++ b ++ 9#4 ++ q, wave v (off ++ (BitVec.ofBool nr) ++ (BitVec.ofBool g) ++ (BitVec.ofBool w64))]
  | .afadd d a b off nr g q => [44#6 ++ d ++ a ++ b ++ 10#4 ++ q, wave v (off ++ (BitVec.ofBool nr) ++ (BitVec.ofBool g) ++ 0#1)]
  | .asig a b off g w64 q => [44#6 ++ 0#6 ++ a ++ b ++ 11#4 ++ q, wave v (off ++ 0#1 ++ (BitVec.ofBool g) ++ (BitVec.ofBool w64))]
  | .pinit d a b off g q => [45#6 ++ d ++ a ++ b ++ 0#4 ++ q, wave v (off ++ 0#1 ++ (BitVec.ofBool g) ++ 0#1)]
  | .push d a b off g q => [45#6 ++ d ++ a ++ b ++ 1#4 ++ q, wave v (off ++ 0#1 ++ (BitVec.ofBool g) ++ 0#1)]
  | .pop d a off g q => [45#6 ++ d ++ a ++ 0#6 ++ 2#4 ++ q, wave v (off ++ 0#1 ++ (BitVec.ofBool g) ++ 0#1)]
  | .popw d a b off g q => [45#6 ++ d ++ a ++ b ++ 3#4 ++ q, wave v (off ++ 0#1 ++ (BitVec.ofBool g) ++ 0#1)]
  | .lit ty d off q => [46#6 ++ d ++ (0#4 ++ ty) ++ (off.extractLsb' 0 10) ++ q, wave v (off.extractLsb' 10 11)]
  | .lea d off q => [46#6 ++ d ++ 3#6 ++ (off.extractLsb' 0 10) ++ q, wave v (off.extractLsb' 10 11)]
  | .binit a b trap byteMode q => [47#6 ++ 0#6 ++ a ++ b ++ 0#4 ++ q, wave v (0#7 ++ (BitVec.ofBool trap) ++ (BitVec.ofBool byteMode) ++ 0#2)]
  | .barr a b rem q => [47#6 ++ 0#6 ++ a ++ b ++ 1#4 ++ q, wave v (0#9 ++ (BitVec.ofBool rem) ++ 0#1)]
  | .bwait d a b rem q => [47#6 ++ d ++ a ++ b ++ 2#4 ++ q, wave v (0#9 ++ (BitVec.ofBool rem) ++ 0#1)]
  | .btest d a rem q => [47#6 ++ d ++ a ++ 0#6 ++ 3#4 ++ q, wave v (0#9 ++ (BitVec.ofBool rem) ++ 0#1)]
  | .brst a q => [47#6 ++ 0#6 ++ a ++ 0#6 ++ 4#4 ++ q, wave v 0#11]
  | .fenceLd scope q => [47#6 ++ 0#6 ++ 0#6 ++ 0#6 ++ 5#4 ++ q, wave v (0#5 ++ 1#2 ++ 0#1 ++ scope)]
  | .fenceSt scope q => [47#6 ++ 0#6 ++ 0#6 ++ 0#6 ++ 5#4 ++ q, wave v (0#5 ++ 2#2 ++ 0#1 ++ scope)]
  | .fenceAll scope q => [47#6 ++ 0#6 ++ 0#6 ++ 0#6 ++ 5#4 ++ q, wave v (0#5 ++ 3#2 ++ 0#1 ++ scope)]
  | .sinDense port a b pl g esz q => [48#6 ++ (0#2 ++ port) ++ a ++ b ++ 0#4 ++ q, wave v (pl ++ 0#4 ++ 0#2 ++ (BitVec.ofBool g) ++ esz)]
  | .sinExpand port a b pl g esz q => [48#6 ++ (0#2 ++ port) ++ a ++ b ++ 0#4 ++ q, wave v (pl ++ 0#4 ++ 1#2 ++ (BitVec.ofBool g) ++ esz)]
  | .soutDense port a b pl g esz q => [48#6 ++ (0#2 ++ port) ++ a ++ b ++ 1#4 ++ q, wave v (pl ++ 0#4 ++ 0#2 ++ (BitVec.ofBool g) ++ esz)]
  | .soutSparse port a b pl g esz q => [48#6 ++ (0#2 ++ port) ++ a ++ b ++ 1#4 ++ q, wave v (pl ++ 0#4 ++ 1#2 ++ (BitVec.ofBool g) ++ esz)]
  | .spush port a pl eor last q => [48#6 ++ (0#2 ++ port) ++ a ++ 0#6 ++ 2#4 ++ q, wave v (pl ++ 0#7 ++ (BitVec.ofBool eor) ++ (BitVec.ofBool last))]
  | .spull d port pl q => [48#6 ++ d ++ (0#2 ++ port) ++ 0#6 ++ 3#4 ++ q, wave v (pl ++ 0#9)]
  | .speek d port pl q => [48#6 ++ d ++ (0#2 ++ port) ++ 0#6 ++ 4#4 ++ q, wave v (pl ++ 0#9)]
  | .portrst port pl sink q => [49#6 ++ (0#2 ++ port) ++ 0#6 ++ 0#6 ++ 0#4 ++ q, wave v (pl ++ 0#8 ++ (BitVec.ofBool sink))]
  | .portstat d port pl sink q => [49#6 ++ d ++ (0#2 ++ port) ++ 0#6 ++ 1#4 ++ q, wave v (pl ++ 0#8 ++ (BitVec.ofBool sink))]
  | .cfg a p q => [50#6 ++ 0#6 ++ a ++ 0#6 ++ 0#4 ++ q, wave v (0#9 ++ p)]
  | .cfgw a b q => [50#6 ++ 0#6 ++ a ++ b ++ 1#4 ++ q, wave v 0#11]
  | .cfgsync q => [50#6 ++ 0#6 ++ 0#6 ++ 0#6 ++ 2#4 ++ q, wave v 0#11]
  | .planeon pl q => [50#6 ++ 0#6 ++ 0#6 ++ 0#6 ++ 3#4 ++ q, wave v (0#9 ++ pl)]
  | .planeoff pl q => [50#6 ++ 0#6 ++ 0#6 ++ 0#6 ++ 4#4 ++ q, wave v (0#9 ++ pl)]
  | .arbw wt pl q => [50#6 ++ 0#6 ++ 0#6 ++ 0#6 ++ 5#4 ++ q, wave v (wt ++ 0#1 ++ pl)]
  | .mclaim m q => [51#6 ++ 0#6 ++ 0#6 ++ 0#6 ++ 0#4 ++ q, wave v (0#3 ++ m ++ 0#3)]
  | .mrel m q => [51#6 ++ 0#6 ++ 0#6 ++ 0#6 ++ 1#4 ++ q, wave v (0#3 ++ m ++ 0#3)]
  | .mload a m q => [51#6 ++ 0#6 ++ a ++ 0#6 ++ 2#4 ++ q, wave v (0#3 ++ m ++ 0#3)]
  | .mstore a m q => [51#6 ++ 0#6 ++ a ++ 0#6 ++ 3#4 ++ q, wave v (0#3 ++ m ++ 0#3)]
  | .mma x ma mb fmt q => [51#6 ++ 0#6 ++ 0#6 ++ (0#1 ++ mb) ++ 4#4 ++ q, wave v (x ++ ma ++ fmt)]
  | .mtile d a b x ma fmt q => [51#6 ++ d ++ a ++ b ++ 5#4 ++ q, wave v (x ++ ma ++ fmt)]
  | .accz x q => [51#6 ++ 0#6 ++ 0#6 ++ 0#6 ++ 6#4 ++ q, wave v (x ++ 0#8)]
  | .accst a x fmt q => [51#6 ++ 0#6 ++ a ++ 0#6 ++ 7#4 ++ q, wave v (x ++ 0#5 ++ fmt)]
  | .accrd d b x q => [51#6 ++ d ++ 0#6 ++ b ++ 8#4 ++ q, wave v (x ++ 0#5 ++ 2#3)]
  | .accpeek d b x q => [51#6 ++ d ++ 0#6 ++ b ++ 9#4 ++ q, wave v (x ++ 0#5 ++ 2#3)]
  | .mtrans a md ms w32 q => [51#6 ++ 0#6 ++ a ++ (0#1 ++ md) ++ 10#4 ++ q, wave v (0#3 ++ ms ++ 0#1 ++ (BitVec.ofBool w32) ++ 0#1)]
  | .cpy a q => [52#6 ++ 0#6 ++ a ++ 0#6 ++ 0#4 ++ q, wave v 0#11]
  | .cpyx a q => [52#6 ++ 0#6 ++ a ++ 0#6 ++ 1#4 ++ q, wave v 0#11]
  | .gstrm a q => [52#6 ++ 0#6 ++ a ++ 0#6 ++ 2#4 ++ q, wave v 0#11]
  | .coll a q => [52#6 ++ 0#6 ++ a ++ 0#6 ++ 3#4 ++ q, wave v 0#11]
  | .evpop d q => [52#6 ++ d ++ 0#6 ++ 0#6 ++ 4#4 ++ q, wave v 0#11]
  | .evwait d b tagged q => [52#6 ++ d ++ 0#6 ++ b ++ 5#4 ++ q, wave v (0#10 ++ (BitVec.ofBool tagged))]
  | .launch a b q => [52#6 ++ 0#6 ++ a ++ b ++ 6#4 ++ q, wave v 0#11]
  | .cardstat d b q => [52#6 ++ d ++ 0#6 ++ b ++ 7#4 ++ q, wave v 0#11]
  | .brow d q => [53#6 ++ d ++ 0#6 ++ 0#6 ++ 0#4 ++ q, wave v 0#11]
  | .bemit port pl q => [53#6 ++ (0#2 ++ port) ++ 0#6 ++ 0#6 ++ 1#4 ++ q, wave v (pl ++ 0#9)]
  | .bstep q => [53#6 ++ 0#6 ++ 0#6 ++ 0#6 ++ 2#4 ++ q, wave v 0#11]
  | .bread d dr dc q => [53#6 ++ d ++ dr ++ dc ++ 3#4 ++ q, wave v 0#11]
  | .btap port dr dc pl q => [53#6 ++ (0#2 ++ port) ++ dr ++ dc ++ 4#4 ++ q, wave v (pl ++ 0#9)]
  | .bstat d sel q => [53#6 ++ d ++ 0#6 ++ 0#6 ++ 5#4 ++ q, wave v (0#8 ++ sel)]
  | .bend q => [53#6 ++ 0#6 ++ 0#6 ++ 0#6 ++ 6#4 ++ q, wave v (0#10 ++ 0#1)]
  | .bendAbort q => [53#6 ++ 0#6 ++ 0#6 ++ 0#6 ++ 6#4 ++ q, wave v (0#10 ++ 1#1)]
  | .bseedC a q => [53#6 ++ 0#6 ++ a ++ 0#6 ++ 7#4 ++ q, wave v (0#10 ++ 0#1)]
  | .bseedR a q => [53#6 ++ 0#6 ++ a ++ 0#6 ++ 7#4 ++ q, wave v (0#10 ++ 1#1)]
  | .maprRange d a b q => [54#6 ++ d ++ a ++ b ++ 0#4 ++ q, wave v (0#10 ++ 0#1)]
  | .maprPage d a b q => [54#6 ++ d ++ a ++ b ++ 0#4 ++ q, wave v (0#10 ++ 1#1)]
  | .unmap d a b q => [54#6 ++ d ++ a ++ b ++ 1#4 ++ q, wave v 0#11]
  | .icinv a b scope q => [54#6 ++ 0#6 ++ a ++ b ++ 2#4 ++ q, wave v (0#8 ++ scope)]
  | .hitch q => [54#6 ++ 0#6 ++ 0#6 ++ 0#6 ++ 3#4 ++ q, wave v 0#11]
  | .dstep d a q => [54#6 ++ d ++ a ++ 0#6 ++ 4#4 ++ q, wave v 0#11]
  | .dresume d a b q => [54#6 ++ d ++ a ++ b ++ 5#4 ++ q, wave v 0#11]
  | .preempt d a dbg q => [54#6 ++ d ++ a ++ 0#6 ++ 6#4 ++ q, wave v (0#10 ++ (BitVec.ofBool dbg))]
  | .keyld d a b q => [54#6 ++ d ++ a ++ b ++ 7#4 ++ q, wave v 0#11]
  | .lnkctlRead d a q => [54#6 ++ d ++ a ++ 0#6 ++ 8#4 ++ q, wave v (0#7 ++ 0#4)]
  | .lnkctlEnable d a q => [54#6 ++ d ++ a ++ 0#6 ++ 8#4 ++ q, wave v (0#7 ++ 1#4)]
  | .lnkctlDisable d a q => [54#6 ++ d ++ a ++ 0#6 ++ 8#4 ++ q, wave v (0#7 ++ 2#4)]
  | .lnkctlReset d a q => [54#6 ++ d ++ a ++ 0#6 ++ 8#4 ++ q, wave v (0#7 ++ 3#4)]
  | .lnkctlClear d a q => [54#6 ++ d ++ a ++ 0#6 ++ 8#4 ++ q, wave v (0#7 ++ 4#4)]
  | .lnkctlLongReach d a b q => [54#6 ++ d ++ a ++ b ++ 8#4 ++ q, wave v (0#7 ++ 5#4)]
  | .lnkctlEncryption d a b q => [54#6 ++ d ++ a ++ b ++ 8#4 ++ q, wave v (0#7 ++ 6#4)]
  | .lnkctlReplayTimeout d a b q => [54#6 ++ d ++ a ++ b ++ 8#4 ++ q, wave v (0#7 ++ 7#4)]
  | .handFetch => []
  | .handCommit => []
  | .belayDistance => []
  | .deferredFault _ _ => []
  | .splitPhaseReply _ => []
  | .bankPacket _ => []
  | .refusedResend _ => []
  | .remoteWaitRequest _ => []
  | .holdTake _ => []
  | .holdRelease _ => []
  | .preemptionRequest _ _ => []
  | .seatSave _ _ => []
  | .cardCheckpoint _ => []
  | .contextBind _ _ => []
  | .contextUnbind _ => []
  | .contextResume _ _ => []
  | .contextKill _ => []
  | .knock _ _ => []
  | .queueEnable _ => []
  | .queueDisable _ => []
  | .queueReset _ _ => []
  | .mapperBind => []
  | .quantumEnd _ => []
  | .priorityAging _ => []
  | .nopPacket _ => []
  | .launchPacket _ => []
  | .transformPacket _ => []
  | .copyPacket _ => []
  | .waitPacket _ => []
  | .signalPacket _ => []
  | .waitReread _ => []
  | .nodeDispatch _ => []
  | .nodeComplete _ _ => []
  | .regionPlace _ => []
  | .deal _ => []
  | .planeFire _ => []
  | .arbiterEpoch _ => []
  | .groupRetire _ => []
  | .stage0RowRead _ => []
  | .rowSliceArrival _ _ => []
  | .emissionComplete _ => []
  | .rowRetire _ => []
  | .stageFaultRecord _ _ _ _ _ _ => []
  | .cascadeRelease _ => []
  | .barrierArrival _ _ _ => []
  | .errorArrival _ _ => []
  | .enginePacketLanding _ _ => []
  | .pileOpAtHome _ => []
  | .meldPointArrival _ _ => []
  | .meldWindowExpiry _ => []
  | .streamRelatch _ _ _ => []
  | .relatchToken _ => []
  | .unmapComplete _ => []
  | .configPacketApply _ => []
  | .portCommandComplete _ _ _ => []
  | .sparseRowCheck _ => []
  | .arrayCommandPerform _ => []
  | .mtileStep _ => []
  | .followOnMma _ _ => []
  | .cardCheck _ => []
  | .completionRecordPost _ => []
  | .eventRecordArrival _ => []
  | .eventRecordRetry _ => []
  | .injectionStarvation _ => []
  | .spliceFlitReceive _ _ _ _ => []
  | .riggingFlitReceive _ _ _ _ _ => []
  | .nakReceive _ _ => []
  | .ackReceive _ _ => []
  | .replayTimeout _ => []
  | .ackInterval _ => []
  | .framePad _ => []
  | .keySoon _ => []
  | .keySwitch _ => []
  | .linkTrained _ _ => []
  | .trainingAttemptFail _ => []
  | .laneFailure _ _ => []
  | .ucieRetrainDone _ _ => []
  | .fecMarginLow _ => []
  | .lossOfSignal _ => []
  | .linkTimeout _ => []
  | .hostLinkDown => []
  | .riggingRoute _ => []
  | .debuggerHitchRequest _ => []
  | .hitchMarker _ _ _ => []
  | .receiverRelease => []
  | .senderRelease => []
  | .guRequest _ => []
  | .fillMergeWindow _ _ => []
  | .fillComplete _ _ _ _ => []
  | .rowSwap _ _ _ _ => []
  | .swapWindowEnd _ => []
  | .heartbeatReceived _ => []
  | .heartbeatMissed _ => []
  | .collRingStep _ => []
  | .trcmdReadTest _ => []
  | .trcmdWriteTest _ => []
  | .trcmdPatternTest _ => []
  | .trbcast _ _ => []
  | .trrepair _ _ => []
  | .trctlOpen _ => []
  | .trctlClose _ => []
  | .channelClosed _ => []
  | .handback _ => []
  | .pwrctlWrite _ => []
  | .clockThrottle _ _ => []
  | .moduleidWrite _ => []
  | .ctxctlWrite _ _ => []
  | .routeTableWrite _ _ => []
  | .registerWrite _ _ _ => []
  | .powerGood => []
  | .mscFailover => []
  | .waitevDeadline _ _ => []
  | .waitRequestReply _ => []
  | .popwAnswer _ => []
  | .dataTokenArrival _ _ _ _ _ _ _ => []
  | .refresh _ => []
  | .rowCopyComplete _ _ _ _ => []
  | .edgeCoreStart _ _ => []

/-- Four little-endian bytes as a word (00 R3). -/
def word32 (b0 b1 b2 b3 : Byte) : W32 := b3 ++ b2 ++ b1 ++ b0

/-- The decoder on bytes as they lie in memory: an instruction and the bytes after it. -/
def decodeBytes : List Byte → Except DecodeError (Instr × List Byte)
  | b0 :: b1 :: b2 :: b3 :: rest =>
    let lo := word32 b0 b1 b2 b3
    if isLong lo then
      match rest with
      | c0 :: c1 :: c2 :: c3 :: rest' =>
        match decodeLong lo (word32 c0 c1 c2 c3) with
        | .ok i => .ok (i, rest')
        | .error e => .error e
      | _ => .error .truncated
    else
      match decodeShort lo with
      | .ok i => .ok (i, rest)
      | .error e => .error e
  | _ => .error .truncated

/-- The first `n` bytes of a number, lowest first. -/
def natBytes : Nat → Nat → List Byte
  | 0, _ => []
  | n + 1, w => BitVec.ofNat 8 w :: natBytes n (w / 256)

/-- The instruction that the decoder reads from the bits `w` of an opcode table row, laid out in memory; every bit from
`nbits` up is 0. -/
def decodeTableWord (nbits w : Nat) : Option Instr :=
  match decodeBytes (natBytes 8 (w % 2 ^ nbits)) with
  | .ok (i, _) => some i
  | .error _ => none

end Sys2Proof
end

