-- ==== Sys2Proof/Machine/Map.lean ====
section
/-!
DEFINITION. Sparse data by a natural-number key, as a sorted list of pairs. A key that is not listed has a default value
that the reader names; `KV.put` lists no entry equal to it, so that equal contents are equal data.
-/

namespace Sys2Proof.Machine

/-- Pairs of a key and a value, keys rising. -/
abbrev KV (α : Type) := List (Nat × α)

/-- The value at key `k`, or `d` when it is not listed. -/
def KV.get {α : Type} (d : α) (k : Nat) : KV α → α
  | [] => d
  | (j, v) :: rest => if j = k then v else KV.get d k rest

/-- The value at key `k`, if it is listed. -/
def KV.find {α : Type} (k : Nat) : KV α → Option α
  | [] => none
  | (j, v) :: rest => if j = k then some v else KV.find k rest

/-- Without the entries of key `k`. -/
def KV.drop {α : Type} (k : Nat) (m : KV α) : KV α := m.filter (fun e => e.1 != k)

/-- Insert before the first greater key. -/
def KV.insert {α : Type} (k : Nat) (v : α) : KV α → KV α
  | [] => [(k, v)]
  | (j, u) :: rest => if k < j then (k, v) :: (j, u) :: rest else (j, u) :: KV.insert k v rest

/-- Set key `k` to `v`, listed whatever `v` is. -/
def KV.set {α : Type} (k : Nat) (v : α) (m : KV α) : KV α := KV.insert k v (KV.drop k m)

/-- Set key `k` to `v`; an entry equal to the default `d` is not listed. -/
def KV.put {α : Type} [DecidableEq α] (d : α) (k : Nat) (v : α) (m : KV α) : KV α :=
  if v = d then KV.drop k m else KV.set k v m

/-- Apply `f` to the value at key `k`. -/
def KV.upd {α : Type} (d : α) (k : Nat) (f : α → α) (m : KV α) : KV α := KV.set k (f (KV.get d k m)) m

/-- The canonical form: keys strictly rising, no entry equal to the default. -/
def KV.wf {α : Type} [DecidableEq α] (d : α) : KV α → Bool
  | [] => true
  | [(_, v)] => v != d
  | (j, v) :: (k, u) :: rest => v != d && decide (j < k) && KV.wf d ((k, u) :: rest)

end Sys2Proof.Machine
end

