-- ==== Sys2Proof/Machine/State.lean ====
section
/-!
DEFINITION. The state of one SK9-768 module as plain data: everything the manual gives it (INVENTORY.md, State), with
the values it has before power-good. Memory is one list of cells keyed by fabric physical address (09 R146).
-/

namespace Sys2Proof.Machine

/-! ### Seats -/

/-- The states of a seat (04 R56). -/
inductive SeatState where
  | free | loaded | running | waiting | retired | faulted | belayed | saved | frozen
  deriving DecidableEq, Repr

/-- A loop counter with the span it is active over (16 R260 to R264); `order` is the order of activation. -/
structure Loop where
  count  : BitVec 32 := 0
  active : Bool := false
  first  : W64 := 0
  last   : W64 := 0
  order  : Nat := 0
  deriving DecidableEq, Repr

/-- The registers that a hand reads and writes and that its commit makes visible (04 R57). -/
structure Arch where
  /-- s0 to s63; s62 is sp and s63 is lk (00 R6). -/
  s : Vector W64 64 := Vector.replicate 64 0
  /-- bit n is pn; p0 reads 1 whatever bit 0 holds (00 R6). -/
  p : BitVec 8 := 0
  lc : Vector Loop 3 := Vector.replicate 3 {}
  fpctl : W64 := 0
  fpflags : W64 := 0
  /-- SRSEED.STATE (03 R37). -/
  srseed : W32 := 1
  /-- BELAYMAX.EN and MAX (04 R61). -/
  belayEn : Bool := true
  belayMax : BitVec 9 := 384
  fltvec : W64 := 0
  rethand : W64 := 0
  dbgctl : W64 := 0
  /-- JOBCTX.HNDL, STUB and HIN (04 R55). -/
  hndl : Bool := false
  stub : Bool := false
  hin : Bool := false
  faultcode : W64 := 0
  faultinfo : W64 := 0
  faultaddr : W64 := 0
  faulthand : W64 := 0
  deriving DecidableEq, Repr

/-- A fault to be delivered: the code of 00 R7, the slot, FAULTINFO and FAULTADDR. -/
structure FaultRec where
  code : BitVec 8
  slot : BitVec 7 := 0
  info : W64 := 0
  addr : W64 := 0
  deriving DecidableEq, Repr

/-- One slot of a fetched hand: the words of its instruction, `hi` being 0 for a 32-bit one. -/
structure SlotWords where
  lo : W32
  hi : W32 := 0
  deriving DecidableEq, Repr

/-- The choice of the next hand made by the control instruction that took effect (16 R256 to R268). -/
inductive Control where
  | jump (target : W64)                                   -- BR, JMPI
  | jumpRet (target : W64)                                -- RET
  | call (target : W64)                                   -- CALL, CALLI
  | loop (n : Nat) (count : Nat) (last : W64)
  | loopbrk (n : Nat)
  | halt
  | eret
  | trap (code : BitVec 8) (info : W64) (slot : BitVec 7) -- SVC, TRAP
  | brk (slot : BitVec 7)
  deriving DecidableEq, Repr

/-- A request on its way to, or at, its home. -/
structure Req where
  id   : Nat
  ctx  : Nat
  /-- requesting FE and seat -/
  fe   : Nat
  seat : Nat
  /-- address of the issuing hand -/
  hand : W64
  va   : W64
  pa   : Nat
  op   : ReqOp
  /-- local offset of the landing area, when one lands -/
  land : Option Nat := none
  /-- meld points passed (08 R141) -/
  hops : Nat := 0
  /-- the next identity when its address was translated (09 R153) -/
  born : Nat := 0
  /-- requests of its seat with an identity below this one are performed and answered before it (12 R187, R189, R193) -/
  after : Nat := 0
  /-- an acquire: every later request of its seat is performed after it (12 R184, R187) -/
  acq : Bool := false
  /-- links of its way, or of its reply's, that it has crossed; the link it is on and its flit's number there, when it has been
  sent and not been accepted yet (10 R161, 25 R389) -/
  hop : Nat := 0
  flit : Option (Nat × Nat) := none
  /-- a stepped hand sent it: its reply lands during the freeze (11 R177) -/
  step : Bool := false
  /-- its hand was finished in a frozen job: it was sent before its seat froze (11 R173, R175) -/
  late : Bool := false
  /-- the module that it came from over rigging (04 R69, 10 R406) -/
  far : Option Nat := none
  deriving DecidableEq, Repr

/-- What a reply carries: words for a landing area, a value for a waiting seat, an acknowledgement, or a refusal. -/
inductive ReplyBody where
  | land (words : List W32)
  | grant (v : W64) (st : Nat)              -- a value, with the status of a POPW or the TRAP of a BWAIT
  | ack                                     -- a write that left the module has been performed (12 R189)
  | refused (code : BitVec 8)
  deriving DecidableEq, Repr

/-- A reply on its way to its requester. -/
structure Reply where
  req  : Req
  body : ReplyBody
  deriving DecidableEq, Repr

/-- A command of a port's queue (18 R310 to R314). -/
structure StreamCmd where
  seat   : Nat
  hand   : W64
  addr   : W64
  /-- [31:0] count, [63:32] row length or capacity -/
  count  : W64
  glob   : Bool
  esz    : BitVec 2
  /-- expand (SIN) or sparse (SOUT) -/
  sparse : Bool
  ctx    : Nat
  /-- positions already performed -/
  pos    : Nat := 0
  /-- the next identity when it committed: requests of its seat below it go before it (18 R315) -/
  mark   : Nat := 0
  /-- the latched translation: base, limit and physical address of base (09 R152) -/
  latch  : Option (Nat × Nat × Nat) := none
  /-- a re-latch token has dropped the latch; the address that the node parks at, until a MAPR covers it (09 R154) -/
  dropped : Bool := false
  parked : Option Nat := none
  /-- a word written in part, whose tag is still to be set (18 R312) -/
  dirty  : Option Nat := none
  /-- the row of an expanding SIN, once read (18 R314) -/
  row    : Option (List W32) := none
  deriving DecidableEq, Repr

/-- A command of an FE's array queue (19 R333). -/
inductive ArrOp where
  | mload (off : Nat) (m : Slot)
  | mstore (off : Nat) (m : Slot)
  | mma (x : AccNo) (ma mb : Slot) (fmt : BitVec 3)
  | mtile (desc : W64) (a b : Nat) (x : AccNo) (ma : Slot) (fmt : BitVec 3)
  | accz (x : AccNo)
  | accst (off : Nat) (x : AccNo) (fmt : BitVec 3) (fpctl : W64) (gen : W32)
  | mtrans (md ms : Slot) (w32 : Bool) (rows cols : Nat)
  deriving DecidableEq, Repr

/-- An array command with the seat that issued it; `card` names the card and receiver of a follow-on (19 R344). -/
structure ArrCmd where
  seat : Nat
  hand : W64
  op   : ArrOp
  /-- steps performed, for an MTILE (19 R336) -/
  step : Nat := 0
  /-- the next identity when it entered: writes of its seat below it to the FE go before it (12 R190) -/
  mark : Nat := 0
  card : Option (Nat × Nat) := none
  deriving DecidableEq, Repr

/-- The privileged operations, and those that reach beyond the FE, as they wait for their commit (19 R353 to R357). -/
inductive SysOp where
  | mapr (page : Bool) (a : W64) (img : RangeImage)
  | unmap (a : W64) (img : RangeImage)
  | dstep (name : W64)
  | dresume (job : W64) (t : W64)
  | preempt (ctx : W64) (dbg : Bool)
  | keyld (link : W64) (off : Nat)
  | lnkctl (op : Nat) (link : W64) (param : W64)
  deriving DecidableEq, Repr

/-- The effects of a hand outside its seat's registers, performed at its commit in wave order (04 R57, 14 R223). -/
inductive Eff where
  | store (off : Nat) (bytes : Nat) (v : W64)             -- ST
  | gstore (pa : Nat) (va : W64) (bytes : Nat) (v : W64) (born : Nat)  -- a redirected ST, and when it was translated
  | storeFull (off : Nat) (v : W32)                       -- STF, SETF
  | setEmpty (off : Nat) (take : Bool)                    -- CLRE, the take of an LDX
  | send (r : Req)                                        -- a request to its home
  | binit (n : Nat) (byteMode trap : Bool) (expect : BitVec 48)
  | barr (n : Nat) (amount : Nat)
  | brst (n : Nat)
  | fence (ld st all : Bool) (scope : BitVec 3)
  | stream (pl : Plane) (sink : Bool) (port : Port) (cmd : StreamCmd)
  | spush (pl : Plane) (port : Port) (v : W32) (eor last : Bool)
  | spull (pl : Plane) (port : Port)
  | portrst (pl : Plane) (sink : Bool) (port : Port)
  | cfg (va : W64) (rot : Plane)
  | cfgw (word value : W32)
  | planeon (pl : Plane)
  | planeoff (pl : Plane)
  | arbw (pl : Plane) (w : BitVec 8)
  | mclaim (m : Slot) (slot : BitVec 7)
  | mrel (m : Slot)
  | array (op : ArrOp)
  | card (off : Nat) (kind : Nat)
  | evtake (tag : Option (BitVec 16))
  | launch (va : W64) (tag : BitVec 16)
  | brow (kind : Nat)                                     -- 0 replays, 1 admits, 2 has yielded all ones
  | bemit (pl : Plane) (port : Port)
  | bstep
  | btap (pl : Plane) (port : Port) (dr dc : Int)
  | bend
  | bendAbort
  | bseedC (v : W32)
  | bseedR (off : Nat)
  | icinv (base len : W64) (scope : BitVec 3)
  | hitch
  | yield
  | sys (op : SysOp) (land : Nat)
  deriving DecidableEq, Repr

/-- A cached translation of an FE (09 R151): a page, its permissions, or a cached miss. -/
structure Tlb where
  ctx : Nat
  base : W64
  size : Nat
  /-- frame, X, W, R; `none` for a miss -/
  hit : Option (Nat × Bool × Bool × Bool)
  deriving DecidableEq, Repr

/-- What a hand holds of a tagged word (04 R58, 17 R290): a hold of LDX, or a reservation of STF with its data. -/
structure Hold where
  /-- fabric physical address of the word -/
  pa : Nat
  /-- the value that the hand read, or the data of its STF -/
  val : W32
  /-- it was granted by a wait request (17 R291), and its end is sent to the home -/
  remote : Bool
  deriving DecidableEq, Repr

/-- A hand in flight: fetched and decoded, its slots being issued. -/
structure Hand where
  addr : W64
  /-- address of the hand that follows in memory (14 R224) -/
  next : W64
  belay : Bool := false
  slots : List SlotWords
  /-- the slot issued next -/
  slot : Nat := 0
  /-- the slot's weight has been added (a waiting slot is issued once) -/
  counted : Bool := false
  work : Arch
  effects : List Eff := []
  holds : List Hold := []
  ctl : Option Control := none
  /-- the first execution fault, of the lowest slot (00 R8) -/
  flt : Option FaultRec := none
  /-- stores of the hand to local bytes, latest first, which its own loads read (04 R57): offset and byte -/
  bytes : KV Byte := []
  /-- event records taken so far -/
  taken : List Nat := []
  /-- the wait request or POPW that is under way -/
  asked : Option Req := none
  /-- the waiting slot has entered its wait list or sent its request -/
  entered : Bool := false
  /-- issue stalls, without the seat entering WAITING (04 R71, 19 R333) -/
  stalled : Bool := false
  /-- its commit has begun: `effects` are those still to be performed (12 R181) -/
  committing : Bool := false
  /-- BELAYCNT as it stood when the hand began issue, which sets it to 0 for a belay hand (04 R57, R60) -/
  cnt0 : BitVec 16 := 0
  /-- the value that a service, a reply or an answer brought -/
  grant : Option (W64 × Nat) := none
  /-- the array commands entered before the hand began issue (19 R339) -/
  arrMark : Nat := 0
  /-- claims of the OPM slots as the hand sees them (19 R331) -/
  claims : List (Option Nat) := []
  /-- configuration packets its seat had sent before it, and the failed packet whose fault it has recorded (18 R308) -/
  cfgMark : Nat := 0
  cfgHit : Option Nat := none
  /-- answered POPWs of the hand, with the values received, for their restore (08 R140) -/
  popws : List (Req × W64) := []
  /-- stores of the hand to redirected spill bytes, latest first (04 R71): virtual address and byte -/
  gbytes : KV Byte := []
  /-- page-table translations made by the slot, to be cached (09 R151) -/
  walked : List Tlb := []
  deriving DecidableEq, Repr

/-- A completion record (14 R239). -/
structure EvRec where
  w0 : W64
  w1 : W64
  deriving DecidableEq, Repr

/-- A deferred fault (17 R287): the fault and whether it came from a cascade stage (07 R123). -/
structure Deferred where
  flt : FaultRec
  casc : Bool := false
  deriving DecidableEq, Repr

/-- A seat (04). -/
structure Seat where
  st : SeatState := .free
  /-- the state kept while FROZEN -/
  prev : SeatState := .free
  arch : Arch := {}
  pc : W64 := 0
  /-- BELAYCNT.COUNT (04 R61) -/
  belayCnt : BitVec 16 := 0
  hand : Option Hand := none
  /-- header and belay doubleword of the hand at pc, from its fetch (04 R66) -/
  hdr : W64 := 0
  belayDw : W64 := 0
  /-- the stub return and the stub pointer (04 R68, 16 R268) -/
  stubRet : W64 := 0
  prio : BitVec 2 := 0
  ctx : Nat := 0
  spillbase : BitVec 19 := 0
  spilllim : BitVec 19 := 0
  ovfptr : W64 := 0
  ovflim : W64 := 0
  /-- event queue and spill ring, oldest first (19 R347) -/
  evq : List EvRec := []
  ring : List EvRec := []
  /-- an EVENT_OVERFLOW episode is open (19 R347) -/
  evOver : Bool := false
  deferred : List Deferred := []
  /-- split-phase requests outstanding, by identity (04 R65) -/
  splits : List Nat := []
  /-- the next identity at its latest FENCE.st or FENCE.all, and at its latest FENCE.all (12 R187) -/
  fenceSt : Nat := 0
  fenceAll : Nat := 0
  /-- cards outstanding, in the order of their posts (19 R341) -/
  cards : List Nat := []
  /-- configuration packets sent, and failures recorded and not yet raised: (packet identity, fault) (18 R308) -/
  cfgSent : Nat := 0
  cfgDone : Nat := 0
  cfgFail : List (Nat × FaultRec) := []
  /-- the record from which a rebuild stub was started, kept until the stub ends (04 R70) -/
  orig : Option Arch := none
  /-- YIELD: passed over for its next turn (16 R265) -/
  passed : Bool := false
  /-- the fetch of FIRST must check the span of loop n (16 R261) -/
  loopCheck : List Nat := []
  /-- only the header of the hand at pc is to be read, to find the hand after it (16 R260) -/
  hdrOnly : Bool := false
  /-- a DSTEP runs one hand (11 R177) -/
  stepping : Bool := false
  /-- the edge core and landing offset of its DSTEP (19 R353) -/
  stepTo : Option (Nat × Nat) := none
  launch : Nat := 0
  index : Nat := 0
  /-- it is a stage seat whose BROW has yielded all ones (07 R121) -/
  browEnd : Bool := false
  /-- it was FAULTED when a pre-emption request halted it (04 R66, R75) -/
  faulted : Bool := false
  deriving DecidableEq, Repr

/-! ### Planes -/

/-- A token of a channel (18 R300). -/
structure Token where
  elems : List W32
  empty : BitVec 8 := 0
  eor : Bool := false
  last : Bool := false
  err : Bool := false
  abort : Bool := false
  code : BitVec 8 := 0
  eidx : BitVec 12 := 0
  deriving DecidableEq, Repr

/-- The row state of an operator node (18 R303, R323 to R328). -/
structure NodeState where
  /-- accumulator of a reduction, `none` before the first step -/
  acc : Option W32 := none
  /-- elements taken of the row in progress, on inputs A and B, with their emptiness -/
  bufA : List (W32 × Bool) := []
  bufB : List (W32 × Bool) := []
  /-- tokens waiting to be emitted on outputs 0 and 1 -/
  out0 : List Token := []
  out1 : List Token := []
  /-- positions of the row taken -/
  pos : Nat := 0
  /-- vconst: rows emitted; vxpnd: mask words taken; vdelay: unused -/
  rows : Nat := 0
  /-- row A of vxpnd, vshuf or vrpt has been taken whole, with LAST when it carried it; row B of vxpnd -/
  rowDone : Bool := false
  rowLast : Bool := false
  endB : Bool := false
  lastB : Bool := false
  /-- streams being discarded on inputs A, B, C up to LAST (18 R303) -/
  disc : BitVec 3 := 0
  /-- rows being discarded on inputs A, B, C up to EOR -/
  discRow : BitVec 3 := 0
  /-- flags raised for a result that has not left the node yet (03 R44) -/
  fl : Nat := 0
  deriving DecidableEq, Repr

/-- What feeds a source port (18 R310). -/
inductive Producer where
  | none
  | tap
  | gather (card : Nat)
  deriving DecidableEq, Repr

/-- A source or sink port (18 R310 to R318). -/
structure PortState where
  queue : List StreamCmd := []
  /-- ECODE; 0 when the port is not in ERROR -/
  ecode : BitVec 8 := 0
  done : BitVec 16 := 0
  producer : Producer := .none
  /-- FAULTINFO of the ERROR (18 R316) -/
  einfo : W64 := 0
  /-- elements reserved by SPULLs of a hand, and the seat (18 R317) -/
  reserved : Nat := 0
  holder : Option Nat := none
  /-- reorder window: next sequence number and tokens held (13 R203) -/
  seq : BitVec 16 := 0
  window : List (Nat × Token) := []
  deriving DecidableEq, Repr

/-- A plane (18). -/
structure PlaneState where
  on : Bool := false
  /-- the seat that turned it on last (18 R309) -/
  owner : Option Nat := none
  fpctl : W64 := 0
  /-- configuration fields that differ from their reset value, by FIELD (18 R304) -/
  fields : KV W32 := []
  /-- node generators (03 R43) -/
  gens : Vector W32 16 := Vector.replicate 16 1
  nodes : KV NodeState := []
  /-- channels by the selector that names their source (18 R305) -/
  chans : KV (List Token) := []
  /-- ports: vi0-vi15 at 0-15, vo0-vo15 at 16-31 -/
  ports : KV PortState := []
  deriving DecidableEq, Repr

/-- The plane arbiter (06 R102, R103). -/
structure Arbiter where
  weights : Vector (BitVec 8) 4 := Vector.replicate 4 1
  pins : BitVec 4 := 0
  credits : Vector Int 4 := Vector.replicate 4 0
  /-- the cycle within the epoch and the sums of waiting packets, for the mean -/
  cycle : Nat := 0
  occ : Vector Nat 4 := Vector.replicate 4 0
  deriving DecidableEq, Repr

/-- The sparse staging buffer (18 R313): the port whose command holds it, and what is staged. -/
structure Staging where
  /-- plane and even port -/
  port : Option (Nat × Nat) := none
  vals : List W32 := []
  masks : List W32 := []
  eorV : Bool := false
  eorM : Bool := false
  bad : Bool := false
  /-- commands that wait for the buffer, in commit order -/
  waiting : List (Nat × Nat) := []
  deriving DecidableEq, Repr

/-! ### Matrix array, barriers, bight unit -/

/-- An OPM slot (19 R331). -/
structure OpmSlot where
  claim : Option Nat := none
  data : KV Byte := []
  deriving DecidableEq, Repr

/-- An accumulator (19 R339). -/
structure Acc where
  elems : KV W32 := []
  steps : BitVec 32 := 0
  deriving DecidableEq, Repr

/-- The states of a barrier object and of its latest completion (08 R132). -/
inductive BarState where
  | free | opened | error
  deriving DecidableEq, Repr
inductive BarLast where
  | ok | overrun | error | reset
  deriving DecidableEq, Repr

/-- A barrier object (08 R132). -/
structure Barrier where
  expect : BitVec 48 := 0
  phase : BitVec 8 := 0
  byteMode : Bool := false
  trap : Bool := false
  st : BarState := .free
  last : BarLast := .ok
  arrived : BitVec 48 := 0
  /-- the seat that executed the BINIT (08 R134) -/
  initBy : Nat := 0
  deriving DecidableEq, Repr

/-- A request in a bank's wait list (08 R129): of a seat of the FE, or of another FE. -/
inductive Waiter where
  | ldf (seat : Nat) (pa : Nat)
  | ldx (seat : Nat) (pa : Nat)
  | stf (seat : Nat) (pa : Nat)
  /-- a BWAIT of the FE's own object `n` on phase `ph` (08 R134); it takes no entry of a bank -/
  | bar (seat : Nat) (n : Nat) (ph : BitVec 8)
  | remote (r : Req)
  deriving DecidableEq, Repr

/-- A hold or reservation of a word at its bank (08 R130, R131, 17 R290). -/
structure BankHold where
  pa : Nat
  fe : Nat
  seat : Nat
  deriving DecidableEq, Repr

/-- A tap of a stage (07 R116). -/
structure Tap where
  pl : Plane
  port : Port
  dr : Int
  dc : Int
  deriving DecidableEq, Repr

/-- An emission issued (07 R116): its output row, its emit sink, the constant and the taps it was issued with, tokens streamed
to each tap, and elements taken of the sink (kept on the last stage). -/
structure Emission where
  row : Nat
  pl : Plane
  port : Port
  const : W32
  taps : List Tap
  fed : List Nat
  got : Nat := 0
  words : List W32 := []
  deriving DecidableEq, Repr

/-- The bight unit of a stage FE (07 R112 to R124). Its counters are counted on here; a register of R113 shows 32 bits of
one. -/
structure Bight where
  casc : Nat
  stage : Nat
  rank : Nat
  rcv : Nat := 0
  adm : Nat := 0
  iss : Nat := 0
  emt : Nat := 0
  ret : Nat := 0
  pret : Nat := 0
  redo : Nat := 0
  n : Nat := 0
  nknown : Bool := false
  const : W32 := 0
  taps : List Tap := []
  emis : List Emission := []
  /-- the row under reception: its slice, and the halo columns that have arrived from either side, each with its end -/
  row : List W32 := []
  rowEor : Bool := false
  rowLast : Bool := false
  haloLo : List W32 := []
  haloHi : List W32 := []
  /-- tokens on the row channel and the two halo channels -/
  rowChan : List Token := []
  haloChanLo : List Token := []
  haloChanHi : List Token := []
  /-- BSEED.r rows seeded, prologue rows read -/
  seeded : Nat := 0
  /-- a fault recorded and not yet resumed, and whether it has been taken by the seat -/
  flt : Option FaultRec := none
  taken : Bool := false
  /-- the seat of the FE that runs the stage -/
  seat : Nat := 0
  /-- latched translation of SRC; a re-latch token has dropped it; the address that it parks at (09 R152, R154); and the same
  of DST -/
  latch : Option (Nat × Nat × Nat) := none
  dropped : Bool := false
  parked : Option Nat := none
  latchOut : Option (Nat × Nat × Nat) := none
  droppedOut : Bool := false
  parkedOut : Option Nat := none
  deriving DecidableEq, Repr

/-- A fabric element, or the edge core of a die (02 R18, 26 R392). -/
structure FE where
  /-- the context that holds it; and, for one that is held by none, the context that a save ended the holding of
  (04 R69, 08 R128) -/
  holder : Option Nat := none
  last : Option Nat := none
  /-- it is given back to the placer: no group stands on it -/
  idle : Bool := true
  seats : Vector Seat 4 := Vector.replicate 4 {}
  waits : List Waiter := []
  holds : List BankHold := []
  icache : KV Byte := []
  tlb : List Tlb := []
  barriers : KV Barrier := []
  opm : Vector OpmSlot 32 := Vector.replicate 32 {}
  accs : Vector Acc 8 := Vector.replicate 8 {}
  arrQ : List ArrCmd := []
  /-- commands that have entered the array queue and that have been performed -/
  arrIn : Nat := 0
  arrOut : Nat := 0
  planes : Vector PlaneState 4 := Vector.replicate 4 {}
  arb : Arbiter := {}
  staging : Staging := {}
  bight : Option Bight := none
  /-- tokens arrived on the line channels, by the selectors 0x30 to 0x37 (18 R305) -/
  lines : KV (List Token) := []
  /-- the seat that issued last (06 R101) -/
  issued : Nat := 3
  /-- injected packets ahead of passing traffic (02 R23) -/
  starved : Bool := false
  deriving DecidableEq, Repr

/-! ### Contexts, launches, queues -/

/-- The states of a context (04 R54). -/
inductive CtxState where
  | free | bound | running | preempting | saved | stopped
  deriving DecidableEq, Repr

/-- A range entry and its translation state (09 R150, R153). -/
structure Range where
  img : RangeImage
  retiring : Bool := false
  deriving DecidableEq, Repr

/-- An UNMAP under way (09 R153): its range, the edge core and landing offset of its result, the next identity when it
committed, which every request that an old translation made is below, and its re-latch tokens still in nodes: (FE, plane,
port), (FE, 4, 0 or 1) for SRC and DST of a bight unit, (card, 5, 0) for a card. -/
structure Unmap where
  base : W64
  limit : W64
  edge : Nat := 0
  off : Nat := 0
  mark : Nat := 0
  tokens : List (Nat × Nat × Nat) := []
  deriving DecidableEq, Repr

/-- The save block of an FE (04 R66, 07 R125). The FE's state stands among `State.fes` under a number of its own,
congruent to its place modulo 2^20, while it is saved; the block holds its scratchpad ranges. -/
structure SaveBlock where
  /-- the FE that was saved, and the number that its state stands under -/
  fe : Nat
  key : Nat
  /-- live ranges and spill regions: offset, bytes, and whether each word is full -/
  ranges : List (Nat × List Byte × List Bool)
  /-- diverted packets, in arrival order (04 R69) -/
  held : List Req := []
  /-- diverted replies, in arrival order: how many packets stood in the queue before it, its request, the words it lands -/
  lands : List (Nat × Req × List W32) := []
  /-- its place in the context's save area, and its bytes, whole units of 4 KiB (04 R66) -/
  off : Nat := 0
  image : List Byte := []
  deriving DecidableEq, Repr

/-- A job context (04 R53, R54). -/
structure Ctx where
  st : CtxState := .free
  job : BitVec 16 := 0
  ranges : KV Range := []
  /-- UNMAPs that have not completed, oldest first (09 R153) -/
  unmaps : List Unmap := []
  ptRoot : BitVec 56 := 0
  fltvec : W64 := 0
  /-- CTXCTL (27 R400) -/
  belayEn : Bool := true
  meldWin : BitVec 8 := 32
  blocks : List SaveBlock := []
  /-- a pre-emption request is pending, its cause -/
  pend : Bool := false
  cause : BitVec 2 := 0
  /-- an uncorrectable error or unhandled fault came while PREEMPTING (04 R54) -/
  stopAfter : Bool := false
  /-- atomics parked at a home of this module for another module's refusal (17 R293) -/
  parked : List Req := []
  /-- device-side launches outstanding (06 R100) -/
  children : Nat := 0
  /-- PREEMPT results owed: edge core and landing offset (19 R355) -/
  owed : List (Nat × Nat) := []
  /-- every FE that held its seats when its last save began -/
  savedOn : List Nat := []
  deriving DecidableEq, Repr

/-- Who started a launch: a node of the task graph, a seat of a launch, or another module. -/
inductive Origin where
  | node (id : Nat)
  | seat (fe k launch : Nat) (tag : BitVec 16)
  /-- the launch `id` of module `m`, whose CP has forwarded its record (06 R99) -/
  | far (m id : Nat)
  deriving DecidableEq, Repr

/-- The states of a cascade (07 R121). -/
inductive CascState where
  | declared | placed | filling | streaming | draining | stopped | saved | done
  deriving DecidableEq, Repr

/-- A stage entry of a cascade (07 R108). -/
structure StageEntry where
  hand : W64
  const : W32
  planes : BitVec 4
  seat : Nat
  deriving DecidableEq, Repr

/-- A cascade of a placed region (07 R107, R121). -/
structure Cascade where
  id : Nat
  launch : Nat
  ctx : Nat
  cid : Nat
  rank : Nat
  d : Nat
  x0 : Nat
  y0 : Nat
  span : Nat
  w : Nat
  h : Nat
  fmt : Nat
  rpol : Nat
  cpol : Nat
  nrows : Nat
  lw : Nat
  base : Nat
  src : W64
  spitch : Nat
  dst : W64
  dpitch : Nat
  stages : List StageEntry
  die : Nat
  bx : Nat
  bY : Nat
  st : CascState := .placed
  /-- the state kept while STOPPED, and the one kept while SAVED -/
  prev : CascState := .placed
  held : CascState := .placed
  aborted : Bool := false
  deriving DecidableEq, Repr

/-- A level of a launch (06 R90). -/
structure Level where
  gang : Bool
  count : Nat
  domain : Nat
  w : Nat
  h : Nat
  deriving DecidableEq, Repr

/-- A launch in progress (06). -/
structure Launch where
  id : Nat
  ctx : Nat
  origin : Origin
  prio : BitVec 2
  dealMode : Bool
  align8 : Bool
  modBase : Nat
  bmax : Nat
  entry : W64
  args : W64
  fltvec : W64
  ovfBase : W64
  ovfSz : W64
  spillSz : Nat
  seed : W32
  levels : List Level
  /-- positions of the use mask in row-major order (06 R94), cascades of the image (07 R107), and its plane table: stage
  hand, plane, address of the packet (14 R234) -/
  pos : List (Nat × Nat) := []
  cascs : List Cascade := []
  plns : List (W64 × Nat × W64) := []
  /-- FE-level groups (or regions) of this module not yet placed, by linear index -/
  waiting : List Nat
  /-- placed FE-level groups: (index, FE) -/
  placed : List (Nat × Nat) := []
  /-- dies and clusters that enclosing groups are tied to: (group, die) and (group, cluster) -/
  dieOf : List (Nat × Nat) := []
  clusterOf : List (Nat × Nat) := []
  /-- regions placed: (region index, die, base x, base y) -/
  regions : List (Nat × Nat × Nat × Nat) := []
  /-- other modules that have not reported retirement (06 R99) -/
  remote : List Nat := []
  status : BitVec 8 := 0
  orphan : Bool := false
  /-- a device-side launch whose record has not been read: its address, and the identity that the stores of the parent which go
  before it are below (06 R100) -/
  unread : Option (W64 × Nat) := none
  /-- the words of a record that another module's CP has forwarded (06 R99) -/
  words : Option (List W64) := none
  deriving DecidableEq, Repr

/-- The states of a queue (05 R80). -/
inductive QState where
  | disabled | idle | pending | active | error
  deriving DecidableEq, Repr

/-- A user queue (05 R76 to R81). -/
structure Queue where
  ringBase : W64 := 0
  rptrWb : W64 := 0
  errAddr : W64 := 0
  en : Bool := false
  ctx : BitVec 6 := 0
  prio : BitVec 2 := 0
  log2u : BitVec 5 := 4
  st : QState := .disabled
  rptr : W32 := 0
  wptr : W32 := 0
  /-- effective priority and how long it has been PENDING, as an order of arrival (05 R81) -/
  eff : BitVec 2 := 0
  since : Nat := 0
  /-- packets taken in this quantum -/
  quantum : Nat := 0
  /-- a WAIT packet is stalled (05 R86) -/
  stalled : Bool := false
  /-- the error word last written -/
  errWord : W64 := 0
  /-- words that the CP could not write yet, since a link on their way takes nothing: address and value -/
  owes : List (W64 × W64) := []
  deriving DecidableEq, Repr

/-- A footprint region (05 R85). -/
structure Region where
  base : Nat
  len : Nat
  deriving DecidableEq, Repr

/-- What a node of the task graph does when it dispatches (05 R88). -/
inductive NodeKind where
  | launch (va : W64)
  | transform (w : List W64)
  | copy (src dst len : W64)
  | signal (va v : W64) (add : Bool)
  deriving DecidableEq, Repr

/-- A node of the task graph (05 R88). -/
structure Node where
  id : Nat
  queue : Nat
  ctx : Nat
  kind : NodeKind
  tag : BitVec 16
  index : W32
  reads : List Region
  writes : List Region
  /-- nodes it depends on and that are still in the graph: its dependency counter is their number -/
  deps : List Nat
  dispatched : Bool := false
  deriving DecidableEq, Repr

/-! ### Engines -/

/-- A receiver entry of a card (14 R237), with the bytes landed there and whether it has failed. -/
structure Receiver where
  dest : W64
  bar : Nat
  bv : Bool
  opm : Bool
  slot : Nat
  landed : Nat := 0
  failed : Bool := false
  /-- bytes of the last packet, credited after its follow-on has entered (19 R344) -/
  owed : Nat := 0
  /-- its last byte has landed -/
  whole : Bool := false
  /-- its follow-on has entered the array queue; it has been performed -/
  fired : Bool := false
  performed : Bool := false
  /-- the FE that its DEST named when its first byte landed -/
  home : Option Nat := none
  /-- its own pieces, where a transform depends on the area (13 R211) -/
  out : Option (List (Nat × List Byte)) := none
  deriving DecidableEq, Repr

/-- A level of a collective's topology (13 R213): its members in ring order and this module's index among them. -/
structure CollLevel where
  members : List Nat
  me : Nat
  wire : Nat
  type : Nat
  res : Bool
  resBase : Nat
  deriving DecidableEq, Repr

/-- Who posted a card. -/
inductive Poster where
  | seat (fe k : Nat)
  | node (id : Nat)
  deriving DecidableEq, Repr

/-- A card in flight (14 R235 to R238). -/
structure Card where
  id : Nat
  poster : Poster
  ctx : Nat
  /-- the KIND that the posting instruction expects -/
  want : Nat
  w : List W64
  foot : List (Region × Bool)
  rcv : List Receiver
  /-- engine code of R239 -/
  source : BitVec 8
  checked : Bool := false
  /-- destination bytes as pieces at offsets from DEST, once the source has been read and transformed (log 20) -/
  out : List (Nat × List Byte) := []
  /-- the source could not be read beyond what `out` was made from (14 R407) -/
  broken : BitVec 8 := 0
  /-- tokens of a stream job sent, elements of its row sent, ring steps performed -/
  prog : Nat := 0
  col : Nat := 0
  /-- latched translation of a stream job; a re-latch token has dropped it (09 R152, R154) -/
  latch : Option (Nat × Nat × Nat) := none
  dropped : Bool := false
  /-- latched translations of a copy card's receivers, or of a collective's source (0), destination (1) and residuals (2 on, by
  level), `none` for one that a re-latch token has dropped; and the addresses that it parks at, by the same keys -/
  lats : KV (Option (Nat × Nat × Nat)) := []
  parked : KV Nat := []
  /-- a packet of it got no reply in time, which its record says (10 R165, R166) -/
  lost : Bool := false
  /-- it has been checkpointed, and reads what is left of its source anew (04 R67, R68) -/
  again : Bool := false
  /-- the next identity when it was posted: writes of its poster below it go before its reads (12 R195) -/
  mark : Nat := 0
  /-- elements that a collective has reduced -/
  reduced : Nat := 0
  /-- the levels of a collective and its working values, by element -/
  levels : List CollLevel := []
  work : KV W32 := []
  status : BitVec 8 := 0
  done : Bool := false
  checkpointed : Bool := false
  deriving DecidableEq, Repr

/-! ### Links, gather units, training blocks, module -/

/-- The states of a link (10 R158). -/
inductive LinkState where
  | down | training | upFull | upDegraded | replay | frozen | failed
  deriving DecidableEq, Repr

/-- One direction of a link (10 R157 to R164). -/
structure Link where
  st : LinkState := .down
  /-- the UP state held before REPLAY or FROZEN; whether REPLAY returns to FROZEN -/
  held : LinkState := .upFull
  wasFrozen : Bool := false
  cause : BitVec 4 := 0
  half : BitVec 4 := 0
  /-- redundant lanes left of each UCIe module; modules retraining -/
  spares : Vector Nat 4 := Vector.replicate 4 4
  retrain : BitVec 4 := 0
  crcErr : BitVec 8 := 0
  tagFail : BitVec 8 := 0
  enc : Bool := false
  lr : Bool := false
  keyPh : Bool := false
  keyWait : Bool := false
  /-- keys loaded in the slots of phase 0 and 1 (256 bits each) -/
  key0 : Option (BitVec 256) := none
  key1 : Option (BitVec 256) := none
  /-- frames sent under the current key -/
  frames : Nat := 0
  /-- next sequence number to send; sequence number expected; flits held for replay -/
  seq : Nat := 0
  expect : Nat := 0
  buf : List Nat := []
  /-- flits of a splice that have been sent, or sent again, and have not reached the receiver, each with its UCIe module; the
  next turn, and the modules at ×32 that pass their next one over (25 R389) -/
  flying : List (Nat × Nat) := []
  turn : Nat := 0
  odd : BitVec 4 := 0
  /-- last sequence number sent before the replay began -/
  mark : Nat := 0
  /-- replays without progress; runs of eight -/
  replays : Nat := 0
  runs : Nat := 0
  trainFails : Nat := 0
  /-- receiver: discarding until the expected flit; flits since the last acknowledgement; tag failures on one frame -/
  discard : Bool := false
  sinceAck : Nat := 0
  frameFails : Nat := 0
  /-- the receiver owes a NAK or ACK with this sequence number -/
  owesNak : Option Nat := none
  owesAck : Option Nat := none
  /-- flits of the frame being sent; sequence numbers of flits of the frame being received whose packet header is bad -/
  inFrame : Nat := 0
  hdrBad : List Nat := []
  /-- packets of the frame being received, which is not verified yet (10 R164) -/
  inbox : List FarPacket := []
  /-- DIR of a rigging port's direction, as an id named it last (10 R157) -/
  dir : Option Bool := none
  carveBase : BitVec 32 := 0
  carveSize : BitVec 5 := 0
  timeoutUs : Nat := 10
  /-- the round trip measured at training, in µs (10 R162) -/
  rtt : Nat := 0
  /-- jobs whose MARKER it could not take yet (11 R172) -/
  owesMarks : List (BitVec 16) := []
  /-- jobs with traffic on the link since their placement, and those of them that are frozen (11 R172) -/
  jobs : List (BitVec 16) := []
  frozenJobs : List (BitVec 16) := []
  deriving DecidableEq, Repr

/-- A gather unit (13 R199 to R209). -/
structure Gu where
  rfown : Bool := false
  takeen : Bool := false
  swapen : Bool := false
  thresh : BitVec 13 := 2048
  window : BitVec 8 := 32
  /-- cached 256-byte segments, with dirtiness (13 R200) -/
  cached : KV Bool := []
  /-- fills under way: segment, whether its merge window has closed, requests that joined it -/
  fills : List (Nat × Bool × List Req) := []
  /-- activations in the window, by channel, bank and row (key ch * 2^21 + bank * 2^15 + row) -/
  hot : KV Nat := []
  /-- indirection: the same key to the spare row in use; copies under way -/
  indir : KV Nat := []
  copying : List Nat := []
  exhausted : List Nat := []
  missed : Nat := 0
  handback : Bool := false
  /-- errors corrected; segments for which ECC has reported on the next fill for an agent other than a seat's request, and
  whether the error is uncorrectable (13 R205) -/
  corrected : Nat := 0
  ecc : KV Bool := []
  /-- POPW requests parked at HBM piles (08 R140) -/
  parked : List Req := []
  /-- requests that wait on a row being copied (13 R206) -/
  rowWait : List Req := []
  deriving DecidableEq, Repr

/-- The training block of an HBM channel (26 R393 to R397). -/
structure Train where
  trres : W64 := 0
  rej : Bool := false
  opened : Bool := false
  closing : Bool := false
  trrepair : W64 := 0
  trdly : KV W64 := []
  /-- requests that came while the channel was closed; and those of an open channel that are still to be performed in their
  order of arrival (26 R397) -/
  waiting : List Req := []
  accepted : List Req := []
  deriving DecidableEq, Repr

/-- A configuration packet on its way to its targets (14 R231 to R233). -/
structure CfgPacket where
  fe : Nat
  seat : Nat
  /-- `none` for a packet of the placer -/
  serial : Option Nat
  ctx : Nat
  /-- origin die, x, y and the region it must stay in: x, y, width, height -/
  die : Nat
  ox : Nat
  oy : Nat
  region : Nat × Nat × Nat × Nat
  rot : Plane
  /-- the packet's words, from its header doubleword on -/
  words : List W32
  /-- a single write of CFGW: word and value -/
  single : Option (W32 × W32) := none
  /-- a read fault met while it was read (18 R307) -/
  readFault : Option FaultRec := none
  deriving DecidableEq, Repr

/-- A pile operation waiting in a meld buffer (08 R141): its meld point and request. -/
structure MeldWait where
  point : Nat
  req : Req
  /-- the turn by which its window has expired; what is left of the window while its job is frozen (08 R144) -/
  due : Nat := 0
  deriving DecidableEq, Repr

/-- A record on its way to a seat's event queue (14 R240). -/
structure RecMsg where
  fe : Nat
  seat : Nat
  ev : EvRec
  /-- it found both queue and ring full, and is held (19 R347) -/
  held : Bool := false
  deriving DecidableEq, Repr

/-- What the MSC is told (04 R54, R69, 10 R158, 13 R208, ...). -/
inductive Report where
  | contextError (ctx : Nat)
  | contextStopped (ctx : Nat)
  | discarded (ctx : Nat) (pa : Nat)
  | link (id : BitVec 32) (cause : BitVec 4)
  | headerDrop (id : BitVec 32) (seq : Nat)
  /-- a packet of a job that holds no context here (04 R69): the module it came from, and the job -/
  | strayPacket (src : Nat) (job : BitVec 16)
  | keySoon (id : BitVec 32)
  | guEvent (w0 w1 : W64)
  | park (ctx : Nat) (va : W64)
  | fault (ctx : Nat) (code : BitVec 8)
  /-- a channel that boot leaves closed (27 R401) -/
  | channelDark (ch : Nat)
  deriving DecidableEq, Repr

/-- An armed release of a job (11 R178): its pod time, and whether its receivers have been released and its senders not
yet. -/
structure Release where
  job : BitVec 16
  time : W64
  half : Bool := false
  deriving DecidableEq, Repr

/-- The hitch registers and the releases (11 R176, R178). -/
structure HitchState where
  lost : BitVec 8 := 0
  epoch : BitVec 8 := 0
  /-- HITCHSTAT.STATE: 0 running, 1 frozen, 2 release armed -/
  st : BitVec 2 := 0
  loc : List CauseWords := []
  first : CauseWords := { ptime := 0, hand := 0, who := 0, valid := false }
  job : BitVec 16 := 0
  /-- jobs frozen on this module, and releases armed -/
  frozen : List (BitVec 16) := []
  rels : List Release := []
  /-- markers on their way within the module: job, epoch and cause; and those that are to be forwarded over the links once the
  job's seats stand (11 R172, R173) -/
  markers : List (BitVec 16 × BitVec 8 × CauseWords) := []
  spread : List (BitVec 16 × BitVec 8 × CauseWords) := []
  /-- jobs that a marker of another module has frozen: they span several modules (11 R174) -/
  wide : List (BitVec 16) := []
  deriving DecidableEq, Repr

/-- The state of the module. -/
structure State where
  /-- memory: HBM, scratchpads and edge core scratchpads by fabric physical address -/
  mem : List Host.Cell
  /-- scratchpad words whose tag is empty, by the same address of the word; an unlisted word is full -/
  tags : KV Bool
  fes : KV FE
  ctxs : KV Ctx
  launches : KV Launch
  cascades : KV Cascade
  queues : KV Queue
  /-- queues bound to the 32 active slots, in turn order (05 R81) -/
  slots : List Nat
  graph : List Node
  cards : KV Card
  /-- requests in flight, oldest first; replies in flight; refused requests waiting to be sent again -/
  reqs : List Req
  replies : List Reply
  refused : List Req
  melds : List MeldWait
  cfgs : List CfgPacket
  recs : List RecMsg
  links : KV Link
  routes : KV W64
  gus : KV Gu
  trains : KV Train
  /-- fuse map: disabled FEs (02 R17) -/
  fused : List Nat
  moduleId : BitVec 10
  pwrMode : BitVec 2
  pwrNow : BitVec 2
  power : BitVec 16
  temp : BitVec 8
  clock : BitVec 12
  boot : BitVec 4
  standby : Bool
  hostUp : Bool
  hostCause : BitVec 4
  hitch : HitchState
  reports : List Report
  /-- pod time in ns (11 R178) -/
  time : Nat
  /-- the model's own: the seat whose turn it is, whether it has the turn and has not issued yet, the events that come next, the
  next identity, the next free value -/
  curFe : Nat
  curSeat : Nat
  given : Bool
  /-- hands fetched so far: the model's measure of a meld window (log 22) -/
  turns : Nat
  agenda : List Instr
  nextId : Nat
  fresh : Nat
  deriving DecidableEq, Repr

/-- Why the machine stops. Raised by nothing but a step whose state names a seat number above 3, which no rule of the
manual gives an FE (02 R18): safe. -/
inductive Fault where
  /-- raised by `step` when the seat whose turn it is has a number above 3: safe, no such seat exists (02 R18) -/
  | noSuchSeat
  deriving DecidableEq, Repr

/-- Why an instruction has no meaning. -/
inductive Refusal where
  /-- raised by an arm of `exec` for an instruction that is not modelled yet: safe -/
  | notModelled (mnemonic : String)
  deriving DecidableEq, Repr

/-- The module before power-good: no memory written, every object at its reset value, nothing bound or placed. -/
def State.reset : State where
  mem := []
  tags := []
  -- the edge cores' BELAYMAX.EN resets to 0 (26 R392); they stand under the numbers from 25,600 on
  fes := (List.range 8).map fun d => (25600 + d, { seats := Vector.ofFn fun k => if k.val == 0 then { arch := { belayEn := false } } else {} })
  ctxs := []
  launches := []
  cascades := []
  queues := []
  slots := []
  graph := []
  cards := []
  reqs := []
  replies := []
  refused := []
  melds := []
  cfgs := []
  recs := []
  links := []
  routes := []
  gus := []
  trains := []
  fused := []
  moduleId := 0
  pwrMode := 0
  pwrNow := 0
  power := 0
  temp := 0
  clock := 1500
  boot := 0
  standby := false
  hostUp := false
  hostCause := 0
  hitch := {}
  reports := []
  time := 0
  curFe := 0
  curSeat := 0
  given := false
  turns := 0
  agenda := [.powerGood]
  nextId := 0
  fresh := 0

end Sys2Proof.Machine
end

