-- ==== Sys2Proof/Machine/Base.lean ====
section
/-!
DEFINITION. The ground of the operations: fault codes (00 R7), small helpers, the objects of the module by number, its memory
and tags, and the addresses that it refuses (09 R146).
-/

namespace Sys2Proof.Machine

/-! ### Fault codes (00 R7) -/

def Code.illegalOpcode : BitVec 8 := 0x01
def Code.reservedField : BitVec 8 := 0x02
def Code.handFormat : BitVec 8 := 0x03
def Code.belayDistance : BitVec 8 := 0x05
def Code.privilege : BitVec 8 := 0x06
def Code.fetchPage : BitVec 8 := 0x10
def Code.fetchPerm : BitVec 8 := 0x11
def Code.dataPage : BitVec 8 := 0x12
def Code.dataPerm : BitVec 8 := 0x13
def Code.align : BitVec 8 := 0x14
def Code.localBounds : BitVec 8 := 0x15
def Code.spillOverflow : BitVec 8 := 0x16
def Code.fpOverflow : BitVec 8 := 0x20
def Code.fpInvalid : BitVec 8 := 0x21
def Code.fpDivzero : BitVec 8 := 0x22
def Code.intDivzero : BitVec 8 := 0x23
def Code.format : BitVec 8 := 0x24
def Code.indexRange : BitVec 8 := 0x28
def Code.storeOverrun : BitVec 8 := 0x2C
def Code.slotState : BitVec 8 := 0x30
def Code.barrierOverrun : BitVec 8 := 0x38
def Code.eventOverflow : BitVec 8 := 0x39
def Code.engineError : BitVec 8 := 0x40
def Code.multicastPartial : BitVec 8 := 0x41
def Code.cascadeBounds : BitVec 8 := 0x48
def Code.memoryUncorrectable : BitVec 8 := 0x50
def Code.linkTimeout : BitVec 8 := 0x51
def Code.breakpoint : BitVec 8 := 0x60
def Code.watchpoint : BitVec 8 := 0x61
def Code.hitch : BitVec 8 := 0x62
def Code.svc : BitVec 8 := 0x70

/-! ### Small helpers -/

/-- Element `k` of a vector, or `d` beyond its end. -/
def vget {α : Type} {n : Nat} (d : α) (v : Vector α n) (k : Nat) : α := v[k]?.getD d

/-- The vector with element `k` set; unchanged beyond its end. -/
def vset {α : Type} {n : Nat} (v : Vector α n) (k : Nat) (x : α) : Vector α n := v.setIfInBounds k x

/-- The bit field [hi:lo] of a word, as a number. -/
def fld (v : W64) (hi lo : Nat) : Nat := (v.toNat / 2 ^ lo) % 2 ^ (hi + 1 - lo)

/-- Bit `n` of a word. -/
def bit (v : W64) (n : Nat) : Bool := v.getLsbD n

/-- Bit `n` set when `b` holds. -/
def bitAt (b : Bool) (n : Nat) : Nat := if b then 2 ^ n else 0

def w64 (n : Nat) : W64 := BitVec.ofNat 64 n
def w32 (n : Nat) : W32 := BitVec.ofNat 32 n

/-- Apply `f` to the state for each element, left to right. -/
def each {α : Type} (l : List α) (f : α → State → State) (s : State) : State := l.foldl (fun t x => f x t) s

/-- The first position whose element satisfies `p`. -/
def findIdx {α : Type} (p : α → Bool) : List α → Option Nat
  | [] => none
  | x :: r => if p x then some 0 else (findIdx p r).map (· + 1)

/-- Without the element at position `n`. -/
def removeAt {α : Type} : Nat → List α → List α
  | _, [] => []
  | 0, _ :: r => r
  | n + 1, x :: r => x :: removeAt n r

/-- A number rounded up to a multiple of `k`. -/
def roundUp (n k : Nat) : Nat := (n + k - 1) / k * k

/-- Ceiling division. -/
def cdiv (n k : Nat) : Nat := (n + k - 1) / k

/-! ### Dies, FEs and physical addresses (02 R16, R17, 09 R146) -/

def edgeBase : Nat := 25600
/-- FE numbers 25600 to 25607 stand for the edge cores of the eight dies (26 R392). -/
def isEdge (fe : Nat) : Bool := decide (edgeBase ≤ fe % 2 ^ 20)
/-- Number of no FE. -/
def noFe : Nat := 2 ^ 30
/-- A number above 2^20 names the saved state of the FE that it is congruent to. -/
def isSaved (fe : Nat) : Bool := decide (2 ^ 20 ≤ fe)
def feDie (fe : Nat) : Nat := if isEdge fe then fe % 2 ^ 20 - edgeBase else fe % 2 ^ 20 / 3200
def feX (fe : Nat) : Nat := if isEdge fe then 0 else fe % 2 ^ 20 % 3200 % 80
def feY (fe : Nat) : Nat := if isEdge fe then 0 else fe % 2 ^ 20 % 3200 / 80
def feCluster (fe : Nat) : Nat := 10 * (feY fe / 8) + feX fe / 8
def feNum (fe : Nat) : Nat := 8 * (feY fe % 8) + feX fe % 8
/-- The FE at grid position (x, y) of a die. -/
def feAtXY (die x y : Nat) : Nat := die * 3200 + 80 * y + x

/-- The context of the edge cores, Horlyn's own (26 R392). It has no number among the 64 of 04 R53: DESIGN CHOICE,
log 12. -/
def horlyn : Nat := 64

def classBits : Nat := 2 ^ 44
/-- Scratchpad offsets end here (09 R145). -/
def spTop : Nat := 0x60000

/-- Fabric physical address, without its module field, of offset 0 of an FE's scratchpad; the scratchpad of an edge
core, which no fabric address names, is kept in the unused class 11. -/
def spBase (fe : Nat) : Nat :=
  if isEdge fe then 3 * classBits + (fe % 2 ^ 20 - edgeBase) * 2 ^ 19
  else classBits + feDie fe * 2 ^ 31 + feCluster fe * 2 ^ 25 + feNum fe * 2 ^ 19

def paModule (pa : Nat) : Nat := pa / 2 ^ 46
def paClass (pa : Nat) : Nat := pa / classBits % 4
def paOff (pa : Nat) : Nat := pa % 2 ^ 19
/-- The address within the module: the key of memory. -/
def paKey (pa : Nat) : Nat := pa % 2 ^ 46

/-- The FE whose scratchpad or barrier objects a class 01 address names; clusters from 50 on name none. -/
def feOfPa (pa : Nat) : Option Nat :=
  let c := pa / 2 ^ 25 % 64
  let f := pa / 2 ^ 19 % 64
  if paClass pa == 3 then some (edgeBase + pa / 2 ^ 19 % 8)
  else if paClass pa == 1 && decide (c < 50) then
    some (feAtXY (pa / 2 ^ 31 % 8) (8 * (c % 10) + f % 8) (8 * (c / 10) + f / 8))
  else none

/-- The module-wide gather unit that serves an HBM address (09 R147). -/
def guOfPa (pa : Nat) : Nat :=
  let st := pa / 2 ^ 36 % 16
  let ch := pa / 256 % 32
  32 * (st / 2) + 16 * (st % 2) + ch / 2

/-- Channel of an HBM address: 32 × stack + channel. -/
def chanOfPa (pa : Nat) : Nat := 32 * (pa / 2 ^ 36 % 16) + pa / 256 % 32

/-! ### The objects of the module -/

def feAt (s : State) (fe : Nat) : FE := KV.get {} fe s.fes
def modFe (fe : Nat) (g : FE → FE) (s : State) : State := { s with fes := KV.upd {} fe g s.fes }
def seatOf (f : FE) (k : Nat) : Seat := vget {} f.seats k
def seatAt (s : State) (fe k : Nat) : Seat := seatOf (feAt s fe) k
def modSeat (fe k : Nat) (g : Seat → Seat) (s : State) : State :=
  modFe fe (fun f => { f with seats := vset f.seats k (g (seatOf f k)) }) s
def cur (s : State) : Seat := seatAt s s.curFe s.curSeat
def modCur (g : Seat → Seat) (s : State) : State := modSeat s.curFe s.curSeat g s
def modHand (g : Hand → Hand) (s : State) : State := modCur (fun t => { t with hand := t.hand.map g }) s
def ctxAt (s : State) (c : Nat) : Ctx := KV.get {} c s.ctxs
def modCtx (c : Nat) (g : Ctx → Ctx) (s : State) : State := { s with ctxs := KV.upd {} c g s.ctxs }
def report (r : Report) (s : State) : State := { s with reports := s.reports ++ [r] }

/-- Every seat of a context, as FE and seat number. A seat belongs to the context that it was placed for. -/
def seatsOf (s : State) (c : Nat) : List (Nat × Nat) :=
  s.fes.flatMap fun e => (List.range 4).filterMap fun k =>
    let t := seatOf e.2 k
    if t.ctx == c && t.st != .free then some (e.1, k) else none

/-! ### Memory and tags -/

/-- What memory holds at an address; a byte that nothing has written reads 0 (log 1). -/
def memByte (m : List Host.Cell) (a : Nat) : Byte := KV.get 0 a m

/-- The memory's canonical form. -/
abbrev Memory.wf (m : List Host.Cell) : Bool := KV.wf (0 : Byte) m

/-- `n` bytes from address `a` as a little-endian number (00 R3). -/
def rdBytes (m : List Host.Cell) (a : Nat) : Nat → Nat
  | 0 => 0
  | n + 1 => (memByte m a).toNat + 256 * rdBytes m (a + 1) n

/-- Write the low `n` bytes of `v` from address `a` on. -/
def wrBytes (m : List Host.Cell) (a : Nat) : Nat → Nat → List Host.Cell
  | 0, _ => m
  | n + 1, v => wrBytes (KV.put 0 a (BitVec.ofNat 8 v) m) (a + 1) n (v / 256)

def rdPa (s : State) (pa n : Nat) : Nat := rdBytes s.mem (paKey pa) n
def wrPa (pa n v : Nat) (s : State) : State := { s with mem := wrBytes s.mem (paKey pa) n v }

/-- The bytes from an address as a list. -/
def bytesAt (s : State) (pa : Nat) (n : Nat) : List Byte := (List.range n).map fun i => memByte s.mem (paKey pa + i)

/-- The tag of the word that holds an address: full unless listed as empty (08 R128). -/
def tagFull (s : State) (pa : Nat) : Bool := !KV.get false (paKey pa / 4 * 4) s.tags
def putTag (pa : Nat) (full : Bool) (s : State) : State :=
  { s with tags := KV.put false (paKey pa / 4 * 4) (!full) s.tags }

/-! ### Addresses that are refused (09 R146) -/

/-- The replay buffer of a long-reach port in HBM, which no translation reaches (10 R163). -/
def inCarveOut (s : State) (pa : Nat) : Bool := s.links.any fun e =>
  let base := e.2.carveBase.toNat * 2 ^ 24 % 2 ^ 46
  e.2.lr && decide (base ≤ paKey pa) && decide (paKey pa < base + e.2.carveSize.toNat * 2 ^ 24)

/-- An address of this module that 09 R146 refuses: a reserved field, class 11, an offset beyond the stack, a disabled
FE or a cluster from 50 on (02 R17); and a carve-out of HBM (10 R163). -/
def paRefused (s : State) (pa : Nat) : Bool :=
  match paClass pa with
  | 0 => pa / 2 ^ 40 % 16 != 0 || decide (0xC00000000 ≤ pa % 2 ^ 36) || inCarveOut s pa
  | 1 =>
    pa / 2 ^ 34 % 2 ^ 10 != 0 ||
      (match feOfPa pa with
       | some fe => s.fused.contains fe
       | none => true)
  | 2 => pa / 2 ^ 32 % 2 ^ 12 != 0
  | _ => true

def ownModule (s : State) (pa : Nat) : Bool := paModule pa == s.moduleId.toNat

/-- An address that 09 R146 refuses, of this module or of another, whose fuse map and carve-outs this one does not hold. -/
def paBad (s : State) (pa : Nat) : Bool := paRefused (if ownModule s pa then s else { s with fused := [], links := [] }) pa

end Sys2Proof.Machine
end

