-- ==== Sys2Proof/Machine/Route.lean ====
section
/-!
DEFINITION. The links and the ways over them: the identity of a link direction (10 R157), routes (02 R21, R22, 10 R406), what
a link takes now (10 R163, R167), and what an access meets on its way and at its home.
-/

namespace Sys2Proof.Machine

/-! ### Frozen jobs (11 R173, R175) -/

/-- Whether the job of a context is frozen on this module. -/
def jobFrozen (s : State) (c : Nat) : Bool := c != horlyn && s.hitch.frozen.contains (ctxAt s c).job

/-- The receivers of a context's job hold what reaches them: the job is frozen and its receivers have not been released
(11 R175, R178). -/
def recvFrozen (s : State) (c : Nat) : Bool :=
  jobFrozen s c && !s.hitch.rels.any fun x => x.half && x.job == (ctxAt s c).job

/-! ### Identity (10 R157) -/

/-- A link direction by number: KIND, NUM, DIE and XD of its id, apart for a transmitter on another module. DIR follows
from them. -/
def linkKey (s : State) (id : BitVec 32) : Nat :=
  let m := id.toNat / 2 ^ 22
  let low := id.toNat / 2 ^ 12 % 2 ^ 10
  if m == s.moduleId.toNat then low else low + 2 ^ 10 * (m + 1)

/-- Boot has completed step `n`: BOOT holds the last step completed, or a failed step plus 8 (27 R403). -/
def bootPast (s : State) (n : Nat) : Bool :=
  let b := s.boot.toNat
  decide (n ≤ if b < 8 then b else b - 9)

/-- A link direction. One of another module that nothing has named yet was trained with this module's ports, at boot step 5
(27 R401). -/
def linkAt (s : State) (k : Nat) : Link :=
  (KV.find k s.links).getD { st := if 2 ^ 10 ≤ k && bootPast s 5 then .upFull else .down }
def modLink (k : Nat) (f : Link → Link) (s : State) : State := { s with links := KV.set k (f (linkAt s k)) s.links }
def isRigging (k : Nat) : Bool := k % 2 ^ 10 / 2 ^ 9 == 1

/-- The key of the splice at a knot of a C-die, of the splice from an X-die to a C-die, and of a rigging port. -/
def spliceKey (die knot : Nat) : Nat := (knot - 44) * 16 + die * 2
def xSpliceKey (x die : Nat) : Nat := die * 16 + x * 2 + 1
def riggingKey (port : Nat) : Nat := 2 ^ 9 + port * 16 + (if port < 12 then 0 else 1) * 2 + 1

/-- The rigging port that the route table names for a module, if its entry is valid (10 R406). -/
def routePort (s : State) (m : Nat) : Option Nat :=
  let e := KV.get 0 m s.routes
  if bit e 7 && decide (fld e 4 0 < 24) then some (fld e 4 0) else none

/-- The module at the other end of a rigging port, as the route table tells it: the lowest that it names the port for
(log 105). -/
def portPeer (s : State) (p : Nat) : Option Nat := (s.routes.find? fun e => routePort s e.1 == some p).map (·.1)

/-- The link id of a key, for a report; DIR counts C-dies before X-dies (log 21). For a rigging direction of this module it is
the bit of the id that named it last, or compares the modules at its ends (10 R157, log 105). -/
def linkId (s : State) (k : Nat) : BitVec 32 :=
  let num := k / 16 % 32
  let die := k / 2 % 8
  let dir := if isRigging k then
      (if 2 ^ 10 ≤ k then bitAt (decide (s.moduleId.toNat < k / 2 ^ 10 - 1)) 0
       else bitAt ((linkAt s k).dir.getD (match portPeer s num with
         | some m => decide (m < s.moduleId.toNat)
         | none => false)) 0)
    else if k % 2 == 1 then 1
    else match num with
      | 0 => if die < (die + 1) % 8 then 0 else 1
      | 1 => if die < (die + 7) % 8 then 0 else 1
      | 2 => if die < (die + 2) % 8 then 0 else 1
      | 3 => if die < (die + 6) % 8 then 0 else 1
      | _ => 0
  BitVec.ofNat 32 ((if k < 2 ^ 10 then s.moduleId.toNat else k / 2 ^ 10 - 1) * 2 ^ 22 + k % 2 ^ 10 * 2 ^ 12 + dir)

def isUp (l : Link) : Bool := l.st == .upFull || l.st == .upDegraded
/-- A link that carries flits. -/
def carries (l : Link) : Bool := l.st != .down && l.st != .failed && l.st != .training

/-! ### Routes (02 R21, R22, 10 R406) -/

/-- A route from a C-die to an X-die: over its own splice, or over the next die's (log 21). -/
def xRoute (die x : Nat) : List Nat :=
  if die % 2 == x then [spliceKey die 48] else [spliceKey die 44, spliceKey ((die + 1) % 8) 48]

/-- The route back, from an X-die to a C-die. -/
def xBack (x die : Nat) : List Nat :=
  if die % 2 == x then [xSpliceKey x die] else [xSpliceKey x ((die + 1) % 8), spliceKey ((die + 1) % 8) 45]

/-- A route between the X-dies: three splices, through C-dies 0 and 1 (02 R22). -/
def xxRoute (x y : Nat) : List Nat :=
  if x == y then [] else [xSpliceKey x x, spliceKey x (if x == 0 then 44 else 45), spliceKey y 48]

/-- The X-die of a rigging port (02 R25). -/
def portX (p : Nat) : Nat := if p < 12 then 0 else 1

/-- Knot `k` of a die, and the splice of a die's knot 44 to 48, as meld points. -/
def knotPoint (die k : Nat) : Nat := 64 * die + k
def splicePoint (die knot : Nat) : Nat := 1000 + 64 * die + knot

/-- The splices of a route between two C-dies: one for a difference of 1 or 2 either way, otherwise two (02 R21, R22);
which two is DESIGN CHOICE, log 21. -/
def spliceRoute (a b : Nat) : List Nat :=
  match (b + 8 - a) % 8 with
  | 0 => []
  | 1 => [splicePoint a 44]
  | 7 => [splicePoint a 45]
  | 2 => [splicePoint a 46]
  | 6 => [splicePoint a 47]
  | 3 => [splicePoint a 46, splicePoint ((a + 2) % 8) 44]
  | 5 => [splicePoint a 47, splicePoint ((a + 6) % 8) 45]
  | _ => [splicePoint a 46, splicePoint ((a + 2) % 8) 46]

/-- The key of a meld point that is a splice. -/
def pointKey (p : Nat) : Nat := spliceKey ((p - 1000) / 64) ((p - 1000) % 64)

/-- The splices between two C-dies, by key. -/
def dieRoute (a b : Nat) : List Nat := (spliceRoute a b).map pointKey

/-- The C-die that holds a device register, none for those of the X-dies (27 R399). -/
def regDie (reg : Nat) : Option Nat :=
  if 0x01000000 ≤ reg && reg < 0x01008000 then some ((reg - 0x01000000) / 0x1000)
  else if 0x02000000 ≤ reg && reg < 0x02100000 then some ((reg - 0x02000000) / 0x20000)
  else if 0x03000000 ≤ reg && reg < 0x03000800 then some ((reg - 0x03000000) / 256)
  else none

/-- The X-die that holds a device register: that of the MSC for its registers, which the standby MSC holds once it has
booted in its place, and X-die 0 otherwise (27 R399, R401). -/
def regX (s : State) (reg : Nat) : Nat := if s.standby && 0x04000000 ≤ reg && reg < 0x06000000 then 1 else 0

/-- The links of the way between two dies; 8 and 9 stand for the X-dies. -/
def hopRoute (a b : Nat) : List Nat :=
  if a < 8 && b < 8 then dieRoute a b
  else if a < 8 then xRoute a (b - 8)
  else if b < 8 then xBack (a - 8) b
  else xxRoute (a - 8) (b - 8)

/-- The die of the home of an address of this module, and for another module's the die of the port that leads to it. -/
def homeDie (s : State) (pa : Nat) : Nat :=
  if !ownModule s pa then 8 + portX ((routePort s (paModule pa)).getD 0)
  else
    match paClass pa with
    | 0 => guOfPa pa / 32
    | 2 => (regDie (pa % 2 ^ 32)).getD (8 + regX s (pa % 2 ^ 32))
    | _ => match feOfPa pa with
      | some fe => feDie fe
      | none => 0

/-- The directions into this module that come from the far end of a port: those of the modules that the table routes over
it (log 105). -/
def portIn (s : State) (p : Nat) : List Nat :=
  (s.links.filter fun e => decide (2 ^ 10 ≤ e.1) && routePort s (e.1 / 2 ^ 10 - 1) == some p).map (·.1)

/-- The links between a die and the home of an address, there or back. Of another module's home only the links of this
module, and those into it, are held. -/
def homeRoute (s : State) (d pa : Nat) (back : Bool) : List Nat :=
  let h := homeDie s pa
  if ownModule s pa then (if back then hopRoute h d else hopRoute d h)
  else
    match routePort s (paModule pa) with
    | some p => if back then portIn s p ++ hopRoute h d else hopRoute d h ++ [riggingKey p]
    | none => []

/-- The die that a request starts from: its seat's, or the X-die of the port that its module is reached over. -/
def reqDie (s : State) (r : Req) : Nat := match r.far with
  | some m => 8 + portX ((routePort s m).getD 0)
  | none => feDie r.fe

/-- The whole way of a request to its home, and of its reply; a reply to another module leaves over its port. -/
def reqWay (s : State) (r : Req) : List Nat := homeRoute s (reqDie s r) r.pa false
def replyWay (s : State) (r : Req) : List Nat :=
  homeRoute s (reqDie s r) r.pa true ++ match r.far with
    | some m => ((routePort s m).map riggingKey).toList
    | none => []

/-- The links that a request, or the reply to one, has still to cross. -/
def reqRoute (s : State) (r : Req) : List Nat := (reqWay s r).drop r.hop
def replyRoute (s : State) (r : Req) : List Nat := (replyWay s r).drop r.hop

/-! ### What a link takes now -/

/-- Sequence numbers of a link: 10 bits for a splice, 24 for a rigging port. -/
def seqMod (k : Nat) : Nat := if isRigging k then 2 ^ 24 else 1024

/-- Flits that a replay buffer holds (10 R163, 25 R389); 65,536 flits stand in 16 MiB of carve-out. -/
def bufCap (k : Nat) (l : Link) : Nat :=
  if !isRigging k then 512 else if l.lr then l.carveSize.toNat * 65536 else 1024

/-- Room for one more flit in the replay buffer; a long-reach port holds it in chunks of 128 flits, from the chunk of the
oldest flit held to that of the next (10 R163). -/
def hasRoom (k : Nat) (l : Link) : Bool :=
  if isRigging k && l.lr then
    (match l.buf with
     | [] => 0 < bufCap k l
     | q :: _ => decide ((l.seq / 128 + 2 ^ 17 - q / 128) % 2 ^ 17 < bufCap k l / 128))
  else decide (l.buf.length < bufCap k l)

/-- Whether a link can take a flit at all: up or frozen, or with everything sent again in a replay (10 R162), with room for
replay, a key to send under, and a UCIe module that is not retraining. -/
def sends (k : Nat) (l : Link) : Bool :=
  (isUp l || l.st == .frozen || (l.st == .replay && l.flying.isEmpty)) && !l.keyWait && hasRoom k l &&
    (isRigging k || l.retrain != 15)

/-- Whether a link can take a new flit of a job: it is not frozen for it (10 R167), but that the effects of a stepped hand
are sent (11 R177). -/
def canSend (k : Nat) (job : BitVec 16) (step : Bool) (l : Link) : Bool :=
  sends k l && (step || !l.frozenJobs.contains job)

/-- A link on a way that carries nothing. -/
def routeDead (s : State) (l : List Nat) : Bool := l.any fun k =>
  let x := linkAt s k
  x.st == .down || x.st == .failed

/-- A link whose receiver has accepted all that was sent, so that the next flit is accepted too. -/
def upToDate (k : Nat) (l : Link) : Bool := isRigging k || (l.flying.isEmpty && !l.discard && l.expect == l.seq)

/-- Every link on the way takes a flit of the job now, and passes it on. -/
def routeClear (s : State) (job : BitVec 16) (step : Bool) (l : List Nat) : Bool :=
  l.all fun k => canSend k job step (linkAt s k) && upToDate k (linkAt s k)

/-! ### What an access meets -/

def guAt (s : State) (g : Nat) : Gu := KV.get {} g s.gus
def modGu (g : Nat) (f : Gu → Gu) (s : State) : State := { s with gus := KV.upd {} g f s.gus }

/-- Segment of an HBM address: its 256-byte line in a gather unit's cache; and the address of a segment of this module. -/
def segOf (pa : Nat) : Nat := paKey pa / 256
def segPa (seg : Nat) : Nat := seg * 256

/-- Channel, bank and row of an HBM address (13 R199), and the key of a row. -/
def rowOf (pa : Nat) : Nat := pa % 2 ^ 36 / 2 ^ 21
def bankHbm (pa : Nat) : Nat := pa / 2 ^ 13 % 64
def rowKey (ch bank row : Nat) : Nat := ch * 2 ^ 22 + bank * 2 ^ 16 + row
def keyOf (pa : Nat) : Nat := rowKey (chanOfPa pa) (bankHbm pa) (rowOf pa)

def trainAt (s : State) (ch : Nat) : Train := KV.get {} ch s.trains
def modTrain (ch : Nat) (f : Train → Train) (s : State) : State := { s with trains := KV.upd {} ch f s.trains }

/-- Whether a packet of context `c` is diverted to the save block of an FE (04 R69). -/
def diverts (s : State) (c fe : Nat) : Bool :=
  let x := ctxAt s c
  (x.st == .preempting || x.st == .saved) && x.savedOn.contains fe

/-- What an access that no request makes meets on its way and at its home: it goes on; it waits (a link that takes no flit
now, a closed channel, a row being copied, a fill of its segment under way, a context being saved); or it is refused with a
code (04 R69, 09 R146, 10 R166, R406, 13 R201, R205, 26 R397, 27 R400). -/
inductive Meets where
  | go | wait
  | refuse (code : BitVec 8)
  deriving DecidableEq, Repr

/-- The links that an access from die `d` crosses to the home of an address and back. -/
def bothWays (s : State) (d pa : Nat) : List Nat := homeRoute s d pa false ++ homeRoute s d pa true

/-- A segment whose next fill for an agent other than a seat's request is uncorrectable (13 R205). -/
def badFill (g : Gu) (pa : Nat) : Bool := KV.find (segOf pa) g.ecc == some true && (KV.find (segOf pa) g.cached).isNone

/-- Device registers are Horlyn's: no job context's translation reaches them (27 R400, R402). -/
def regBarred (c pa : Nat) : Bool := paClass pa == 2 && c != horlyn

/-- What an access of an agent on die `d` meets on its way, and at a home in HBM; `step` says that its job's freeze does not hold
it. -/
def wayMeets (s : State) (d ctx pa : Nat) (step : Bool) : Meets :=
  let l := bothWays s d pa
  if (!ownModule s pa && (routePort s (paModule pa)).isNone) || routeDead s l then .refuse Code.linkTimeout
  else if !routeClear s (ctxAt s ctx).job step l then .wait
  else if !ownModule s pa || paClass pa != 0 then .go
  else
    let t := trainAt s (chanOfPa pa)
    let g := guAt s (guOfPa pa)
    if !t.opened || t.closing || g.copying.contains (keyOf pa) || g.fills.any (·.1 == segOf pa) then .wait
    else if badFill g pa then .refuse Code.memoryUncorrectable
    else .go

def meets (s : State) (d ctx pa : Nat) : Meets :=
  if paBad s pa || (paClass pa == 1 && decide (spTop ≤ paOff pa)) then .refuse Code.dataPage
  else if regBarred ctx pa then .refuse Code.dataPerm
  else match wayMeets s d ctx pa false with
    | .go =>
      if !ownModule s pa || paClass pa != 1 then .go
      else (match feOfPa pa with
        | some g => if (feAt s g).holder = some ctx then .go else if diverts s ctx g then .wait else .refuse Code.dataPage
        | none => .refuse Code.dataPage)
    | m => m

/-- Of what several accesses meet: the first wait or refusal. -/
def firstMeets : List Meets → Meets
  | [] => .go
  | .go :: l => firstMeets l
  | m :: _ => m

/-- The code of a refused access. -/
def refusal : Meets → Option (BitVec 8)
  | .refuse c => some c
  | _ => none

end Sys2Proof.Machine
end

