-- ==== Sys2Proof/Machine/Ops.lean ====
section
/-!
DEFINITION. The named operations over State: translation (09), the registers of a hand, the issue of a slot (15 R244,
14 R220), bank service (08 R130), the abandonment of a hand, and taking a fault (04 R73) with the return from it (16 R268).
-/

namespace Sys2Proof.Machine

/-! ### Translation (09 R148 to R151) -/

/-- A translation: the address, its permissions and the extent [base, limit) of virtual addresses that it holds for. -/
structure Xlat where
  pa : Nat
  x : Bool
  w : Bool
  r : Bool
  base : Nat
  limit : Nat
  deriving DecidableEq, Repr

/-- The lowest-numbered valid range entry that holds `va`; a RETIRING one is not looked up (09 R148, R153). -/
def rangeXlat (va : Nat) : KV Range → Option Xlat
  | [] => none
  | (_, e) :: rest =>
    if bit e.img.perm 0 && !e.retiring && decide (e.img.base.toNat ≤ va) && decide (va < e.img.limit.toNat) then
      some { pa := e.img.pa.toNat + (va - e.img.base.toNat), x := bit e.img.perm 3, w := bit e.img.perm 2,
             r := bit e.img.perm 1, base := e.img.base.toNat, limit := e.img.limit.toNat }
    else rangeXlat va rest

/-- A page table entry with V set and every reserved bit 0 (09 R151). -/
def pteOk (e : W64) : Bool := bit e 0 && fld e 63 56 == 0 && fld e 11 6 == 0
def ptePa (e : W64) : Nat := fld e 55 12 * 4096

/-- The entry `idx` of a page table, read at its point of coherence; one at an address that 09 R146 refuses is no entry, and
one on another module is made of that module's bytes (log 17). -/
def tableEntry (s : State) (table idx : Nat) : W64 :=
  let pa := table + 8 * idx
  if paBad s pa then 0
  else if ownModule s pa then w64 (rdPa s pa 8)
  else w64 ((List.range 8).foldr (fun i v => (Config.farByte (pa + i)).toNat + 256 * v) 0)

/-- The page that maps `va`: its frame, its size and X, W, R (09 R151). -/
def walkPage (s : State) (root va : Nat) : Option (Nat × Nat × Bool × Bool × Bool) :=
  let pte := tableEntry s
  let page (e : W64) (size : Nat) : Option (Nat × Nat × Bool × Bool × Bool) :=
    if ptePa e % size == 0 then some (ptePa e, size, bit e 3, bit e 2, bit e 1) else none
  let e1 := pte root (va / 2 ^ 39 % 512)
  if !pteOk e1 || bit e1 4 || bit e1 5 then none
  else
    let e2 := pte (ptePa e1) (va / 2 ^ 30 % 512)
    if !pteOk e2 || bit e2 5 then none
    else if bit e2 4 then page e2 (2 ^ 30)
    else
      let e3 := pte (ptePa e2) (va / 2 ^ 21 % 512)
      if !pteOk e3 || bit e3 5 then none
      else if bit e3 4 then page e3 (2 ^ 21)
      else
        let e4 := pte (ptePa e3) (va / 2 ^ 12 % 512)
        if !pteOk e4 then none
        else if bit e4 5 then
          let g := pte (ptePa e3) (va / 2 ^ 12 % 512 / 16 * 16)
          if pteOk g then page g (2 ^ 16) else none
        else page e4 4096

/-- The addresses of the table entries that a walk of `va` reads, in order. -/
def walkPath (s : State) (root va : Nat) : List Nat :=
  let i (n : Nat) : Nat := va / 2 ^ n % 512
  let e1 := tableEntry s root (i 39)
  (root + 8 * i 39) :: if !pteOk e1 || bit e1 4 || bit e1 5 then []
  else
    let e2 := tableEntry s (ptePa e1) (i 30)
    (ptePa e1 + 8 * i 30) :: if !pteOk e2 || bit e2 5 || bit e2 4 then []
    else
      let e3 := tableEntry s (ptePa e2) (i 21)
      (ptePa e2 + 8 * i 21) :: if !pteOk e3 || bit e3 5 || bit e3 4 then []
      else
        let e4 := tableEntry s (ptePa e3) (i 12)
        (ptePa e3 + 8 * i 12) :: if pteOk e4 && bit e4 5 then [ptePa e3 + 8 * (i 12 / 16 * 16)] else []

/-- The result of a page-table walk as a cached translation, a miss included. -/
def walkTlb (s : State) (c va : Nat) : Tlb :=
  match walkPage s (ctxAt s c).ptRoot.toNat va with
  | some (f, n, x, w, r) => { ctx := c, base := w64 (va / n * n), size := n, hit := some (f, x, w, r) }
  | none => { ctx := c, base := w64 (va / 4096 * 4096), size := 4096, hit := none }

/-- Whether a cached translation is one of `va`. -/
def tlbHas (c va : Nat) (t : Tlb) : Bool :=
  t.ctx == c && decide (t.base.toNat ≤ va) && decide (va < t.base.toNat + t.size)

/-- The translation of a virtual address in a context, with what the FE caches of it: range entries first, then the
page table, of which an FE caches up to 64 translations. -/
def xlate (s : State) (tlb : List Tlb) (c va : Nat) : Option Xlat × List Tlb :=
  if 2 ^ 48 ≤ va then (none, [])
  else
    match rangeXlat va (ctxAt s c).ranges with
    | some x => (some x, [])
    | none =>
      let (t, new) := match tlb.find? (tlbHas c va) with
        | some t => (t, [])
        | none => let t := walkTlb s c va; (t, [t])
      match t.hit with
      | some (f, x, w, r) =>
        (some { pa := f + (va - t.base.toNat), x := x, w := w, r := r, base := t.base.toNat,
                limit := t.base.toNat + t.size }, new)
      | none => (none, new)

/-- What the walk for an address meets on its way to the tables: nothing where a range entry or a cached translation holds the
address (09 R151, 10 R166). A table at an address that 09 R146 refuses is not read. -/
def walkMeets (s : State) (tlb : List Tlb) (d c va : Nat) : Meets :=
  if 2 ^ 48 ≤ va || (rangeXlat va (ctxAt s c).ranges).isSome || tlb.any (tlbHas c va) then .go
  else firstMeets ((walkPath s (ctxAt s c).ptRoot.toNat va).map fun pa => if paBad s pa then .go else wayMeets s d c pa true)

/-- The walk for an address of the seat in turn must wait. -/
def walkWaits (s : State) (va : W64) : Bool :=
  walkMeets s (feAt s s.curFe).tlb (feDie s.curFe) (cur s).ctx va.toNat == .wait

/-- Keep new translations, at most 64: the oldest leave first (log 13). -/
def cacheXlat (new : List Tlb) (old : List Tlb) : List Tlb := if new.isEmpty then old else (new ++ old).take 64

/-- The fabric physical address of an offset of an FE's own scratchpad or barrier objects. -/
def ownPa (s : State) (fe off : Nat) : Nat := s.moduleId.toNat * 2 ^ 46 + spBase fe + off

/-- A word of this module by its address within the module, a word of another by an address apart. -/
def wordId (s : State) (pa : Nat) : Nat := if ownModule s pa then paKey pa else pa + 2 ^ 60

/-- The address that a word's identity stands for. -/
def wordPa (s : State) (id : Nat) : Nat := if 2 ^ 60 ≤ id then id - 2 ^ 60 else s.moduleId.toNat * 2 ^ 46 + id

/-- The permissions an access needs (09 R149). -/
structure Need where
  r : Bool := false
  w : Bool := false
  x : Bool := false
  deriving DecidableEq, Repr

def Need.met (n : Need) (x : Xlat) : Bool := (!n.r || x.r) && (!n.w || x.w) && (!n.x || x.x)

/-- The objects of the barrier unit, which only a remote BARR, BTEST or BWAIT names (08 R135). -/
def isBarPa (pa : Nat) : Bool := paClass pa == 1 && decide (spTop ≤ paOff pa) && decide (paOff pa < 0x64000)

/-- Translation of one access: DATA_PAGE, then DATA_PERM (09 R148). An offset from 0x6_0000 of a scratchpad is refused
but for barrier accesses, which have no other place (08 R135); a device register is denied to a job's context (27 R400, log 125). -/
def dataXlat (s : State) (tlb : List Tlb) (c va : Nat) (need : Need) (barrier : Bool) :
    Except (BitVec 8) Nat × List Tlb :=
  let (x, new) := xlate s tlb c va
  match x with
  | none => (.error Code.dataPage, new)
  | some x =>
    if (ownModule s x.pa && paRefused s x.pa) ||
        (if barrier then !isBarPa x.pa else paClass x.pa == 1 && decide (spTop ≤ paOff x.pa)) then
      (.error Code.dataPage, new)
    else if need.met x && !regBarred c x.pa then (.ok x.pa, new)
    else (.error Code.dataPerm, new)

/-! ### The registers of a hand -/

def rdS (h : Hand) (r : Reg) : W64 := vget 0 h.work.s r.toNat
def wrS (r : Reg) (v : W64) (h : Hand) : Hand := { h with work := { h.work with s := vset h.work.s r.toNat v } }
/-- p0 reads 1 (00 R6). -/
def rdP (h : Hand) (p : Pred) : Bool := if p = 0 then true else h.work.p.getLsbD p.toNat
/-- A write to p0 is discarded (00 R6). -/
def wrP (p : Pred) (v : Bool) (h : Hand) : Hand :=
  if p = 0 then h
  else
    let m : BitVec 8 := BitVec.ofNat 8 (2 ^ p.toNat)
    { h with work := { h.work with p := if v then h.work.p ||| m else h.work.p &&& ~~~m } }
/-- Whether a selector lets its instruction execute (14 R220). -/
def selOn (h : Hand) (q : Sel) : Bool := rdP h (q.extractLsb' 0 3) != q.getLsbD 3

def modWork (g : Arch → Arch) (h : Hand) : Hand := { h with work := g h.work }

/-- Record an execution fault of the slot being issued: the first of the hand stands (00 R8). -/
def hFault (code : BitVec 8) (info addr : W64) (h : Hand) : Hand :=
  match h.flt with
  | some _ => h
  | none => { h with flt := some { code := code, slot := BitVec.ofNat 7 h.slot, info := info, addr := addr } }

/-- Queue an effect for the hand's commit. -/
def hEff (e : Eff) (h : Hand) : Hand := { h with effects := h.effects ++ [e] }

/-- Set the control transfer, unless an earlier control instruction took effect (16 R256). -/
def hCtl (c : Control) (h : Hand) : Hand := if h.ctl.isNone then { h with ctl := some c } else h

/-! ### Watchpoints and address checks -/

/-- The first byte of an access that DBGCTL watches (11 R171); a size below 3 watches eight bytes (log 14). -/
def watchHit (d : W64) (a n : Nat) (ld st loc : Bool) : Option W64 :=
  let size := 2 ^ Nat.max (fld d 15 12) 3
  let lo := fld d 63 16 / size * size
  let kinds := fld d 11 10
  let first := Nat.max a lo
  if ((ld && kinds % 2 == 1) || (st && decide (2 ≤ kinds))) && bit d 9 == loc && decide (first < a + n) &&
      decide (first < lo + size) then some (w64 first) else none

def watch (a n : Nat) (ld st loc : Bool) (h : Hand) : Hand :=
  match watchHit h.work.dbgctl a n ld st loc with
  | some v => hFault Code.watchpoint 0 v h
  | none => h

/-- ALIGN, then LOCAL_BOUNDS, of `n` bytes at a local offset (09 R145). -/
def localBad (off n al : Nat) : Option (BitVec 8 × W64) :=
  if off % al != 0 then some (Code.align, w64 off)
  else if spTop < off + n then some (Code.localBounds, w64 (Nat.max off spTop))
  else none

/-- Go on with `g` when the local bytes are in order; otherwise the slot faults. -/
def chkLocal (off n al : Nat) (g : Hand → Hand) (h : Hand) : Hand :=
  match localBad off n al with
  | some (c, a) => hFault c 0 a h
  | none => g h

/-- Go on with `g` and the physical address when a global access is in order: ALIGN, DATA_PAGE, DATA_PERM (09 R148). A walk that
a dead link or an uncorrectable entry ends faults the slot with its code (10 R166, log 118). -/
def chkGlobal (s : State) (va : W64) (al : Nat) (need : Need) (barrier : Bool) (g : Nat → Hand → Hand) (h : Hand) :
    Hand :=
  if va.toNat % al != 0 then hFault Code.align 0 va h
  else match refusal (walkMeets s (feAt s s.curFe).tlb (feDie s.curFe) (cur s).ctx va.toNat) with
  | some c => hFault c 0 va h
  | none =>
    let (r, new) := dataXlat s (feAt s s.curFe).tlb (cur s).ctx va.toNat need barrier
    let h := { h with walked := h.walked ++ new }
    match r with
    | .ok pa => g pa h
    | .error c => hFault c 0 va h

/-- The landing area of a split-phase request (17 R286). -/
def chkLanding (off : W64) (bytes : Nat) (g : Hand → Hand) (h : Hand) : Hand := chkLocal off.toNat bytes bytes g h

/-! ### Local data of a hand (04 R57) -/

/-- Remember a store of the hand for its own later loads. -/
def shadow (m : KV Byte) (off : Nat) : Nat → Nat → KV Byte
  | 0, _ => m
  | n + 1, v => shadow (KV.set off (BitVec.ofNat 8 v) m) (off + 1) n (v / 256)

/-- A `w`-bit value extended to `n` bits, with zeros when `zero` holds (17 R285). -/
def extend (v w n : Nat) (zero : Bool) : Nat :=
  let v := v % 2 ^ w
  if zero || decide (v < 2 ^ (w - 1)) then v else v + 2 ^ n - 2 ^ w

/-! ### Requests -/

/-- A fresh identity. -/
def freshId (s : State) : Nat × State := (s.nextId, { s with nextId := s.nextId + 1 })

/-- Send a request to its home: it joins the requests in flight. -/
def sendReq (r : Req) (s : State) : State := { s with reqs := s.reqs ++ [r] }

/-- A home sends a reply, which has its whole way before it. -/
def sendReply (r : Req) (b : ReplyBody) (s : State) : State :=
  { s with replies := s.replies ++ [{ req := { r with hop := 0, flit := none }, body := b }] }

def isRelease (r : Req) : Bool := match r.op with
  | .release => true
  | _ => false

/-- A request of a seat, not yet sent. -/
def mkReq (s : State) (fe k : Nat) (hand va : W64) (pa : Nat) (op : ReqOp) (land : Option Nat) : Req :=
  { id := s.nextId, born := s.nextId, ctx := (seatAt s fe k).ctx, fe := fe, seat := k, hand := hand, va := va, pa := pa, op := op,
    land := land }

/-! ### The order of a seat's requests (12 R184, R187 to R190) -/

/-- Every request that has been sent and not yet been performed at its home: in flight, refused, in a meld buffer, in a
gather unit, at a closed channel, diverted, or an atomic parked at its home (17 R293). One that stands in a wait list or is
a parked POPW has arrived. -/
def unperformed (s : State) : List Req :=
  s.reqs ++ s.refused ++ s.melds.map (·.req) ++ s.gus.flatMap (fun e => e.2.fills.flatMap (·.2.2) ++ e.2.rowWait) ++
    s.trains.flatMap (fun e => e.2.waiting ++ e.2.accepted) ++ s.ctxs.flatMap fun e => e.2.blocks.flatMap (·.held) ++ e.2.parked

/-- Requests that have not been performed, and those whose answer or acknowledgement is on its way. -/
def awaiting (s : State) : List Req := unperformed s ++ s.replies.map (·.req)

/-- Operations with a write event (12 R180). -/
def isWriteOp : ReqOp → Bool
  | .read _ _ | .tagrd | .waitRead _ | .btest | .bwait _ | .release => false
  | _ => true

/-- Releases: every earlier event of the seat is performed before them (12 R184); the restore of an abandoned POPW is a push
(12 R181). -/
def isRelOp : ReqOp → Bool
  | .setf _ | .take | .stfWrite _ | .barr _ | .atomic 11 _ _ _ | .pile (.push _) | .pile (.restore _) => true
  | _ => false

/-- A pop is an acquire when it receives a value (12 R184). -/
def isAcqOp : ReqOp → Bool
  | .pile .pop => true
  | _ => false

/-- Bytes of the location that an operation acts on (12 R180). -/
def opBytes : ReqOp → Nat
  | .read n _ | .write n _ => n
  | .atomic _ w64 _ _ => if w64 then 8 else 4
  | .pile _ => 32
  | .barr _ | .binit _ _ _ | .brst | .btest | .bwait _ => 8
  | _ => 4

/-- Whether a request touches any of `n` bytes at a physical address. -/
def touches (x : Req) (pa n : Nat) : Bool := decide (x.pa < pa + n) && decide (pa < x.pa + opBytes x.op)

def sameSeat (x : Req) (fe k : Nat) : Bool := x.fe == fe && x.seat == k

/-- Whether request `x` must be performed before `r` of the same seat: it is older, and is an acquire (12 R184) or acts on the
same location (12 R190). -/
def goesBefore (r x : Req) : Bool :=
  sameSeat x r.fe r.seat && decide (x.id < r.id) && (x.acq || touches x r.pa (opBytes r.op))

/-- Whether request `x` is covered by the release or fence that `r` of the same seat comes behind: it is performed and answered
before `r` (12 R187, R189, R193). -/
def covered (r x : Req) : Bool := sameSeat x r.fe r.seat && decide (x.id < r.after)

/-- Nothing of its seat that must come before request `r` is still to come. -/
def seatOrder (s : State) (r : Req) : Bool := !((unperformed s).any (goesBefore r) || (awaiting s).any (covered r))

/-- A request as its seat sends it: with its identity, behind what its seat's fences and its own release cover. -/
def stamp (s : State) (r : Req) : Req :=
  let t := seatAt s r.fe r.seat
  { r with
    id := s.nextId
    after := if isRelOp r.op then s.nextId else if isWriteOp r.op then Nat.max t.fenceSt t.fenceAll else t.fenceAll
    acq := isAcqOp r.op
    step := t.stepping
    late := jobFrozen s r.ctx && !t.stepping }

/-- Send a request with a fresh identity. -/
def sendNew (r : Req) (s : State) : State := sendReq (stamp s r) { s with nextId := s.nextId + 1 }

/-- An operation of a seat on its own FE. -/
def ownReq (s : State) (fe k : Nat) (hand : W64) (off : Nat) (op : ReqOp) : Req := mkReq s fe k hand 0 (ownPa s fe off) op none

/-- An operation of a seat on its own FE can be performed at once: no earlier event of the seat must come before it. -/
def goesNow (s : State) (fe k off : Nat) (op : ReqOp) : Bool := seatOrder s (stamp s (ownReq s fe k 0 off op))

/-- An operation of a seat on its own FE at its commit: `go` performs it at once, unless it must wait for an earlier event
of the seat; it is then a request to the FE's own home, and the seat goes on (12 R189). -/
def ownOp (fe k : Nat) (hand : W64) (off : Nat) (op : ReqOp) (go : State → State) (s : State) : State :=
  if goesNow s fe k off op then go s else sendNew (ownReq s fe k hand off op) s

/-! ### What a seat observes of its own FE (12 R189, R190) -/

/-- The youngest of some requests. -/
def youngest (l : List Req) : Option Req := l.foldl (fun m x => match m with
  | some y => if y.id < x.id then some x else m
  | none => some x) none

/-- Requests of a seat to `n` bytes of its own FE that are still to be performed. -/
def ownPend (s : State) (fe k off n : Nat) : List Req :=
  (unperformed s).filter fun x => sameSeat x fe k && touches x (ownPa s fe off) n

/-- What a seat observes of a place of its own FE: what its home holds, what its own youngest event there leaves, or nothing
before that event has been performed. -/
inductive Sees (α : Type) where
  | home
  | own (v : α)
  | later
  deriving DecidableEq, Repr

/-- What an operation leaves in the byte `i` of its location, if it acts on bytes. -/
def opByte (i : Nat) : ReqOp → Option (Sees Byte)
  | .write _ v => some (.own (BitVec.ofNat 8 (v.toNat / 256 ^ i)))
  | .setf v | .stfWrite v => some (.own (BitVec.ofNat 8 (v.toNat / 256 ^ i)))
  | .read _ _ | .atomic _ _ _ _ => some .later
  | _ => none

/-- What an operation leaves of a word's tag, if it acts on it. -/
def opTag : ReqOp → Option (Sees Bool)
  | .setf _ | .stfWrite _ => some (.own true)
  | .clre | .take => some (.own false)
  | .tagrd => some .later
  | _ => none

/-- What the youngest of a seat's operations leaves, of those that `f` says something of. -/
def seenOf {α : Type} (f : Req → Option (Sees α)) (l : List Req) : Sees α :=
  ((youngest (l.filter fun x => (f x).isSome)).bind f).getD .home

def seenByte (s : State) (fe k off : Nat) : Sees Byte :=
  seenOf (fun x => opByte (ownPa s fe off - x.pa) x.op) (ownPend s fe k off 1)
def seenTag (s : State) (fe k off : Nat) : Sees Bool := seenOf (fun x => opTag x.op) (ownPend s fe k (off / 4 * 4) 4)

/-- An acquire of the seat in turn is still to be performed: its later reads come after it (12 R184). -/
def acqBehind (s : State) (fe k : Nat) : Bool := (unperformed s).any fun x => sameSeat x fe k && x.acq

/-- A read of `n` bytes of the seat's own FE must wait: for an acquire, or for an event of the seat there whose outcome is not
known yet (12 R184, R190). -/
def ownBehind (s : State) (fe k off n : Nat) : Bool :=
  acqBehind s fe k || (List.range n).any fun i => seenByte s fe k (off + i) == .later

/-- One byte of the scratchpad as a seat observes it. -/
def seatByte (s : State) (fe k off : Nat) : Byte := match seenByte s fe k off with
  | .own b => b
  | _ => memByte s.mem (spBase fe + off)

/-- `n` bytes of its scratchpad as a seat observes them. -/
def seatBytes (s : State) (fe k off n : Nat) : List Byte := (List.range n).map fun i => seatByte s fe k (off + i)

/-- One byte of the scratchpad as the seat in turn observes it, with its hand's own earlier stores over it (04 R57). -/
def localByte (s : State) (fe : Nat) (h : Hand) (off : Nat) : Byte :=
  match KV.find off h.bytes with
  | some b => b
  | none => seatByte s fe s.curSeat off

def localRead (s : State) (fe : Nat) (h : Hand) (off : Nat) : Nat → Nat
  | 0 => 0
  | n + 1 => (localByte s fe h off).toNat + 256 * localRead s fe h (off + 1) n

/-! ### Bank service (08 R130) -/

/-- Whether a word is held or reserved. -/
def isHeld (f : FE) (pa : Nat) : Bool := f.holds.any (fun h => h.pa == paKey pa)

/-- Give a value to a waiting seat: RUNNING again, unless a hitch keeps it frozen (11 R175). -/
def grantSeat (fe k : Nat) (v : W64) (st : Nat) (s : State) : State :=
  modSeat fe k (fun t =>
    { t with hand := t.hand.map (fun h => { h with grant := some (v, st) })
             st := if t.st == .waiting then .running else t.st
             prev := if t.st == .frozen && t.prev == .waiting then .running else t.prev }) s

/-- Serve one waiter of word `pa` if it can be served now; the answer says whether it leaves the list. -/
def serveOne (fe pa : Nat) (w : Waiter) (s : State) : State × Bool :=
  let f := feAt s fe
  let full := tagFull s pa
  let held := isHeld f pa
  let v := w64 (rdPa s pa 4)
  let hold (g k : Nat) (t : State) : State := modFe fe (fun f => { f with holds := f.holds ++ [{ pa := pa, fe := g, seat := k }] }) t
  match w with
  | .ldf k _ => if full then (grantSeat fe k v 0 s, true) else (s, false)
  | .ldx k _ => if full && !held then (hold fe k (grantSeat fe k v 0 s), true) else (s, false)
  | .stf k _ => if !full && !held then (hold fe k (grantSeat fe k 0 0 s), true) else (s, false)
  | .remote r =>
    match r.op with
    | .waitRead false => if full then (sendReply r (.grant v 0) s, true) else (s, false)
    | .waitRead true => if full && !held then (hold r.fe r.seat (sendReply r (.grant v 0) s), true) else (s, false)
    | .waitStf => if !full && !held then (hold r.fe r.seat (sendReply r (.grant 0 0) s), true) else (s, false)
    | _ => (s, false)
  | .bar _ _ _ => (s, false)

def waiterPa : Waiter → Nat
  | .ldf _ pa => pa
  | .ldx _ pa => pa
  | .stf _ pa => pa
  | .bar _ n _ => 2 ^ 70 + n
  | .remote r => paKey r.pa

/-- Serve the waiters of word `pa` in the order of the list; those not served stay in it. -/
def serveList (fe pa : Nat) : List Waiter → State → State × List Waiter
  | [], s => (s, [])
  | w :: rest, s =>
    if waiterPa w == pa then
      let (s, gone) := serveOne fe pa w s
      let (s, left) := serveList fe pa rest s
      (s, if gone then left else w :: left)
    else
      let (s, left) := serveList fe pa rest s
      (s, w :: left)

/-- Serve a word's waiters (08 R130). -/
def serveWord (fe pa : Nat) (s : State) : State :=
  let (s, left) := serveList fe pa (feAt s fe).waits s
  modFe fe (fun f => { f with waits := left }) s

/-- Set the tag of a word of a scratchpad and serve its waiters. -/
def setTag (pa : Nat) (full : Bool) (s : State) : State :=
  let key := paKey pa / 4 * 4
  let s := putTag pa full s
  match feOfPa pa with
  | some fe => serveWord fe key s
  | none => s

/-- Land words in ascending order, each tag set full as its word is written (17 R286). -/
def landWords (base : Nat) : List W32 → State → State
  | [], s => s
  | w :: rest, s => landWords (base + 4) rest (setTag base true (wrPa base 4 w.toNat s))

/-- Write bytes from an address on; in a scratchpad the tags of their words become full, in ascending order. -/
def landBytes (base : Nat) : List Byte → State → State
  | [], s => s
  | b :: rest, s =>
    let s := wrPa base 1 b.toNat s
    landBytes (base + 1) rest
      (if paClass base == 0 then s else if base % 4 == 3 || rest.isEmpty then setTag base true s else s)

/-- Empty the tags of a landing area (04 R59). -/
def emptyWords (base : Nat) : Nat → State → State
  | 0, s => s
  | n + 1, s => emptyWords (base + 4) n (setTag base false s)

/-- End a hold or reservation of word `pa` and serve its waiters (08 R131). -/
def dropHold (home pa fe k : Nat) (s : State) : State :=
  let key := paKey pa
  let s := modFe home (fun f => { f with
    holds := f.holds.filter (fun h => !(h.pa == key && h.fe == fe && h.seat == k))
    waits := f.waits.filter (fun w => match w with
      | .remote r => !(r.fe == fe && r.seat == k && paKey r.pa == key)
      | _ => true) }) s
  serveWord home key s

/-! ### The abandonment of a hand (00 R6, 04 R58, 08 R131, R140, 17 R290, 18 R317) -/

/-- The words of a split-phase POPW answer that a restore brings back to its home (08 R140). -/
def restoreReq (r : Req) (v : W64) (s : State) : State :=
  sendNew { r with op := .pile (.restore v), land := none, hops := 0, hop := 0, flit := none } s

def isReq (r x : Req) : Bool := x.id == r.id

/-- A request, or its reply, is on its way. -/
def travelling (s : State) (r : Req) : Bool := (unperformed s).any (isReq r) || s.replies.any fun x => isReq r x.req

/-- Take a request out of every place that it can stand in on its way, and out of the list that it waits or is parked in. -/
def takeBack (r : Req) (s : State) : State :=
  let out (l : List Req) : List Req := l.filter (fun x => !isReq r x)
  let s := { s with
    reqs := out s.reqs, refused := out s.refused
    melds := s.melds.filter (fun m => !isReq r m.req)
    gus := s.gus.map (fun e => (e.1, { e.2 with
      parked := out e.2.parked, rowWait := out e.2.rowWait, fills := e.2.fills.map fun f => (f.1, f.2.1, out f.2.2) }))
    trains := s.trains.map (fun e => (e.1, { e.2 with waiting := out e.2.waiting, accepted := out e.2.accepted }))
    ctxs := s.ctxs.map (fun e => (e.1, { e.2 with parked := out e.2.parked, blocks := e.2.blocks.map fun b => { b with held := out b.held } })) }
  match feOfPa r.pa with
  | some home => modFe home (fun f => { f with waits := f.waits.filter (fun w => match w with
      | .remote x => !isReq r x
      | _ => true) }) s
  | none => s

/-- Take back a wait request or a POPW of an abandoned hand (08 R131, R140): a POPW that has been answered brings its value
back, and a wait request that has reached its bank is followed by a release. -/
def withdraw (r : Req) (granted : Option (W64 × Nat)) (s : State) : State :=
  let answer : Option ReplyBody := (s.replies.find? (fun x => isReq r x.req)).map (·.body)
  let under := (unperformed s).any (isReq r)
  let s := takeBack r { s with replies := s.replies.filter (fun x => !isReq r x.req) }
  match r.op with
  | .pile .popw =>
    (match granted, answer with
     | some (v, st), _ => if st == 4 then s else restoreReq r v s
     | none, some (.grant v st) => if st == 4 then s else restoreReq r v s
     | _, _ => s)
  | .waitRead _ | .waitStf | .bwait _ => if under then s else sendNew { r with op := .release } s
  | _ => s

/-- Drop the hand in flight of a seat with everything it holds; its seat state stays as it was at the hand's start. -/
def abandon (fe k : Nat) (s : State) : State :=
  match (seatAt s fe k).hand with
  | none => s
  | some h =>
    let s := modSeat fe k (fun t => { t with hand := none, belayCnt := h.cnt0 }) s
    let s := modFe fe (fun f => { f with
      waits := f.waits.filter (fun w => match w with
        | .ldf j _ => j != k
        | .ldx j _ => j != k
        | .stf j _ => j != k
        | .bar j _ _ => j != k
        | .remote _ => true)
      planes := f.planes.map (fun p => { p with ports := p.ports.map (fun e =>
        (e.1, if e.2.holder == some k then { e.2 with reserved := 0, holder := none } else e.2)) }) }) s
    let s := each h.holds (fun x s =>
      match feOfPa x.pa with
      | some home =>
        if x.remote then sendNew (mkReq s fe k h.addr 0 (wordPa s x.pa) .release none) s else dropHold home x.pa fe k s
      | none => s) s
    let s := each h.popws (fun x s => restoreReq x.1 x.2 s) s
    match h.asked with
    | some r => withdraw r h.grant s
    | none =>
      -- a local wait that was served, and whose slot has not yet gone on, holds its word at the bank only; a hold of a hand
      -- that has committed ends with its own release
      let ends (pa : Nat) : Bool := (unperformed s).any fun x => sameSeat x fe k && isRelease x && paKey x.pa == pa
      each ((feAt s fe).holds.filter fun x => x.fe == fe && x.seat == k && !h.holds.any (·.pa == x.pa) && !ends x.pa)
        (fun x => dropHold fe x.pa fe k) s

/-! ### Hitch causes (11 R176) -/

/-- Word 2 of a cause record. -/
def causeWho (s : State) (code : BitVec 8) (fe k : Nat) (dbg : Bool) (epoch : BitVec 8) (job : BitVec 16) : W64 :=
  w64 (code.toNat * 2 ^ 56 + s.moduleId.toNat * 2 ^ 46 + feDie fe * 2 ^ 43 + feCluster fe * 2 ^ 37 + feNum fe * 2 ^ 31 +
    k * 2 ^ 29 + bitAt dbg 28 + epoch.toNat * 2 ^ 16 + job.toNat)

/-- Causes compare by PTIME, then by module, die, cluster, FE and seat (11 R176). -/
def causeLt (a b : CauseWords) : Bool :=
  decide (a.ptime.toNat < b.ptime.toNat) || (a.ptime == b.ptime && decide (fld a.who 55 29 < fld b.who 55 29))

/-- HITCHFIRST keeps the earliest cause seen. -/
def firstCause (old new : CauseWords) : CauseWords := if !old.valid || causeLt new old then new else old

/-- A cause arises in this module: it is recorded, and starts a hitch wave unless its job is frozen already
(11 R170, R176). -/
def raiseHitch (job : BitVec 16) (hand : W64) (code : BitVec 8) (fe k : Nat) (dbg : Bool) (s : State) : State :=
  let h := s.hitch
  let again := h.frozen.contains job || h.markers.any (fun m => m.1 == job)
  let epoch := if again then h.epoch else h.epoch + 1
  let c : CauseWords := { ptime := w64 s.time, hand := hand, who := causeWho s code fe k dbg epoch job, valid := true }
  let loc := if again then h.loc else []
  let full := decide (8 ≤ loc.length)
  let lost0 : BitVec 8 := if again then h.lost else 0
  { s with hitch := { h with
      epoch := epoch
      job := job
      loc := if full then loc else loc ++ [c]
      lost := if full && lost0 != 255 then lost0 + 1 else lost0
      -- a cause in a job that is frozen already is on no marker
      first := if !again then c else if h.frozen.contains job then h.first else firstCause h.first c
      markers := if again then h.markers else h.markers ++ [(job, epoch, c)] } }

/-- What a meld window of a context is counted from: it stands still while the receivers of its job are frozen (08 R144). -/
def meldClock (s : State) (c : Nat) : Nat := if recvFrozen s c then 0 else s.turns

/-! ### Stopping a context (04 R54, R73) -/

/-- Freeze a seat where it stands, its state kept. -/
def freezeSeat (fe k : Nat) (s : State) : State :=
  modSeat fe k (fun t => if t.st == .frozen then t else { t with st := .frozen, prev := t.st }) s

/-- A WAITING seat of a STOPPED context abandons its hand and freezes at that hand's start (04 R73). -/
def stopWaiting (fe k : Nat) (s : State) : State :=
  freezeSeat fe k (modSeat fe k (fun t => { t with st := .running }) (abandon fe k s))

/-- A fault with no handler or an uncorrectable error: a RUNNING context is STOPPED, its WAITING seats abandon their
hands and freeze, and the others freeze at their next hand boundary; a PREEMPTING one finishes its save first. In another
state the event is a context-state error (04 R54). -/
def stopCtx (c : Nat) (s : State) : State :=
  match (ctxAt s c).st with
  | .running =>
    let s := report (.contextStopped c) (modCtx c (fun x => { x with st := .stopped }) s)
    each (seatsOf s c) (fun e s =>
      if (seatAt s e.1 e.2).st == .waiting then stopWaiting e.1 e.2 s else s) s
  | .preempting => modCtx c (fun x => { x with stopAfter := true }) s
  | _ => if c < 64 then report (.contextError c) s else s

/-- Halt a seat at the start of a belay hand (04 R63): it becomes BELAYED. A seat that was running its rebuild stub, or
a handler entered from it, halts at the resume hand with its original record (04 R70). -/
def haltAt (fe k : Nat) (hdr belay : W64) (s : State) : State :=
  modSeat fe k (fun t =>
    match t.orig with
    | some a => { t with st := .belayed, hand := none, arch := a, pc := t.stubRet, orig := none }
    | none => { t with st := .belayed, hand := none, hdr := hdr, belayDw := belay }) s

/-- A DSTEP completes: its status lands (11 R177, 19 R353). -/
def stepDone (fe k : Nat) (v : W32) (s : State) : State :=
  let dst := (seatAt s fe k).stepTo
  let s := modSeat fe k (fun t => { t with stepping := false, stepTo := none }) s
  match dst with
  | some (e, off) => landWords (ownPa s e off) [v] s
  | none => s

/-! ### Taking a fault or a trap (04 R73 to R75) -/

/-- Write the fault registers (04 R74). -/
def faultRegs (f : FaultRec) (trap : Bool) (hand ret : W64) (a : Arch) : Arch :=
  { a with faultcode := w64 (bitAt trap 15 + f.slot.toNat * 256 + f.code.toNat)
           faultinfo := f.info
           faultaddr := f.addr
           faulthand := hand
           rethand := ret }

/-- A FAULTED seat goes on under 04 R73: into its handler when it has one and HNDL is 0, and otherwise it stays, and its
context stops. While its context is PREEMPTING it stays FAULTED (04 R75). -/
def proceedFaulted (fe k : Nat) (s : State) : State :=
  let t := seatAt s fe k
  if t.st != .faulted then s
  else if (ctxAt s t.ctx).st == .preempting && t.arch.fltvec != 0 && !t.arch.hndl then s
  else if t.arch.fltvec != 0 && !t.arch.hndl then
    modSeat fe k (fun t => { t with
      st := .running
      pc := t.arch.fltvec
      arch := { t.arch with hndl := true, hin := t.arch.hin || t.arch.stub } }) s
  else stopCtx t.ctx s

/-- The one operation that takes a fault or a trap: the hand in flight is abandoned (a trap's hand has committed
already), the fault registers are written, and the seat enters FAULTED, a hitch wave starting on a watchpoint or with
DBGCTL.HOT, and otherwise goes on into its handler. -/
def takeFault (fe k : Nat) (f : FaultRec) (trap : Bool) (hand ret : W64) (s : State) : State :=
  let s := abandon fe k s
  let t := seatAt s fe k
  let wave := !isEdge fe && (f.code == Code.watchpoint || bit t.arch.dbgctl 0)
  let code := if t.stepping && wave then Code.hitch else f.code
  let s := modSeat fe k (fun t => { t with
    st := .faulted
    arch := faultRegs { f with code := code } trap hand ret t.arch }) s
  if wave then
    stepDone fe k 2 (freezeSeat fe k (raiseHitch (ctxAt s t.ctx).job hand f.code fe k false s))
  else if t.stepping then stepDone fe k 2 (freezeSeat fe k s)
  else proceedFaulted fe k s

/-- The fault of the hand in flight, or of the hand at the seat's PC: FAULTHAND and RETHAND name it. -/
def faultHere (fe k : Nat) (f : FaultRec) (s : State) : State :=
  let t := seatAt s fe k
  let hand := match t.hand with
    | some h => h.addr
    | none => t.pc
  takeFault fe k f false hand hand s

/-- ERET's effect on a seat that has committed its hand: out of the handler, out of the stub, or a plain jump through
RETHAND (16 R268). -/
def returnFrom (t : Seat) : Seat :=
  if t.arch.hndl && (!t.arch.stub || t.arch.hin) then
    { t with pc := t.arch.rethand, arch := { t.arch with hndl := false, hin := false } }
  else if t.arch.stub then
    { t with pc := t.stubRet, orig := none, arch := { t.arch with stub := false } }
  else { t with pc := t.arch.rethand }

/-- A deferred fault for a seat of context `c` (17 R287): it is kept for the next hand boundary, or until the release of a
FROZEN seat; a BELAYED seat takes it at its belay hand, and for a retired seat the fault is reported and its context stops. -/
def deferFault (fe k c : Nat) (f : FaultRec) (casc : Bool) (s : State) : State :=
  let t := seatAt s fe k
  let f := { f with slot := 0 }
  let keep (s : State) : State := modSeat fe k (fun t => { t with deferred := t.deferred ++ [{ flt := f, casc := casc }] }) s
  if t.st == .retired || t.st == .free || t.ctx != c then stopCtx c (report (.fault c f.code) s)
  else if t.st == .belayed && !t.faulted then takeFault fe k f false t.pc t.pc s
  else keep s

/-- A request of a seat that is refused after its commit (17 R287). An uncorrectable error is reported against the context
of the request, which stops (10 R165, 13 R205). -/
def refuseReq (r : Req) (code : BitVec 8) (s : State) : State :=
  let t := seatAt s r.fe r.seat
  let s := modSeat r.fe r.seat (fun t => { t with splits := t.splits.filter (· != r.id) }) s
  if code != Code.memoryUncorrectable then deferFault r.fe r.seat r.ctx { code := code, info := r.hand ||| 1, addr := r.va } false s
  else
    stopCtx r.ctx (report (.fault r.ctx code)
      (if t.st == .retired || t.st == .free || t.ctx != r.ctx then s
       else deferFault r.fe r.seat r.ctx { code := code, info := r.hand ||| 1, addr := r.va } false s))

/-- Flags raised outside a hand are ORed into the owner's FPFLAGS, whatever its hand does (03 R44). -/
def orFlags (fe k : Nat) (fl : W64) (s : State) : State :=
  modSeat fe k (fun t => { t with
    arch := { t.arch with fpflags := t.arch.fpflags ||| fl }
    hand := t.hand.map (modWork (fun a => { a with fpflags := a.fpflags ||| fl })) }) s

/-- Post a record to a seat's event queue (14 R240): it is on its way. -/
def postRec (fe k : Nat) (e : EvRec) (s : State) : State :=
  { s with recs := s.recs ++ [{ fe := fe, seat := k, ev := e }] }

/-! ### The memory-side cache (13 R199 to R201, R205, R206) -/

/-- Word 0 of a GU event record (13 R208); word 1 is pod time. -/
def guEvent (kind gu ch bank row spare : Nat) (s : State) : State :=
  report (.guEvent (w64 (kind * 2 ^ 56 + gu % 256 * 2 ^ 48 + ch % 32 * 2 ^ 43 + bank % 64 * 2 ^ 37 + row % 2 ^ 15 * 2 ^ 22 +
    spare % 512 * 2 ^ 13)) (w64 s.time)) s

/-- Where a row lies now: its own number, or 24,576 plus the spare it was swapped to. -/
def rowAt (g : Gu) (key : Nat) : Nat := match KV.find key g.indir with
  | some sp => key / 2 ^ 16 * 2 ^ 16 + 24576 + sp
  | none => key

/-- Count one activation of a row; a bank's tracker has 64 entries, and a row that finds none free is not counted
(13 R206, log 25). -/
def activate (key : Nat) (g : Gu) : Gu :=
  let loc := rowAt g key
  let used := (g.hot.filter (fun e => e.1 / 2 ^ 16 == loc / 2 ^ 16)).length
  if !g.swapen || ((KV.find loc g.hot).isNone && decide (64 ≤ used)) then g
  else { g with hot := KV.upd 0 loc (· + 1) g.hot }

/-- The set of a line: 4 MiB in 16 ways of 256-byte lines are 1,024 sets; which lines share one is DESIGN CHOICE, log 26. -/
def setOf (seg : Nat) : Nat := (seg / 32 * 2 + seg % 2) % 1024

/-- Install a line. A set that holds 16 others first evicts one (which is DESIGN CHOICE, log 26), writing it back, with one
activation, if it is dirty. -/
def install (seg : Nat) (g : Gu) : Gu :=
  let mates := g.cached.filter (fun e => setOf e.1 == setOf seg && e.1 != seg)
  let g := match mates with
    | e :: _ =>
      if mates.length < 16 then g
      else
        let g := { g with cached := KV.drop e.1 g.cached }
        if e.2 then activate (keyOf (segPa e.1)) g else g
    | [] => g
  { g with cached := KV.upd false seg id g.cached }

/-- Note an access in the cache: its line is held, dirty after a write. -/
def touchLine (seg : Nat) (write : Bool) (g : Gu) : Gu :=
  { g with cached := KV.upd false seg (fun d => d || write) g.cached }

/-- A corrected error of a fill is counted (13 R205). -/
def fillEcc (seg : Nat) (g : Gu) : Gu :=
  if KV.find seg g.ecc == some false then { g with corrected := g.corrected + 1, ecc := KV.drop seg g.ecc } else g

/-- An access of a stream, an engine, a page-table walk or the CP to HBM, which its gather unit performs in the cache: a miss
fills the line, with one activation. An uncorrectable fill installs nothing, is reported, and stops the context. -/
def edgeTouch (c pa : Nat) (write : Bool) (s : State) : State :=
  if !ownModule s pa || paClass pa != 0 then s
  else
    let n := guOfPa pa
    let g := guAt s n
    let seg := segOf pa
    if (KV.find seg g.cached).isSome then modGu n (touchLine seg write) s
    else if badFill g pa then
      stopCtx c (report (.fault c Code.memoryUncorrectable) (guEvent 5 n (chanOfPa pa) (bankHbm pa) (rowOf pa) 0
        (modGu n (fun g => { activate (keyOf pa) g with ecc := KV.drop seg g.ecc }) s)))
    else modGu n (fun g => touchLine seg write (install seg (activate (keyOf pa) (fillEcc seg g)))) s

/-- The same of `n` bytes: each line once. -/
def edgeSpan (c pa n : Nat) (write : Bool) (s : State) : State :=
  if n == 0 then s
  else each (List.range ((pa + n - 1) / 256 - pa / 256 + 1)) (fun i => edgeTouch c (if i == 0 then pa else (pa / 256 + i) * 256) write) s

/-- A page-table walk reads its entries through the cache. -/
def walkTouch (c va : Nat) (s : State) : State :=
  each (walkPath s (ctxAt s c).ptRoot.toNat va) (fun pa => edgeTouch c pa false) s

/-- The translation of an access that keeps no cached one: a walk, unless a range entry holds the address. -/
def xlateTouch (c va : Nat) (s : State) : State :=
  if 2 ^ 48 ≤ va || (rangeXlat va (ctxAt s c).ranges).isSome then s else walkTouch c va s

/-! ### The issue of a slot (04 R60, 14 R220, 15 R244) -/

/-- How a slot ends: it is done, the seat waits in WAITING, or issue stalls. -/
inductive Ans where
  | done | wait | stall
  deriving DecidableEq, Repr

/-- Add a weight to BELAYCNT; with enforcement on, a count above MAX is BELAY_DISTANCE at once (04 R60, 15 R253). The
answer says whether the hand goes on. -/
def addWeight (w : Nat) (s : State) : State × Bool :=
  let t := cur s
  match t.hand with
  | none => (s, false)
  | some h =>
    let n := Nat.min (t.belayCnt.toNat + w) 0xFFFF
    let s := modCur (fun t => { t with belayCnt := BitVec.ofNat 16 n }) s
    if h.work.belayEn && decide (h.work.belayMax.toNat < n) then
      (faultHere s.curFe s.curSeat
        { code := Code.belayDistance, slot := BitVec.ofNat 7 h.slot, info := w64 n } s, false)
    else (modHand (fun h => { h with counted := true }) s, true)

/-- The FE caches the page-table translations that the slot has made (09 R151). -/
def cacheWalked (s : State) : State :=
  let new := match (cur s).hand with
    | some h => h.walked
    | none => []
  if new.isEmpty then s
  else
    each new (fun t => walkTouch t.ctx t.base.toNat)
      (modFe s.curFe (fun f => { f with tlb := cacheXlat new f.tlb }) (modHand (fun h => { h with walked := [] }) s))

/-- The slot is over: the next one follows, and translations it made are cached. -/
def nextSlot (s : State) : State :=
  let s := modHand (fun h => { h with
    slot := h.slot + 1, counted := false, entered := false, stalled := false, asked := none, grant := none }) (cacheWalked s)
  modCur (fun t => { t with st := if t.st == .waiting then .running else t.st }) s

/-- The slot has left its seat WAITING: a stepped seat ends its step, a seat of a context that is being pre-empted abandons its
hand and halts (04 R63), and one of a context that has been STOPPED, or of a job that is frozen, freezes (04 R73, 11 R173, R177). -/
def enterWaiting (s : State) : State :=
  let fe := s.curFe
  let k := s.curSeat
  let s := modCur (fun t => { t with st := .waiting }) (cacheWalked s)
  let t := cur s
  if t.stepping then
    (match t.hand.bind (·.asked) with
     -- the condition of a wait at another home is not known before the request is there
     | some r => if travelling s r then s else stepDone fe k 1 (freezeSeat fe k s)
     | none => stepDone fe k 1 (freezeSeat fe k s))
  else if isEdge fe then s
  else if (ctxAt s t.ctx).st == .preempting then haltAt fe k t.hdr t.belayDw (abandon fe k s)
  else if (ctxAt s t.ctx).st == .stopped then stopWaiting fe k s
  else if jobFrozen s t.ctx then freezeSeat fe k s
  else s

/-- Issue the current slot: `w` is its weight (which only R71 and R244 let depend on the state), `q` its selector,
`blocking` whether it may wait, and `f` what it does when it executes. A blocking slot behind a recorded fault does
not wait (00 R8). -/
def issueGen (w : State → Hand → Nat) (base : Nat) (q : Sel) (blocking : Bool) (f : State → State × Ans) (s : State) :
    State :=
  match (cur s).hand with
  | none => s
  | some h =>
    let on := selOn h q
    let (s, go) := if h.counted then (s, true) else addWeight (if on then w s h else base) s
    if !go then s
    else if !on || (blocking && h.flt.isSome) then nextSlot s
    else
      match f s with
      | (s, .done) => nextSlot s
      | (s, .wait) => enterWaiting s
      | (s, .stall) => modHand (fun h => { h with stalled := true }) (cacheWalked s)

/-- Issue an instruction that only works on its hand. -/
def issue (w : Nat) (q : Sel) (g : State → Hand → Hand) (s : State) : State :=
  issueGen (fun _ _ => w) w q false (fun s => (modHand (g s) s, .done)) s

/-- Issue a blocking instruction. -/
def issueB (w : Nat) (q : Sel) (f : State → State × Ans) (s : State) : State :=
  issueGen (fun _ _ => w) w q true f s

end Sys2Proof.Machine
end

