-- ==== Sys2Proof/Machine/Operands.lean ====
section
/-!
DEFINITION. Every operand form: effective addresses of the memory forms (17 R285, R292, R294), code-relative addresses
(14 R228), the spill redirection (04 R71), bit-field descriptors (16 R279) and immediates.
-/

namespace Sys2Proof.Machine

/-- `[sa+off]` of the memory majors: (S[sa] + sext(off, 16)) mod 2^64 (17 R285). -/
def ea16 (h : Hand) (a : Reg) (off : BitVec 16) : W64 := rdS h a + off.signExtend 64

/-- `[sa+off]` of an atomic: OFF8 counts units of the width (17 R292). -/
def eaAtom (h : Hand) (a : Reg) (off : BitVec 8) (w64 : Bool) : W64 :=
  rdS h a + off.signExtend 64 * (if w64 then 8 else 4)

/-- `[sa+off]` of a pile operation: OFF8 counts 32 bytes (17 R294). -/
def eaPile (h : Hand) (a : Reg) (off : BitVec 8) : W64 := rdS h a + off.signExtend 64 * 32

/-- The address L of LIT and LEA (14 R228). -/
def litAddr (h : Hand) (off : BitVec 21) : W64 := h.addr + off.signExtend 64

/-- The target of BR and CALL (16 R257). -/
def brTarget (h : Hand) (disp : BitVec 22) : W64 := h.addr + disp.signExtend 64 * 8

/-- The immediate of the I form (16 R273). -/
def immI (imm : BitVec 10) : W64 := imm.signExtend 64

/-- Bytes of an access: the major's width code (15 R250). -/
def widthBytes (w : BitVec 2) : Nat := 2 ^ w.toNat

/-- The spill floor of a seat (04 R71). -/
def spillFloor (t : Seat) : W64 := t.spillbase.setWidth 64 + 0x200

/-- Whether an LD or ST based on `a` at effective address `ea` is redirected: its base is sp and its offset, read as a
signed number, lies below the floor (04 R71). -/
def redirected (t : Seat) (a : Reg) (ea : W64) : Bool := a == 62#6 && ea.slt (spillFloor t)

/-- The global address that a redirected access goes to: OVFPTR - (floor - offset). -/
def spillAddr (t : Seat) (ea : W64) : W64 := t.ovfptr - (spillFloor t - ea)

/-- POS and LEN of a bit-field descriptor (16 R279). -/
def bfPos (v : W64) : Nat := fld v 5 0
def bfLen (v : W64) : Nat :=
  let len := fld v 14 8
  if len == 0 || decide (64 - bfPos v < len) then 64 - bfPos v else len

/-- The number of a barrier object in a local form: S[sa][63:11] must be 0 (17, barrier instructions). -/
def chkBarNo (v : W64) (g : Nat → Hand → Hand) (h : Hand) : Hand :=
  if v.toNat < 2048 then g v.toNat h else hFault Code.localBounds 0 0 h

end Sys2Proof.Machine
end

