-- ==== Sys2Proof/Machine/Integer.lean ====
section
/-!
DEFINITION. The integer, immediate, compare, predicate and bit-field instructions (16 R270 to R279), and LEA.
-/

namespace Sys2Proof.Machine

abbrev Result := Host.Outcome State Fault Refusal

/-! ### Shared shapes -/

/-- sd := f(S[sa], S[sb]). -/
def opRRR (w : Nat) (f : W64 → W64 → W64) (d a b : Reg) (q : Sel) (s : State) : State :=
  issue w q (fun _ h => wrS d (f (rdS h a) (rdS h b)) h) s

/-- sd := f(S[sa]). -/
def opRR (w : Nat) (f : W64 → W64) (d a : Reg) (q : Sel) (s : State) : State :=
  issue w q (fun _ h => wrS d (f (rdS h a)) h) s

/-- A division or remainder: a zero divisor is INT_DIVZERO (16 R270). -/
def opDiv (f : W64 → W64 → W64) (d a b : Reg) (q : Sel) (s : State) : State :=
  issue 48 q (fun _ h =>
    if rdS h b = 0 then hFault Code.intDivzero 0 0 h else wrS d (f (rdS h a) (rdS h b)) h) s

/-! ### Operations on words (16 R270, R271) -/

def mulHigh (a b : W64) : W64 := BitVec.ofInt 64 (a.toInt * b.toInt / 2 ^ 64)
def mulHighN (a b : W64) : W64 := w64 (a.toNat * b.toNat / 2 ^ 64)
/-- The shift amount is b[5:0]. -/
def amt6 (b : W64) : Nat := b.toNat % 64
def shlW (a b : W64) : W64 := a <<< amt6 b
def shrW (a b : W64) : W64 := a >>> amt6 b
def sraW (a b : W64) : W64 := a.sshiftRight (amt6 b)
def rotlW (a b : W64) : W64 := a.rotateLeft (amt6 b)
def clzW (a : W64) : W64 := if a = 0 then 64 else w64 (63 - Nat.log2 a.toNat)
/-- Trailing zeros of a number, at most `fuel`. -/
def ctzGo : Nat → Nat → Nat
  | 0, _ => 0
  | fuel + 1, n => if n % 2 == 1 then 0 else 1 + ctzGo fuel (n / 2)
def ctzW (a : W64) : W64 := w64 (ctzGo 64 a.toNat)
def popGo : Nat → Nat → Nat
  | 0, _ => 0
  | fuel + 1, n => n % 2 + popGo fuel (n / 2)
def popcW (a : W64) : W64 := w64 (popGo 64 a.toNat)

/-! ### Majors 0x01 and 0x02 -/

def execAdd (d a b : Reg) (q : Sel) (s : State) : Result := .next (opRRR 4 (fun x y => x + y) d a b q s)
def execSub (d a b : Reg) (q : Sel) (s : State) : Result := .next (opRRR 4 (fun x y => x - y) d a b q s)
def execMul (d a b : Reg) (q : Sel) (s : State) : Result := .next (opRRR 8 (fun x y => x * y) d a b q s)
def execMulh (d a b : Reg) (q : Sel) (s : State) : Result := .next (opRRR 8 mulHigh d a b q s)
def execMulhn (d a b : Reg) (q : Sel) (s : State) : Result := .next (opRRR 8 mulHighN d a b q s)
def execDiv (d a b : Reg) (q : Sel) (s : State) : Result := .next (opDiv BitVec.sdiv d a b q s)
def execDivn (d a b : Reg) (q : Sel) (s : State) : Result := .next (opDiv BitVec.udiv d a b q s)
def execRem (d a b : Reg) (q : Sel) (s : State) : Result := .next (opDiv BitVec.srem d a b q s)
def execRemn (d a b : Reg) (q : Sel) (s : State) : Result := .next (opDiv BitVec.umod d a b q s)
def execAnd (d a b : Reg) (q : Sel) (s : State) : Result := .next (opRRR 4 (fun x y => x &&& y) d a b q s)
def execOr (d a b : Reg) (q : Sel) (s : State) : Result := .next (opRRR 4 (fun x y => x ||| y) d a b q s)
def execXor (d a b : Reg) (q : Sel) (s : State) : Result := .next (opRRR 4 (fun x y => x ^^^ y) d a b q s)
def execAndn (d a b : Reg) (q : Sel) (s : State) : Result := .next (opRRR 4 (fun x y => x &&& ~~~y) d a b q s)
def execShl (d a b : Reg) (q : Sel) (s : State) : Result := .next (opRRR 4 shlW d a b q s)
def execShr (d a b : Reg) (q : Sel) (s : State) : Result := .next (opRRR 4 shrW d a b q s)
def execSra (d a b : Reg) (q : Sel) (s : State) : Result := .next (opRRR 4 sraW d a b q s)
def execRotl (d a b : Reg) (q : Sel) (s : State) : Result := .next (opRRR 4 rotlW d a b q s)
def execClz (d a : Reg) (q : Sel) (s : State) : Result := .next (opRR 4 clzW d a q s)
def execCtz (d a : Reg) (q : Sel) (s : State) : Result := .next (opRR 4 ctzW d a q s)
def execPopc (d a : Reg) (q : Sel) (s : State) : Result := .next (opRR 4 popcW d a q s)
def execMin (d a b : Reg) (q : Sel) (s : State) : Result :=
  .next (opRRR 4 (fun x y => if x.slt y then x else y) d a b q s)
def execMax (d a b : Reg) (q : Sel) (s : State) : Result :=
  .next (opRRR 4 (fun x y => if y.slt x then x else y) d a b q s)
def execMinn (d a b : Reg) (q : Sel) (s : State) : Result :=
  .next (opRRR 4 (fun x y => if x < y then x else y) d a b q s)
def execMaxn (d a b : Reg) (q : Sel) (s : State) : Result :=
  .next (opRRR 4 (fun x y => if y < x then x else y) d a b q s)
/-- SEL reads its destination as its selector (16 R271). -/
def execSel (d a b : Reg) (q : Sel) (s : State) : Result :=
  .next (issue 4 q (fun _ h => wrS d (if rdS h d ≠ 0 then rdS h a else rdS h b) h) s)
def execMov (d a : Reg) (q : Sel) (s : State) : Result := .next (opRR 4 (fun x => x) d a q s)

/-! ### Immediates (16 R272 to R274) -/

def execAddi (d a : Reg) (imm : BitVec 10) (q : Sel) (s : State) : Result :=
  .next (opRR 4 (fun x => x + immI imm) d a q s)
def execAndi (d a : Reg) (imm : BitVec 10) (q : Sel) (s : State) : Result :=
  .next (opRR 4 (fun x => x &&& immI imm) d a q s)
def execOri (d a : Reg) (imm : BitVec 10) (q : Sel) (s : State) : Result :=
  .next (opRR 4 (fun x => x ||| immI imm) d a q s)
def execXori (d a : Reg) (imm : BitVec 10) (q : Sel) (s : State) : Result :=
  .next (opRR 4 (fun x => x ^^^ immI imm) d a q s)
def execShli (d a : Reg) (amt : BitVec 6) (q : Sel) (s : State) : Result :=
  .next (opRR 4 (fun x => shlW x (amt.setWidth 64)) d a q s)
def execShri (d a : Reg) (amt : BitVec 6) (q : Sel) (s : State) : Result :=
  .next (opRR 4 (fun x => shrW x (amt.setWidth 64)) d a q s)
def execSrai (d a : Reg) (amt : BitVec 6) (q : Sel) (s : State) : Result :=
  .next (opRR 4 (fun x => sraW x (amt.setWidth 64)) d a q s)
/-- MOVI and MOVHI have no selector (14 R218): they execute always. -/
def execMovi (d : Reg) (imm : BitVec 20) (s : State) : Result :=
  .next (issue 4 0 (fun _ h => wrS d (imm.signExtend 64) h) s)
def execMovhi (d : Reg) (imm : BitVec 20) (s : State) : Result :=
  .next (issue 4 0 (fun _ h => wrS d (rdS h d <<< 20 ||| imm.setWidth 64) h) s)

/-! ### Compares and predicates (16 R275, R277, 15 R247) -/

/-- A relation by its code from 0 to 5, given equality and less-than. -/
def relCode (cc : Nat) (eq lt : Bool) : Bool :=
  match cc with
  | 0 => eq
  | 1 => !eq
  | 2 => lt
  | 3 => lt || eq
  | 4 => !(lt || eq)
  | _ => !lt

/-- CMP.cc.t on the low w bits: types 0 to 3 are .i8 to .i64, 4 to 7 .n8 to .n64. -/
def cmpRel (ty cc : Nat) (a b : W64) : Bool :=
  let w := 8 * 2 ^ (ty % 4)
  let x := a.toNat % 2 ^ w
  let y := b.toNat % 2 ^ w
  let bias := if ty < 4 then 2 ^ (w - 1) else 0
  relCode cc (x == y) (decide ((x + bias) % 2 ^ w < (y + bias) % 2 ^ w))

def execCmp (ty cc : BitVec 3) (pd : Pred) (a b : Reg) (q : Sel) (s : State) : Result :=
  .next (issue 4 q (fun _ h => wrP pd (cmpRel ty.toNat cc.toNat (rdS h a) (rdS h b)) h) s)

/-- CMPI.cc: codes 6 and 7 compare natural numbers (15 R247). -/
def cmpiRel (cc : Nat) (a b : W64) : Bool :=
  match cc with
  | 6 => decide (a < b)
  | 7 => !decide (a < b)
  | _ => relCode cc (a == b) (a.slt b)

def execCmpi (cc : BitVec 3) (pd : Pred) (a : Reg) (imm : BitVec 10) (q : Sel) (s : State) : Result :=
  .next (issue 4 q (fun _ h => wrP pd (cmpiRel cc.toNat (rdS h a) (immI imm)) h) s)

def opPPP (f : Bool → Bool → Bool) (pd pa pb : Pred) (q : Sel) (s : State) : State :=
  issue 4 q (fun _ h => wrP pd (f (rdP h pa) (rdP h pb)) h) s

def execPand (pd pa pb : Pred) (q : Sel) (s : State) : Result := .next (opPPP and pd pa pb q s)
def execPor (pd pa pb : Pred) (q : Sel) (s : State) : Result := .next (opPPP or pd pa pb q s)
def execPxor (pd pa pb : Pred) (q : Sel) (s : State) : Result := .next (opPPP xor pd pa pb q s)
def execPnot (pd pa : Pred) (q : Sel) (s : State) : Result :=
  .next (issue 4 q (fun _ h => wrP pd (!rdP h pa) h) s)

/-! ### Bit fields and LEA (16 R278, R279) -/

/-- The field [pos + len - 1 : pos] of a word, zero-extended. -/
def bfGet (v : W64) (pos len : Nat) : Nat := v.toNat / 2 ^ pos % 2 ^ len

def extNW (a b : W64) : W64 := w64 (bfGet a (bfPos b) (bfLen b))
def extIW (a b : W64) : W64 := w64 (extend (bfGet a (bfPos b) (bfLen b)) (bfLen b) 64 false)
/-- INS: the field of `d` described by `b` takes the low bits of `a`. -/
def insW (d a b : W64) : W64 :=
  let m : W64 := w64 (2 ^ bfLen b - 1) <<< bfPos b
  (d &&& ~~~m) ||| ((a <<< bfPos b) &&& m)

def execExtN (d a b : Reg) (q : Sel) (s : State) : Result := .next (opRRR 4 extNW d a b q s)
def execExtI (d a b : Reg) (q : Sel) (s : State) : Result := .next (opRRR 4 extIW d a b q s)
def execIns (d a b : Reg) (q : Sel) (s : State) : Result :=
  .next (issue 4 q (fun _ h => wrS d (insW (rdS h d) (rdS h a) (rdS h b)) h) s)
def execLea (d : Reg) (off : BitVec 21) (q : Sel) (s : State) : Result :=
  .next (issue 4 q (fun _ h => wrS d (litAddr h off) h) s)

end Sys2Proof.Machine
end

