-- ==== Sys2Proof/Machine/Control.lean ====
section
/-!
DEFINITION. The control instructions (16 R255 to R269) as far as their slot goes: they choose what the hand's commit
does with the PC and the seat (Commit.lean); and the system registers (15 R249, 19 R352).
-/

namespace Sys2Proof.Machine

def execNop (q : Sel) (s : State) : Result := .next (issue 4 q (fun _ h => h) s)
def execHalt (q : Sel) (s : State) : Result := .next (issue 4 q (fun _ h => hCtl .halt h) s)
/-- YIELD is no control instruction (16 R256): it acts at commit (R265). -/
def execYield (q : Sel) (s : State) : Result := .next (issue 4 q (fun _ h => hEff .yield h) s)
def execBrk (q : Sel) (s : State) : Result :=
  .next (issue 4 q (fun _ h => hCtl (.brk (BitVec.ofNat 7 h.slot)) h) s)
def execEret (q : Sel) (s : State) : Result := .next (issue 4 q (fun _ h => hCtl .eret h) s)

/-- Pod time runs on: a read of TIME finds the time of a free number of nanoseconds later (19 R352, log 9). -/
def tick (s : State) : State := { s with time := s.time + Config.elapsedNs s.fresh, fresh := s.fresh + 1 }

/-- WAITEV waits for a record, counting the spill ring, or for TIME to reach its deadline (16 R269). -/
def execWaitev (d a : Reg) (q : Sel) (s : State) : Result :=
  .next (issueB 8 q (fun s =>
    let t := cur s
    match t.hand with
    | none => (s, .done)
    | some h =>
      if !t.evq.isEmpty || !t.ring.isEmpty then (modHand (wrS d 1) s, .done)
      else
        let dl := rdS h a
        if dl != BitVec.allOnes 64 && decide (dl.toNat ≤ s.time) then (modHand (wrS d 0) s, .done)
        else (tick s, .wait)) s)

def execBr (disp : BitVec 22) (q : Sel) (s : State) : Result :=
  .next (issue 4 q (fun _ h => hCtl (.jump (brTarget h disp)) h) s)
/-- CALL writes the link in its slot (16 R255), when it takes effect (R256). -/
def execCall (disp : BitVec 22) (q : Sel) (s : State) : Result :=
  .next (issue 4 q (fun _ h =>
    if h.ctl.isSome then h else hCtl (.call (brTarget h disp)) (wrS 63 h.next h)) s)

/-- A register transfer: a target that is not 8-byte aligned is ALIGN with FAULTADDR the target (16 R258). -/
def jumpTo (t : W64) (g : Hand → Hand) (h : Hand) : Hand :=
  if h.ctl.isSome then h else if fld t 2 0 != 0 then hFault Code.align 0 t h else g h

def execCalli (a : Reg) (q : Sel) (s : State) : Result :=
  .next (issue 4 q (fun _ h => jumpTo (rdS h a) (fun h' => hCtl (.call (rdS h a)) (wrS 63 h'.next h')) h) s)
def execJmpi (a : Reg) (q : Sel) (s : State) : Result :=
  .next (issue 4 q (fun _ h => jumpTo (rdS h a) (hCtl (.jump (rdS h a))) h) s)
def execRet (q : Sel) (s : State) : Result :=
  .next (issue 4 q (fun _ h => jumpTo (rdS h 63) (hCtl (.jumpRet (rdS h 63))) h) s)

/-- SKIP: the next slot issued is its own plus the distance (16 R259). -/
def execSkip (dist : BitVec 7) (q : Sel) (s : State) : Result :=
  .next (issue 4 q (fun _ h => { h with slot := h.slot + (dist.toNat - 1) }) s)

/-- LOOP: the counter saturates at 2^32 - 1 (16 R260). -/
def execLoop (n : BitVec 2) (a : Reg) (last : BitVec 10) (q : Sel) (s : State) : Result :=
  .next (issue 4 q (fun _ h =>
    hCtl (.loop n.toNat (Nat.min (rdS h a).toNat (2 ^ 32 - 1)) (h.next + last.setWidth 64 * 8)) h) s)
def execLoopbrk (n : BitVec 2) (q : Sel) (s : State) : Result :=
  .next (issue 4 q (fun _ h => hCtl (.loopbrk n.toNat) h) s)

/-- SVC and TRAP differ in FAULTINFO[10] (16 R266). -/
def execSvc (imm : BitVec 10) (q : Sel) (s : State) : Result :=
  .next (issue 4 q (fun _ h => hCtl (.trap Code.svc (imm.setWidth 64) (BitVec.ofNat 7 h.slot)) h) s)
def execTrap (imm : BitVec 10) (q : Sel) (s : State) : Result :=
  .next (issue 4 q (fun _ h => hCtl (.trap Code.svc (imm.setWidth 64 ||| 0x400) (BitVec.ofNat 7 h.slot)) h) s)

/-! ### System registers -/

/-- FEID (02 R19). For an edge core, which has no place in a grid, X, Y, CLUSTER and FE read 0 and DIE its die (DESIGN CHOICE,
log 114). -/
def feidWord (s : State) (fe : Nat) : W64 :=
  w64 (feX fe * 2 ^ 38 + feY fe * 2 ^ 32 + s.moduleId.toNat * 2 ^ 22 + feDie fe * 2 ^ 19 + feCluster fe * 2 ^ 13 +
    feNum fe * 2 ^ 7)

/-- JOBCTX (04 R55). -/
def jobctxWord (t : Seat) (a : Arch) : W64 :=
  w64 (bitAt a.hin 18 + bitAt a.stub 17 + bitAt a.hndl 16 + t.prio.toNat * 64 + t.ctx % 64)

/-- A request is pending for the context, and its cause (04 R64). -/
def preemptWord (c : Ctx) : W64 :=
  let pend := c.st == .preempting || c.pend
  w64 (if pend then c.cause.toNat * 2 + 1 else c.cause.toNat * 2)

/-- ARBCTL (06 R103). -/
def arbWord (a : Arbiter) : W64 :=
  w64 (a.pins.toNat * 2 ^ 32 + (vget 0 a.weights 3).toNat * 2 ^ 24 + (vget 0 a.weights 2).toNat * 2 ^ 16 +
    (vget 0 a.weights 1).toNat * 2 ^ 8 + (vget 0 a.weights 0).toNat)

/-- The system register of a number (15 R249); the hand's own earlier writes are seen (19 R352). -/
def csrRead (s : State) (h : Hand) (n : Nat) : W64 :=
  let t := cur s
  let a := h.work
  match n with
  | 0x00 => w64 s.curSeat
  | 0x01 => feidWord s s.curFe
  | 0x02 => jobctxWord t a
  | 0x03 => w64 (bitAt a.belayEn 9 + a.belayMax.toNat)
  | 0x04 => t.belayCnt.setWidth 64
  | 0x05 => preemptWord (ctxAt s t.ctx)
  | 0x06 => a.faultcode
  | 0x07 => a.faultaddr
  | 0x08 => a.faulthand
  | 0x09 => a.faultinfo
  | 0x0A => a.fltvec
  | 0x0B => a.rethand
  | 0x0C => w64 (t.ring.length * 256 + t.evq.length)
  | 0x0D => t.spillbase.setWidth 64
  | 0x0E => t.spilllim.setWidth 64
  | 0x0F => t.ovfptr
  | 0x10 => t.ovflim
  | 0x11 => a.fpctl
  | 0x12 => a.fpflags
  | 0x13 => a.srseed.setWidth 64
  | 0x14 => w64 s.time
  | 0x15 => (ctxAt s t.ctx).meldWin.setWidth 64
  | 0x16 => arbWord (feAt s s.curFe).arb
  | _ => a.dbgctl

/-- A write of FPCTL: reserved bits are ignored, and a reserved RM leaves RM (03 R34, R35). -/
def fpctlWrite (old v : W64) : W64 :=
  let rest := v &&& 0x170
  rest ||| (if fld v 2 0 ≤ 4 then v &&& 7 else old &&& 7)

/-- A write of BELAYMAX.MAX: 0 and values above 384 leave it (04 R62). -/
def belayMaxWrite (old : BitVec 9) (v : W64) : BitVec 9 :=
  let m := fld v 8 0
  if m == 0 || decide (384 < m) then old else BitVec.ofNat 9 m

/-- A write of a system register by a seat: PRIVILEGE for one marked RO, and for a change of BELAYMAX.EN (04 R62);
reserved fields are ignored (00 R4), and a 0 in SRSEED stores 1 (03 R37). -/
def csrWrite (n : Nat) (v : W64) (h : Hand) : Hand :=
  match n with
  | 0x03 =>
    if bit v 9 != h.work.belayEn then hFault Code.privilege 0 0 h
    else modWork (fun a => { a with belayMax := belayMaxWrite a.belayMax v }) h
  | 0x0A => modWork (fun a => { a with fltvec := v &&& ~~~7 }) h
  | 0x0B => modWork (fun a => { a with rethand := v &&& ~~~7 }) h
  | 0x11 => modWork (fun a => { a with fpctl := fpctlWrite a.fpctl v }) h
  | 0x12 => modWork (fun a => { a with fpflags := v &&& 0x1F }) h
  | 0x13 => modWork (fun a => { a with srseed := if fld v 31 0 == 0 then 1 else w32 (fld v 31 0) }) h
  | 0x17 => modWork (fun a => { a with dbgctl := v &&& ~~~0x1FE }) h
  | _ => hFault Code.privilege 0 0 h

/-- CSRR; a read of TIME finds pod time run on. -/
def execCsrr (d : Reg) (n : BitVec 6) (q : Sel) (s : State) : Result :=
  .next (issueGen (fun _ _ => 4) 4 q false (fun s =>
    let s := if n.toNat == 0x14 then tick s else s
    (modHand (fun h => wrS d (csrRead s h n.toNat) h) s, .done)) s)
def execCsrw (n : BitVec 6) (a : Reg) (q : Sel) (s : State) : Result :=
  .next (issue 4 q (fun _ h => csrWrite n.toNat (rdS h a) h) s)
def execCsrx (d : Reg) (n : BitVec 6) (a : Reg) (q : Sel) (s : State) : Result :=
  .next (issue 4 q (fun s h => csrWrite n.toNat (rdS h a) (wrS d (csrRead s h n.toNat) h)) s)

end Sys2Proof.Machine
end

