-- ==== Sys2Proof/Machine/Memory.lean ====
section
/-!
DEFINITION. The memory, tagged, atomic, pile, barrier and fence instructions (17) as far as their slot goes: checks,
waits and values; what they do outside the seat is queued for the hand's commit (04 R57).
-/

namespace Sys2Proof.Machine

/-! ### Issue that stalls -/

/-- Issue an instruction that works on its hand, and stalls while `wait` holds of what it reads. -/
def issueRead (w : Nat) (q : Sel) (wait : State → Hand → Bool) (g : State → Hand → Hand) (s : State) : State :=
  issueGen (fun _ _ => w) w q false (fun s => match (cur s).hand with
    | none => (s, .done)
    | some h => if wait s h then (s, .stall) else (modHand (g s) s, .done)) s

/-- A global access of the seat in turn waits for the walk that translates its address (10 R166, 26 R397). -/
def waitsG (s : State) (ea : W64) (al : Nat) : Bool := ea.toNat % al == 0 && walkWaits s ea

/-- Issue an instruction that works on its hand and accesses the global address `ea`, aligned to `al`. -/
def issueG (w : Nat) (q : Sel) (al : Nat) (ea : Hand → W64) (g : State → Hand → Hand) (s : State) : State :=
  issueRead w q (fun s h => waitsG s (ea h) al) g s

/-! ### LD, ST, LDG, STG (17 R288) -/

/-- The low `n` bytes of `v`, read from `va` on, under the hand's own earlier redirected stores (04 R57, R71). -/
def spillOver (h : Hand) (va v : Nat) : Nat → Nat
  | 0 => 0
  | n + 1 => ((KV.find va h.gbytes).getD (BitVec.ofNat 8 v)).toNat + 256 * spillOver h (va + 1) (v / 256) n

def spillHas (h : Hand) (va : Nat) : Nat → Bool
  | 0 => true
  | n + 1 => (KV.find va h.gbytes).isSome && spillHas h (va + 1) n

/-- A redirected LD: SPILL_OVERFLOW below OVFLIM, then the global checks. Its request is sent at once, is performed after
the seat's earlier writes to its bytes, and issue stalls until its reply; a load of bytes that the hand itself has stored
sends nothing (04 R71). -/
def spillLoad (d : Reg) (va : W64) (n : Nat) (nz : Bool) (s : State) : State × Ans :=
  let t := cur s
  match t.hand with
  | none => (s, .done)
  | some h =>
    let fin (v : Nat) (h : Hand) : Hand := wrS d (w64 (extend (spillOver h va.toNat v n) (8 * n) 64 nz)) h
    match h.grant with
    | some (v, _) => (modHand (fin v.toNat) s, .done)
    | none =>
      if h.entered then (s, .stall)
      else if va < t.ovflim then (modHand (hFault Code.spillOverflow 0 va) s, .done)
      else if waitsG s va n then (s, .stall)
      else
        let h' := chkGlobal s va n { r := true } false (fun _ => watch va.toNat n true false false) h
        if h'.flt != h.flt then (modHand (fun _ => h') s, .done)
        else if spillHas h va.toNat n then (modHand (fun _ => fin 0 h') s, .done)
        else
          match (dataXlat s (feAt s s.curFe).tlb t.ctx va.toNat { r := true } false).1 with
          | .error c => (modHand (hFault c 0 va) s, .done)
          | .ok pa =>
            -- a local read is held by no fence (12 R187)
            let r := { stamp s (mkReq s s.curFe s.curSeat h.addr va pa (.read n true) none) with after := 0 }
            (sendReq r (modHand (fun _ => { h' with entered := true, asked := some r }) { s with nextId := s.nextId + 1 }),
             .stall)

/-- LD: a redirected load adds 160 in place of its own weight (15 R244). A local one observes its seat's writes that are still
to be performed, and waits for what it cannot observe yet (12 R189, R190). -/
def execLd (w : BitVec 2) (d a : Reg) (off : BitVec 16) (nz : Bool) (q : Sel) (s : State) : Result :=
  let n := widthBytes w
  .next (issueGen (fun s h => if redirected (cur s) a (ea16 h a off) then 160 else 8) 8 q true (fun s =>
    match (cur s).hand with
    | none => (s, .done)
    | some h =>
      let ea := ea16 h a off
      if redirected (cur s) a ea then spillLoad d (spillAddr (cur s) ea) n nz s
      else if (localBad ea.toNat n n).isNone && ownBehind s s.curFe s.curSeat ea.toNat n then (s, .stall)
      else (modHand (chkLocal ea.toNat n n fun h =>
        wrS d (w64 (extend (localRead s s.curFe h ea.toNat n) (8 * n) 64 nz)) (watch ea.toNat n true false true h)) s,
        .done)) s)

/-- The low `n` bytes of a word. -/
def lowBytes (v : W64) (n : Nat) : W64 := w64 (v.toNat % 2 ^ (8 * n))

def execSt (w : BitVec 2) (d a : Reg) (off : BitVec 16) (q : Sel) (s : State) : Result :=
  let n := widthBytes w
  .next (issueRead 8 q (fun s h =>
      let va := spillAddr (cur s) (ea16 h a off)
      redirected (cur s) a (ea16 h a off) && !decide (va < (cur s).ovflim) && waitsG s va n) (fun s h =>
    let ea := ea16 h a off
    let t := cur s
    let v := lowBytes (rdS h d) n
    if redirected t a ea then
      (let va := spillAddr t ea
       if va < t.ovflim then hFault Code.spillOverflow 0 va h
       else chkGlobal s va n { w := true } false (fun pa h =>
         let h := watch va.toNat n false true false h
         hEff (.gstore pa va n v s.nextId) { h with gbytes := shadow h.gbytes va.toNat n v.toNat }) h)
    else chkLocal ea.toNat n n (fun h =>
      let h := watch ea.toNat n false true true h
      hEff (.store ea.toNat n v) { h with bytes := shadow h.bytes ea.toNat n v.toNat }) h) s)

/-- Queue a request of the current seat for the hand's commit. -/
def hSend (s : State) (va : W64) (pa : Nat) (op : ReqOp) (land : Option Nat) (h : Hand) : Hand :=
  hEff (.send (mkReq s s.curFe s.curSeat h.addr va pa op land)) h

def execLdg (w : BitVec 2) (d a : Reg) (off : BitVec 16) (nz : Bool) (q : Sel) (s : State) : Result :=
  let n := widthBytes w
  .next (issueG 8 q n (ea16 · a off) (fun s h =>
    let ea := ea16 h a off
    let l := rdS h d
    chkGlobal s ea n { r := true } false (fun pa h =>
      chkLanding l (if n == 8 then 8 else 4) (hSend s ea pa (.read n nz) (some l.toNat))
        (watch ea.toNat n true false false h)) h) s)

def execStg (w : BitVec 2) (d a : Reg) (off : BitVec 16) (q : Sel) (s : State) : Result :=
  let n := widthBytes w
  .next (issueG 8 q n (ea16 · a off) (fun s h =>
    let ea := ea16 h a off
    let v := lowBytes (rdS h d) n
    chkGlobal s ea n { w := true } false (fun pa h =>
      hSend s ea pa (.write n v) none (watch ea.toNat n false true false h)) h) s)

/-! ### Tagged operations (17 R289 to R291) -/

/-- What the hand holds or has reserved of a word (04 R58, 17 R291). -/
def heldBy (h : Hand) (id : Nat) : Option Hold := h.holds.find? (fun x => x.pa == id)

/-- The hand's current value of a held word: what it read, under its own later stores when the word is local. -/
def heldVal (s : State) (h : Hand) (x : Hold) : Nat :=
  let base := spBase s.curFe
  (List.range 4).foldr (fun i acc =>
    (match (if base ≤ x.pa then KV.find (x.pa - base + i) h.bytes else none) with
     | some b => b.toNat
     | none => x.val.toNat / 256 ^ i % 256) + 256 * acc) 0

/-- Update the data of what is held of a word, after an STF of the hand. -/
def holdSet (id : Nat) (v : W32) (remote : Bool) (h : Hand) : Hand :=
  if (heldBy h id).isSome then
    { h with holds := h.holds.map (fun x => if x.pa == id then { x with val := v } else x) }
  else { h with holds := h.holds ++ [{ pa := id, val := v, remote := remote }] }

/-- Enter a wait list of the FE's own banks with a waiter of the current seat, and be served if possible. -/
def enterWait (w : Waiter) (s : State) : State :=
  let s := modHand (fun h => { h with entered := true }) s
  serveWord s.curFe (waiterPa w) (modFe s.curFe (fun f => { f with waits := f.waits ++ [w] }) s)

/-- Wait in the FE's own bank: `fin` uses the value brought by the service (17 R289). -/
def waitBank (w : Waiter) (fin : W64 → Hand → Hand) (s : State) : State × Ans :=
  let go (s : State) : State × Ans :=
    match (cur s).hand with
    | some h =>
      (match h.grant with
       | some (v, _) => (modHand (fin v) s, .done)
       | none => (s, .wait))
    | none => (s, .done)
  match (cur s).hand with
  | some h => if h.entered then go s else go (enterWait w s)
  | none => (s, .done)

/-- A request that a slot sends before its hand's commit, behind the fences that the hand has passed (12 R187). What the hand
itself sends at its commit cannot come before it (log 117). -/
def stampSlot (s : State) (r : Req) : Req :=
  let r := stamp s r
  let fence := match (seatAt s r.fe r.seat).hand with
    | some h => h.effects.any fun e => match e with
      | .fence _ st all _ => all || (st && isWriteOp r.op)
      | _ => false
    | none => false
  if fence then { r with after := r.id } else r

/-- Send a wait request or POPW when the slot is reached, and wait for its answer (17 R291, R296). -/
def waitHome (r : Req) (fin : W64 → Nat → Hand → Hand) (s : State) : State × Ans :=
  match (cur s).hand with
  | none => (s, .done)
  | some h =>
    match h.grant with
    | some (v, st) => (modHand (fin v st) s, .done)
    | none =>
      if h.entered then (s, .wait)
      else (sendReq r (modHand (fun h => { h with entered := true, asked := some r }) { s with nextId := s.nextId + 1 }), .wait)

/-- A wait of a seat in its own FE's bank, where events of the seat that are still to come go before it, is a request to that
bank; no fence holds it (12 R187, R189, R190). -/
def ownWait (s : State) (off : Nat) (op : ReqOp) : Req :=
  { stamp s (ownReq s s.curFe s.curSeat ((cur s).hand.elim 0 (·.addr)) off op) with after := 0 }

/-- The wait of the slot goes, or has gone, to its bank as a request. -/
def waitSent (s : State) (h : Hand) (off : Nat) (op : ReqOp) : Bool :=
  h.asked.isSome || (!h.entered && (unperformed s).any (goesBefore (ownWait s off op)))

/-- The value of a served load under the hand's own earlier stores to the word (04 R57). -/
def servedVal (s : State) (h : Hand) (pa : Nat) (v : W64) : Nat :=
  heldVal s h { pa := pa, val := w32 v.toNat, remote := false }

/-- Wait in the FE's own bank, directly or by a request to it. -/
def waitOwn (w : Waiter) (op : ReqOp) (ea : Nat) (fin : W64 → Hand → Hand) (s : State) : State × Ans :=
  match (cur s).hand with
  | none => (s, .done)
  | some h => if waitSent s h ea op then waitHome (ownWait s ea op) (fun v _ => fin v) s else waitBank w fin s

/-- LDF and LDX of a local word. A word that the seat's own youngest event there leaves full is read at once. -/
def ldTag (take : Bool) (d a : Reg) (off : BitVec 16) (nz : Bool) (s : State) : State × Ans :=
  match (cur s).hand with
  | none => (s, .done)
  | some h =>
    let ea := (ea16 h a off).toNat
    match localBad ea 4 4 with
    | some (c, x) => (modHand (hFault c 0 x) s, .done)
    | none =>
      let id := spBase s.curFe + ea
      let out (v : Nat) (h : Hand) : Hand := wrS d (w64 (extend v 32 64 nz)) (watch ea 4 true false true h)
      let taken (h : Hand) : Hand := if take then hEff (.setEmpty ea true) h else h
      match heldBy h id with
      | some x => (modHand (fun h => taken (out (heldVal s h x) h)) s, .done)
      | none =>
        if !take && !h.entered && !ownBehind s s.curFe s.curSeat ea 4 && seenTag s s.curFe s.curSeat ea == .own true then
          (modHand (fun h => out (localRead s s.curFe h ea 4) h) s, .done)
        else waitOwn (if take then .ldx s.curSeat id else .ldf s.curSeat id) (.waitRead take) ea (fun v h =>
          let v := servedVal s h id v
          taken (out v (if take then holdSet id (w32 v) h.asked.isSome h else h))) s

def execLdf (d a : Reg) (off : BitVec 16) (nz : Bool) (q : Sel) (s : State) : Result :=
  .next (issueB 8 q (ldTag false d a off nz) s)
def execLdx (d a : Reg) (off : BitVec 16) (nz : Bool) (q : Sel) (s : State) : Result :=
  .next (issueB 8 q (ldTag true d a off nz) s)

/-- STF of a local word: it waits until the word is empty and reserves it, unless the hand holds it (17 R289, R290). -/
def stTag (d a : Reg) (off : BitVec 16) (s : State) : State × Ans :=
  match (cur s).hand with
  | none => (s, .done)
  | some h =>
    let ea := (ea16 h a off).toNat
    match localBad ea 4 4 with
    | some (c, x) => (modHand (hFault c 0 x) s, .done)
    | none =>
      let id := spBase s.curFe + ea
      let v := w32 (rdS h d).toNat
      let fin (h : Hand) : Hand :=
        let h := holdSet id v h.asked.isSome (watch ea 4 false true true h)
        hEff (.storeFull ea v) { h with bytes := shadow h.bytes ea 4 v.toNat }
      match heldBy h id with
      | some _ => (modHand fin s, .done)
      | none => waitOwn (.stf s.curSeat id) .waitStf ea (fun _ h => fin h) s

def execStf (d a : Reg) (off : BitVec 16) (q : Sel) (s : State) : Result := .next (issueB 8 q (stTag d a off) s)

def execSetf (d a : Reg) (off : BitVec 16) (q : Sel) (s : State) : Result :=
  .next (issue 8 q (fun _ h =>
    let ea := (ea16 h a off).toNat
    let v := w32 (rdS h d).toNat
    chkLocal ea 4 4 (fun h => hEff (.storeFull ea v)
      { watch ea 4 false true true h with bytes := shadow h.bytes ea 4 v.toNat }) h) s)
def execClre (a : Reg) (off : BitVec 16) (q : Sel) (s : State) : Result :=
  .next (issue 8 q (fun _ h =>
    let ea := (ea16 h a off).toNat
    chkLocal ea 4 4 (fun h => hEff (.setEmpty ea false) (watch ea 4 false true true h)) h) s)

/-- The tag of a word as the seat in turn observes it. -/
def localTag (s : State) (off : Nat) : Bool := match seenTag s s.curFe s.curSeat off with
  | .own b => b
  | _ => tagFull s (spBase s.curFe + off)

/-- TAGRD reads the tag as it stands while the hand runs. -/
def execTagrd (d a : Reg) (off : BitVec 16) (q : Sel) (s : State) : Result :=
  .next (issueRead 4 q (fun s h => acqBehind s s.curFe s.curSeat ||
      seenTag s s.curFe s.curSeat (ea16 h a off).toNat == .later) (fun s h =>
    let ea := (ea16 h a off).toNat
    chkLocal ea 4 4 (fun h => wrS d (if localTag s ea then 1 else 0) (watch ea 4 true false true h)) h) s)

/-- The address of a .G form: class 01 below 0x6_0000, or DATA_PERM (17 R291). -/
def chkTagG (s : State) (ea : W64) (need : Need) (g : Nat → Hand → Hand) (h : Hand) : Hand :=
  chkGlobal s ea 4 need false (fun pa h => if paClass pa == 1 then g pa h else hFault Code.dataPerm 0 ea h) h

/-- The checked address of a .G form that waits, or the faulted hand; one that has sent its request goes on with that
request's address (09 R154). -/
def tagGAddr (s : State) (ea : W64) (need : Need) (h : Hand) : Option Nat × Hand :=
  match h.asked with
  | some r => (some r.pa, h)
  | none =>
    let h' := chkTagG s ea need (fun _ h => h) h
    if h'.flt != h.flt then (none, h')
    else
      match (dataXlat s (feAt s s.curFe).tlb (cur s).ctx ea.toNat need false).1 with
      | .ok pa => (some pa, h')
      | .error _ => (none, h')

/-- An STF.G of a word of its own FE is an earlier store of the hand for its later loads, as an STF is (17 R291). -/
def shadowOwn (s : State) (pa : Nat) (v : W32) (h : Hand) : Hand :=
  if ownModule s pa && feOfPa pa == some s.curFe then { h with bytes := shadow h.bytes (paOff pa) 4 v.toNat } else h

/-- LDF.G and LDX.G (17 R291). -/
def ldTagG (take : Bool) (d a : Reg) (off : BitVec 16) (nz : Bool) (s : State) : State × Ans :=
  match (cur s).hand with
  | none => (s, .done)
  | some h =>
    let ea := ea16 h a off
    if h.asked.isNone && waitsG s ea 4 then (s, .stall)
    else match tagGAddr s ea (if take then { r := true, w := true } else { r := true }) h with
    | (none, h') => (modHand (fun _ => h') s, .done)
    | (some pa, h') =>
      let s := modHand (fun _ => h') s
      let id := wordId s pa
      let out (v : Nat) (h : Hand) : Hand := wrS d (w64 (extend v 32 64 nz)) (watch ea.toNat 4 true false false h)
      let taken (h : Hand) : Hand := if take then hSend s ea pa .take none h else h
      match heldBy h' id with
      | some x => (modHand (fun h => taken (out (heldVal s h x) h)) s, .done)
      | none =>
        waitHome (stampSlot s (mkReq s s.curFe s.curSeat h'.addr ea pa (.waitRead take) none)) (fun v _ h =>
          taken (out v.toNat (if take then holdSet id (w32 v.toNat) true h else h))) s

def execLdfG (d a : Reg) (off : BitVec 16) (nz : Bool) (q : Sel) (s : State) : Result :=
  .next (issueB 8 q (ldTagG false d a off nz) s)
def execLdxG (d a : Reg) (off : BitVec 16) (nz : Bool) (q : Sel) (s : State) : Result :=
  .next (issueB 8 q (ldTagG true d a off nz) s)

/-- STF.G: its wait request returns a reservation, and its data are sent at commit (17 R291). -/
def stTagG (d a : Reg) (off : BitVec 16) (s : State) : State × Ans :=
  match (cur s).hand with
  | none => (s, .done)
  | some h =>
    let ea := ea16 h a off
    if h.asked.isNone && waitsG s ea 4 then (s, .stall)
    else match tagGAddr s ea { w := true } h with
    | (none, h') => (modHand (fun _ => h') s, .done)
    | (some pa, h') =>
      let s := modHand (fun _ => h') s
      let id := wordId s pa
      let v := w32 (rdS h d).toNat
      let fin (h : Hand) : Hand :=
        hSend s ea pa (.stfWrite v) none (shadowOwn s pa v (holdSet id v true (watch ea.toNat 4 false true false h)))
      match heldBy h' id with
      | some _ => (modHand fin s, .done)
      | none => waitHome (stampSlot s (mkReq s s.curFe s.curSeat h'.addr ea pa .waitStf none)) (fun _ _ h => fin h) s

def execStfG (d a : Reg) (off : BitVec 16) (q : Sel) (s : State) : Result := .next (issueB 8 q (stTagG d a off) s)
def execSetfG (d a : Reg) (off : BitVec 16) (q : Sel) (s : State) : Result :=
  .next (issueG 8 q 4 (ea16 · a off) (fun s h =>
    let ea := ea16 h a off
    let v := w32 (rdS h d).toNat
    chkTagG s ea { w := true } (fun pa h => hSend s ea pa (.setf v) none (watch ea.toNat 4 false true false h)) h) s)
def execClreG (a : Reg) (off : BitVec 16) (q : Sel) (s : State) : Result :=
  .next (issueG 8 q 4 (ea16 · a off) (fun s h =>
    let ea := ea16 h a off
    chkTagG s ea { w := true } (fun pa h => hSend s ea pa .clre none (watch ea.toNat 4 false true false h)) h) s)
def execTagrdG (d a : Reg) (off : BitVec 16) (q : Sel) (s : State) : Result :=
  .next (issueG 8 q 4 (ea16 · a off) (fun s h =>
    let ea := ea16 h a off
    let l := rdS h d
    chkTagG s ea { r := true } (fun pa h =>
      chkLanding l 4 (hSend s ea pa .tagrd (some l.toNat)) (watch ea.toNat 4 true false false h)) h) s)

/-! ### Atomics (17 R292) -/

/-- The home address of an atomic or pile operation: local under 09 R145, or global with R and W in class 01 or 00. -/
def chkSpace (s : State) (ea : W64) (n al : Nat) (g : Bool) (k : Nat → Hand → Hand) (h : Hand) : Hand :=
  if g then
    chkGlobal s ea al { r := true, w := true } false (fun pa h =>
      if paClass pa == 1 || paClass pa == 0 then k pa (watch ea.toNat n true true false h)
      else hFault Code.dataPerm 0 ea h) h
  else chkLocal ea.toNat n al (fun h => k (ownPa s s.curFe ea.toNat) (watch ea.toNat n true true true h)) h

/-- An atomic of function `fn` (15 R251): checked now, sent at commit; with NR nothing lands. -/
def atomOp (fn : Nat) (d a b : Reg) (off : BitVec 8) (nr g w64 : Bool) (q : Sel) (s : State) : State :=
  let n := if w64 then 8 else 4
  issueRead 8 q (fun s h => g && waitsG s (eaAtom h a off w64) n) (fun s h =>
    let ea := eaAtom h a off w64
    let l := rdS h d
    chkSpace s ea n n g (fun pa h =>
      let op := ReqOp.atomic fn w64 (rdS h b) (rdS h (b + 1))
      if nr then hSend s ea pa op none h else chkLanding l n (hSend s ea pa op (some l.toNat)) h) h) s

def execAadd (d a b : Reg) (off : BitVec 8) (nr g w64 : Bool) (q : Sel) (s : State) : Result :=
  .next (atomOp 0 d a b off nr g w64 q s)
def execAmin (d a b : Reg) (off : BitVec 8) (nr g w64 : Bool) (q : Sel) (s : State) : Result :=
  .next (atomOp 1 d a b off nr g w64 q s)
def execAmax (d a b : Reg) (off : BitVec 8) (nr g w64 : Bool) (q : Sel) (s : State) : Result :=
  .next (atomOp 2 d a b off nr g w64 q s)
def execAminn (d a b : Reg) (off : BitVec 8) (nr g w64 : Bool) (q : Sel) (s : State) : Result :=
  .next (atomOp 3 d a b off nr g w64 q s)
def execAmaxn (d a b : Reg) (off : BitVec 8) (nr g w64 : Bool) (q : Sel) (s : State) : Result :=
  .next (atomOp 4 d a b off nr g w64 q s)
def execAand (d a b : Reg) (off : BitVec 8) (nr g w64 : Bool) (q : Sel) (s : State) : Result :=
  .next (atomOp 5 d a b off nr g w64 q s)
def execAor (d a b : Reg) (off : BitVec 8) (nr g w64 : Bool) (q : Sel) (s : State) : Result :=
  .next (atomOp 6 d a b off nr g w64 q s)
def execAxor (d a b : Reg) (off : BitVec 8) (nr g w64 : Bool) (q : Sel) (s : State) : Result :=
  .next (atomOp 7 d a b off nr g w64 q s)
def execAxchg (d a b : Reg) (off : BitVec 8) (nr g w64 : Bool) (q : Sel) (s : State) : Result :=
  .next (atomOp 8 d a b off nr g w64 q s)
def execAcas (d a b : Reg) (off : BitVec 8) (nr g w64 : Bool) (q : Sel) (s : State) : Result :=
  .next (atomOp 9 d a b off nr g w64 q s)
def execAfadd (d a b : Reg) (off : BitVec 8) (nr g : Bool) (q : Sel) (s : State) : Result :=
  .next (atomOp 10 d a b off nr g false q s)
/-- ASIG never lands, and releases at sys scope. -/
def execAsig (a b : Reg) (off : BitVec 8) (g w64 : Bool) (q : Sel) (s : State) : Result :=
  .next (atomOp 11 0 a b off true g w64 q s)

/-! ### Piles (17 R294 to R296) -/

def pileReq (land : Nat) (op : Hand → PileOp) (d a : Reg) (off : BitVec 8) (g : Bool) (q : Sel) (s : State) : State :=
  issueRead 8 q (fun s h => g && waitsG s (eaPile h a off) 32) (fun s h =>
    let ea := eaPile h a off
    let l := rdS h d
    chkSpace s ea 32 32 g (fun pa h => chkLanding l land (hSend s ea pa (.pile (op h)) (some l.toNat)) h) h) s

def execPinit (d a b : Reg) (off : BitVec 8) (g : Bool) (q : Sel) (s : State) : Result :=
  .next (pileReq 4 (fun h => .pinit (w32 (fld (rdS h b) 31 0)) (w32 (fld (rdS h b) 63 32))) d a off g q s)
def execPush (d a b : Reg) (off : BitVec 8) (g : Bool) (q : Sel) (s : State) : Result :=
  .next (pileReq 4 (fun h => .push (rdS h b)) d a off g q s)
def execPop (d a : Reg) (off : BitVec 8) (g : Bool) (q : Sel) (s : State) : Result :=
  .next (pileReq 16 (fun _ => .pop) d a off g q s)

/-- POPW: its request is sent when the seat reaches it; sd gets the value and sb the status (17 R296). -/
def execPopw (d a b : Reg) (off : BitVec 8) (g : Bool) (q : Sel) (s : State) : Result :=
  .next (issueB 8 q (fun s =>
    match (cur s).hand with
    | none => (s, .done)
    | some h =>
      let fin (r : Req) (v : W64) (st : Nat) (h : Hand) : Hand :=
        wrS b (w64 st) (wrS d v (if st == 4 then h else { h with popws := h.popws ++ [(r, v)] }))
      match h.asked with
      | some r => waitHome r (fin r) s
      | none =>
        let ea := eaPile h a off
        let h' := chkSpace s ea 32 32 g (fun _ h => h) h
        if g && waitsG s ea 32 then (s, .stall)
        else if h'.flt != h.flt then (modHand (fun _ => h') s, .done)
        else
          let pa := if g then
              (match (dataXlat s (feAt s s.curFe).tlb (cur s).ctx ea.toNat { r := true, w := true } false).1 with
               | .ok pa => pa
               | .error _ => 0)
            else ownPa s s.curFe ea.toNat
          let r := stampSlot s (mkReq s s.curFe s.curSeat h.addr ea pa (.pile .popw) none)
          waitHome r (fin r) (modHand (fun _ => h') s)) s)

/-! ### Barrier objects and fences (17 R297, R298) -/

def barAt (f : FE) (n : Nat) : Barrier := KV.get {} n f.barriers

/-- Word 1 of a barrier object (08 R132); a FREE object shows RESET (08 R133). -/
def barWord1 (b : Barrier) : W64 :=
  w64 (b.phase.toNat * 2 ^ 56 + bitAt b.byteMode 55 + bitAt b.trap 54 +
    (match b.st with
     | .free => 0
     | .opened => 1
     | .error => 2) * 2 ^ 52 +
    (match (if b.st == .free then .reset else b.last) with
     | .ok => 0
     | .overrun => 1
     | .error => 2
     | .reset => 3) * 2 ^ 50 + b.arrived.toNat)

/-- What a BWAIT returns when its condition holds, and whether OVERRUN with TRAP makes it fault: PHASE and LAST, with
RESET of a FREE object (08 R133, 17 R297). -/
def bwaitNow (b : Barrier) (ph : BitVec 8) : Option (W64 × Bool) :=
  if b.phase != ph || b.st != .opened then
    let last := if b.st == .free then BarLast.reset else b.last
    some (w64 (b.phase.toNat * 256 + (match last with
      | .ok => 0
      | .overrun => 1
      | .error => 2
      | .reset => 3)), b.st != .free && b.last == .overrun && b.trap)
  else none

def execBinit (a b : Reg) (trap byteMode : Bool) (q : Sel) (s : State) : Result :=
  .next (issue 8 q (fun _ h => chkBarNo (rdS h a) (fun n h =>
    hEff (.binit n byteMode trap (if byteMode then BitVec.ofNat 48 (fld (rdS h b) 47 0)
      else BitVec.ofNat 48 (fld (rdS h b) 31 0))) h) h) s)

/-- A remote object's address: 8-byte aligned, class 01, offset 0x6_0000 to 0x6_3FFF; any other is DATA_PAGE (17, 08
R135, log 16). -/
def chkBarG (s : State) (ea : W64) (need : Need) (g : Nat → Hand → Hand) (h : Hand) : Hand := chkGlobal s ea 8 need true g h

def execBarr (a b : Reg) (rem : Bool) (q : Sel) (s : State) : Result :=
  .next (issueRead 8 q (fun s h => rem && waitsG s (rdS h a) 8) (fun s h =>
    let n := (rdS h b).toNat
    if rem then chkBarG s (rdS h a) { w := true } (fun pa h => hSend s (rdS h a) pa (.barr n) none h) h
    else chkBarNo (rdS h a) (fun k h => hEff (.barr k n) h) h) s)

/-- The end of a BWAIT: its value, or BARRIER_OVERRUN with NUM in FAULTINFO. -/
def bwaitFin (d : Reg) (num : Nat) (v : W64) (ovr : Bool) (h : Hand) : Hand :=
  if ovr then hFault Code.barrierOverrun (w64 num) 0 h else wrS d v h

def execBwait (d a b : Reg) (rem : Bool) (q : Sel) (s : State) : Result :=
  .next (issueB 8 q (fun s =>
    match (cur s).hand with
    | none => (s, .done)
    | some h =>
      let ph := BitVec.ofNat 8 (fld (rdS h b) 7 0)
      if rem then
        (let ea := rdS h a
         let h' := if h.asked.isSome then h else chkBarG s ea { r := true } (fun _ h => h) h
         if h.asked.isNone && waitsG s ea 8 then (s, .stall)
         else if h'.flt != h.flt then (modHand (fun _ => h') s, .done)
         else
           let pa := (match h.asked, (dataXlat s (feAt s s.curFe).tlb (cur s).ctx ea.toNat { r := true } true).1 with
             | some r, _ => r.pa
             | none, .ok pa => pa
             | none, .error _ => 0)
           waitHome (stampSlot s (mkReq s s.curFe s.curSeat h.addr ea pa (.bwait ph) none))
             (fun v st => bwaitFin d ((paOff pa - spTop) / 8) v (st == 1)) (modHand (fun _ => h') s))
      else
        let n := (rdS h a).toNat
        if 2048 ≤ n then (modHand (hFault Code.localBounds 0 0) s, .done)
        else if waitSent s h (spTop + 8 * n) (.bwait ph) then
          waitHome (ownWait s (spTop + 8 * n) (.bwait ph)) (fun v st => bwaitFin d n v (st == 1)) s
        else
          match h.grant, h.entered, bwaitNow (barAt (feAt s s.curFe) n) ph with
          | some (v, st), _, _ => (modHand (bwaitFin d n v (st == 1)) s, .done)
          | none, true, _ => (s, .wait)
          | none, false, some (v, ovr) => (modHand (bwaitFin d n v ovr) s, .done)
          | none, false, none => (enterWait (.bar s.curSeat n ph) s, .wait)) s)

def execBtest (d a : Reg) (rem : Bool) (q : Sel) (s : State) : Result :=
  .next (issueRead 4 q (fun s h => if rem then waitsG s (rdS h a) 8 else decide ((rdS h a).toNat < 2048) &&
      (acqBehind s s.curFe s.curSeat || (ownPend s s.curFe s.curSeat (spTop + 8 * (rdS h a).toNat) 8).any (isWriteOp ·.op))) (fun s h =>
    if rem then
      (let ea := rdS h a
       let l := rdS h d
       chkBarG s ea { r := true } (fun pa h => chkLanding l 8 (hSend s ea pa .btest (some l.toNat)) h) h)
    else chkBarNo (rdS h a) (fun n h => wrS d (barWord1 (barAt (feAt s s.curFe) n)) h) h) s)

def execBrst (a : Reg) (q : Sel) (s : State) : Result :=
  .next (issue 8 q (fun _ h => chkBarNo (rdS h a) (fun n h => hEff (.brst n) h) h) s)

def execFenceLd (scope : BitVec 3) (q : Sel) (s : State) : Result :=
  .next (issue 4 q (fun _ h => hEff (.fence true false false scope) h) s)
def execFenceSt (scope : BitVec 3) (q : Sel) (s : State) : Result :=
  .next (issue 4 q (fun _ h => hEff (.fence false true false scope) h) s)
def execFenceAll (scope : BitVec 3) (q : Sel) (s : State) : Result :=
  .next (issue 4 q (fun _ h => hEff (.fence true true true scope) h) s)

end Sys2Proof.Machine
end

