-- ==== Sys2Proof/Machine/Fetch.lean ====
section
/-!
DEFINITION. The fetch of a hand through the instruction cache (09 R155, R156, 15 R244), its decode checks in the order
of 00 R8 and 14 R405, LIT (14 R228), and HAND_FETCH: what happens at a seat's hand boundary.
-/

namespace Sys2Proof.Machine

/-! ### Reading code -/

/-- The translation of one page of code: FETCH_PAGE, also for an address of another module that 09 R146 refuses, or
FETCH_PERM (09 R155). -/
def codeXlat (s : State) (fe c va : Nat) : Except (BitVec 8) Nat × List Tlb :=
  match dataXlat s (feAt s fe).tlb c va { x := true } false with
  | (.ok pa, new) => (if paBad s pa then .error Code.fetchPage else .ok pa, new)
  | (.error e, new) => (.error (if e == Code.dataPage then Code.fetchPage else Code.fetchPerm), new)

/-- The two pages a hand can touch, with the addresses that they translate to. -/
structure CodeView where
  va : Nat
  first : Except (BitVec 8) Nat
  second : Except (BitVec 8) Nat
  tlb : List Tlb
  tlb2 : List Tlb

def codeView (s : State) (fe c va : Nat) : CodeView :=
  let (a, t1) := codeXlat s fe c va
  let (b, t2) := codeXlat s fe c (va / 4096 * 4096 + 4096)
  { va := va, first := a, second := b, tlb := t1, tlb2 := t2 }

/-- The walks that `n` bytes of the view make: that of the second page only where the bytes reach it. -/
def codeTlb (v : CodeView) (n : Nat) : List Tlb := v.tlb ++ if 4096 < v.va % 4096 + n then v.tlb2 else []

/-- Byte `i` of the view: from the cache, else from memory; none on a page that fails. -/
def codeByte (s : State) (ic : KV Byte) (v : CodeView) (i : Nat) : Option Byte :=
  let a := v.va + i
  let room := 4096 - v.va % 4096
  let pa := if i < room then (match v.first with
      | .ok p => some (p + i)
      | .error _ => none)
    else (match v.second with
      | .ok p => some (p + (i - room))
      | .error _ => none)
  match pa with
  | none => none
  | some pa =>
    match KV.find a ic with
    | some b => some b
    | none => some (if ownModule s pa then memByte s.mem (paKey pa) else Config.farByte pa)

/-- `n` bytes of the view from byte `i` on, as a number. -/
def codeNat (s : State) (ic : KV Byte) (v : CodeView) (i : Nat) : Nat → Option Nat
  | 0 => some 0
  | n + 1 =>
    match codeByte s ic v i, codeNat s ic v (i + 1) n with
    | some b, some r => some (b.toNat + 256 * r)
    | _, _ => none

/-- Whether some of the bytes are not in the cache: the fetch misses (15 R244, log 18). -/
def codeMiss (ic : KV Byte) (va n : Nat) : Bool := (List.range n).any fun i => (KV.find (va + i) ic).isNone

/-- What the fetch of `n` bytes at `va` meets: the walks of its pages, and at each line of memory with a byte that is not cached
the way to its home (10 R166, 13 R205, 26 R397). -/
def codeMeets (s : State) (fe c va n : Nat) : Meets :=
  let f := feAt s fe
  let d := feDie fe
  firstMeets ((List.range ((va + n - 1) / 256 - va / 256 + 1)).map fun i =>
    let a := if i == 0 then va else (va / 256 + i) * 256
    match walkMeets s f.tlb d c a with
    | .go =>
      if !codeMiss f.icache a (Nat.min (a / 256 * 256 + 256) (va + n) - a) then .go
      else (match (codeXlat s fe c a).1 with
        | .ok pa => wayMeets s d c pa true
        | .error _ => .go)
    | m => m)

/-- The fetch fills what it reads into the gather units' caches (13 R200). -/
def codeTouch (s0 : State) (fe c va n : Nat) (s : State) : State :=
  let ic := (feAt s0 fe).icache
  each (List.range ((va + n - 1) / 256 - va / 256 + 1)) (fun i s =>
    let a := if i == 0 then va else (va / 256 + i) * 256
    if !codeMiss ic a (Nat.min (a / 256 * 256 + 256) (va + n) - a) then s
    else match (codeXlat s0 fe c a).1 with
      | .ok pa => edgeTouch c pa false s
      | .error _ => s) s

/-- The code of a fetch that a dead link or an uncorrectable error ends; the latter is reported and stops the context. -/
def codeRefused (s : State) (fe c va n : Nat) (s' : State) : Option (BitVec 8) × State :=
  match refusal (codeMeets s fe c va n) with
  | some code => (some code, if code == Code.memoryUncorrectable then codeTouch s fe c va n s' else s')
  | none => (none, s')

/-- Keep the bytes read: 32 KiB of them, the cache being emptied when they no longer fit (log 18). -/
def codeKeep (s : State) (v : CodeView) (n : Nat) (ic : KV Byte) : KV Byte :=
  let base := if 32768 < ic.length + n then [] else ic
  (List.range n).foldl (fun m i => match codeByte s ic v i with
    | some b => KV.set (v.va + i) b m
    | none => m) base

/-- The fault of a byte of the view (09 R155). -/
def codeFault (v : CodeView) (i : Nat) : FaultRec :=
  let room := 4096 - v.va % 4096
  let code (e : Except (BitVec 8) Nat) : BitVec 8 := match e with
    | .error c => c
    | .ok _ => Code.fetchPage
  if i < room then { code := code v.first, addr := w64 v.va }
  else { code := code v.second, info := 1, addr := w64 (v.va + room) }

/-! ### The parts of a hand (14 R224, R225) -/

def hdrCount (h : W64) : Nat := fld h 6 0 + 1
def hdrBelay (h : W64) : Bool := bit h 7
def hdrPool (h : W64) : Bool := bit h 8
def hdrPoolWords (h : W64) : Nat := if hdrPool h then fld h 14 9 + 1 else 0
def hdrLoopb (h : W64) : Bool := bit h 15
def hdrLclive (h : W64) : Nat := fld h 18 16
/-- The rebuild stub's offset in bytes, signed; 0 for none. -/
def hdrStub (h : W64) : W64 := (h.extractLsb' 20 22).signExtend 64 * 8

/-- The instruction words of a hand from byte `off` on: their slots and the byte after them; the first byte that cannot
be read otherwise. -/
def readSlots (rd : Nat → Option Nat) : Nat → Nat → Except Nat (List SlotWords × Nat)
  | 0, off => .ok ([], off)
  | n + 1, off =>
    match rd off with
    | none => .error off
    | some lo =>
      if isLong (w32 lo) then
        match rd (off + 4) with
        | none => .error (off + 4)
        | some hi =>
          (match readSlots rd n (off + 8) with
           | .ok (l, e) => .ok ({ lo := w32 lo, hi := w32 hi } :: l, e)
           | .error e => .error e)
      else
        match readSlots rd n (off + 4) with
        | .ok (l, e) => .ok ({ lo := w32 lo } :: l, e)
        | .error e => .error e

/-- A hand as it lies in memory. -/
structure RawHand where
  hdr : W64
  belay : W64
  slots : List SlotWords
  pad : W32
  /-- bytes of the hand, and of the hand up to the next one -/
  len : Nat
  span : Nat
  view : CodeView

/-- Read the hand at `va`; the first byte that cannot be read gives its fetch fault. -/
def readHand (s : State) (fe c : Nat) (va : Nat) : Except FaultRec RawHand :=
  let ic := (feAt s fe).icache
  let v := codeView s fe c va
  let rd (off n : Nat) : Option Nat := codeNat s ic v off n
  match rd 0 8 with
  | none => .error (codeFault v 0)
  | some hd =>
    let hdr := w64 hd
    match (if hdrBelay hdr then rd 8 8 else some 0) with
    | none => .error (codeFault v 8)
    | some bl =>
      match readSlots (fun off => rd off 4) (hdrCount hdr) (if hdrBelay hdr then 16 else 8) with
      | .error i => .error (codeFault v i)
      | .ok (slots, e) =>
        match (if e % 8 == 4 then rd e 4 else some 0) with
        | none => .error (codeFault v e)
        | some pad =>
          let body := roundUp e 8
          let len := body + 4 * hdrPoolWords hdr
          if (codeByte s ic v (len - 1)).isNone then .error (codeFault v (len - 1))
          else .ok { hdr := hdr, belay := w64 bl, slots := slots, pad := w32 pad, len := len, span := roundUp len 8,
                     view := v }

/-- The hand after the one at `va`, found from its header doubleword; the first words of its instructions are read for
their lengths only, and their faults are not raised (16 R260). -/
def handAfter (s : State) (fe c va : Nat) : Except FaultRec (W64 × Nat) :=
  let ic := (feAt s fe).icache
  let v := codeView s fe c va
  match codeNat s ic v 0 8 with
  | none => .error (codeFault v 0)
  | some hd =>
    let hdr := w64 hd
    let rd (off : Nat) : Option Nat := some ((codeNat s ic v off 4).getD 0)
    match readSlots rd (hdrCount hdr) (if hdrBelay hdr then 16 else 8) with
    | .ok (_, e) => .ok (hdr, va + roundUp (roundUp e 8 + 4 * hdrPoolWords hdr) 8)
    | .error e => .ok (hdr, va + e)

/-! ### Decode checks (14 R222, R227, R405) -/

def fnOf (lo : W32) : Nat := lo.toNat / 16 % 16

/-- The blocking instructions, by major and fn (14 R227). -/
def isBlocking (lo : W32) : Bool :=
  match majorOf lo, fnOf lo with
  | 0x00, 5 => true
  | 0x2A, 4 | 0x2A, 5 | 0x2A, 6 | 0x2A, 10 | 0x2A, 11 | 0x2A, 12 => true
  | 0x2D, 3 => true
  | 0x2F, 2 => true
  | 0x30, 3 => true
  | 0x32, 2 => true
  | 0x33, 8 => true
  | 0x34, 5 => true
  | 0x35, 0 => true
  | _, _ => false

def isLdx (lo : W32) : Bool := majorOf lo == 0x2A && (fnOf lo == 5 || fnOf lo == 11)

/-- The slot that a SKIP in slot `i` lands on. -/
def skipTarget (i : Nat) (lo : W32) : Option Nat := if majorOf lo == 0x1A then some (i + lo.toNat / 16 % 128) else none

/-- The next 64-bit slot at or after position `i` of the list, with its wave tags. -/
def nextLong : Nat → List SlotWords → Option (Nat × Wave)
  | _, [] => none
  | i, x :: r => if isLong x.lo then some (i, waveOf x.hi) else nextLong (i + 1) r

/-- Whether the wave tags of the 64-bit instruction in slot `i` break 14 R222; `prev` is the WOWN of the one before. -/
def waveBad (targets : List Nat) (i : Nat) (prev : Option Nat) (w : Wave) (rest : List SlotWords) : Bool :=
  let own := w.own.toNat
  let succ := match nextLong (i + 1) rest with
    | none => 127
    | some (j, v) => if targets.any (fun t => decide (i < t) && decide (t ≤ j)) then 127 else v.own.toNat
  own == 127 ||
  (match prev with
   | some p => decide (own ≤ p)
   | none => false) ||
  w.pred.toNat != prev.getD 127 || w.succ.toNat != succ

/-- The lowest slot that causes HAND_FORMAT: a blocking instruction outside a belay hand, the ninth LDX, a SKIP that
lands outside the hand or not ahead, or wave tags that break R222. -/
def formatSlot (belay : Bool) (count : Nat) (targets : List Nat) :
    Nat → Nat → Option Nat → List SlotWords → Option Nat
  | _, _, _, [] => none
  | i, ldx, prev, x :: rest =>
    let ldx' := if isLdx x.lo then ldx + 1 else ldx
    let skipBad := match skipTarget i x.lo with
      | some t => t == i || decide (count < t)
      | none => false
    let long := isLong x.lo
    if (!belay && isBlocking x.lo) || (isLdx x.lo && decide (8 ≤ ldx)) || skipBad ||
        (long && waveBad targets i prev (waveOf x.hi) rest) then some i
    else formatSlot belay count targets (i + 1) ldx' (if long then some (waveOf x.hi).own.toNat else prev) rest

/-- The lowest slot that does not decode, with its code. -/
def decodeSlot : Nat → List SlotWords → Option (Nat × BitVec 8)
  | _, [] => none
  | i, x :: rest =>
    match decode x.lo x.hi with
    | .ok _ => decodeSlot (i + 1) rest
    | .error .illegalOpcode => some (i, Code.illegalOpcode)
    | .error _ => some (i, Code.reservedField)

/-- A present live range with RN = 31, or with a register that is not live (14 R227). -/
def rangeBad (valid : Bool) (rn : Nat) (live : W64) : Bool :=
  valid && (rn == 31 || !(bit live (2 * rn) && bit live (2 * rn + 1)))

/-- The decode fault of a hand, in the order of 00 R8. -/
def decodeFault (r : RawHand) : Option FaultRec :=
  let h := r.hdr
  let belay := hdrBelay h
  let targets := (r.slots.zipIdx.filterMap fun p => skipTarget p.2 p.1.lo)
  if (!hdrPool h && fld h 14 9 != 0) ||
      (belay && (rangeBad (bit h 58) (fld h 63 59) r.belay || rangeBad (bit h 52) (fld h 57 53) r.belay)) then
    some { code := Code.handFormat }
  else
    match formatSlot belay r.slots.length targets 0 0 none r.slots with
    | some i => some { code := Code.handFormat, slot := BitVec.ofNat 7 i }
    | none =>
      if (!belay && fld h 63 16 != 0) || (belay && (fld h 51 42 != 0 || bit h 19)) then
        some { code := Code.reservedField, info := 1 }
      else
        match decodeSlot 0 r.slots with
        | some (i, c) => some { code := c, slot := BitVec.ofNat 7 i }
        | none =>
          if r.pad != 0 then some { code := Code.reservedField, slot := BitVec.ofNat 7 (r.slots.length - 1), info := 2 }
          else none

/-! ### LIT (14 R228) -/

/-- Whether a LIT's read misses the instruction cache: it then weighs 160 (15 R244). -/
def litMisses (s : State) (h : Hand) (off : BitVec 21) (n : Nat) : Bool :=
  let l := litAddr h off
  l.toNat % n == 0 && (match (codeXlat s s.curFe (cur s).ctx l.toNat).1 with
    | .ok _ => codeMiss (feAt s s.curFe).icache l.toNat n
    | .error _ => false)

def execLit (ty : BitVec 2) (d : Reg) (off : BitVec 21) (q : Sel) (s : State) : Result :=
  let n := if ty == 2 then 8 else 4
  .next (issueGen (fun s h => if litMisses s h off n then 160 else 8) 8 q false (fun s =>
    match (cur s).hand with
    | none => (s, .done)
    | some h =>
      let l := litAddr h off
      if l.toNat % n != 0 then (modHand (hFault Code.align 0 l) s, .done)
      else
        let fe := s.curFe
        let c := (cur s).ctx
        let v := codeView s fe c l.toNat
        match codeMeets s fe c l.toNat n, codeRefused s fe c l.toNat n s, v.first with
        | .wait, _, _ => (s, .stall)
        | _, (some code, s), _ => (modHand (hFault code 0 l) s, .done)
        | _, _, .error e => (modHand (hFault e 0 l) s, .done)
        | _, _, .ok _ =>
          let s := codeTouch s fe c l.toNat n s
          let ic := (feAt s fe).icache
          let x := (codeNat s ic v 0 n).getD 0
          let s := modFe fe (fun f => { f with icache := codeKeep s v n f.icache }) s
          (modHand (fun h => wrS d (w64 (extend x (8 * n) 64 (ty == 0))) { h with walked := h.walked ++ codeTlb v n }) s,
           .done)) s)

/-! ### LOOP spans (16 R261) -/

/-- The hands from `va` to LASTH: their instruction counts and LOOPB bits, and whether the walk lands on LASTH. -/
def walkSpan (s : State) (fe c last : Nat) : Nat → Nat → List (Nat × Bool) × Bool
  | 0, _ => ([], false)
  | fuel + 1, va =>
    if last < va then ([], false)
    else
      match handAfter s fe c va with
      | .error _ => ([], false)
      | .ok (hdr, next) =>
        if va == last then ([(hdrCount hdr, hdrLoopb hdr)], true)
        else
          let (l, ok) := walkSpan s fe c last fuel next
          ((hdrCount hdr, hdrLoopb hdr) :: l, ok)

/-- The active loops of a seat with their numbers, in the order of activation, outermost first. -/
def activeLoops (a : Arch) : List (Nat × Loop) :=
  let l := (List.range 3).filterMap fun n =>
    let x := vget {} a.lc n
    if x.active then some (n, x) else none
  l.mergeSort (fun x y => decide (x.2.order ≤ y.2.order))

/-- The reason why the span of the newly active loop `n` is refused; 0 when it is not. `twice` says that loop `n`, or all
three, were active already. -/
def spanReason (s : State) (fe c : Nat) (a : Arch) (n : Nat) (twice : Bool) : Nat :=
  let ls := activeLoops a
  let x := vget {} a.lc n
  let (hands, landed) := walkSpan s fe c x.last.toNat 700 x.first.toNat
  let outer := match ls with
    | (m, y) :: _ => if m == n then hands else (walkSpan s fe c y.last.toNat 700 y.first.toNat).1
    | [] => hands
  if 256 < (outer.map (·.1)).sum then 1
  else if hands.any (fun e => !e.2) then 2
  else if twice then 3
  else if !landed || ls.any (fun e => e.1 != n &&
      !(decide (e.2.first ≤ x.first) && decide (x.last ≤ e.2.last))) then 4
  else 0

/-! ### HAND_FETCH -/

/-- Take the oldest deferred fault at a hand boundary: the hand that would issue next is abandoned (17 R287). -/
def takeDeferred (fe k : Nat) (s : State) : State :=
  match (seatAt s fe k).deferred with
  | [] => s
  | d :: rest =>
    let s := modSeat fe k (fun t => { t with deferred := rest }) s
    let s := if d.casc then modFe fe (fun f => { f with bight := f.bight.map (fun b => { b with taken := true }) }) s
      else s
    faultHere fe k d.flt s

/-- A LEA, which shares LIT's major and is told by sa = 3 (15 R252). -/
def isLea (lo : W32) : Bool := majorOf lo == 0x2E && lo.toNat / 2 ^ 14 % 64 == 3

/-- The weight of a slot by its major and fn (15 R245 to R252), without what R71 and R244 add. -/
def slotWeight (lo : W32) : Nat :=
  match majorOf lo, fnOf lo with
  | 0x00, 5 => 8
  | 0x01, 2 | 0x01, 3 | 0x01, 4 => 8
  | 0x01, 5 | 0x01, 6 | 0x01, 7 | 0x01, 8 => 48
  | 0x03, 8 => 8
  | 0x10, 3 => 24
  | 0x10, 6 | 0x10, 7 => 4
  | 0x10, _ | 0x11, _ | 0x13, _ => 8
  | 0x12, 2 => 24
  | 0x12, _ => 12
  | 0x28, 9 | 0x29, 9 | 0x2A, 9 | 0x2B, 9 => 4
  | 0x2F, 3 | 0x2F, 5 | 0x30, 4 | 0x31, 1 | 0x32, 5 => 4
  | 0x33, 0 | 0x33, 1 | 0x33, 6 => 4
  | 0x33, 5 => 16
  | 0x35, 5 => 4
  | 0x36, 0 | 0x36, 1 => 16
  | m, _ => if 0x28 ≤ m && !isLea lo then 8 else 4

/-- The predicate that a slot may write. -/
def predWritten (lo : W32) : Option Nat :=
  match majorOf lo with
  | 0x03 | 0x04 | 0x0A => some (lo.toNat / 2 ^ 20 % 8)
  | _ => none

/-- What a slot adds in place of its own weight: 160 for a redirected spill load (04 R71), as sp at the hand's start tells it, and for
a LIT that misses the instruction cache, whose line no earlier LIT has read (15 R244). -/
def slotExtra (s : State) (h : Hand) (earlier : List SlotWords) (x : SlotWords) : Option Nat :=
  match decode x.lo x.hi with
  | .ok (.ld _ _ a off _ q) =>
    if selOn h q && redirected (cur s) a (ea16 h a off) && !earlier.any (fun y => y.lo.toNat / 2 ^ 20 % 64 == 62) then some 160 else none
  | .ok (.lit ty _ off q) =>
    if selOn h q && litMisses s h off (if ty == 2 then 8 else 4) && !earlier.any (fun y => y.lo == x.lo && y.hi == x.hi) then some 160 else none
  | _ => none

/-- The first slot whose weight takes the count above `max` on the path that the hand issues, with that count, as far as the
predicates at the hand's start tell the path: it is found before any slot executes (15 R253). -/
def distanceSlot (s : State) (h : Hand) (max : Nat) : Nat → Nat → Nat → List Nat → Option (Nat × Nat)
  | 0, _, _, _ => none
  | fuel + 1, i, n, known =>
    match h.slots[i]? with
    | none => none
    | some x =>
      let extra := if majorOf x.lo == 0x2A || majorOf x.lo == 0x2E then slotExtra s h (h.slots.take i) x else none
      let n := Nat.min (n + extra.getD (slotWeight x.lo)) 0xFFFF
      let q : Sel := x.lo.extractLsb' 0 4
      if max < n then some (i, n)
      else match skipTarget i x.lo with
        | some t =>
          if known.contains (q.toNat % 8) then none
          else distanceSlot s h max fuel (if selOn h q then t else i + 1) n known
        | none => distanceSlot s h max fuel (i + 1) n ((predWritten x.lo).toList ++ known)

/-- A hand that begins issue and whose path is too heavy raises BELAY_DISTANCE at once. -/
def distanceNow (fe k : Nat) (s : State) : State :=
  let t := seatAt s fe k
  match t.hand with
  | none => s
  | some h =>
    if !h.work.belayEn then s
    else match distanceSlot s h h.work.belayMax.toNat (h.slots.length + 1) 0 t.belayCnt.toNat [] with
      | some (i, n) =>
        faultHere fe k { code := Code.belayDistance, slot := BitVec.ofNat 7 i, info := w64 n }
          (modSeat fe k (fun t => { t with belayCnt := BitVec.ofNat 16 n }) s)
      | none => s

/-- The loop whose span is to be checked now: its LOOP has committed, and the seat stands at its FIRST (16 R261). -/
def spanDue (t : Seat) : Option Nat :=
  t.loopCheck.find? fun n =>
    let l := vget {} t.arch.lc (n % 4)
    l.active && l.first == t.pc

/-- Begin issue of a decoded hand: BELAYCNT is 0 at a belay hand (04 R60), a fetch miss adds 160 (15 R244). -/
def beginHand (fe k : Nat) (r : RawHand) (miss : Bool) (s : State) : State :=
  let f := feAt s fe
  let s := codeTouch s fe (seatAt s fe k).ctx r.view.va r.len (each (codeTlb r.view r.len) (fun t => walkTouch t.ctx t.base.toNat)
    (modFe fe (fun f => { f with icache := codeKeep s r.view r.len f.icache, tlb := cacheXlat (codeTlb r.view r.len) f.tlb }) s))
  let s := modSeat fe k (fun t => { t with
    st := .running
    orig := if t.arch.stub then t.orig else none
    hdr := if t.arch.stub then t.hdr else r.hdr
    belayDw := if t.arch.stub then t.belayDw else r.belay
    belayCnt := if hdrBelay r.hdr then 0 else t.belayCnt
    loopCheck := t.loopCheck.filter fun n => some n != spanDue t
    hand := some {
      addr := t.pc, next := t.pc + w64 r.span, belay := hdrBelay r.hdr, slots := r.slots, work := t.arch
      arrMark := f.arrIn, cfgMark := t.cfgSent, claims := f.opm.toList.map (·.claim), cnt0 := if hdrBelay r.hdr then 0 else t.belayCnt } }) s
  distanceNow fe k (if miss then modHand (fun h => { h with counted := false }) (addWeight 160 s).1 else s)

/-- The fetch of the hand at a seat's pc, once what it meets lets it: a halt for pre-emption, the decode checks, and then the start
of issue. `reason` is that of a refused loop span. -/
def fetchGo (fe k reason : Nat) (s : State) : State :=
  let t := seatAt s fe k
  match readHand s fe t.ctx t.pc.toNat with
  | .error f => faultHere fe k f s
  | .ok r =>
    if reason != 0 then faultHere fe k { code := Code.handFormat, info := w64 reason } s
    else if hdrBelay r.hdr && !isEdge fe && (ctxAt s t.ctx).st == .preempting && !(t.arch.stub && !t.arch.hin) && !t.stepping then
      haltAt fe k r.hdr r.belay s
    else
      match decodeFault r with
      | some f => faultHere fe k f s
      | none => beginHand fe k r (codeMiss (feAt s fe).icache t.pc.toNat r.len) s

/-- Bytes that the fetch at a seat's pc reads: up to the one that cannot be read, or the hand, or for the header only what finds
the hand after it. -/
def fetchLen (s : State) (fe : Nat) (t : Seat) : Nat :=
  if t.hdrOnly then
    (match handAfter s fe t.ctx t.pc.toNat with
     | .ok (_, next) => Nat.max 8 (next - t.pc.toNat)
     | .error _ => 8)
  else match readHand s fe t.ctx t.pc.toNat with
    | .ok r => r.len
    | .error f => if f.info == 0 then 1 else 4097 - t.pc.toNat % 4096

/-- What the seat in turn does at a hand boundary: the freezes of 04 R73 and 11 R173, a deferred fault, the header of a
LASTH, the span check of a LOOP, and the fetch. A fetch that cannot be made yet is made at a later turn; one that a dead link or an
uncorrectable error ends faults (10 R166, log 118). -/
def fetchHand (s : State) : State :=
  let fe := s.curFe
  let k := s.curSeat
  let t := seatAt s fe k
  if t.hand.isSome || !(t.st == .running || t.st == .loaded) then s
  else if !isEdge fe && (ctxAt s t.ctx).st == .stopped && !t.stepping then
    freezeSeat fe k (modSeat fe k (fun t => { t with st := .running }) s)
  else if !isEdge fe && jobFrozen s t.ctx && !t.stepping then
    freezeSeat fe k (modSeat fe k (fun t => { t with st := .running }) s)
  else if !t.hdrOnly && !t.deferred.isEmpty then takeDeferred fe k s
  else
    let n := fetchLen s fe t
    let m := codeMeets s fe t.ctx t.pc.toNat n
    if m == .wait then s
    else match codeRefused s fe t.ctx t.pc.toNat n s with
      | (some code, s) => faultHere fe k { code := code, addr := t.pc } (modSeat fe k (fun t => { t with hdrOnly := false }) s)
      | (none, s) =>
        if t.hdrOnly then
          match handAfter s fe t.ctx t.pc.toNat with
          | .error f => faultHere fe k f (modSeat fe k (fun t => { t with hdrOnly := false }) s)
          | .ok (_, next) => modSeat fe k (fun t => { t with hdrOnly := false, pc := w64 next }) s
        else
          let reason := match spanDue t with
            | some n => spanReason s fe t.ctx t.arch (n % 4) (decide (4 ≤ n))
            | none => 0
          fetchGo fe k reason (modSeat fe k (fun t => { t with passed := false }) s)

/-- Meld windows are counted in hands fetched (08 R141, log 22); those of a frozen job stand still (08 R144, 11 R173). -/
def passTurn (s : State) : State :=
  { s with turns := s.turns + 1, melds := s.melds.map fun m => if recvFrozen s m.req.ctx then { m with due := m.due + 1 } else m }

def execHandFetch (s : State) : Result := .next (fetchHand (passTurn s))

end Sys2Proof.Machine
end

