-- ==== Sys2Proof/Machine/Record.lean ====
section
/-!
DEFINITION. Completion records (14 R239, R240) and orphan records (06 R105), and the seat's event queue (19 R347).
-/

namespace Sys2Proof.Machine

/-- A completion record (14 R239). -/
def mkRec (tag : BitVec 16) (status source : BitVec 8) (orphan : Bool) (mask : Nat) (bytes : Nat) : EvRec :=
  { w0 := w64 (tag.toNat * 2 ^ 48 + status.toNat * 2 ^ 40 + source.toNat * 2 ^ 32 + bitAt orphan 31 + mask % 2 ^ 16)
    w1 := w64 bytes }

def recTag (e : EvRec) : BitVec 16 := BitVec.ofNat 16 (fld e.w0 63 48)
def recStatus (e : EvRec) : BitVec 8 := BitVec.ofNat 8 (fld e.w0 47 40)

/-- Seats of a launch that stand on this module and have not retired: FE, seat number and linear index. Seats still to be placed,
or of other modules, count for none (DESIGN CHOICE, log 111). -/
def liveSeats (s : State) (launch : Nat) : List (Nat × Nat × Nat) :=
  s.fes.flatMap fun e => (List.range 4).filterMap fun k =>
    let t := seatOf e.2 k
    if t.launch == launch && t.st != .free && t.st != .retired then some (e.1, k, t.index) else none

/-- Seats in one group of level `l`: the product of the counts below it (06 R93). -/
def groupSize (ls : List Level) (l : Nat) : Nat := ((ls.drop (l + 1)).map (·.count)).foldl (· * ·) 1

/-- The seat of lowest index. -/
def leadSeat (l : List (Nat × Nat × Nat)) : Option (Nat × Nat × Nat) :=
  l.foldl (fun best x => match best with
    | none => some x
    | some b => if x.2.2 < b.2.2 then some x else some b) none

/-- The lead seat of the nearest enclosing group with a seat not retired, from level `l` outwards (06 R105). -/
def orphanSeat (live : List (Nat × Nat × Nat)) (ls : List Level) (index : Nat) : Nat → Option (Nat × Nat × Nat)
  | 0 => leadSeat live
  | l + 1 =>
    let n := groupSize ls l
    match leadSeat (live.filter (fun x => x.2.2 / n == index / n)) with
    | some x => some x
    | none => orphanSeat live ls index l

/-- Post the record of a failure whose seat has retired (06 R105): to the lead seat of the nearest enclosing group, or
into the launch's own status when every seat has retired. -/
def postOrphan (launch index : Nat) (tag : BitVec 16) (status source : BitVec 8) (mask bytes : Nat) (s : State) : State :=
  match KV.find launch s.launches with
  | none => s
  | some l =>
    match orphanSeat (liveSeats s launch) l.levels index l.levels.length with
    | some (fe, k, _) => postRec fe k (mkRec tag status source true mask bytes) s
    | none => { s with launches := KV.set launch { l with status := status, orphan := true } s.launches }

/-- Post a record for a seat: an orphan when the seat has retired and the record tells of a failure (06 R105). -/
def postFor (fe k : Nat) (tag : BitVec 16) (status source : BitVec 8) (mask bytes : Nat) (s : State) : State :=
  let t := seatAt s fe k
  if t.st == .retired && status != 0 then postOrphan t.launch t.index tag status source mask bytes s
  else postRec fe k (mkRec tag status source false mask bytes) s

/-! ### The event queue and its spill ring (19 R347) -/

/-- Records of the ring move to the queue as soon as it has room (log 19). -/
def refill (t : Seat) : Seat :=
  let room := 32 - t.evq.length
  { t with evq := t.evq ++ t.ring.take room, ring := t.ring.drop room }

/-- A record finds room in the queue, else in the ring: 32 records each. -/
def roomFor (t : Seat) : Bool := decide (t.evq.length < 32) || decide (t.ring.length < 32)

def addRec (e : EvRec) (t : Seat) : Seat := refill { t with ring := t.ring ++ [e] }

/-- The records of a spill ring lie in the lowest 0x200 bytes of the seat's carve-out, oldest first (04 R71, log 99). -/
def storeRing (fe k : Nat) (s : State) : State :=
  let t := seatAt s fe k
  if t.spilllim ≤ t.spillbase then s
  else each t.ring.zipIdx (fun p s =>
    let a := spBase fe + t.spillbase.toNat + 16 * p.2
    wrPa (a + 8) 8 p.1.w1.toNat (wrPa a 8 p.1.w0.toNat s)) s

/-- A record is held as frozen channel state until the receivers of its seat's job are released (11 R175, R178). -/
def recHeld (s : State) (t : Seat) : Bool := t.st == .frozen && recvFrozen s t.ctx

/-- EVENT_RECORD_ARRIVAL: record `n` on its way enters the queue or ring of its seat, whatever the seat's state; with no
room it is held, and EVENT_OVERFLOW is deferred once for the episode, with 64 in FAULTINFO. Records of a frozen seat
are held as channel state (11 R175). -/
def recArrive (n : Nat) (s : State) : State :=
  match s.recs[n]? with
  | none => s
  | some m =>
    let t := seatAt s m.fe m.seat
    if recHeld s t then s
    else if roomFor t then
      storeRing m.fe m.seat (modSeat m.fe m.seat (addRec m.ev) { s with recs := removeAt n s.recs })
    else
      let s := { s with recs := s.recs.modify n (fun x => { x with held := true }) }
      if t.evOver then s
      else deferFault m.fe m.seat (seatAt s m.fe m.seat).ctx { code := Code.eventOverflow, info := 64 } false
        (modSeat m.fe m.seat (fun t => { t with evOver := true }) s)

def execEventRecordArrival (n : Nat) (s : State) : Result := .next (recArrive n s)

/-- EVENT_RECORD_RETRY: the oldest held record of a seat enters when room frees; the episode ends with the last held record. -/
def recRetry (n : Nat) (s : State) : State :=
  match s.recs[n]? with
  | none => s
  | some m =>
    let t := seatAt s m.fe m.seat
    let mine (x : RecMsg) : Bool := x.fe == m.fe && x.seat == m.seat && x.held
    if recHeld s t || !m.held || !roomFor t || (s.recs.take n).any mine then s
    else
      let s := storeRing m.fe m.seat (modSeat m.fe m.seat (addRec m.ev) { s with recs := removeAt n s.recs })
      if s.recs.any mine then s
      else modSeat m.fe m.seat (fun t => { t with evOver := false }) s

def execEventRecordRetry (n : Nat) (s : State) : Result := .next (recRetry n s)

/-! ### EVPOP and EVWAIT (19 R346) -/

/-- The queue and the ring together, oldest first. -/
def pending (t : Seat) : List EvRec := t.evq ++ t.ring

/-- The oldest record, of the given TAG when one is asked for, that the hand has not taken, with its place. -/
def oldest (t : Seat) (h : Hand) (tag : Option (BitVec 16)) : Option (Nat × EvRec) :=
  ((pending t).zipIdx.find? fun p => !h.taken.contains p.2 && (match tag with
    | some g => recTag p.1 == g
    | none => true)).map fun p => (p.2, p.1)

/-- The record at place `i` is read into S[d] and S[d + 1]; it leaves the queue at commit. -/
def takeRec (d : Reg) (tag : Option (BitVec 16)) (i : Nat) (e : EvRec) (h : Hand) : Hand :=
  hEff (.evtake tag) (wrS (d + 1) e.w1 (wrS d e.w0 { h with taken := h.taken ++ [i] }))

def execEvpop (d : Reg) (q : Sel) (s : State) : Result :=
  .next (issue 8 q (fun s h => match oldest (cur s) h none with
    | some (i, e) => takeRec d none i e h
    | none => wrS (d + 1) 0 (wrS d (w64 (2 ^ 64 - 1)) h)) s)

def execEvwait (d b : Reg) (tagged : Bool) (q : Sel) (s : State) : Result :=
  .next (issueB 8 q (fun s => match (cur s).hand with
    | none => (s, .done)
    | some h =>
      let tag := if tagged then some (BitVec.ofNat 16 (fld (rdS h b) 15 0)) else none
      match oldest (cur s) h tag with
      | some (i, e) => (modHand (takeRec d tag i e) s, .done)
      | none => (s, .wait)) s)

/-- The take at commit. -/
def evTake (fe k : Nat) (tag : Option (BitVec 16)) (s : State) : State :=
  storeRing fe k <| modSeat fe k (fun t =>
    match (pending t).findIdx? (fun e => match tag with
      | some g => recTag e == g
      | none => true) with
    | some i => refill { t with evq := removeAt i (pending t) |>.take 32, ring := removeAt i (pending t) |>.drop 32 }
    | none => t) s

end Sys2Proof.Machine
end

