-- ==== Sys2Proof/Machine/Barrier.lean ====
section
/-!
DEFINITION. Barrier objects (08 R132 to R135): arrivals, completions, resets and the release of their waiters.
-/

namespace Sys2Proof.Machine

def setBar (fe n : Nat) (b : Barrier) (s : State) : State :=
  modFe fe (fun f => { f with barriers := KV.put {} n b f.barriers }) s

/-- The object and phase that a waiter waits on: of BWAIT, local or remote. -/
def waiterBar : Waiter → Option (Nat × BitVec 8)
  | .bar _ n ph => some (n, ph)
  | .remote r =>
    match r.op with
    | .bwait ph => some ((paOff r.pa - spTop) / 8, ph)
    | _ => none
  | _ => none

/-- Answer one waiter of a barrier object. -/
def answerBar (fe : Nat) (w : Waiter) (v : W64) (ovr : Bool) (s : State) : State :=
  let st := if ovr then 1 else 0
  match w with
  | .bar k _ _ => grantSeat fe k v st s
  | .remote r => sendReply r (.grant v st) s
  | _ => s

/-- Release the waiters of object `n` whose condition now holds, as if it stood at `b` (08 R133). -/
def releaseBar (fe n : Nat) (b : Barrier) (s : State) : State :=
  let f := feAt s fe
  let go (w : Waiter) : Option (W64 × Bool) := match waiterBar w with
    | some (m, ph) => if m == n then bwaitNow b ph else none
    | none => none
  let s := modFe fe (fun f => { f with waits := f.waits.filter (fun w => (go w).isNone) }) s
  each f.waits (fun w s => match go w with
    | some (v, ovr) => answerBar fe w v ovr s
    | none => s) s

/-- The record of an OVERRUN, to the seat of the BINIT (08 R134). -/
def overrunRec (fe n : Nat) (b : Barrier) (s : State) : State :=
  postFor fe b.initBy (BitVec.ofNat 16 n) Code.barrierOverrun 0xF1 0 0 s

/-- An object with its phase completed. -/
def completeBar (b : Barrier) (last : BarLast) : Barrier := { b with last := last, phase := b.phase + 1, arrived := 0 }

/-- An arrival of `amount` at object `n`; the answer says whether the object took it (08 R133, R136). -/
def arriveBar (fe n amount : Nat) (s : State) : State × Bool :=
  let b := barAt (feAt s fe) n
  match b.st with
  | .free => (s, false)
  | .error => (s, true)
  | .opened =>
    let t := b.arrived.toNat + amount
    if t < b.expect.toNat then (setBar fe n { b with arrived := BitVec.ofNat 48 t } s, true)
    else if t = b.expect.toNat then
      let b := completeBar b .ok
      (releaseBar fe n b (setBar fe n b s), true)
    else
      let b := completeBar b .overrun
      (overrunRec fe n b (releaseBar fe n b (setBar fe n b s)), true)

/-- An engine's error arrival. -/
def errorBar (fe n : Nat) (s : State) : State :=
  let b := barAt (feAt s fe) n
  if b.st == .opened then
    let b := { completeBar b .error with st := .error }
    releaseBar fe n b (setBar fe n b s)
  else s

/-- BRST of an object that is not FREE. -/
def resetBar (fe n : Nat) (s : State) : State :=
  let b := barAt (feAt s fe) n
  if b.st == .free then s
  else
    let b := { completeBar b .reset with st := .opened }
    releaseBar fe n b (setBar fe n b s)

/-- An object returns to FREE, its waiters being released with RESET. -/
def freeBar (fe n : Nat) (s : State) : State :=
  let b := barAt (feAt s fe) n
  let b := { b with st := .free, last := .reset, arrived := 0, expect := 0 }
  releaseBar fe n b (setBar fe n b s)

/-- BINIT by seat `k`. -/
def initBar (fe k n : Nat) (byteMode trap : Bool) (expect : BitVec 48) (s : State) : State :=
  if expect = 0 then freeBar fe n s
  else
    let b := barAt (feAt s fe) n
    if b.st == .free then
      setBar fe n { expect := expect, byteMode := byteMode, trap := trap, st := .opened, initBy := k } s
    else
      let s := resetBar fe n s
      let b := barAt (feAt s fe) n
      setBar fe n { b with expect := expect, byteMode := byteMode, trap := trap, initBy := k } s

/-- Every object of an FE returns to FREE (06 R104). -/
def freeBars (fe : Nat) (s : State) : State := each (feAt s fe).barriers (fun e s => freeBar fe e.1 s) s

def execBarrierArrival (fe bar amount : Nat) (s : State) : Result := .next (arriveBar fe bar amount s).1
def execErrorArrival (fe bar : Nat) (s : State) : Result := .next (errorBar fe bar s)

end Sys2Proof.Machine
end

