-- ==== Sys2Proof/Machine/Flags.lean ====
section
/-!
DEFINITION. Number formats and arithmetic (03): exact values, RoundTo with its flags and its stochastic generator,
conversions, the exact results of the float instructions (16 R281), and scaled blocks (03 R46 to R50).
-/

namespace Sys2Proof.Machine

/-! ### Formats and exact values (03 R30, R31) -/

/-- The float formats, in the order of their codes (15 R248). -/
inductive Fmt where
  | fp32 | fp16 | bf16 | e4m3 | e5m2
  deriving DecidableEq, Repr

def Fmt.expBits : Fmt → Nat
  | .fp32 => 8 | .fp16 => 5 | .bf16 => 8 | .e4m3 => 4 | .e5m2 => 5
def Fmt.fracBits : Fmt → Nat
  | .fp32 => 23 | .fp16 => 10 | .bf16 => 7 | .e4m3 => 3 | .e5m2 => 2
def Fmt.bias (f : Fmt) : Nat := 2 ^ (f.expBits - 1) - 1
def Fmt.width (f : Fmt) : Nat := 1 + f.expBits + f.fracBits
def Fmt.nanCode : Fmt → Nat
  | .fp32 => 0x7FC00000 | .fp16 => 0x7E00 | .bf16 => 0x7FC0 | .e4m3 => 0x7F | .e5m2 => 0x7E
/-- The code of the largest finite value. -/
def Fmt.maxCode : Fmt → Nat
  | .fp32 => 0x7F7FFFFF | .fp16 => 0x7BFF | .bf16 => 0x7F7F | .e4m3 => 0x7E | .e5m2 => 0x7B
/-- The code of +infinity; E4M3 has none (03 R31). -/
def Fmt.infCode : Fmt → Nat
  | .fp32 => 0x7F800000 | .fp16 => 0x7C00 | .bf16 => 0x7F80 | .e4m3 => 0x7F | .e5m2 => 0x7C

/-- An exact value: NaN, an infinity, or a signed magnitude `num / den` (a zero keeps its sign). -/
inductive FV where
  | nan
  | inf (neg : Bool)
  | fin (neg : Bool) (num den : Nat)
  deriving DecidableEq, Repr

/-- `m × 2^(e - k)` as a fraction. -/
def scaled (neg : Bool) (m e k : Nat) : FV := if k ≤ e then .fin neg (m * 2 ^ (e - k)) 1 else .fin neg m (2 ^ (k - e))

/-- The value of a code (03 R30, R31). -/
def Fmt.decode (f : Fmt) (c : Nat) : FV :=
  let frac := c % 2 ^ f.fracBits
  let e := c / 2 ^ f.fracBits % 2 ^ f.expBits
  let neg := c / 2 ^ (f.width - 1) % 2 == 1
  if f == .e4m3 && c % 128 == 127 then .nan
  else if f != .e4m3 && e == 2 ^ f.expBits - 1 then (if frac == 0 then .inf neg else .nan)
  else if e == 0 then scaled neg frac 1 (f.bias + f.fracBits)
  else scaled neg (2 ^ f.fracBits + frac) e (f.bias + f.fracBits)

/-! ### Flags and the rounding state -/

/-- FPFLAGS bits (03 R36). -/
def flagNV : Nat := 1
def flagDZ : Nat := 2
def flagOF : Nat := 4
def flagUF : Nat := 8
def flagNX : Nat := 16

/-- The union of two sets of flags. -/
def orFl (a b : Nat) : Nat := a ||| b

/-- What a rounding depends on and changes: the mode, SAT, the generator, and the flags set so far. -/
structure Rnd where
  mode : Nat
  sat : Bool
  gen : W32
  fl : Nat := 0
  deriving DecidableEq, Repr

/-- Rounding under an FPCTL (03 R34). -/
def Rnd.of (fpctl : W64) (gen : W32) : Rnd :=
  { mode := fpctl.toNat % 8, sat := fpctl.getLsbD 8, gen := gen }

def Rnd.raise (r : Rnd) (fl : Nat) : Rnd := { r with fl := orFl r.fl fl }

/-- SrDraw: one step of the Galois generator (03 R39). -/
def srDraw (s : W32) : W32 := if s.getLsbD 0 then (s >>> 1) ^^^ 0x80200003 else s >>> 1

/-- The exponent of the leading bit of `n / d`, as the exponent plus `bias`; `n / d` must lie above `2^-bias`. -/
def expOf (n d bias : Nat) : Nat := Nat.log2 (n * 2 ^ bias / d)

/-- The grid point chosen for the magnitude `n / d` in units: `n / d` is split into whole units and a remainder, and the
answer gives the units and the state. The lower neighbour of a negative value is the greater magnitude (03 R38). A value on
the grid counts as representable above MaxF too, where the grid goes on without bound (2^128 in FP32): SR draws nothing for
it, and the result is then an overflow (03 R39; DESIGN CHOICE, log 46). -/
def roundUnits (r : Rnd) (neg : Bool) (n d : Nat) : Nat × Rnd :=
  let lo := n / d
  let rem := n % d
  if rem == 0 then (lo, r)
  else
    let nx := r.raise flagNX
    match r.mode with
    | 0 => (if decide (2 * rem > d) || (2 * rem == d && lo % 2 == 1) then lo + 1 else lo, nx)
    | 1 => (lo, nx)
    | 2 => (if neg then lo else lo + 1, nx)
    | 3 => (if neg then lo + 1 else lo, nx)
    | _ =>
      let g := srDraw r.gen
      let t := (if neg then d - rem else rem) * 2 ^ 32 / d
      let hi := decide (2 ^ 32 ≤ t + g.toNat)
      (if hi != neg then lo + 1 else lo, { nx with gen := g })

/-- RoundTo (03 R38): the code of `x` rounded to format `f`; `conv` says that the operation is a conversion. -/
def roundTo (f : Fmt) (conv : Bool) (r : Rnd) (x : FV) : Nat × Rnd :=
  let sign (neg : Bool) (c : Nat) : Nat := (if neg then 2 ^ (f.width - 1) else 0) + c
  match x with
  | .nan => (f.nanCode, r)
  | .inf neg => if f == .e4m3 then (sign neg f.maxCode, r.raise (orFl flagNV flagOF)) else (sign neg f.infCode, r)
  | .fin neg num den =>
    if num == 0 then (sign neg 0, r)
    else
      -- exponents are counted from the smallest subnormal's: unit k stands for 2^(k + 1 - bias - fracBits)
      let low := f.bias + f.fracBits - 1
      let n := num * 2 ^ low
      let k := Nat.log2 (n / den) - f.fracBits
      let (u, r1) := roundUnits r neg n (den * 2 ^ k)
      let code := if u < 2 ^ f.fracBits then u else u + k * 2 ^ f.fracBits
      let tiny := decide (u < 2 ^ f.fracBits) && u * (den * 2 ^ k) != n
      let r2 := if tiny then r1.raise flagUF else r1
      if code ≤ f.maxCode then (sign neg code, r2)
      else
        let r3 := r2.raise (orFl flagOF flagNX)
        let small := f == .e4m3 || f == .e5m2
        if (small && conv) || (f != .fp32 && r.sat) || r.mode == 1 || (r.mode == 2 && neg) || (r.mode == 3 && !neg) then
          (sign neg f.maxCode, r3)
        else (sign neg f.infCode, r3)

/-! ### Exact arithmetic (16 R281) -/

/-- The sum of two finite values; an exact zero is +0, or -0 under RDN, unless both are zeros of one sign (03 R38). -/
def addFin (mode : Nat) (sa : Bool) (na da : Nat) (sb : Bool) (nb db : Nat) : FV :=
  let a := na * db
  let b := nb * da
  let d := da * db
  if sa == sb then .fin sa (a + b) d
  else if a == b then .fin (mode == 3) 0 1
  else if b < a then .fin sa (a - b) d
  else .fin sb (b - a) d

/-- a + b, and the flags of an invalid sum. -/
def addFV (mode : Nat) (a b : FV) : FV × Nat :=
  match a, b with
  | .nan, _ => (.nan, 0)
  | _, .nan => (.nan, 0)
  | .inf s, .inf t => if s == t then (.inf s, 0) else (.nan, flagNV)
  | .inf s, _ => (.inf s, 0)
  | _, .inf t => (.inf t, 0)
  | .fin sa na da, .fin sb nb db => (addFin mode sa na da sb nb db, 0)

/-- a × b; the answer's flags say that it is 0 × ∞. -/
def mulFV (a b : FV) : FV × Nat :=
  match a, b with
  | .nan, _ => (.nan, 0)
  | _, .nan => (.nan, 0)
  | .inf s, .inf t => (.inf (s != t), 0)
  | .inf s, .fin t n _ => if n == 0 then (.nan, flagNV) else (.inf (s != t), 0)
  | .fin t n _, .inf s => if n == 0 then (.nan, flagNV) else (.inf (s != t), 0)
  | .fin s n d, .fin t m e => (.fin (s != t) (n * m) (d * e), 0)

/-- a / b. -/
def divFV (a b : FV) : FV × Nat :=
  match a, b with
  | .nan, _ => (.nan, 0)
  | _, .nan => (.nan, 0)
  | .inf _, .inf _ => (.nan, flagNV)
  | .inf s, .fin t _ _ => (.inf (s != t), 0)
  | .fin s _ _, .inf t => (.fin (s != t) 0 1, 0)
  | .fin s n d, .fin t m e =>
    if m == 0 then (if n == 0 then (.nan, flagNV) else (.inf (s != t), flagDZ))
    else (.fin (s != t) (n * e) (d * m), 0)

def negFV : FV → FV
  | .nan => .nan
  | .inf s => .inf (!s)
  | .fin s n d => .fin (!s) n d

/-- a × b + c with one rounding to follow; 0 × ∞ is invalid even when c is NaN (16 R281). -/
def fmaFV (mode : Nat) (a b c : FV) : FV × Nat :=
  let (p, f1) := mulFV a b
  let (v, f2) := addFV mode p c
  (v, orFl f1 f2)

/-- Whether a value is less than another; NaN is less than nothing. `zero` orders -0 below +0. -/
def ltFV (zero : Bool) (a b : FV) : Bool :=
  match a, b with
  | .nan, _ => false
  | _, .nan => false
  | .inf s, .inf t => s && !t
  | .inf s, _ => s
  | _, .inf t => !t
  | .fin s n d, .fin t m e =>
    if n == 0 && m == 0 then zero && s && !t
    else if s != t then s && !(n == 0 && m == 0)
    else if s then decide (m * d < n * e) else decide (n * e < m * d)

def eqFV (a b : FV) : Bool :=
  match a, b with
  | .nan, _ => false
  | _, .nan => false
  | .inf s, .inf t => s == t
  | .fin s n d, .fin t m e => (n == 0 && m == 0) || (s == t && n * e == m * d)
  | _, _ => false

/-- A value a little above the floor `t / 2^p` of an irrational magnitude: it rounds as the exact one does, whose cell of
the rounding grid it shares (log 15). -/
def above (neg : Bool) (t p : Nat) : FV := .fin neg (2 * t + 1) (2 ^ (p + 1))

/-! ### Square roots, powers and logarithms, to more bits than any rounding looks at (16 R281, log 15) -/

/-- The integer square root by bits: `k` bits are still to be found. -/
def isqrtGo (n : Nat) : Nat → Nat → Nat
  | 0, acc => acc
  | k + 1, acc =>
    let c := acc + 2 ^ k
    if c * c ≤ n then isqrtGo n k c else isqrtGo n k acc

def isqrt (n : Nat) : Nat := isqrtGo n (Nat.log2 n / 2 + 1) 0

/-- √(n / d). -/
def sqrtMag (n d : Nat) : FV :=
  let p := 200
  let q := n * 2 ^ (2 * p) / d
  let t := isqrt q
  if t * t * d == n * 2 ^ (2 * p) then .fin false t (2 ^ p) else above false t p

/-- The fixed-point precision of the series. -/
def fixP : Nat := 384
def fixOne : Nat := 2 ^ 384

/-- exp of `z / 2^384`, below 1, by its series: term `k` is `acc`. -/
def expSeries (z : Nat) : Nat → Nat → Nat → Nat
  | 0, _, _ => 0
  | fuel + 1, k, term => term + expSeries z fuel (k + 1) (term * z / fixOne / k)

/-- atanh of `t / 2^384`, at most 1/3, by its series: `pw` is `t^k`. -/
def atanhSeries (t2 : Nat) : Nat → Nat → Nat → Nat
  | 0, _, _ => 0
  | fuel + 1, k, pw => pw / k + atanhSeries t2 fuel (k + 2) (pw * t2 / fixOne)

def atanhFix (t : Nat) : Nat := atanhSeries (t * t / fixOne) 130 1 t

/-- ln 2 as 2 atanh(1/3). -/
def ln2Fix : Nat := 2 * atanhFix (fixOne / 3)

/-- 2^(f / 2^384) for a fraction f below 1. -/
def exp2Fix (f : Nat) : Nat := expSeries (f * ln2Fix / fixOne) 90 1 fixOne

/-- 2^x for a finite x that is no integer, as a value that rounds like it. A tiny x keeps on its side of 1. -/
def exp2FV (neg : Bool) (n d : Nat) : FV :=
  if n == 0 then .fin false 1 1
  else if d ≤ n && n % d == 0 then
    (let k := n / d
     if 400 < k then (if neg then above false 0 500 else .fin false (2 ^ 400) 1)
     else if neg then .fin false 1 (2 ^ k) else .fin false (2 ^ k) 1)
  else if d * 400 < n then (if neg then above false 0 500 else .fin false (2 ^ 401 + 1) 2)
  else if n * 2 ^ 100 < d then
    (if neg then .fin false (2 ^ 110 - 1) (2 ^ 110) else .fin false (2 ^ 110 + 1) (2 ^ 110))
  else
    let whole := n / d
    let frac := (n % d) * fixOne / d
    if neg then above false (exp2Fix (fixOne - frac)) (fixP + whole + 1)
    else
      let t := exp2Fix frac
      .fin false ((2 * t + 1) * 2 ^ whole) (2 ^ (fixP + 1))

/-- log2 of a positive finite value. -/
def log2FV (n d : Nat) : FV :=
  -- n/d = m * 2^e with m in [3/4, 3/2), found by comparing with powers of two; e is kept plus 600
  let e0 := Nat.log2 (n * 2 ^ 600 / d)
  let e := if 3 * d * 2 ^ e0 ≤ 2 * n * 2 ^ 600 then e0 + 1 else e0
  let num := n * 2 ^ 600
  let den := d * 2 ^ e
  if num == den then (if 600 ≤ e then .fin false (e - 600) 1 else .fin true (600 - e) 1)
  else
    -- ln m = 2 atanh((m - 1) / (m + 1))
    let up := decide (den < num)
    let diff := if up then num - den else den - num
    let l := 2 * atanhFix (diff * fixOne / (num + den)) * fixOne / ln2Fix
    -- the value is (e - 600) + l or (e - 600) - l, where 0 < l < 1
    if 600 < e || (e == 600 && up) then
      (if up then above false ((e - 600) * fixOne + l) fixP else above false ((e - 600) * fixOne - l - 1) fixP)
    else
      (if up then above true ((600 - e) * fixOne - l - 1) fixP else above true ((600 - e) * fixOne + l) fixP)

/-- e^(-y) for a positive finite y, in units of 2^-384; 0 beyond 300. -/
def expNegFix (n d : Nat) : Nat :=
  if d * 300 < n then 0
  else
    let z := n * fixOne / d * fixOne / ln2Fix
    let whole := z / fixOne
    let frac := z % fixOne
    if frac == 0 then fixOne / 2 ^ whole else exp2Fix (fixOne - frac) / 2 ^ (whole + 1)

/-- tanh of a value (18 R321). -/
def tanhFV : FV → FV
  | .nan => .nan
  | .inf s => .fin s 1 1
  | .fin s n d =>
    if n == 0 then .fin s 0 1
    else if n * 2 ^ 40 < d then .fin s (n * (2 ^ 75 - 1)) (d * 2 ^ 75)
    else
      let u := expNegFix (2 * n) d
      let t := (fixOne - u) * fixOne / (fixOne + u)
      above s (Nat.min t (fixOne - 1)) fixP

/-- sigm x = 1 / (1 + e^-x) (18 R321). -/
def sigmFV : FV → FV
  | .nan => .nan
  | .inf true => .fin false 0 1
  | .inf false => .fin false 1 1
  | .fin s n d =>
    if n == 0 then .fin false 1 2
    else if n * 2 ^ 80 < d then .fin false (if s then 2 ^ 90 - 1 else 2 ^ 90 + 1) (2 ^ 91)
    else
      let u := expNegFix n d
      if s then above false (u * fixOne / (fixOne + u)) fixP
      else above false (Nat.min (fixOne * fixOne / (fixOne + u)) (fixOne - 1)) fixP

/-- 1 / √a (16 R281). -/
def rsqFV : FV → FV × Nat
  | .nan => (.nan, 0)
  | .inf false => (.fin false 0 1, 0)
  | .inf true => (.nan, flagNV)
  | .fin s n d =>
    if n == 0 then (.inf s, flagDZ)
    else if s then (.nan, flagNV)
    else (sqrtMag d n, 0)

/-- √a. -/
def sqrtFV : FV → FV × Nat
  | .nan => (.nan, 0)
  | .inf false => (.inf false, 0)
  | .inf true => (.nan, flagNV)
  | .fin s n d => if n == 0 then (.fin s 0 1, 0) else if s then (.nan, flagNV) else (sqrtMag n d, 0)

/-- 1 / a. -/
def rcpFV : FV → FV × Nat
  | .nan => (.nan, 0)
  | .inf s => (.fin s 0 1, 0)
  | .fin s n d => if n == 0 then (.inf s, flagDZ) else (.fin s d n, 0)

/-- 2^a. -/
def exp2Of : FV → FV × Nat
  | .nan => (.nan, 0)
  | .inf false => (.inf false, 0)
  | .inf true => (.fin false 0 1, 0)
  | .fin s n d => (exp2FV s n d, 0)

/-- log2 a. -/
def log2Of : FV → FV × Nat
  | .nan => (.nan, 0)
  | .inf false => (.inf false, 0)
  | .inf true => (.nan, flagNV)
  | .fin s n d =>
    if n == 0 then (.inf true, flagDZ)
    else if s then (.nan, flagNV)
    else (log2FV n d, 0)

/-- Round an exact result with its own flags. -/
def roundFV (f : Fmt) (r : Rnd) (x : FV × Nat) : Nat × Rnd := roundTo f false (r.raise x.2) x.1

/-! ### The float operations on codes of a format (16 R281, 18 R321) -/

def fAdd (f : Fmt) (r : Rnd) (a b : Nat) : Nat × Rnd := roundFV f r (addFV r.mode (f.decode a) (f.decode b))
def fSub (f : Fmt) (r : Rnd) (a b : Nat) : Nat × Rnd := roundFV f r (addFV r.mode (f.decode a) (negFV (f.decode b)))
def fMul (f : Fmt) (r : Rnd) (a b : Nat) : Nat × Rnd := roundFV f r (mulFV (f.decode a) (f.decode b))
def fDiv (f : Fmt) (r : Rnd) (a b : Nat) : Nat × Rnd := roundFV f r (divFV (f.decode a) (f.decode b))
def fFma (f : Fmt) (r : Rnd) (a b c : Nat) : Nat × Rnd :=
  roundFV f r (fmaFV r.mode (f.decode a) (f.decode b) (f.decode c))
def fRcp (f : Fmt) (r : Rnd) (a : Nat) : Nat × Rnd := roundFV f r (rcpFV (f.decode a))
def fRsq (f : Fmt) (r : Rnd) (a : Nat) : Nat × Rnd := roundFV f r (rsqFV (f.decode a))
def fSqrt (f : Fmt) (r : Rnd) (a : Nat) : Nat × Rnd := roundFV f r (sqrtFV (f.decode a))
def fExp2 (f : Fmt) (r : Rnd) (a : Nat) : Nat × Rnd := roundFV f r (exp2Of (f.decode a))
def fLog2 (f : Fmt) (r : Rnd) (a : Nat) : Nat × Rnd := roundFV f r (log2Of (f.decode a))
def fTanh (f : Fmt) (r : Rnd) (a : Nat) : Nat × Rnd := roundTo f false r (tanhFV (f.decode a))
def fSigm (f : Fmt) (r : Rnd) (a : Nat) : Nat × Rnd := roundTo f false r (sigmFV (f.decode a))
/-- FABS and FNEG act on the sign bit alone (03 R33). -/
def fAbs (f : Fmt) (a : Nat) : Nat := a % 2 ^ (f.width - 1)
def fNeg (f : Fmt) (a : Nat) : Nat := (a % 2 ^ f.width + 2 ^ (f.width - 1)) % 2 ^ f.width

/-- The trap that flags raised by one operation meet under the enables of FPCTL: FP_INVALID, then FP_DIVZERO, then
FP_OVERFLOW; NX and UF never trap (03 R40). -/
def fpTrap (fpctl : W64) (fl : Nat) : Option (BitVec 8) :=
  if fpctl.getLsbD 5 && fl % 2 == 1 then some 0x21
  else if fpctl.getLsbD 6 && fl / 2 % 2 == 1 then some 0x22
  else if fpctl.getLsbD 4 && fl / 4 % 2 == 1 then some 0x20
  else none

/-- The lesser or the greater of two codes: -0 is below +0, one NaN gives the other operand, two the canonical NaN
(16 R281). -/
def minmax (f : Fmt) (mx : Bool) (a b : Nat) : Nat :=
  let x := f.decode a
  let y := f.decode b
  match x, y with
  | .nan, .nan => f.nanCode
  | .nan, _ => b
  | _, .nan => a
  | _, _ => if mx then (if ltFV true x y then b else a) else (if ltFV true y x then b else a)

/-! ### Conversions (15 R248, 16 R282, 03 R41) -/

/-- The float format of a code of R248. -/
def fmtOf (c : Nat) : Option Fmt :=
  match c with
  | 0 => some .fp32 | 1 => some .fp16 | 2 => some .bf16 | 3 => some .e4m3 | 4 => some .e5m2
  | _ => none

/-- Width of an integer code of R248, and whether it is two's complement: 8 to 11 are .i8 to .i64, 12 to 15 .n8 to
.n64. -/
def intWidth (c : Nat) : Nat := 8 * 2 ^ (c % 4)
def intSigned (c : Nat) : Bool := decide (c < 12)

/-- The low `w` bits of a number as an integer. -/
def asInt (signed : Bool) (w v : Nat) : Int :=
  let v := v % 2 ^ w
  if signed && decide (2 ^ (w - 1) ≤ v) then (v : Int) - (2 ^ w : Nat) else v

def ofInt (i : Int) : FV := .fin (decide (i < 0)) i.natAbs 1

/-- Conversion to an integer type: round, then saturate; a NaN gives 0 (03 R41). The answer is sign- or zero-extended to
64 bits (03 R29). -/
def toInt (code : Nat) (r : Rnd) (x : FV) : Nat × Rnd :=
  let w := intWidth code
  let lo : Int := if intSigned code then -(2 ^ (w - 1) : Nat) else 0
  let hi : Int := if intSigned code then (2 ^ (w - 1) : Nat) - 1 else (2 ^ w : Nat) - 1
  let word (i : Int) : Nat := (i % (2 ^ 64 : Nat)).toNat
  match x with
  | .nan => (0, r.raise flagNV)
  | .inf s => (word (if s then lo else hi), r.raise (orFl flagNV flagNX))
  | .fin s n d =>
    let (u, r) := roundUnits r s n d
    let i : Int := if s then -(u : Int) else u
    if i < lo then (word lo, r.raise (orFl flagNV flagNX))
    else if hi < i then (word hi, r.raise (orFl flagNV flagNX))
    else (word i, r)

/-- FCVT from source code to destination code, neither reserved and not both integers: the 64-bit result (16 R282). -/
def convert (dst src : Nat) (r : Rnd) (v : Nat) : Nat × Rnd :=
  match fmtOf dst, fmtOf src with
  | some f, some g =>
    let c := v % 2 ^ g.width
    if f == g then (if g.decode c = .nan then f.nanCode else c, r) else roundTo f true r (g.decode c)
  | some f, none => roundTo f true r (ofInt (asInt (intSigned src) (intWidth src) v))
  | none, some g => toInt dst r (g.decode (v % 2 ^ g.width))
  | none, none => (v, r)

/-! ### Scaled blocks (03 R46 to R50) -/

/-- Elements of a block by its FMT: 124 for sf4, 62 for sf8. -/
def blockElems (fmt : Nat) : Nat := if fmt == 0x41 then 124 else 62

/-- Twice-eighth magnitudes of an sf4 type: the magnitude of index m, in eighths (03 R47). -/
def sf4Mag (type m : Nat) : Nat :=
  let l : List Nat := match type with
    | 0 => [0, 8, 16, 24, 32, 40, 48, 56]
    | 1 => [0, 4, 8, 12, 16, 24, 32, 48]
    | 2 => [0, 1, 2, 4, 8, 16, 32, 64]
    | _ => [0, 8, 16, 24, 32, 48, 64, 96]
  l.getD m 0

/-- Whether a block is malformed (03 R48). -/
def blockBad (b : List Byte) : Bool :=
  let fmt := (b.getD 0 0).toNat
  let type := (b.getD 1 0).toNat / 64
  !(fmt == 0x41 || fmt == 0x81 || fmt == 0x82 || fmt == 0x83) || (fmt != 0x41 && type != 0)

/-- Code `i` of a block. -/
def blockCode (b : List Byte) (i : Nat) : Nat :=
  if (b.getD 0 0).toNat == 0x41 then
    (let v := (b.getD (2 + i / 2) 0).toNat
     if i % 2 == 0 then v % 16 else v / 16)
  else (b.getD (2 + i) 0).toNat

/-- The value of a code without its block's scale (03 R47). -/
def codeVal (fmt type c : Nat) : FV :=
  match fmt with
  | 0x41 => if c == 8 then .fin false 0 1 else .fin (decide (8 ≤ c)) (sf4Mag type (c % 8)) 8
  | 0x81 => Fmt.decode .e4m3 c
  | 0x82 => Fmt.decode .e5m2 c
  | _ => ofInt (asInt true 8 c)

/-- A value times 2^(e - 31). -/
def scaleBy (e : Nat) : FV → FV
  | .fin s n d => .fin s (n * 2 ^ e) (d * 2 ^ 31)
  | v => v

/-- Element `i` of a well-formed block. -/
def blockElem (b : List Byte) (i : Nat) : FV :=
  let fmt := (b.getD 0 0).toNat
  let sc := (b.getD 1 0).toNat
  if sc % 64 == 63 then .nan else scaleBy (sc % 64) (codeVal fmt (sc / 64) (blockCode b i))

/-- Vmax of a code set, as a whole number (03 R47). -/
def vmax (fmt type : Nat) : Nat :=
  match fmt with
  | 0x41 => sf4Mag type 7 / 8
  | 0x81 => 448
  | 0x82 => 57344
  | _ => 127

/-- The greatest magnitude of a list of finite values, as a fraction. -/
def maxMag : List FV → Nat × Nat
  | [] => (0, 1)
  | .fin _ n d :: r => let (m, e) := maxMag r; if m * d < n * e then (n, d) else (m, e)
  | _ :: r => maxMag r

/-- The smallest e from 0 to 62 with M ≤ Vmax × 2^(e - 31), or 62 (03 R49). -/
def scaleExp (n d vm : Nat) : Nat :=
  ((List.range 63).find? (fun e => decide (n * 2 ^ 31 ≤ vm * d * 2 ^ e))).getD 62

/-- The code of a magnitude `n / d` already scaled: the nearest of the set, ties to the even code, at most Vmax. -/
def nearest (fmt type n d : Nat) : Nat :=
  if fmt == 0x41 then
    -- compare |8 n / d - mag| over the eight magnitudes
    (let dist (m : Nat) : Nat := let a := 8 * n; let b := sf4Mag type m * d; if a < b then b - a else a - b
     (List.range 8).foldl (fun best m =>
       if decide (dist m < dist best) || (dist m == dist best && m % 2 == 0) then m else best) 0)
  else if fmt == 0x83 then
    (let (u, _) := roundUnits { mode := 0, sat := false, gen := 0 } false n d
     Nat.min u 127)
  else
    (let f : Fmt := if fmt == 0x81 then .e4m3 else .e5m2
     let (c, _) := roundTo f true { mode := 0, sat := true, gen := 0 } (.fin false n d)
     c)

/-- The code of one element under scale exponent e (03 R49). -/
def quantCode (fmt type e : Nat) (v : FV) : Nat :=
  match v with
  | .fin s n d =>
    let q := nearest fmt type (n * 2 ^ 31) (d * 2 ^ e)
    if q == 0 then 0
    else if fmt == 0x83 then (if s then 256 - q else q)
    else if fmt == 0x41 then (if s then 8 + q else q)
    else if s then 128 + q else q
  | _ => 0

/-- The code bytes of a block. -/
def packCodes (fmt : Nat) (codes : List Nat) : List Byte :=
  if fmt == 0x41 then
    (List.range 62).map fun i => BitVec.ofNat 8 (codes.getD (2 * i) 0 + 16 * codes.getD (2 * i + 1) 0)
  else (List.range 62).map fun i => BitVec.ofNat 8 (codes.getD i 0)

def isFinite : FV → Bool
  | .fin _ _ _ => true
  | _ => false

/-- Quantise for one type: a position that holds `none` is padding (03 R49). -/
def quantiseAs (fmt type : Nat) (vals : List (Option FV)) : List Byte :=
  let valid := vals.filterMap id
  if valid.any (fun v => !isFinite v) then
    BitVec.ofNat 8 fmt :: BitVec.ofNat 8 (type * 64 + 63) :: packCodes fmt []
  else
    let (n, d) := maxMag valid
    let e := if n == 0 then 0 else scaleExp n d (vmax fmt type)
    BitVec.ofNat 8 fmt :: BitVec.ofNat 8 (type * 64 + e) ::
      packCodes fmt (vals.map fun v => match v with
        | some v => quantCode fmt type e v
        | none => 0)

/-- |a - b| of finite values as a fraction. -/
def distFV (a b : FV) : Nat × Nat :=
  match a, b with
  | .fin s n d, .fin t m e =>
    if s == t then (let x := n * e; let y := m * d; ((if x < y then y - x else x - y), d * e))
    else (n * e + m * d, d * e)
  | _, _ => (0, 1)

/-- The exact error of a block over its valid elements (03 R50). -/
def quantErr (b : List Byte) (vals : List (Option FV)) : Nat × Nat :=
  vals.zipIdx.foldl (fun acc p => match p.1 with
    | some v => let (n, d) := distFV v (blockElem b p.2); (acc.1 * d + n * acc.2, acc.2 * d)
    | none => acc) (0, 1)

/-- Quantise with a type from 0 to 3, or 4 for AUTO: the least error, ties in the order E2M1, hybrid, uniform integer,
power of two (03 R50). -/
def quantise (fmt type : Nat) (vals : List (Option FV)) : List Byte :=
  if type != 4 then quantiseAs fmt type vals
  else if (vals.filterMap id).any (fun v => !isFinite v) then quantiseAs fmt 1 vals
  else
    let start := quantiseAs fmt 1 vals
    let best := [3, 0, 2].foldl (fun (acc : List Byte × (Nat × Nat)) t =>
      let b := quantiseAs fmt t vals
      let er := quantErr b vals
      if er.1 * acc.2.2 < acc.2.1 * er.2 then (b, er) else acc) (start, quantErr start vals)
    best.1

end Sys2Proof.Machine
end

