-- ==== Sys2Proof/Machine/Pile.lean ====
section
/-!
DEFINITION. What a home does in one step: reads, writes, tagged writes and atomics of a request (17 R288 to R292), pile
operations (08 R137 to R140) and melds (08 R141 to R143).
-/

namespace Sys2Proof.Machine

/-! ### Replies of a home -/

def lo32 (v : Nat) : W32 := w32 v
def hi32 (v : Nat) : W32 := w32 (v / 2 ^ 32)

/-- Answer a request with landing words; a request that lands nothing has no answer. -/
def landReply (r : Req) (ws : List W32) (s : State) : State :=
  match r.land with
  | some _ => sendReply r (.land ws) s
  | none => s

/-- The words of a value of `n` bytes, extended to 32 bits below that (17 R286). -/
def valueWords (n v : Nat) (zero : Bool) : List W32 :=
  if n == 8 then [lo32 v, hi32 v] else [w32 (extend v (8 * n) 32 zero)]

/-! ### Atomics (17 R292) -/

/-- The new value of an atomic of function `fn` on `w` bits. -/
def atomicNew (fn w old v v2 : Nat) : Nat :=
  let m := 2 ^ w
  let v := v % m
  let sg (x : Nat) : Int := asInt true w x
  match fn with
  | 0 | 11 => (old + v) % m
  | 1 => if sg v < sg old then v else old
  | 2 => if sg old < sg v then v else old
  | 3 => Nat.min old v
  | 4 => Nat.max old v
  | 5 => old &&& v
  | 6 => old ||| v
  | 7 => old ^^^ v
  | 8 => v
  | 9 => if old == v then v2 % m else old
  | _ =>
    let x := (fAdd .fp32 (Rnd.of 0 1) old v).1
    if x == 2 ^ 31 then 0 else x

def doAtomic (r : Req) (fn : Nat) (wide : Bool) (v v2 : W64) (s : State) : State :=
  let n := if wide then 8 else 4
  let old := rdPa s r.pa n
  landReply r (valueWords n old true) (wrPa r.pa n (atomicNew fn (8 * n) old v.toNat v2.toNat) s)

/-! ### Piles at home -/

def pileDone : Nat := 0
def pileMelded : Nat := 1
def pileEmpty : Nat := 2
def pileFull : Nat := 3
def pileBad : Nat := 4

/-- Whether the cells [first, last) lie at the home of header `hdr` (08 R138): in the same scratchpad, or in memory that
the header's gather unit serves, whose channels alternate every 512 bytes (09 R147). -/
def cellsAtHome (hdr first last : Nat) : Bool :=
  if paClass hdr == 0 then
    first / 2 ^ 36 == hdr / 2 ^ 36 && (last - 1) / 2 ^ 36 == hdr / 2 ^ 36 && first / 512 == (last - 1) / 512 &&
      guOfPa first == guOfPa hdr && decide ((last - 1) % 2 ^ 36 < 0xC00000000)
  else decide (paOff hdr + (last - hdr) ≤ spTop)

/-- The fields of a pile header (08 R137): CAP, COUNT and BASE, or `none` when it breaks R137 or R138. -/
def pileHeader (s : State) (hdr : Nat) : Option (Nat × Nat × Nat) :=
  let w (i : Nat) : Nat := rdPa s (hdr + 8 * i) 8
  let cap := w 0
  let count := w 1
  let base := w 2
  if decide (2 ^ 32 ≤ cap) || decide (2 ^ 32 ≤ count) || w 3 != 0 || cap == 0 || base % 8 != 0 || decide (base < 32) ||
      decide (cap < count) || !cellsAtHome hdr (hdr + base) (hdr + base + 8 * cap) then none
  else some (cap, count, base)

/-- The answer of a pile operation, in the form its requester waits for (08 R139, R140); a restore has none. -/
def pileAnswer (r : Req) (v : W64) (st : Nat) (s : State) : State :=
  match r.op with
  | .pile .popw => sendReply r (.grant v st) s
  | .pile .pop => landReply r [lo32 v.toNat, hi32 v.toNat, w32 st, 0] s
  | _ => landReply r [w32 st] s

def isPopw (r : Req) : Bool := match r.op with
  | .pile .popw => true
  | _ => false

/-- The pile requests parked at a header's home, in order: in the bank's wait list or the gather unit (08 R140). -/
def parkedAt (s : State) (hdr : Nat) : List Req :=
  match feOfPa hdr with
  | some fe => (feAt s fe).waits.filterMap fun w => match w with
    | .remote r => if isPopw r && paKey r.pa == paKey hdr then some r else none
    | _ => none
  | none => (KV.get {} (guOfPa hdr) s.gus).parked.filter (fun r => paKey r.pa == paKey hdr)

/-- Take one parked request out. -/
def unpark (r : Req) (s : State) : State :=
  match feOfPa r.pa with
  | some fe => modFe fe (fun f => { f with waits := f.waits.filter (fun w => match w with
      | .remote x => !isReq r x
      | _ => true) }) s
  | none => { s with gus := KV.upd {} (guOfPa r.pa) (fun g =>
      { g with parked := g.parked.filter (fun x => !isReq r x) }) s.gus }

/-- Bank of a word (08 R129). -/
def bankOf (pa : Nat) : Nat := pa / 4 % 16

/-- Entries of a bank's list that requests of other FEs use (08 R129). -/
def sharedUsed (f : FE) (fe bank : Nat) : Nat :=
  (f.waits.filter (fun w => match w with
    | .remote r => r.fe != fe && bankOf r.pa == bank
    | _ => false)).length

/-- A request enters the wait list of its bank, or is refused and waits to be sent again (08 R129). -/
def enterBank (fe : Nat) (r : Req) (s : State) : State :=
  let f := feAt s fe
  if r.fe != fe && decide (60 ≤ sharedUsed f fe (bankOf r.pa)) then { s with refused := s.refused ++ [r] }
  else modFe fe (fun f => { f with waits := f.waits ++ [.remote r] }) s

/-- Park a POPW at its home. -/
def park (r : Req) (s : State) : State :=
  match feOfPa r.pa with
  | some fe => enterBank fe r s
  | none =>
    let g := guOfPa r.pa
    if (KV.get {} g s.gus).parked.length < 256 then
      { s with gus := KV.upd {} g (fun x => { x with parked := x.parked ++ [r] }) s.gus }
    else { s with refused := s.refused ++ [r] }

/-- A push or restore of `v` at the home. -/
def pilePush (r : Req) (v : W64) (cap count base : Nat) (s : State) : State :=
  match parkedAt s r.pa with
  | p :: _ => pileAnswer r 0 pileDone (pileAnswer p v pileDone (unpark p s))
  | [] =>
    if count < cap then
      pileAnswer r 0 pileDone (wrPa (r.pa + 8) 8 (count + 1) (wrPa (r.pa + base + 8 * count) 8 v.toNat s))
    else pileAnswer r 0 pileFull s

/-- A pile operation at its home, in one step (08 R138, 17 R295). -/
def pileAtHome (r : Req) (op : PileOp) (s : State) : State :=
  match op with
  | .pinit cap base =>
    let b := base.toNat
    if cap == 0 || b % 8 != 0 || decide (b < 32) || !cellsAtHome r.pa (r.pa + b) (r.pa + b + 8 * cap.toNat) then
      pileAnswer r 0 pileBad s
    else
      let s := wrPa r.pa 8 cap.toNat s
      let s := wrPa (r.pa + 8) 8 0 s
      let s := wrPa (r.pa + 16) 8 b s
      pileAnswer r 0 pileDone (wrPa (r.pa + 24) 8 0 s)
  | _ =>
    match pileHeader s r.pa with
    | none => pileAnswer r 0 pileBad s
    | some (cap, count, base) =>
      match op with
      | .push v => pilePush r v cap count base s
      | .restore v => pilePush r v cap count base s
      | _ =>
        if 0 < count then
          pileAnswer r (w64 (rdPa s (r.pa + base + 8 * (count - 1)) 8)) pileDone (wrPa (r.pa + 8) 8 (count - 1) s)
        else if op = .popw then park r s
        else pileAnswer r 0 pileEmpty s

/-! ### Meld points (08 R141, R142) -/

/-- The die and knot of a pile's home: those of its FE's cluster, or of its gather unit. -/
def pileKnot (pa : Nat) : Nat × Nat :=
  match feOfPa pa with
  | some fe => (feDie fe, feCluster fe)
  | none => (guOfPa pa / 32, guOfPa pa % 32)

/-- The meld points that a pile operation of an FE passes: none from the home FE itself. -/
def meldPath (fe pa : Nat) : List Nat :=
  if feOfPa pa = some fe then []
  else
    let (d, k) := pileKnot pa
    spliceRoute (feDie fe) d ++ [knotPoint d k]

/-- A push's value, for an operation that can meld. -/
def pushValue (r : Req) : Option W64 := match r.op with
  | .pile (.push v) => some v
  | _ => none

def isPop (r : Req) : Bool := match r.op with
  | .pile .pop | .pile .popw => true
  | _ => false

/-- Whether two operations meld when they meet: opposite kinds, one context, one header, different seats. -/
def meldable (a b : Req) : Bool :=
  ((pushValue a).isSome && isPop b || isPop a && (pushValue b).isSome) && a.ctx == b.ctx && a.pa == b.pa &&
    !(a.fe == b.fe && a.seat == b.seat)

/-- The links of the way back from a request's home that lie beyond a meld point: those that its way there had still before it. -/
def beyondMeld (s : State) (r : Req) (point : Nat) : Nat :=
  (replyWay s r).length - (match findIdx (· == point) (meldPath r.fe r.pa) with
    | some i => if point < 1000 then (reqWay s r).length else i + 1
    | none => 0)

/-- Answer a melded pair: the pop gets the pushed value, and both get MELDED; the answers start from the meld point. -/
def answerMeld (a b : Req) (point : Nat) (s : State) : State :=
  let (push, pop) := if (pushValue a).isSome then (a, b) else (b, a)
  let v := (pushValue push).getD 0
  let s := pileAnswer push 0 pileMelded (pileAnswer pop v pileMelded s)
  { s with replies := s.replies.map fun x =>
      if isReq push x.req || isReq pop x.req then { x with req := { x.req with hop := beyondMeld s x.req point } } else x }

/-- An operation arrives at a meld point: it melds with the oldest partner that waits there, or waits at its wait point
when that has room and its window is not 0, or passes on. -/
def meldArrive (r : Req) (point : Nat) (s : State) : State :=
  let here (m : MeldWait) : Bool := m.point == point
  match findIdx (fun m => here m && meldable m.req r) s.melds with
  | some i =>
    (match s.melds[i]? with
     | some m => answerMeld r m.req point { s with melds := removeAt i s.melds }
     | none => s)
  | none =>
    let canWait := r.hops == 0 && ((pushValue r).isSome || isPop r) &&
      decide ((s.melds.filter here).length < 32) && (ctxAt s r.ctx).meldWin != 0
    let r := { r with hops := r.hops + 1 }
    if canWait then
      { s with melds := s.melds ++ [{ point := point, req := r, due := meldClock s r.ctx + (ctxAt s r.ctx).meldWin.toNat }] }
    else { s with reqs := r :: s.reqs }

end Sys2Proof.Machine
end

