-- ==== Sys2Proof/Machine/Edge.lean ====
section
/-!
DEFINITION. The memory edge (13 R199 to R209): a gather unit's requests, fills, row swaps and refresh; and the training
block of an HBM channel (26 R393 to R397).
-/

namespace Sys2Proof.Machine

/-! ### A request that ends in a refusal -/

/-- A redirected load that failed is an execution fault of its slot (04 R71). -/
def isSpillRead (s : State) (r : Req) : Bool :=
  match r.op, r.land with
  | .read _ _, none => (match (seatAt s r.fe r.seat).hand with
      | some h => h.asked.any (isReq r)
      | none => false)
  | _, _ => false

/-- Requests for which nothing waits: the end of a hold, and a packet that passes through. -/
def asksNothing (r : Req) : Bool := match r.op with
  | .release | .pass => true
  | _ => false

/-- End a request with a refusal (17 R287); a redirected load faults its slot, and its stall ends;
an uncorrectable error stops its context (13 R205). The refusal of another module's
request goes back to that module, and what is lost on the way there is that module's to time out. -/
def failReq (r : Req) (code : BitVec 8) (s : State) : State :=
  if asksNothing r then s
  else if r.far.isSome then (if code == Code.linkTimeout then s else sendReply r (.refused code) s)
  else if isSpillRead s r then
    (let s := modSeat r.fe r.seat (fun t => { t with hand := t.hand.map (fun h =>
       { hFault code 0 r.va h with grant := some (0, 0), stalled := false }) }) s
     if code == Code.memoryUncorrectable then stopCtx r.ctx (report (.fault r.ctx code) s) else s)
  else refuseReq r code s

/-! ### Performing a request in a gather unit -/

/-- Perform a request at an HBM home: the memory-side cache is the point of coherence (13 R200). -/
def guPerform (r : Req) (s : State) : State :=
  match r.op with
  | .read n zero =>
    let v := rdPa s r.pa n
    (match r.land with
     | some _ => sendReply r (.land (valueWords n v zero)) s
     | none => sendReply r (.grant (w64 v) 0) s)
  | .write n v => wrPa r.pa n v.toNat s
  | .atomic fn wide v v2 => doAtomic r fn wide v v2 s
  | .pile op => pileAtHome r op s
  | _ => s

/-- A request writes memory. -/
def isWrite (r : Req) : Bool := match r.op with
  | .read _ _ => false
  | _ => true

/-- Perform a request whose segment is in the cache. -/
def guHit (r : Req) (s : State) : State := guPerform r (modGu (guOfPa r.pa) (touchLine (segOf r.pa) (isWrite r)) s)

/-- The fill in which an older request of the same FE stands. -/
def guBehind (g : Gu) (r : Req) : Option Nat :=
  findIdx (fun f => f.2.2.any fun x => x.fe == r.fe && decide (x.id < r.id)) g.fills

/-- Put a request into a list before the younger ones of its FE. -/
def putInOrder (r : Req) : List Req → List Req
  | [] => [r]
  | x :: rest => if x.fe == r.fe && decide (r.id < x.id) then r :: x :: rest else x :: putInOrder r rest

/-- Perform a request whose segment is in the cache, or put it behind an older request of its FE (25 R388). -/
def guServe (r : Req) (s : State) : State :=
  match guBehind (guAt s (guOfPa r.pa)) r with
  | some i => modGu (guOfPa r.pa) (fun g => { g with fills := g.fills.modify i (fun f => (f.1, f.2.1, putInOrder r f.2.2)) }) s
  | none => guHit r s

/-- The merge window of a fill closes early when the unit holds no other request for its bank (13 R201). -/
def closeEarly (g : Gu) : Gu :=
  let bank (seg : Nat) : Nat := keyOf (segPa seg) / 2 ^ 16
  { g with fills := g.fills.zipIdx.map fun f =>
      let other := g.fills.zipIdx.any (fun x => x.2 != f.2 && bank x.1.1 == bank f.1.1) ||
        g.rowWait.any (fun r => keyOf r.pa / 2 ^ 16 == bank f.1.1)
      (f.1.1, f.1.2.1 || !other, f.1.2.2) }

/-- A request to an open channel meets a row being copied, a hit or a miss, in this order; a miss joins a fill whose window is
open, or begins one, which is one activation (13 R201). -/
def guTake (r : Req) (s : State) : State :=
  let n := guOfPa r.pa
  let g := guAt s n
  if g.copying.contains (keyOf r.pa) then modGu n (fun g => { g with rowWait := g.rowWait ++ [r] }) s
  else if (KV.find (segOf r.pa) g.cached).isSome && !g.fills.any (fun f => f.1 == segOf r.pa) then guServe r s
  else
    match findIdx (fun f => f.1 == segOf r.pa && !f.2.1) g.fills with
    | some i => modGu n (fun g => { g with fills := g.fills.modify i (fun f => (f.1, f.2.1, putInOrder r f.2.2)) }) s
    | none => modGu n (fun g => closeEarly (activate (keyOf r.pa) { g with fills := g.fills ++ [(segOf r.pa, false, [r])] })) s

/-- A request reaches a gather unit: it waits at a closed channel, and behind those that came to it before it opened
(26 R397). -/
def guAccept (r : Req) (s : State) : State :=
  let ch := chanOfPa r.pa
  let t := trainAt s ch
  if !t.opened || t.closing then modTrain ch (fun t => { t with waiting := t.waiting ++ [r] }) s
  else if !t.accepted.isEmpty then modTrain ch (fun t => { t with accepted := t.accepted ++ [r] }) s
  else guTake r s

/-- The gather unit that serves a channel of the module (09 R147). -/
def guOfChan (ch : Nat) : Nat := 32 * (ch / 64) + 16 * (ch / 32 % 2) + ch % 32 / 2

/-- A channel's gather unit has taken a request to it that it has not performed. -/
def chanBusy (s : State) (ch : Nat) : Bool :=
  let g := guAt s (guOfChan ch)
  (g.fills.flatMap (·.2.2) ++ g.rowWait).any fun r => chanOfPa r.pa == ch

/-- The requests that came to a channel before it opened are performed one after another, in their order of arrival. -/
def serveAccepted (ch : Nat) : Nat → State → State
  | 0, s => s
  | n + 1, s =>
    match (trainAt s ch).accepted with
    | r :: rest =>
      if chanBusy s ch then s else serveAccepted ch n (guTake r (modTrain ch (fun t => { t with accepted := rest }) s))
    | [] => s

/-- The same of every channel of a gather unit. -/
def serveGu (n : Nat) (s : State) : State :=
  each (s.trains.filter fun e => guOfChan e.1 == n) (fun e => serveAccepted e.1 e.2.accepted.length) s

/-- The merge window of a fill closes. -/
def closeWindow (n seg : Nat) (s : State) : State :=
  modGu n (fun g => match findIdx (fun f => f.1 == seg && !f.2.1) g.fills with
    | some i => { g with fills := g.fills.modify i (fun f => (f.1, true, f.2.2)) }
    | none => g) s

def execFillMergeWindow (gu seg : Nat) (s : State) : Result := .next (closeWindow gu seg s)

/-- A fill or write-back ends (13 R205). A clean or corrected fill is installed and its requests are performed in order; a
corrected error is counted; an uncorrectable one installs nothing, is reported, and stops the requesters' contexts. A
write-back is one activation. What an outcome of a fill that is not under way says holds for the next one that another agent
makes (log 60). -/
def fillDone (n seg : Nat) (wb : Bool) (ecc : EccResult) (s : State) : State :=
  let pa := segPa seg
  let count (g : Gu) : Gu := if ecc == .corrected then { g with corrected := g.corrected + 1 } else g
  let bad (s : State) : State := guEvent 5 n (chanOfPa pa) (bankHbm pa) (rowOf pa) 0 s
  if wb then
    (match KV.find seg (guAt s n).cached with
     | some true =>
       let s := modGu n (fun g => count (activate (keyOf pa) g)) s
       if ecc == .uncorrectable then bad s else modGu n (fun g => { g with cached := KV.set seg false g.cached }) s
     | _ => s)
  else
    match findIdx (fun f => f.1 == seg) (guAt s n).fills with
    | none =>
      if guOfPa pa == n && (KV.find seg (guAt s n).cached).isNone && ecc != .clean then
        modGu n (fun g => { g with ecc := KV.set seg (ecc == .uncorrectable) g.ecc }) s
      else s
    | some i =>
      let rs := ((guAt s n).fills[i]?.map (fun f => f.2.2)).getD []
      let s := modGu n (fun g => closeEarly (count { g with fills := removeAt i g.fills })) s
      serveGu n (if ecc == .uncorrectable then
        each rs (fun r s => if segOf r.pa == seg then failReq r Code.memoryUncorrectable s else guServe r s) (bad s)
      else each rs guServe (modGu n (install seg) s))

def execFillComplete (gu seg : Nat) (wb : Bool) (ecc : EccResult) (s : State) : Result := .next (fillDone gu seg wb ecc s)

/-! ### Row swapping (13 R206) -/

/-- Spares of a bank that no row is on: all 512, but for the training row of bank 0. -/
def freeSpares (g : Gu) (ch bank : Nat) : List Nat :=
  let base := rowKey ch bank 0 / 2 ^ 16
  let used := (g.indir.filter (fun e => e.1 / 2 ^ 16 == base)).map (·.2)
  (List.range (if bank == 0 then 511 else 512)).filter (fun n => !used.contains n)

/-- Whether a row has reached THRESH in the window. -/
def rowHot (g : Gu) (key : Nat) : Bool := decide (g.thresh.toNat ≤ KV.get 0 (rowAt g key) g.hot)

/-- A hot row is copied to a spare drawn at random, and remapped; with no spare left that is reported once. -/
def rowSwap (n ch bank row : Nat) (s : State) : State :=
  let g := guAt s n
  let key := rowKey ch bank row
  if !g.swapen || !rowHot g key || g.copying.contains key then s
  else
    match freeSpares g ch bank with
    | [] =>
      let b := rowKey ch bank 0
      let s := modGu n (fun g => { g with hot := KV.drop (rowAt g key) g.hot }) s
      if g.exhausted.contains b then s
      else guEvent 2 n ch bank row 0 (modGu n (fun g => { g with exhausted := b :: g.exhausted }) s)
    | x :: rest =>
      let l := x :: rest
      let sp := l.getD (Config.spareDraw s.fresh % l.length) x
      let s := modGu n (fun g => { g with
        hot := KV.drop (rowAt g key) g.hot, indir := KV.set key sp g.indir, copying := key :: g.copying }) s
      guEvent 1 n ch bank row sp { s with fresh := s.fresh + 1 }

def execRowSwap (gu ch bank row : Nat) (s : State) : Result := .next (rowSwap gu ch bank row s)

/-- A copy ends: the requests that waited on the row go on, now on the spare. -/
def rowCopied (n ch bank row : Nat) (s : State) : State :=
  let key := rowKey ch bank row
  if !(guAt s n).copying.contains key then s
  else
    let rs := (guAt s n).rowWait.filter (fun r => keyOf r.pa == key)
    let s := modGu n (fun g => { g with
      copying := g.copying.filter (· != key), rowWait := g.rowWait.filter (fun r => keyOf r.pa != key) }) s
    serveGu n (modGu n closeEarly (each rs guTake s))

def execRowCopyComplete (gu ch bank row : Nat) (s : State) : Result := .next (rowCopied gu ch bank row s)

/-- A tracker's window ends: its counts begin again. -/
def execSwapWindowEnd (gu : Nat) (s : State) : Result := .next (modGu gu (fun g => { g with hot := [] }) s)

/-! ### Refresh takeover (13 R209) -/

/-- A heartbeat: misses are forgotten, and an armed handback ends the takeover. -/
def heartbeat (n : Nat) (s : State) : State :=
  let g := guAt s n
  let s := modGu n (fun g => { g with missed := 0 }) s
  if g.handback && g.rfown then
    guEvent 4 n 0 0 0 0 (modGu n (fun g => { g with rfown := false, handback := false }) s)
  else s

def execHeartbeatReceived (gu : Nat) (s : State) : Result := .next (heartbeat gu s)

/-- A missed heartbeat: at the second in a row a GU with TAKEEN takes refresh over; with TAKEEN clear it is only
reported. -/
def heartMiss (n : Nat) (s : State) : State :=
  let g := guAt s n
  let s := modGu n (fun g => { g with missed := g.missed + 1 }) s
  if g.missed + 1 == 2 && !g.rfown then
    guEvent 3 n 0 0 0 0 (if g.takeen then modGu n (fun g => { g with rfown := true }) s else s)
  else s

def execHeartbeatMissed (gu : Nat) (s : State) : Result := .next (heartMiss gu s)

/-- A write of HANDBACK: ignored while heartbeats are absent. -/
def handBack (n : Nat) (s : State) : State :=
  modGu n (fun g => if g.rfown && g.missed == 0 then { g with handback := true } else g) s

def execHandback (gu : Nat) (s : State) : Result := .next (handBack gu s)

/-- An all-bank refresh: requests and tests wait until it ends, which is within this step, and it changes no datum. -/
def execRefresh (gu : Nat) (s : State) : Result := .next (modGu gu id s)

/-- GUCTL as it reads (13 R207). -/
def guctlWord (g : Gu) : W64 :=
  w64 (bitAt g.rfown 33 + bitAt g.takeen 32 + bitAt g.swapen 30 + g.thresh.toNat * 2 ^ 16 + g.window.toNat * 2 ^ 8)

/-- A write of GUCTL: THRESH below 256 is stored as 256, WINDOW as 1 to 64, and HANDBACK acts. -/
def guctlWrite (n : Nat) (v : W64) (s : State) : State :=
  let th := fld v 28 16
  let wn := fld v 15 8
  let s := modGu n (fun g => { g with
    takeen := bit v 32
    swapen := bit v 30
    thresh := BitVec.ofNat 13 (Nat.max th 256)
    window := BitVec.ofNat 8 (Nat.min (Nat.max wn 1) 64) }) s
  if bit v 31 then handBack n s else s

/-! ### The training block (26 R393 to R397) -/

/-- A write to TRCMD, TRBCAST, TRREPAIR or TRDLY: refused while the channel is open; an accepted one clears REJ. -/
def trainWrite (ch : Nat) (f : Train → Train) (s : State) : State :=
  modTrain ch (fun t => if t.opened then { t with rej := true } else f { t with rej := false }) s

/-- The wires that a lane runs on: a spare's, while a repair slot names the lane (26 R396). -/
def wireOf (t : Train) (l : Nat) : Nat :=
  if bit t.trrepair 7 && fld t.trrepair 5 0 == l then 64
  else if bit t.trrepair 15 && fld t.trrepair 13 8 == l then 65
  else l

/-- TRDLY of a lane, which acts on the wires that the lane runs on. -/
def trdly (t : Train) (l : Nat) : W64 := KV.get 0x2020 l t.trdly

/-- Whether a lane passes a test: the PHY's answer for the lane's wires (log 8), which depends on RDLY for a read test, on WDLY for
a write test, and on both for a pattern test (26 R395). -/
def lanePasses (ch op : Nat) (t : Train) (l : Nat) : Bool :=
  let d := trdly t l
  match op with
  | 1 => Config.phyRead ch (wireOf t l) (fld d 5 0)
  | 2 => Config.phyWrite ch (wireOf t l) (fld d 13 8)
  | _ => Config.phyPattern ch (wireOf t l) (fld d 5 0) (fld d 13 8)

/-- A test over all lanes, which leaves its pass mask in TRRES. -/
def runTest (ch op : Nat) (s : State) : State :=
  trainWrite ch (fun t => { t with trres := w64 ((List.range 64).foldl (fun m l => m + bitAt (lanePasses ch op t l) l) 0) }) s

def execTrcmdReadTest (chan : Nat) (s : State) : Result := .next (runTest chan 1 s)
def execTrcmdWriteTest (chan : Nat) (s : State) : Result := .next (runTest chan 2 s)
def execTrcmdPatternTest (chan : Nat) (s : State) : Result := .next (runTest chan 3 s)

/-- One tap into RDLY or WDLY of all 64 lanes. -/
def broadcast (ch : Nat) (v : W64) (s : State) : State :=
  trainWrite ch (fun t => { t with trdly := (List.range 64).map (fun l =>
    let old := trdly t l
    (l, if bit v 8 then (old &&& 0x3F) ||| w64 (fld v 5 0 * 256) else (old &&& 0x3F00) ||| w64 (fld v 5 0))) }) s

def execTrbcast (chan : Nat) (v : W64) (s : State) : Result := .next (broadcast chan v s)

/-- TRREPAIR: with both slots valid on one lane, slot 1 is stored with V1 = 0 (26 R396). -/
def repair (ch : Nat) (v : W64) (s : State) : State :=
  let v := v &&& 0xBFBF
  let v := if bit v 7 && bit v 15 && fld v 5 0 == fld v 13 8 then v &&& 0x7FFF else v
  trainWrite ch (fun t => { t with trrepair := v }) s

def execTrrepair (chan : Nat) (v : W64) (s : State) : Result := .next (repair chan v s)

/-- Open a channel: its waiting requests are performed in arrival order. -/
def openChan (ch : Nat) (s : State) : State :=
  let n := (trainAt s ch).accepted.length + (trainAt s ch).waiting.length
  serveAccepted ch n (modTrain ch (fun t => { t with
    opened := true, closing := false, accepted := t.accepted ++ t.waiting, waiting := [], rej := false }) s)

def execTrctlOpen (chan : Nat) (s : State) : Result := .next (openChan chan s)

/-- Begin to close a channel: what its gather unit has accepted is still performed. -/
def closeChan (ch : Nat) (s : State) : State := modTrain ch (fun t => { t with closing := t.opened, rej := false }) s

def execTrctlClose (chan : Nat) (s : State) : Result := .next (closeChan chan s)

/-- Everything that was accepted for a closing channel has been performed. -/
def chanDrained (s : State) (ch : Nat) : Bool :=
  (trainAt s ch).closing && (trainAt s ch).accepted.isEmpty && !chanBusy s ch

/-- The drain has ended: the channel's dirty lines are written back, each with one activation, and TRSTAT.OPEN is 0. -/
def chanClosed (ch : Nat) (s : State) : State :=
  if !chanDrained s ch then s
  else
    let mine (seg : Nat) : Bool := chanOfPa (segPa seg) == ch
    modTrain ch (fun t => { t with opened := false, closing := false }) (modGu (guOfChan ch) (fun g =>
      let g := (g.cached.filter (fun e => e.2 && mine e.1)).foldl (fun g e => activate (keyOf (segPa e.1)) g) g
      { g with cached := g.cached.map (fun e => if mine e.1 then (e.1, false) else e) }) s)

def execChannelClosed (chan : Nat) (s : State) : Result := .next (chanClosed chan s)

/-- A register of a training block as it reads. -/
def trainRead (t : Train) (off : Nat) : W64 :=
  match off with
  | 0x008 => t.trres
  | 0x010 => w64 (bitAt t.opened 1 + bitAt t.rej 0)
  | 0x020 => t.trrepair
  | 0x028 => w64 (bitAt (t.opened && !t.closing) 0)
  | _ => if decide (0x100 ≤ off) && decide (off < 0x300) && off % 8 == 0 then trdly t ((off - 0x100) / 8) else 0

/-- A 64-bit write to a training block. -/
def trainStore (ch off : Nat) (v : W64) (s : State) : State :=
  match off with
  | 0x000 => if fld v 1 0 == 0 then trainWrite ch id s else runTest ch (fld v 1 0) s
  | 0x018 => broadcast ch v s
  | 0x020 => repair ch v s
  | 0x028 => if bit v 0 then openChan ch s else closeChan ch s
  | _ =>
    if decide (0x100 ≤ off) && decide (off < 0x300) && off % 8 == 0 then
      trainWrite ch (fun t => { t with trdly := KV.set ((off - 0x100) / 8) (v &&& 0x3F3F) t.trdly }) s
    else s

end Sys2Proof.Machine
end

