-- ==== Sys2Proof/Machine/Link.lean ====
section
/-!
DEFINITION. Links (10 R157 to R168, 25 R389, R390): the state machine of a link direction, its sequence numbers, replay,
frames and keys; the packets that a splice's flits carry (25 R389), and those that arrive from other modules (04 R69, 10 R406).
What else a flit carries is not held (log 30).
-/

namespace Sys2Proof.Machine

/-- LNKSTAT (10 R159). -/
def lnkstat (l : Link) : W64 :=
  w64 (l.tagFail.toNat * 2 ^ 40 + l.crcErr.toNat * 2 ^ 32 + l.half.toNat * 2 ^ 24 + bitAt l.keyWait 23 + bitAt l.keyPh 22 +
    bitAt l.enc 21 + bitAt l.lr 20 + l.cause.toNat * 2 ^ 16 +
    (match l.st with
     | .down => 0
     | .training => 1
     | .upFull => 2
     | .upDegraded => 3
     | .replay => 4
     | .frozen => 5
     | .failed => 6))

/-! ### A link that carries nothing any more (10 R166) -/

/-- Release the holds and waits of FEs on one side of a link at banks of the other (08 R131). -/
def dropRemoteHolds (p : Nat → Nat → Bool) (s : State) : State :=
  each s.fes (fun e s =>
    each (e.2.holds.filter (fun h => p h.fe e.1)) (fun h s => dropHold e.1 h.pa h.fe h.seat s) s) s

/-- The links from the bank units of FE `b` to the holder of one of its words: an FE, or another module over its port, by the
number that its requests have here. -/
def holdWay (s : State) (a b : Nat) : List Nat :=
  if a < 2 ^ 32 then dieRoute (feDie b) (feDie a)
  else match routePort s (a / 2 ^ 32 - 1) with
    | some p => hopRoute (feDie b) (8 + portX p) ++ [riggingKey p]
    | none => []

/-- Requests that stand in a bank's wait list, or are parked at a pile. -/
def waitingReqs (s : State) : List Req :=
  (s.fes.flatMap fun e => e.2.waits.filterMap fun w => match w with
    | .remote r => some r
    | _ => none) ++ s.gus.flatMap (·.2.parked)

/-- A link enters FAILED or DOWN: requests outstanding whose route there or back crosses it end at once, and holds that it
carried to their holders are released (10 R166, 08 R131). -/
def cutLink (k : Nat) (s : State) : State :=
  let cut (r : Req) : Bool := (reqWay s r).contains k || (replyWay s r).contains k
  let gone := (unperformed s).filter cut ++ (waitingReqs s).filter cut ++ (s.replies.map (·.req)).filter cut
  let s := { s with replies := s.replies.filter fun x => !cut x.req }
  let s := each gone (fun r s => failReq r Code.linkTimeout (takeBack r s)) s
  dropRemoteHolds (fun a b => (holdWay s a b).contains k) s

/-- Enter FAILED with a cause, which the MSC is told. -/
def failLink (k : Nat) (cause : BitVec 4) (s : State) : State :=
  cutLink k (report (.link (linkId s k) cause) (modLink k (fun l => { l with st := .failed, cause := cause }) s))

/-! ### Events of the state machine (10 R158) -/

def upState (l : Link) : LinkState := if l.half != 0 then .upDegraded else .upFull

/-- LNKCTL enable: the sequence state was reset when the link went through FAILED, and is kept otherwise. -/
def enableLink (k : Nat) (s : State) : State :=
  modLink k (fun l => if l.st == .down then { l with st := .training, trainFails := 0 } else l) s

/-- LNKCTL disable: from any state to DOWN. -/
def disableLink (k : Nat) (s : State) : State :=
  cutLink k (modLink k (fun l => { l with st := .down, half := 0, retrain := 0 }) s)

/-- LNKCTL reset: FAILED to DOWN, the replay buffer discarded and the sequence numbers at 0. -/
def resetLink (k : Nat) (s : State) : State :=
  modLink k (fun l => if l.st == .failed then
    { l with st := .down, half := 0, retrain := 0, buf := [], seq := 0, expect := 0, mark := 0, replays := 0, runs := 0,
             discard := false, frameFails := 0, sinceAck := 0, inFrame := 0, hdrBad := [], inbox := [], owesNak := none
             owesAck := none, flying := [] } else l) s

/-- The UCIe module that the next flit of a splice is dealt to, in turn: one that retrains takes no turn, and one at ×32 every
second of its turns (25 R389). -/
def dealFlit : Nat → Link → Nat × Link
  | 0, l => (0, l)
  | n + 1, l =>
    let u := l.turn % 4
    let l := { l with turn := (u + 1) % 4 }
    let m : BitVec 4 := BitVec.ofNat 4 (2 ^ u)
    if l.retrain.getLsbD u then dealFlit n l
    else if !l.half.getLsbD u then (u, l)
    else if l.odd.getLsbD u then dealFlit n { l with odd := l.odd &&& ~~~m }
    else (u, { l with odd := l.odd ||| m })

/-- A flit of a splice sets out. -/
def fly (seq : Nat) (l : Link) : Link :=
  let (u, l) := dealFlit 9 l
  { l with flying := l.flying ++ [(seq, u)] }

/-- The held flits of a splice set out again in sequence order, dealt afresh (25 R389). -/
def resendFlits (rigging : Bool) (l : Link) : Link :=
  if rigging then l else l.buf.foldl (fun l q => fly q l) { l with flying := [] }

/-- A link that was training comes up, with a replay to make when it holds flits. `half` names the UCIe modules of a splice
that trained at ×32, or is not 0 for a rigging port whose margin is below its threshold. `rtt` is the round trip measured,
of which the replay timeout of a long-reach port is the double (10 R158, R159, R162). -/
def trained (rigging : Bool) (half : BitVec 4) (rtt : Nat) (l : Link) : Link :=
  if l.st == .training then
    let l := { l with rtt := rtt, timeoutUs := if l.lr then 2 * rtt else l.timeoutUs, trainFails := 0
                      half := if rigging then l.half else l.half ||| half }
    let up := if rigging && half != 0 then .upDegraded else upState l
    if l.buf.isEmpty then { l with st := up, wasFrozen := false }
    else resendFlits rigging { l with st := .replay, held := up, mark := l.seq }
  else l

def trainFail (k : Nat) (s : State) : State :=
  let l := linkAt s k
  if l.st != .training then s
  else if 3 ≤ l.trainFails + 1 then failLink k 1 s
  else modLink k (fun l => { l with trainFails := l.trainFails + 1 }) s

def execTrainingAttemptFail (link : BitVec 32) (s : State) : Result := .next (trainFail (linkKey s link) s)

/-- Begin, or begin again, a replay (10 R162): the eighth in a row without progress trains the link again, and the third
such run fails it with CAUSE REPLAY. `progress` says that acknowledgements advanced. -/
def replayLink (k : Nat) (progress : Bool) (s : State) : State :=
  let l := linkAt s k
  if !carries l then s
  else
    let l := if progress then { l with replays := 0, runs := 0 } else l
    let l := if l.st == .replay then l
      else { l with held := if l.st == .frozen then l.held else l.st, wasFrozen := l.st == .frozen,
                    mark := l.seq, st := .replay }
    let l := { l with replays := l.replays + 1 }
    if l.replays < 8 then modLink k (fun _ => resendFlits (isRigging k) l) s
    else
      let l := { l with replays := 0, runs := l.runs + 1 }
      if 3 ≤ l.runs then failLink k 3 (modLink k (fun _ => l) s)
      else modLink k (fun _ => { l with st := .training, trainFails := 0 }) s

/-- Whether an acknowledgement of `ack` covers a held flit `q`. -/
def acked (m ack q : Nat) : Bool := decide ((ack + m - q) % m < m / 2)

/-- An acknowledgement frees the flits up to `ack`; the answer says whether it advanced. -/
def freeAcked (m ack : Nat) (l : Link) : Link × Bool :=
  let b := l.buf.filter (fun q => !acked m ack q)
  ({ l with buf := b }, decide (b.length < l.buf.length))

def nak (k ack : Nat) (s : State) : State :=
  let (l, p) := freeAcked (seqMod k) ack (linkAt s k)
  if carries l then replayLink k p (modLink k (fun _ => { l with owesNak := none }) s) else s

/-- An acknowledgement: a replay ends when it passes the last flit sent before the replay began. -/
def ackLink (k ack : Nat) (s : State) : State :=
  let l := linkAt s k
  if !carries l then s
  else
    let (l, p) := freeAcked (seqMod k) ack l
    let l := if p then { l with replays := 0, runs := 0 } else l
    let m := seqMod k
    let passed := !l.buf.any (fun q => acked m ((l.mark + m - 1) % m) q)
    modLink k (fun _ => if l.st == .replay && passed then
      { l with st := if l.wasFrozen then .frozen else l.held, owesAck := none } else { l with owesAck := none }) s

/-- The receiver acknowledges what it has accepted. -/
def ackNow (m : Nat) (l : Link) : Link := { l with sinceAck := 0, owesAck := some ((l.expect + m - 1) % m) }

def execAckInterval (link : BitVec 32) (s : State) : Result :=
  let k := linkKey s link
  .next (modLink k (fun l => if carries l then ackNow (seqMod k) l else l) s)

/-! ### Receivers (10 R161, R162, R164, 25 R389) -/

def satInc (v : BitVec 8) : BitVec 8 := if v == 255 then v else v + 1

/-- A flit rejected by its CRC. -/
def crcBad (m : Nat) (l : Link) : Link :=
  { l with crcErr := satInc l.crcErr, discard := true, owesNak := some ((l.expect + m - 1) % m) }

/-- A flit with a good CRC: the answer says whether it is accepted. A jump ahead asks for a replay once; a duplicate is
acknowledged again. -/
def takeSeq (m seq : Nat) (l : Link) : Link × Bool :=
  if seq % m == l.expect then
    let l := { l with expect := (l.expect + 1) % m, discard := false, sinceAck := l.sinceAck + 1 }
    (if 128 ≤ l.sinceAck then ackNow m l else l, true)
  else if acked m ((l.expect + m - 1) % m) (seq % m) then (ackNow m l, false)
  else if l.discard then (l, false)
  else ({ l with discard := true, owesNak := some ((l.expect + m - 1) % m) }, false)

/-- What stands in a flit of a link: a request, or the reply to one. -/
def inFlit (k seq : Nat) (r : Req) : Bool := r.flit == some (k, seq)

/-- A packet whose header fails its check is dropped and reported. A request or reply that stands in the flit ends in LINK_TIMEOUT;
over rigging, where the model does not say what a flit of another module carries, the oldest reply that has the link before it
(log 30). What else is lost so is timed out by an event of its own (10 R165, R166). -/
def headerDrop (k seq : Nat) (s : State) : State :=
  let s := report (.headerDrop (linkId s k) seq) s
  match s.reqs.find? (inFlit k seq), (s.replies.find? fun x => inFlit k seq x.req || (isRigging k && (replyRoute s x.req).head? == some k)) with
  | some r, _ => failReq r Code.linkTimeout (takeBack r s)
  | none, some x => failReq x.req Code.linkTimeout { s with replies := s.replies.filter (· != x) }
  | none, none => s

/-! ### Packets of other modules (04 R69, 06 R99, 10 R406, 11 R178) -/

/-- HITCHSTAT.STATE (11 R176). -/
def hitchStat (h : HitchState) : BitVec 2 := if !h.rels.isEmpty then 2 else if !h.frozen.isEmpty then 1 else 0

/-- Arm a release; it replaces one of the job whose time has not come (11 R178). -/
def armRelease (job : BitVec 16) (t : W64) (h : HitchState) : HitchState :=
  let h := { h with rels := h.rels.filter (fun (x : Release) => x.job != job || x.half) ++ [{ job := job, time := t : Release }] }
  { h with st := hitchStat h }

/-- A launch whose record has not been read. -/
def unreadLaunch (id ctx : Nat) (o : Origin) (prio : BitVec 2) (va : W64) (mark : Nat) : Launch :=
  { id := id, ctx := ctx, origin := o, prio := prio, dealMode := false, align8 := false, modBase := 0, bmax := 0, entry := 0
    args := 0, fltvec := 0, ovfBase := 0, ovfSz := 0, spillSz := 0, seed := 0, levels := [], waiting := []
    unread := some (va, mark) }

/-- The context that a job holds on this module. -/
def jobCtx (s : State) (job : BitVec 16) : Option Nat :=
  (s.ctxs.find? fun e => decide (e.1 < 64) && e.2.st != .free && e.2.job == job).map (·.1)

/-- The number that an FE of another module has here. -/
def farFe (m fe : Nat) : Nat := 2 ^ 32 * (m + 1) + fe

/-- A packet of another module stands at the X-die of its port: one for a third module goes on by this module's own route table
(10 R406); one for this module gets the context that its job holds here, and is discarded and reported where it holds none
(04 R69). -/
def deliver (p : FarPacket) (s : State) : State :=
  let far (c : Nat) (fe k pa : Nat) (va : W64) (op : ReqOp) (lands : Bool) : State :=
    sendReq { id := s.nextId, ctx := c, fe := farFe p.src fe, seat := k, hand := 0, va := va, pa := pa, op := op
              land := if lands then some 0 else none, far := some p.src } { s with nextId := s.nextId + 1 }
  if p.dst != s.moduleId.toNat then far ((jobCtx s p.job).getD horlyn) 0 0 (p.dst * 2 ^ 46) 0 .pass false
  else
    match jobCtx s p.job with
    | none => report (.strayPacket p.src p.job) s
    | some c =>
      match p.body with
      | .request op fe k pa va lands => far c fe k (s.moduleId.toNat * 2 ^ 46 + paKey pa) va op lands
      | .launch id prio ws =>
        { s with nextId := s.nextId + 1
                 launches := KV.set s.nextId { unreadLaunch s.nextId c (.far p.src id) prio 0 0 with words := some ws } s.launches }
      | .retired l => { s with agenda := .groupRetire (2 ^ 24 + 2 ^ 10 * l + p.src) :: s.agenda }
      | .resume t => { s with hitch := armRelease p.job t s.hitch }
      | .other => s

/-- A sequenced flit kind: DATA, PAD or MARKER. -/
def sequenced (kind : BitVec 4) : Bool := decide (kind.toNat ≤ 2)

/-- The frame of an encrypted flit ends: a failed tag discards the whole frame and asks for it again, and the fourth
failure on one frame fails the link; a verified one delivers its packets, those with a bad header being dropped, and one
with the other key phase retires the old key (10 R164, R165). -/
def frameEnd (k : Nat) (tagOk : Bool) (keyPh : Bool) (s : State) : State :=
  let l := linkAt s k
  if tagOk then
    each l.inbox deliver (each l.hdrBad (headerDrop k) (modLink k (fun l =>
      let l := { l with frameFails := 0, hdrBad := [], inbox := [] }
      if keyPh == l.keyPh then l
      else if keyPh then { l with keyPh := true, key0 := none }
      else { l with keyPh := false, key1 := none }) s))
  else
    let first := (l.expect + 2 ^ 24 - 16) % 2 ^ 24
    let s := modLink k (fun l => { l with
      tagFail := satInc l.tagFail, frameFails := l.frameFails + 1, expect := first, discard := true, hdrBad := [], inbox := []
      owesNak := some ((first + 2 ^ 24 - 1) % 2 ^ 24) }) s
    if 4 ≤ l.frameFails + 1 then failLink k 2 s else s

/-- A sequenced flit that passed its CRC reaches the receiver; no packet of an encrypted frame is delivered, nor its header
looked at, before the frame's tag verifies. -/
def sequencedFlit (k : Nat) (f : Flit) (tagOk hdrOk : Bool) (s : State) : State :=
  let (l, ok) := takeSeq (2 ^ 24) f.seq (linkAt s k)
  let s := modLink k (fun _ => l) s
  if !ok then s
  else if !l.enc then (if hdrOk then each f.body deliver s else headerDrop k f.seq s)
  else
    let s := modLink k (fun l => if hdrOk then { l with inbox := l.inbox ++ f.body } else { l with hdrBad := l.hdrBad ++ [f.seq] }) s
    if f.seq % 16 == 15 then frameEnd k tagOk f.keyPh s else s

/-! ### Transmitters -/

/-- Switch to the next key, when it is loaded. -/
def switchKey (l : Link) : Link :=
  let next := if l.keyPh then l.key0 else l.key1
  if next.isSome then
    (if l.keyPh then { l with keyPh := false, key1 := none, frames := 0, keyWait := false }
     else { l with keyPh := true, key0 := none, frames := 0, keyWait := false })
  else { l with keyWait := true }

/-- A frame has been sent: 2^27 of them under a key are reported, and after 2^28 the next key follows (10 R164). -/
def frameSent (k : Nat) (s : State) : State :=
  let n := (linkAt s k).frames + 1
  let s := modLink k (fun l => { l with frames := n }) s
  if n == 2 ^ 27 then report (.keySoon (linkId s k)) s else if 2 ^ 28 ≤ n then modLink k switchKey s else s

/-- A flit is sent and held for replay. A rigging port's counts into its frame, which its sequence number names (10 R164); a
splice's is on its way to the receiver. -/
def sendFlit (k : Nat) (s : State) : State :=
  let l := linkAt s k
  let next := (l.seq + 1) % seqMod k
  let s := modLink k (fun l => { l with seq := next, buf := l.buf ++ [l.seq] }) s
  if !isRigging k then modLink k (fly l.seq) s
  else
    let s := modLink k (fun l => { l with inFrame := if l.enc then next % 16 else 0 }) s
    if l.enc && next % 16 == 0 then frameSent k s else s

/-- The receiver of a splice, which has accepted everything before, accepts what is on its way. -/
def acceptAll (l : Link) : Link := { l with flying := [], expect := l.seq, owesAck := some ((l.seq + 1023) % 1024) }

/-- A flit is sent, and accepted at the other end. -/
def passFlit (k : Nat) (s : State) : State :=
  let s := sendFlit k s
  if isRigging k then s else modLink k acceptAll s

/-- A begun frame is completed with PAD flits, which are sequenced and held for replay, as far as they have room; the traffic
of no job, they go over a frozen link too. -/
def padFrame (k : Nat) : Nat → State → State
  | 0, s => s
  | n + 1, s => if sends k (linkAt s k) then padFrame k n (sendFlit k s) else s

def framePad (k : Nat) (s : State) : State :=
  let l := linkAt s k
  if l.enc && l.inFrame != 0 then padFrame k (16 - l.inFrame) s else s

def execFramePad (link : BitVec 32) (s : State) : Result := .next (framePad (linkKey s link) s)

/-- 2^27 frames have been sent under a key (log 55). -/
def execKeySoon (link : BitVec 32) (s : State) : Result :=
  let k := linkKey s link
  .next (if (linkAt s k).enc then report (.keySoon link) (modLink k (fun l => { l with frames := 2 ^ 27 }) s) else s)

/-! ### A frozen job's packets at a link (10 R167, 11 R172, R175) -/

/-- A link has had traffic of a context's job. -/
def noteJob (c k : Nat) (s : State) : State :=
  let job := (ctxAt s c).job
  if c == horlyn || (linkAt s k).jobs.contains job then s else modLink k (fun l => { l with jobs := job :: l.jobs }) s

/-- A packet of a context crosses a link. -/
def crossLink (c k : Nat) (s : State) : State := noteJob c k (passFlit k s)

/-- Whether a request is sent before its job's freeze, whatever the freeze: by a stepped hand, or by one that was finished in the
frozen job (11 R173, R175, R177). -/
def sentAnyway (r : Req) : Bool := r.step || r.late

/-- The links of a list take a request of the job now. -/
def takesReq (s : State) (r : Req) (l : List Nat) : Bool := routeClear s (ctxAt s r.ctx).job (sentAnyway r) l

/-- The requests that a job has sent cross the links of their ways, as far as these take them, before its marker does. -/
def crossJob (job : BitVec 16) (s : State) : State :=
  each (s.reqs.filter fun r => r.flit.isNone && (ctxAt s r.ctx).job == job && r.ctx != horlyn) (fun r s =>
    let l := reqRoute s r
    if takesReq s r l then
      { each l (crossLink r.ctx) s with reqs := s.reqs.map fun x => if isReq r x then { x with hop := x.hop + l.length } else x }
    else s) s

/-- Whether a request of the job has still to cross a link. -/
def behindMarker (s : State) (job : BitVec 16) (k : Nat) : Bool :=
  s.reqs.any fun r => (ctxAt s r.ctx).job == job && r.ctx != horlyn && !sentAnyway r && (reqRoute s r).contains k

/-! ### Packets in the flits of a splice (10 R161, 25 R389) -/

/-- Put the packet at position `n` of the requests, or of the replies, into the flit that a link sends next. -/
def loadReq (k n : Nat) (s : State) : State :=
  match s.reqs[n]? with
  | some r =>
    let q := (linkAt s k).seq
    noteJob r.ctx k (sendFlit k { s with reqs := s.reqs.map fun x => if isReq r x then { x with flit := some (k, q) } else x })
  | none => s
def loadReply (k n : Nat) (s : State) : State :=
  match s.replies[n]? with
  | some x =>
    let q := (linkAt s k).seq
    noteJob x.req.ctx k (sendFlit k { s with replies := s.replies.modify n fun x => { x with req := { x.req with flit := some (k, q) } } })
  | none => s

/-- Whether a packet stands before a link, and the link takes it. -/
def before (s : State) (k : Nat) (r : Req) (route : List Nat) (step : Bool) : Bool :=
  r.flit.isNone && route.head? == some k && canSend k (ctxAt s r.ctx).job step (linkAt s k)

/-- A splice closes a flit: the oldest request before it, or else the oldest reply, travels in it alone (25 R389); a flit that
none stands for is other traffic (log 30). -/
def fillFlit (k : Nat) (s : State) : State :=
  match findIdx (fun r => seatOrder s r && before s k r (reqRoute s r) (sentAnyway r)) s.reqs with
  | some n => loadReq k n s
  | none => match findIdx (fun x => before s k x.req (replyRoute s x.req) true) s.replies with
    | some n => loadReply k n s
    | none => sendFlit k s

/-- Every packet that stands before a splice sets out. -/
def fillAll (k : Nat) : Nat → State → State
  | 0, s => s
  | n + 1, s =>
    if s.reqs.any (fun r => seatOrder s r && before s k r (reqRoute s r) (sentAnyway r)) ||
        s.replies.any (fun x => before s k x.req (replyRoute s x.req) true) then fillAll k n (fillFlit k s)
    else s

/-- The packet of an accepted flit has crossed the link. -/
def passOver (k seq : Nat) (s : State) : State :=
  let gone (r : Req) : Req := if inFlit k seq r then { r with hop := r.hop + 1, flit := none } else r
  { s with reqs := s.reqs.map gone, replies := s.replies.map fun x => { x with req := gone x.req } }

/-- A flit reaches the receiver of a splice: one that has been sent, or sent again, or the next one, which sets out now. A
receiver that rejects it asks for a replay; an accepted one delivers its packet, or drops it for its header. -/
def spliceFlit (k seq : Nat) (crcOk hdrOk : Bool) (s : State) : State :=
  let seq := seq % 1024
  let l := linkAt s k
  if !carries l || isRigging k || (seq == l.seq && !sends k l) then s
  else
    let s := if seq == l.seq then fillFlit k s else s
    let s := modLink k (fun l => { l with flying := l.flying.filter (·.1 != seq) }) s
    if !crcOk then modLink k (crcBad 1024) s
    else
      let (l, ok) := takeSeq 1024 seq (linkAt s k)
      let s := modLink k (fun _ => if ok then { l with owesAck := some seq } else l) s
      if !ok then s
      else if hdrOk then passOver k seq s
      else headerDrop k seq s

def execSpliceFlitReceive (link : BitVec 32) (seq : Nat) (crcOk hdrOk : Bool) (s : State) : Result :=
  .next (spliceFlit (linkKey s link) seq crcOk hdrOk s)

/-- The marker of a job passes a link, behind every packet sent before it, and the link is FROZEN for the job; a link that
cannot take them yet owes it. -/
def sendMarker (job : BitVec 16) (k : Nat) (s : State) : State :=
  let l := linkAt s k
  if l.frozenJobs.contains job then s
  else if sends k l && !behindMarker s job k then
    modLink k (fun l => { l with
      st := .frozen, held := if l.st == .frozen then l.held else l.st, frozenJobs := job :: l.frozenJobs
      owesMarks := l.owesMarks.filter (· != job) })
      (if upToDate k l then passFlit k s else sendFlit k s)
  else if l.st == .down || l.st == .failed then s
  else modLink k (fun l => { l with owesMarks := if l.owesMarks.contains job then l.owesMarks else l.owesMarks ++ [job] }) s

/-- A link that takes flits again sends the markers that it owes. -/
def sendOwed (k : Nat) (s : State) : State :=
  each (linkAt s k).owesMarks (fun job s => sendMarker job k (crossJob job s)) s

/-! ### Events that let a link go on -/

/-- Training ends; DIR is that of the id that names the direction. -/
def execLinkTrained (link : BitVec 32) (out : Training) (s : State) : Result :=
  let k := linkKey s link
  .next (sendOwed k (modLink k (fun l => { trained (isRigging k) out.half out.rttUs l with dir := some (link.getLsbD 0) }) s))

def execNakReceive (link : BitVec 32) (ackSeq : Nat) (s : State) : Result :=
  let k := linkKey s link
  .next (sendOwed k (nak k ackSeq s))
def execReplayTimeout (link : BitVec 32) (s : State) : Result := .next (replayLink (linkKey s link) false s)
def execAckReceive (link : BitVec 32) (ackSeq : Nat) (s : State) : Result :=
  let k := linkKey s link
  .next (sendOwed k (ackLink k ackSeq s))

/-- 2^28 frames have been sent under a key: the switch is made at once at a frame boundary, and else when the frame that has begun
is complete (log 55). -/
def keyDue (l : Link) : Link :=
  if !l.enc then l else if l.inFrame == 0 then switchKey l else { l with frames := Nat.max l.frames (2 ^ 28) }

def execKeySwitch (link : BitVec 32) (s : State) : Result :=
  let k := linkKey s link
  .next (sendOwed k (modLink k keyDue s))

/-- The direction of this module's port that leads back to the transmitter of a rigging direction: the one that the route
table names for its module (log 105). -/
def reverseOf (s : State) (k : Nat) : Option Nat :=
  if k < 2 ^ 10 then none else (routePort s (k / 2 ^ 10 - 1)).map riggingKey

/-- What a flit from the far side says of the flits sent to it: an ACK, a NAK, or ACKV on any other (10 R162). -/
def flitAck (k : Nat) (f : Flit) (s : State) : State :=
  match reverseOf s k with
  | none => s
  | some back =>
    if f.kind == 5 then sendOwed back (nak back f.ackSeq s)
    else if f.kind == 4 || f.ackV then sendOwed back (ackLink back f.ackSeq s)
    else s

def riggingFlit (k : Nat) (f : Flit) (crcOk tagOk hdrOk : Bool) (s : State) : State :=
  let l := linkAt s k
  if !carries l || !isRigging k then s
  else if !crcOk || decide (7 ≤ f.kind.toNat) then modLink k (crcBad (2 ^ 24)) s
  else if sequenced f.kind then sequencedFlit k f tagOk hdrOk (flitAck k f s)
  else flitAck k f s

def execRiggingFlitReceive (link : BitVec 32) (flit : Flit) (crcOk tagOk hdrOk : Bool) (s : State) : Result :=
  .next (riggingFlit (linkKey s link) flit crcOk tagOk hdrOk s)

/-! ### Lanes and signal -/

/-- A lane of a UCIe module fails: a spare takes it over, or the module falls to half width (10 R160, 25 R390). -/
def laneFail (u : Nat) (l : Link) : Link :=
  if 0 < vget 0 l.spares u then { l with spares := vset l.spares u (vget 0 l.spares u - 1) }
  else
    let m : BitVec 4 := BitVec.ofNat 4 (2 ^ u)
    { l with half := l.half ||| m, retrain := l.retrain ||| m
             st := if l.st == .upFull then .upDegraded else l.st
             held := if l.held == .upFull then .upDegraded else l.held }

/-- The flits on a lane that fails for good are rejected by their CRC (25 R390). -/
def laneLost (u : Nat) (l : Link) : Link :=
  let hit := l.flying.filter (·.2 == u)
  if hit.isEmpty then l else hit.foldl (fun l _ => crcBad 1024 l) { l with flying := l.flying.filter (·.2 != u) }

/-- A lane fails at a splice, on which everything that stands before it has set out. -/
def laneFailure (k u : Nat) (s : State) : State :=
  let l := linkAt s k
  if isRigging k || !carries l then s
  else
    let s := fillAll k (s.reqs.length + s.replies.length) s
    modLink k (fun l => (if vget 0 l.spares u == 0 then laneLost u else id) (laneFail u l)) s

def execLaneFailure (link : BitVec 32) (ucie : BitVec 2) (s : State) : Result :=
  .next (laneFailure (linkKey s link) ucie.toNat s)

def execUcieRetrainDone (link : BitVec 32) (ucie : BitVec 2) (s : State) : Result :=
  .next (modLink (linkKey s link) (fun l => { l with retrain := l.retrain &&& ~~~(BitVec.ofNat 4 (2 ^ ucie.toNat)) }) s)

def execFecMarginLow (link : BitVec 32) (s : State) : Result :=
  let k := linkKey s link
  .next (modLink k (fun l => if isRigging k && l.st == .upFull then { l with st := .upDegraded } else l) s)

def execLossOfSignal (link : BitVec 32) (s : State) : Result :=
  .next (modLink (linkKey s link) (fun l => if isUp l then { l with st := .training, trainFails := 0 } else l) s)

/-- LNKSTAT of the host port, which has no link id (10 R159, R168): UP_FULL or DOWN, with the cause. -/
def hostLnkstat (s : State) : W64 := w64 (s.hostCause.toNat * 2 ^ 16 + (if s.hostUp then 2 else 0))

/-- The host port leaves link-up (10 R168). No address of a seat or engine names host memory, so no request ends. -/
def hostDown (s : State) : State := if s.hostUp then { s with hostUp := false, hostCause := 4 } else s
def execHostLinkDown (s : State) : Result := .next (hostDown s)

end Sys2Proof.Machine
end

