-- ==== Sys2Proof/Machine/Device.lean ====
section
/-!
DEFINITION. The device registers (27 R399 to R404), the knock (05 R77, R78) and the states of a queue (05 R80), power,
and boot (27 R401).
-/

namespace Sys2Proof.Machine

/-! ### Accesses of the command processor and the engines by virtual address -/

/-- The physical address of an access of a context that no seat makes, or its fault (09 R148, R149). -/
def ctxPa (s : State) (c va : Nat) (need : Need) : Except (BitVec 8) Nat := (dataXlat s [] c va need false).1

/-- The die of the command processor: X-die 0 (02 R25). -/
def cpDie : Nat := 8

/-- An access crosses the links of its ways; a packet that no port takes to its module is reported as discarded, and so is
one for an FE of this module that its context does not hold (04 R69, 10 R406). -/
def takeWay (d ctx pa : Nat) (s : State) : State :=
  match meets s d ctx pa with
  | .go => each (bothWays s d pa) (crossLink ctx) s
  | .wait => s
  | .refuse c =>
    if (c == Code.linkTimeout && !ownModule s pa) || (c == Code.dataPage && ownModule s pa && !paBad s pa) then
      report (.discarded ctx pa) s
    else s

/-- What is done of an access that is refused: its packet may be reported, and an uncorrectable fill is, of the access or of its
walk, and stops the context (13 R205). -/
def refusedAt (d c va : Nat) (pa : Option Nat) (code : BitVec 8) (s : State) : State :=
  match pa with
  | some pa =>
    let s := takeWay d c pa s
    if code == Code.memoryUncorrectable then edgeTouch c pa false s else s
  | none => if code == Code.memoryUncorrectable then walkTouch c va s else s

/-- The CP writes 8 bytes in a context's space; `none` while a link on their way takes nothing. A write that no translation or
link takes is dropped (DESIGN CHOICE, log 119). -/
def ctxWrite (c va v : Nat) (s : State) : Option State :=
  match walkMeets s [] cpDie c va with
  | .wait => none
  | .refuse e => some (refusedAt cpDie c va none e s)
  | .go =>
    match ctxPa s c va { w := true } with
    | .error _ => some s
    | .ok pa =>
      match meets s cpDie c pa with
      | .wait => none
      | .refuse e => some (refusedAt cpDie c va (some pa) e s)
      | .go =>
        let s := edgeTouch c pa true (takeWay cpDie c pa (xlateTouch c va s))
        some (if ownModule s pa then wrPa pa 8 v s else s)

/-- Bytes as a little-endian number. -/
def leNat (l : List Byte) : Nat := l.foldr (fun b acc => b.toNat + 256 * acc) 0

/-- The 64-bit words of a list of bytes. -/
def words64 (n : Nat) (l : List Byte) : List W64 := (List.range n).map fun i => w64 (leNat ((l.drop (8 * i)).take 8))
def words32 (n : Nat) (l : List Byte) : List W32 := (List.range n).map fun i => w32 (leNat ((l.drop (4 * i)).take 4))

/-- Word `i` of a list. -/
def nth (l : List W64) (i : Nat) : W64 := l.getD i 0

/-! ### Queues (05 R77, R78, R80, R87) -/

def queueAt (s : State) (q : Nat) : Queue := KV.get {} q s.queues
def modQueue (q : Nat) (f : Queue → Queue) (s : State) : State := { s with queues := KV.upd {} q f s.queues }

/-- The CP writes the words that a queue owes, in their order, up to the first that cannot go yet. -/
def writeOwed (q : Nat) : List (W64 × W64) → State → State
  | [], s => modQueue q (fun x => { x with owes := [] }) s
  | (va, v) :: l, s => match ctxWrite (queueAt s q).ctx.toNat va.toNat v.toNat s with
    | some s => writeOwed q l s
    | none => modQueue q (fun x => { x with owes := (va, v) :: l }) s

/-- The CP writes a word for a queue, behind those that it owes already. -/
def cpWrite (q : Nat) (va v : W64) (s : State) : State := writeOwed q ((queueAt s q).owes ++ [(va, v)]) s

/-- A queue owes a word that can be written now. -/
def owesReady (s : State) (q : Nat) : Bool := match (queueAt s q).owes with
  | (va, v) :: _ => (ctxWrite (queueAt s q).ctx.toNat va.toNat v.toNat s).isSome
  | [] => false

/-- Free a queue's slot. -/
def freeSlot (q : Nat) (s : State) : State := { s with slots := s.slots.filter (· != q) }

/-- A queue enters ERROR: the error word is written, and its slot is free (05 R87). -/
def queueError (q : Nat) (code : Nat) (tag index op : Nat) (s : State) : State :=
  let w := w64 (tag % 2 ^ 16 * 2 ^ 48 + index % 2 ^ 32 * 2 ^ 16 + op % 256 * 256 + code)
  let x := queueAt s q
  cpWrite q x.errAddr w
    (freeSlot q (modQueue q (fun x => { x with st := .error, errWord := w, stalled := false }) s))

/-- A queue begins to wait for a slot, behind those that wait already (05 R81). -/
def toPending (q : Nat) (s : State) : State :=
  { modQueue q (fun x => { x with st := .pending, eff := x.prio, since := s.nextId }) s with nextId := s.nextId + 1 }

/-- A write to WPTR (05 R78). No OP byte has been read at an OVERFILL: the error word carries OP 0 (05 R87; DESIGN CHOICE,
log 123). -/
def knockQueue (q : Nat) (w : W32) (s : State) : State :=
  let x := queueAt s q
  if x.st == .disabled || x.st == .error || w == x.wptr then s
  else
    let cap := 2 ^ x.log2u.toNat
    if (w - x.rptr).toNat ≤ cap && (w - x.wptr).toNat ≤ cap then
      (let s := modQueue q (fun x => { x with wptr := w }) s
       if x.st == .idle then toPending q s else s)
    else queueError q 5 0 w.toNat 0 s

def execKnock (qn : Nat) (wptr : W32) (s : State) : Result := .next (knockQueue qn wptr s)

/-- Horlyn sets EN. -/
def queueEnable (q : Nat) (s : State) : State :=
  modQueue q (fun x => if x.st == .disabled then { x with en := true, st := .idle, rptr := x.wptr } else x) s

def execQueueEnable (qn : Nat) (s : State) : Result := .next (queueEnable qn s)

/-- Horlyn clears EN: nodes already in the graph run on. -/
def queueDisable (q : Nat) (s : State) : State :=
  freeSlot q (modQueue q (fun x => { x with en := false, st := .disabled, stalled := false }) s)

def execQueueDisable (qn : Nat) (s : State) : Result := .next (queueDisable qn s)

/-- Horlyn resets a queue in ERROR with a new RPTR. That its error is cleared is read as the queue's own copy of the error
word; the word in memory at ERRWORD stays as it was written (DESIGN CHOICE, log 107). -/
def queueReset (q : Nat) (rptr : W32) (s : State) : State :=
  let x := queueAt s q
  if x.st != .error then s
  else
    let s := modQueue q (fun x => { x with rptr := rptr, errWord := 0, st := .idle }) s
    if rptr == x.wptr then s else toPending q s

def execQueueReset (qn : Nat) (rptr : W32) (s : State) : Result := .next (queueReset qn rptr s)

/-! ### Power (27 R402 to R404) -/

def envelope : Nat → Nat
  | 0 => 4800
  | 1 => 4000
  | _ => 3200

def clockCap : Nat → Nat
  | 0 => 1500
  | 1 => 1300
  | _ => 1100

/-- PWRCTL: a MODE of 3 leaves MODE. -/
def pwrctl (v : W64) (s : State) : State := if fld v 1 0 == 3 then s else { s with pwrMode := BitVec.ofNat 2 (fld v 1 0) }

def execPwrctlWrite (v : W64) (s : State) : Result := .next (pwrctl v s)

/-- At an epoch boundary a new MODE takes effect, and the clock goes to its cap (log 27). -/
def powerEpoch (s : State) : State :=
  if s.pwrNow == s.pwrMode then s
  else { s with pwrNow := s.pwrMode, clock := BitVec.ofNat 12 (clockCap s.pwrMode.toNat) }

/-- Power and temperature as measured; above the envelope the clock falls by 50 MHz, to 1.0 GHz at least. -/
def execClockThrottle (power : BitVec 16) (temp : BitVec 8) (s : State) : Result :=
  .next { s with
    power := power
    temp := temp
    clock := if envelope s.pwrNow.toNat < power.toNat then BitVec.ofNat 12 (Nat.max 1000 (s.clock.toNat - 50))
      else s.clock }

/-- PWRSTAT (27 R403). -/
def pwrstat (s : State) : W64 :=
  w64 (s.power.toNat * 2 ^ 48 + s.temp.toNat * 2 ^ 40 + s.clock.toNat * 2 ^ 20 + s.boot.toNat * 2 ^ 16 + s.pwrNow.toNat)

/-! ### MODULEID, CTXCTL, routes -/

/-- MODULEID: every FE reads it before any seat issues its next hand (27 R400). -/
def moduleid (v : W64) (s : State) : State := { s with moduleId := BitVec.ofNat 10 (fld v 9 0) }
def execModuleidWrite (v : W64) (s : State) : Result := .next (moduleid v s)

def ctxctl (c : Nat) (v : W64) (s : State) : State :=
  if c < 64 then modCtx c (fun x => { x with belayEn := bit v 8, meldWin := BitVec.ofNat 8 (fld v 7 0) }) s else s
def execCtxctlWrite (ctx : Nat) (v : W64) (s : State) : Result := .next (ctxctl ctx v s)

def routeWrite (i : Nat) (v : W64) (s : State) : State :=
  if i < 1024 then { s with routes := KV.put 0 i (v &&& 0x9F) s.routes } else s
def execRouteTableWrite (i : Nat) (v : W64) (s : State) : Result := .next (routeWrite i v s)

/-! ### The register map (27 R399) -/

/-- A 32-bit word of a die's fuse map: bit b says that FE 32 × word + b is enabled (02 R17). -/
def fuseWord (s : State) (die w : Nat) : Nat :=
  (List.range 32).foldl (fun acc b => acc + bitAt (!s.fused.contains (die * 3200 + 32 * w + b)) b) 0

/-- The fuse map at a register offset: a die and a byte offset, within 100 words. -/
def fuseReg (reg : Nat) : Option (Nat × Nat) :=
  if 0x01000000 ≤ reg && reg < 0x01008000 && reg % 0x1000 < 400 then some ((reg - 0x01000000) / 0x1000, reg % 0x1000)
  else none

/-- The training block at a register offset: 32 × stack + channel, and the offset in it. -/
def trainReg (reg : Nat) : Option (Nat × Nat) :=
  if 0x02000000 ≤ reg && reg < 0x02100000 then
    (let o := reg - 0x02000000
     if o % 0x10000 < 0x8000 then some (32 * (o / 0x10000) + o % 0x10000 / 0x400, o % 0x400) else none)
  else none

/-- A 64-bit register by its offset. -/
def reg64 (s : State) (reg : Nat) : W64 :=
  match trainReg reg with
  | some (ch, off) => trainRead (trainAt s ch) off
  | none =>
    if 0x00100000 ≤ reg && reg < 0x00500000 then
      (if reg % 0x1000 == 0 then
        (let x := queueAt s ((reg - 0x00100000) / 0x1000)
         w64 (x.rptr.toNat * 2 ^ 32 + x.wptr.toNat))
       else 0)
    else if 0x03000000 ≤ reg && reg < 0x03000800 then guctlWord (guAt s ((reg - 0x03000000) / 8))
    else if reg == 0x04000000 then s.pwrMode.setWidth 64
    else if reg == 0x04000008 then pwrstat s
    else if reg == 0x04000010 then s.moduleId.setWidth 64
    else if 0x05000000 ≤ reg && reg < 0x05001000 && reg % 0x40 == 0 then
      (let x := ctxAt s ((reg - 0x05000000) / 0x40)
       w64 (bitAt x.belayEn 8 + x.meldWin.toNat))
    else if 0x06000000 ≤ reg && reg < 0x06002000 then KV.get 0 ((reg - 0x06000000) / 8) s.routes
    else 0

/-- A read of `n` bytes: 64-bit registers read 0 below their width; fuse words read by 32 bits, or in pairs. -/
def regRead (s : State) (reg n : Nat) : Nat :=
  match fuseReg reg with
  | some (die, off) =>
    if n == 4 && off % 4 == 0 then fuseWord s die (off / 4)
    else if n == 8 && off % 8 == 0 then fuseWord s die (off / 4) + 2 ^ 32 * fuseWord s die (off / 4 + 1)
    else 0
  | none => if n == 8 && reg % 8 == 0 then (reg64 s reg).toNat else 0

/-- A write of `n` bytes at its register's home: below 64 bits it is discarded. -/
def regWrite (reg n : Nat) (v : W64) (s : State) : State :=
  if n != 8 || reg % 8 != 0 || (fuseReg reg).isSome then s
  else
    match trainReg reg with
    | some (ch, off) => trainStore ch off v s
    | none =>
      if 0x00100000 ≤ reg && reg < 0x00500000 then
        (if reg % 0x1000 == 0 then knockQueue ((reg - 0x00100000) / 0x1000) (w32 (fld v 31 0)) s else s)
      else if 0x03000000 ≤ reg && reg < 0x03000800 then guctlWrite ((reg - 0x03000000) / 8) v s
      else if reg == 0x04000000 then pwrctl v s
      else if reg == 0x04000010 then moduleid v s
      else if 0x05000000 ≤ reg && reg < 0x05001000 && reg % 0x40 == 0 then ctxctl ((reg - 0x05000000) / 0x40) v s
      else if 0x06000000 ≤ reg && reg < 0x06002000 then routeWrite ((reg - 0x06000000) / 8) v s
      else s

def execRegisterWrite (reg : W32) (v : W64) (bytes : Nat) (s : State) : Result := .next (regWrite reg.toNat bytes v s)

/-! ### Boot (27 R401) -/

/-- Splices of the module, X-die ones first (02 R21). -/
def spliceKeys : List Nat :=
  (List.range 8).map (fun d => spliceKey d 48) ++
    (List.range 8).flatMap (fun d => if d % 2 == 0 then [xSpliceKey 0 d] else [xSpliceKey 1 d]) ++
    (List.range 8).flatMap (fun d => (List.range 4).map (fun j => spliceKey d (44 + j)))

/-- Train a link at boot: it comes up full. -/
def bootLink (k : Nat) (s : State) : State :=
  modLink k (fun l => { l with st := .upFull, rtt := Config.roundTripUs s.fresh }) { s with fresh := s.fresh + 1 }

/-- A channel is trained and opened, or stays closed, which Horlyn reports to the host (26 R397). -/
def bootChannel (ch : Nat) (s : State) : State :=
  if Config.channelDark ch s.fresh then report (.channelDark ch) s else openChan ch s

/-- What one numbered boot step does when it does not fail; what Horlyn writes there by its policy comes as events of its own
(log 28). -/
def bootStep (n : Nat) (s : State) : State :=
  let s := match n with
    | 2 => each spliceKeys bootLink s
    | 3 => each (List.range 256) (fun g => modGu g (fun x => { x with takeen := true, swapen := true }))
        (each (List.range 512) bootChannel s)
    | 4 => { s with
        mem := s.mem.filter (fun c => decide (c.1 < classBits))
        tags := [] }
    | 5 => each (List.range 24) (fun p => bootLink (riggingKey p)) s
    | 7 => { s with hostUp := true }
    | _ => s
  { s with boot := BitVec.ofNat 4 n }

/-- The boot steps in their order: one that fails stops the boot, and its number is reported in PWRSTAT.BOOT. -/
def bootGo : List Nat → State → State
  | [], s => s
  | n :: l, s => if Config.bootFails n s.fresh then { s with boot := BitVec.ofNat 4 (n + 8) } else bootGo l (bootStep n s)

/-- What the host reads at a BAR0 offset: 0 until step 7, but that a failed boot can be read from PWRSTAT (10 R168, log 28). -/
def bar0Read (s : State) (off n : Nat) : Nat :=
  if s.boot.toNat < 7 || decide (2 ^ 27 ≤ off) then 0 else regRead s off n

/-- POWER_GOOD: the boot steps in their order; a machine that has booted ignores it. -/
def execPowerGood (s : State) : Result := .next (if s.boot == 0 then bootGo [1, 2, 3, 4, 5, 6, 7] s else s)

/-- The MSC of X-die 0 has not reached step 2 in time: the standby MSC of X-die 1 boots in its place. -/
def execMscFailover (s : State) : Result :=
  .next (if s.boot == 0 then bootGo [1, 2, 3, 4, 5, 6, 7] { s with standby := true } else s)

end Sys2Proof.Machine
end

