-- ==== Sys2Proof/Machine/Access.lean ====
section
/-!
DEFINITION. The accesses of the agents that are no seats, the streams, the engines, the bight units and the command processor:
their latched translations (09 R152), what they meet on their way, and what they do at their homes.
-/

namespace Sys2Proof.Machine

/-! ### Latched translations (09 R152, R154) -/

/-- A latched translation: its base and limit, and the address of its base. -/
abbrev PaLatch := Nat × Nat × Nat

/-- A translation for an agent, of FE `fe` where it has one: base, limit and the address of base; DATA_PAGE or DATA_PERM otherwise. -/
def latchFor (s : State) (fe ctx va : Nat) (need : Need) : Except (BitVec 8) PaLatch :=
  let tlb := (feAt s fe).tlb
  match (dataXlat s tlb ctx va need false).1, (xlate s tlb ctx va).1 with
  | .ok _, some x => .ok (x.base, x.limit, x.pa - (va - x.base))
  | .error c, _ => .error c
  | _, none => .error Code.dataPage

def latchHas (l : Option PaLatch) (va : Nat) : Option Nat :=
  match l with
  | some (b, e, pa) => if b ≤ va && va < e then some (pa + (va - b)) else none
  | none => none

/-- A translation that an agent makes now; its walk may wait, or end in a refusal (10 R166). -/
def latchNew (s : State) (fe d ctx va : Nat) (need : Need) : Except Meets PaLatch :=
  match walkMeets s (feAt s fe).tlb d ctx va with
  | .go => (match latchFor s fe ctx va need with
    | .ok l => .ok l
    | .error e => .error (.refuse e))
  | m => .error m

/-- The address of an access under a latch, or under a new one that takes its place; the last answer says that it is new. -/
def latched (s : State) (fe d ctx : Nat) (l : Option PaLatch) (va : Nat) (need : Need) : Except Meets (Nat × PaLatch × Bool) :=
  match latchHas l va, l with
  | some pa, some l => .ok (pa, l, false)
  | _, _ => match latchNew s fe d ctx va need with
    | .ok l => .ok (l.2.2 + (va - l.1), l, true)
    | .error m => .error m

/-! ### At the home -/

/-- A free word, and the state that has used it. -/
def freeWord (s : State) : W64 × State := (Config.farWord s.fresh, { s with fresh := s.fresh + 1 })

/-- Read `n` bytes for a stream at an address whose home it has reached. -/
def streamLoad (ctx pa n : Nat) (s : State) : Nat × State :=
  if !ownModule s pa then (let (w, s) := freeWord s; (w.toNat % 2 ^ (8 * n), s))
  else if paClass pa == 2 then (regRead s (pa % 2 ^ 32) n, s)
  else (rdPa s pa n, edgeTouch ctx pa false s)

/-- Write `n` bytes for a stream. -/
def streamStore (ctx pa n v : Nat) (s : State) : State :=
  if !ownModule s pa then s
  else if paClass pa == 2 then regWrite (pa % 2 ^ 32) n (w64 v) s
  else wrPa pa n v (edgeTouch ctx pa true s)

/-- Whether an address has tags. -/
def hasTag (s : State) (pa : Nat) : Bool := ownModule s pa && (paClass pa == 1 || paClass pa == 3)

/-- `n` bytes of device registers as an engine reads them: each by its widest aligned access within them (27 R399, log 120). -/
def regBytes (s : State) (reg n : Nat) : List Byte := (List.range n).map fun i =>
  let a := reg + i
  let within (w : Nat) : Bool := decide (reg ≤ a / w * w) && decide (a / w * w + w ≤ reg + n)
  let v := if within 8 then regRead s (a / 8 * 8) 8 / 256 ^ (a % 8)
    else if within 4 then regRead s (a / 4 * 4) 4 / 256 ^ (a % 4) else 0
  BitVec.ofNat 8 v

/-- `n` bytes at their home; what another module holds is free (log 17). -/
def homeBytes (s : State) (pa n : Nat) : List Byte :=
  if !ownModule s pa then (List.range n).map fun i => Config.farByte (pa + i)
  else if paClass pa == 2 then regBytes s (pa % 2 ^ 32) n
  else bytesAt s pa n

/-- Write bytes at their home: registers by the whole doublewords among them, memory with the tags of its words. -/
def homePut (pa : Nat) (bs : List Byte) (s : State) : State :=
  if !ownModule s pa then s
  else if paClass pa == 2 then
    (let reg := pa % 2 ^ 32
     each (List.range ((reg + bs.length) / 8 - cdiv reg 8)) (fun i s =>
       let a := (cdiv reg 8 + i) * 8
       regWrite a 8 (w64 (leNat ((bs.drop (a - reg)).take 8))) s) s)
  else landBytes pa bs s

/-- Bytes of values of `n` bytes each. -/
def packBytes (n : Nat) (l : List Nat) : List Byte := l.flatMap fun v => (List.range n).map fun i => BitVec.ofNat 8 (v / 256 ^ i)

/-! ### Stretches of memory -/

/-- The parts of `n` bytes from an address, none across a 256-byte boundary: the address and bytes of each. -/
def segments (va n : Nat) : List (Nat × Nat) :=
  if n == 0 then []
  else (List.range (cdiv (va % 256 + n) 256)).map fun i =>
    let lo := Nat.max va ((va / 256 + i) * 256)
    (lo, Nat.min (va + n) ((va / 256 + i + 1) * 256) - lo)

/-- One access of a stretch: its virtual address, the address of its home, its bytes, and whether its translation is new. -/
structure Part where
  va : Nat
  pa : Nat
  n : Nat
  fresh : Bool
  deriving DecidableEq, Repr

/-- The accesses of an agent to a stretch of a context's space as far as they go, the latch after them, and what the next one
meets, with its address and, where it has been translated, the address of its home. -/
structure Span where
  parts : List Part := []
  latch : Option PaLatch := none
  stop : Meets := .go
  stopVa : Nat := 0
  stopPa : Option Nat := none
  deriving DecidableEq, Repr

def spanOf (s : State) (fe d ctx : Nat) (need : Need) : Option PaLatch → List (Nat × Nat) → Span
  | l, [] => { latch := l }
  | l, (va, n) :: rest =>
    match latched s fe d ctx l va need with
    | .error m => { latch := l, stop := m, stopVa := va }
    | .ok (pa, l, fresh) =>
      match meets s d ctx pa with
      | .go =>
        let r := spanOf s fe d ctx need (some l) rest
        { r with parts := { va := va, pa := pa, n := n, fresh := fresh } :: r.parts }
      | m => { latch := some l, stop := m, stopVa := va, stopPa := some pa }

/-- The accesses of an engine or the CP, which have no FE. -/
def engineSpan (s : State) (d ctx va n : Nat) (need : Need) (l : Option PaLatch) : Span :=
  spanOf s noFe d ctx need l (segments va n)

def spanBytes (s : State) (p : Span) : List Byte := p.parts.flatMap fun a => homeBytes s a.pa a.n

/-- The accesses go over their links and through their walks and caches, and the one that is refused is reported. -/
def spanGo (d ctx : Nat) (write : Bool) (p : Span) (s : State) : State :=
  let s := each p.parts (fun a s =>
    edgeTouch ctx a.pa write (takeWay d ctx a.pa (if a.fresh then xlateTouch ctx a.va s else s))) s
  match p.stop with
  | .refuse e => refusedAt d ctx p.stopVa p.stopPa e s
  | _ => s

/-- Write bytes where the accesses of a stretch go, as many as it reaches. -/
def spanPut : List Part → List Byte → State → State
  | [], _, s => s
  | a :: rest, bs, s => spanPut rest (bs.drop a.n) (homePut a.pa (bs.take a.n) s)

/-- A code for what stopped a stretch; 0 where nothing has. -/
def stopCode (m : Meets) : BitVec 8 := (refusal m).getD 0

/-! ### Reads in sequence -/

/-- Reads of an agent, each depending on those before it: the stretches that it reads, and what they give or what stops them. -/
structure Reads (α : Type) where
  spans : List Span := []
  out : Except Meets α

def Reads.done {α : Type} (v : α) : Reads α := { out := .ok v }

def Reads.andThen {α β : Type} (x : Reads α) (f : α → Reads β) : Reads β :=
  match x.out with
  | .error m => { spans := x.spans, out := .error m }
  | .ok v => let y := f v; { y with spans := x.spans ++ y.spans }

def Reads.map {α β : Type} (f : α → β) (x : Reads α) : Reads β := x.andThen fun v => .done (f v)

/-- It cannot go on now. -/
def Reads.waits {α : Type} (x : Reads α) : Bool := match x.out with
  | .error .wait => true
  | _ => false

/-- Where they stopped. -/
def Reads.stopVa {α : Type} (x : Reads α) : Nat := (x.spans.getLast?.map (·.stopVa)).getD 0

/-- Bytes and 64-bit words of a context's space, read from die `d`. -/
def readBytes (s : State) (d ctx va n : Nat) : Reads (List Byte) :=
  let p := engineSpan s d ctx va n { r := true } none
  { spans := [p], out := if p.stop == .go then .ok (spanBytes s p) else .error p.stop }
def readWords (s : State) (d ctx va n : Nat) : Reads (List W64) := (readBytes s d ctx va (8 * n)).map (words64 n)

/-- The accesses of some reads have been made. -/
def readsGo (d ctx : Nat) (l : List Span) (s : State) : State := each l (spanGo d ctx false) s

end Sys2Proof.Machine
end

