-- ==== Sys2Proof/Machine/Home.lean ====
section
/-!
DEFINITION. Requests at their homes: the bank unit with its check of the context id (04 R69), gather units, device
registers, other modules (10 R406); refused requests (08 R129); replies (04 R59, 17 R286, R291).
-/

namespace Sys2Proof.Machine

/-! ### At a bank unit -/

/-- The words of a remote BTEST. -/
def btestWords (b : Barrier) : List W32 := [lo32 (barWord1 b).toNat, hi32 (barWord1 b).toNat]

/-- Perform a request at the bank units of its FE. -/
def bankPerform (fe : Nat) (r : Req) (s : State) : State :=
  let n := (paOff r.pa - spTop) / 8
  match r.op with
  | .setf v => setTag r.pa true (wrPa r.pa 4 v.toNat s)
  | .clre => setTag r.pa false s
  | .tagrd => landReply r [if tagFull s r.pa then 1 else 0] s
  | .waitRead _ | .waitStf => serveWord fe (paKey r.pa) (enterBank fe r s)
  | .take => setTag r.pa false s
  | .stfWrite v => setTag r.pa true (wrPa r.pa 4 v.toNat s)
  | .release => dropHold fe r.pa r.fe r.seat s
  | .barr amount => (arriveBar fe n amount s).1
  | .binit byteMode trap expect => initBar fe r.seat n byteMode trap expect s
  | .brst => resetBar fe n s
  | .btest => landReply r (btestWords (barAt (feAt s fe) n)) s
  | .bwait ph =>
    (match bwaitNow (barAt (feAt s fe) n) ph with
     | some (v, ovr) => sendReply r (.grant v (if ovr then 1 else 0)) s
     | none => enterBank fe r s)
  | .pile op => pileAtHome r op s
  | .read _ _ | .write _ _ | .atomic _ _ _ _ => guPerform r s
  | .pass => s

/-- Divert a packet into the holding queue of the FE's save block; a full queue refuses it. -/
def divert (fe : Nat) (r : Req) (s : State) : State :=
  match (ctxAt s r.ctx).blocks.find? (fun b => b.fe == fe) with
  | some b =>
    if b.held.length < Config.holdingQueue then
      modCtx r.ctx (fun x => { x with blocks := x.blocks.map (fun b =>
        if b.fe == fe then { b with held := b.held ++ [r] } else b) }) s
    else { s with refused := s.refused ++ [r] }
  | none => { s with refused := s.refused ++ [r] }

/-- A packet reaches the bank units of an FE: performed for the context that holds the FE, diverted for one that is
being saved or is saved, and otherwise discarded, its requester failing with DATA_PAGE (04 R69). -/
def bankArrive (fe : Nat) (r : Req) (s : State) : State :=
  if isEdge fe || (feAt s fe).holder = some r.ctx then bankPerform fe r s
  else if diverts s r.ctx fe then divert fe r s
  else
    failReq r Code.dataPage (report (.discarded r.ctx r.pa) s)

/-! ### The order of requests on their way (25 R388) -/

/-- The home of an address, by module and class and by the unit: the gather unit of an HBM address, a training block or a GUCTL,
the FE, or the unit that holds a device register (12 R180, 27 R399). -/
def homeOf (pa : Nat) : Nat × Nat :=
  let m := 4 * paModule pa
  let reg := pa % 2 ^ 32
  match paClass pa with
  | 0 => (m, guOfPa pa)
  | 2 =>
    (match trainReg reg with
     | some (ch, _) => (m, guOfChan ch)
     | none =>
       if 0x03000000 ≤ reg && reg < 0x03000800 then (m, (reg - 0x03000000) / 8)
       else if 0x01000000 ≤ reg && reg < 0x02000000 then (m + 2, reg / 0x1000)
       else if 0x04000000 ≤ reg && reg < 0x06000000 then (m + 2, 4)
       else (m + 2, reg / 2 ^ 24))
  | c => (m + c, pa / 2 ^ 19 % 2 ^ 15)

/-- Requests that have not come to their homes: in flight, refused, or held before a gather unit can take them. -/
def onWay (s : State) : List Req := s.reqs ++ s.refused ++ s.gus.flatMap (·.2.rowWait) ++
  s.trains.flatMap (fun e => e.2.waiting ++ e.2.accepted)

/-- Nothing of its seat comes before request `r`, and no older request of its FE is on its way to the same home: one FE's
requests to one home are performed in the order in which they were sent (25 R388). -/
def inOrder (s : State) (r : Req) : Bool :=
  seatOrder s r && !(onWay s).any fun x => x.fe == r.fe && decide (x.id < r.id) && homeOf x.pa == homeOf r.pa

/-! ### Other modules -/

/-- A request crosses the links that are left of its way, and `f` goes on with it at its home; over a dead link it ends. -/
def travel (r : Req) (f : State → State) (s : State) : State :=
  let l := reqRoute s r
  if routeDead s l then failReq r Code.linkTimeout s else f (each l (crossLink r.ctx) s)

/-- What another module answers is free (log 23); a pile operation to it is BAD (08 R138). -/
def farAnswer (r : Req) (s : State) : State :=
  let (v, t) := freeWord s
  match r.op with
  | .read n zero =>
    (match r.land with
     | some _ => sendReply r (.land (valueWords n (v.toNat % 2 ^ (8 * n)) zero)) t
     | none => sendReply r (.grant (w64 (v.toNat % 2 ^ (8 * n))) 0) t)
  | .atomic _ wide _ _ => landReply r (valueWords (if wide then 8 else 4) (v.toNat % 2 ^ (if wide then 64 else 32)) true) t
  | .tagrd => landReply r [w32 (v.toNat % 2)] t
  | .waitRead _ | .waitStf => sendReply r (.grant (w64 (v.toNat % 2 ^ 32)) 0) t
  | .btest => landReply r [lo32 v.toNat, hi32 v.toNat] t
  | .bwait _ => sendReply r (.grant (w64 (v.toNat % 2 ^ 16 / 256 * 256 + v.toNat % 4))
      (if v.toNat % 4 == 1 && bit v 16 then 1 else 0)) t
  | .pile _ => pileAnswer r 0 pileBad s
  | _ => s

/-- A write performed on another module is acknowledged (12 R189). -/
def farAck (r : Req) (s : State) : State := if isWriteOp r.op && r.land.isNone then sendReply r .ack s else s

def isAtomic (r : Req) : Bool := match r.op with
  | .atomic _ _ _ _ => true
  | _ => false

/-- The packet of a third module goes on over the port that this module's table names; where there is none, or it is dead, the packet
is discarded and reported (10 R406). -/
def passOn3 (r : Req) (s : State) : State :=
  if routeDead s (reqRoute s r) || (routePort s (paModule r.pa)).isNone then report (.discarded r.ctx r.pa) s
  else each (reqRoute s r) (crossLink r.ctx) s

/-- A request leaves the module (10 R406): with no valid entry or a dead port it is discarded and reported, and ends in
LINK_TIMEOUT; an address that its module refuses ends in DATA_PAGE, an atomic being parked as well (17 R293). -/
def farRequest (r : Req) (s : State) : State :=
  if r.far.isSome then passOn3 r s
  else if isPile r then pileAnswer r 0 pileBad s
  else
    match routePort s (paModule r.pa) with
    | none => failReq r Code.linkTimeout (report (.discarded r.ctx r.pa) s)
    | some p =>
      let x := linkAt s (riggingKey p)
      let s := if x.st == .down || x.st == .failed then report (.discarded r.ctx r.pa) s else s
      travel r (fun s =>
        if paBad s r.pa then
          (let s := failReq r Code.dataPage s
           if isAtomic r then
             -- its reply is still to come (04 R65, 17 R293)
             let s := if r.land.isSome then modSeat r.fe r.seat (fun t => { t with splits := t.splits ++ [r.id] }) s else s
             report (.park r.ctx r.va) (modCtx r.ctx (fun x => { x with parked := x.parked ++ [r] }) s)
           else s)
        else farAck r (farAnswer r s)) s
where
  isPile (r : Req) : Bool := match r.op with
    | .pile _ => true
    | _ => false

/-! ### Events: a request reaches its home -/

/-- The events that carry a request on. -/
inductive ReqEvent where
  | bank | wait | take | release | gu | meld (point : Nat) | pile | rigging
  deriving DecidableEq, Repr

/-- The meld points that a request has still to pass. -/
def meldLeft (s : State) (r : Req) : List Nat :=
  match r.op with
  | .pile (.restore _) => []
  | .pile _ => if ownModule s r.pa && r.far.isNone then (meldPath r.fe r.pa).drop r.hops else []
  | _ => []

/-- The event that comes next for a request. -/
def reqEvent (s : State) (r : Req) : ReqEvent :=
  if !ownModule s r.pa then .rigging
  else
    match meldLeft s r with
    | p :: _ => .meld p
    | [] =>
      match r.op with
      | .pile _ => .pile
      | .waitRead _ | .waitStf | .bwait _ => .wait
      | .take => .take
      | .release => .release
      | _ => if paClass r.pa == 0 then .gu else .bank

/-- Perform a request at its home on this module. One of another module meets here what 09 R146 refuses, and no pile (08 R138). -/
def homeArrive (r : Req) (s : State) : State :=
  if r.far.isSome && paRefused s r.pa then failReq r Code.dataPage s
  else if r.far.isSome && regBarred r.ctx r.pa then failReq r Code.dataPerm s
  else if r.far.isSome && farRequest.isPile r then pileAnswer r 0 pileBad s
  else match paClass r.pa with
  | 0 => guAccept r s
  | 2 =>
    (match r.op with
     | .read n zero =>
       let v := regRead s (r.pa % 2 ^ 32) n
       (match r.land with
        | some _ => sendReply r (.land (valueWords n v zero)) s
        | none => sendReply r (.grant (w64 v) 0) s)
     | .write n v => regWrite (r.pa % 2 ^ 32) n v s
     | _ => s)
  | _ =>
    match feOfPa r.pa with
    | some fe => bankArrive fe r s
    | none => s

/-- The links that a request crosses with its next event: all that are left, or those up to the far end of a splice at which it
melds, where it enters the meld buffer when its flit has been accepted (08 R141, 10 R161). -/
def nextRoute (s : State) (r : Req) : List Nat :=
  match reqEvent s r with
  | .meld p => if p < 1000 then reqRoute s r else (reqRoute s r).take (r.hops + 1 - r.hop)
  | _ => reqRoute s r

/-- A request can go on now, or must end now: it stands in no flit, nothing comes before it (12 R189, 25 R388), and the links
before it take it, or one that is left of its way is dead. -/
def reqReady (s : State) (r : Req) : Bool :=
  r.flit.isNone && inOrder s r && (routeDead s (reqRoute s r) || takesReq s r (nextRoute s r))

/-- Carry request `r`, taken out of the requests in flight, one event on. -/
def reqStep (r : Req) (e : ReqEvent) (s : State) : State :=
  match e with
  | .rigging => farRequest r s
  | .meld p =>
    let l := nextRoute s r
    if routeDead s (reqRoute s r) then failReq r Code.linkTimeout s
    else meldArrive { r with hop := r.hop + l.length } p (each l (crossLink r.ctx) s)
  | _ => travel r (homeArrive r) s

/-- Request `n` meets the event `e`, if that is what comes next for it and it can go on. -/
def reqGo (n : Nat) (ok : ReqEvent → Bool) (s : State) : State :=
  match s.reqs[n]? with
  | none => s
  | some r =>
    let e := reqEvent s r
    if ok e && reqReady s r then reqStep r e { s with reqs := removeAt n s.reqs } else s

def execBankPacket (n : Nat) (s : State) : Result := .next (reqGo n (· == .bank) s)
def execRemoteWaitRequest (n : Nat) (s : State) : Result := .next (reqGo n (· == .wait) s)
def execHoldTake (n : Nat) (s : State) : Result := .next (reqGo n (· == .take) s)
def execHoldRelease (n : Nat) (s : State) : Result := .next (reqGo n (· == .release) s)
def execGuRequest (n : Nat) (s : State) : Result := .next (reqGo n (· == .gu) s)
def execPileOpAtHome (n : Nat) (s : State) : Result := .next (reqGo n (· == .pile) s)
def execMeldPointArrival (n point : Nat) (s : State) : Result := .next (reqGo n (· == .meld point) s)
def execRiggingRoute (n : Nat) (s : State) : Result := .next (reqGo n (· == .rigging) s)

/-- A refused request can be sent again: a frozen sender sends nothing (11 R175). -/
def mayResend (s : State) (r : Req) : Bool := r.step || !jobFrozen s r.ctx

/-- A refused request is sent again (08 R129), over its whole way. -/
def resend (n : Nat) (s : State) : State :=
  match s.refused[n]? with
  | some r =>
    if mayResend s r then
      { s with refused := removeAt n s.refused, reqs := s.reqs ++ [{ r with hops := 0, hop := 0, flit := none }] }
    else s
  | none => s

def execRefusedResend (n : Nat) (s : State) : Result := .next (resend n s)

/-- A waiting operation's window expires: it goes on towards the home. The windows of a frozen job do not run (08 R144). -/
def meldExpire (n : Nat) (s : State) : State :=
  match s.melds[n]? with
  | some m => if recvFrozen s m.req.ctx then s else { s with melds := removeAt n s.melds, reqs := s.reqs ++ [m.req] }
  | none => s

def execMeldWindowExpiry (n : Nat) (s : State) : Result := .next (meldExpire n s)

/-- Writes of a seat that are still to be performed. -/
def writesLeft (s : State) (fe k : Nat) : Bool := (unperformed s).any fun r => sameSeat r fe k && isWriteOp r.op && !isPopw r

/-! ### Replies -/

/-- The landing of a reply (04 R59, 17 R286), under the bank unit's check of the context id. For a seat that has been saved
it is diverted into the save block (04 R69). -/
def landAt (r : Req) (off : Nat) (ws : List W32) (s : State) : State :=
  let s := modSeat r.fe r.seat (fun t => { t with splits := t.splits.filter (· != r.id) }) s
  if isSaved r.fe then
    modCtx r.ctx (fun x => { x with blocks := x.blocks.map (fun b =>
      if b.key == r.fe then { b with lands := b.lands ++ [(b.held.length, r, ws)] } else b) }) s
  else if isEdge r.fe || (feAt s r.fe).holder = some r.ctx then landWords (ownPa s r.fe off) ws s
  else report (.discarded r.ctx (ownPa s r.fe off)) s

/-- A value reaches the hand that asked for it; a redirected load's stall ends (04 R71). -/
def giveValue (r : Req) (v : W64) (st : Nat) (s : State) : State :=
  match (seatAt s r.fe r.seat).hand with
  | some h =>
    if h.asked.any (isReq r) then
      modSeat r.fe r.seat (fun t => { t with hand := t.hand.map (fun h => { h with stalled := false }) })
        (grantSeat r.fe r.seat v st s)
    else s
  | none => s

/-- A reply that its receiver takes now. Those of a frozen job are held until its receivers are released, but for the
replies to a stepped hand and the value that a hand still issuing waits for (11 R173, R175, R177, R178). What goes to another
module is not this one's to hold. -/
def replyTaken (s : State) (r : Req) : Bool :=
  let t := seatAt s r.fe r.seat
  !recvFrozen s r.ctx || r.far.isSome || r.step || (t.st == .running && t.hand.any fun h => h.asked.any (isReq r))

/-- Bytes of the landing area of a split-phase request (17 R286). -/
def landBytesOf : ReqOp → Nat
  | .read 8 _ => 8
  | .atomic _ true _ _ => 8
  | .btest => 8
  | .pile .pop => 16
  | _ => 4

/-- The landing words of a reply have been emptied, and what its seat did to them before the request has been performed
(12 R190, R197). -/
def landingFree (s : State) (r : Req) : Bool := match r.land with
  | some off => r.far.isSome || !(ownPend s r.fe r.seat off (landBytesOf r.op)).any fun x => decide (x.id < r.id)
  | none => true

/-- A reply can arrive now, or must end now. An acknowledgement changes nothing at its receiver, and is never held. -/
def replyReady (s : State) (x : Reply) : Bool :=
  let l := replyRoute s x.req
  x.req.flit.isNone && (x.body == .ack || (replyTaken s x.req && landingFree s x.req)) &&
    (routeDead s l || routeClear s (ctxAt s x.req.ctx).job true l)

/-- Reply `n` arrives, if it is of a kind that `ok` admits, over the links of its way; over a dead one it is lost, and its
request ends (10 R166). -/
def replyGo (n : Nat) (ok : Req → Bool) (s : State) : State :=
  match s.replies[n]? with
  | none => s
  | some x =>
    if !ok x.req || !replyReady s x then s
    else
      let l := replyRoute s x.req
      let t := { s with replies := removeAt n s.replies }
      if routeDead s l then failReq x.req Code.linkTimeout t
      else
        let s := each l (crossLink x.req.ctx) t
        if x.req.far.isSome then s
        else match x.body, x.req.land with
        | .land ws, some off => landAt x.req off ws s
        | .land _, none => s
        | .grant v st, _ => giveValue x.req v st s
        | .ack, _ => s
        | .refused c, _ => failReq x.req c s

def isWaitReq (r : Req) : Bool := match r.op with
  | .waitRead _ | .waitStf | .bwait _ => true
  | _ => false

def execSplitPhaseReply (n : Nat) (s : State) : Result := .next (replyGo n (fun r => !isWaitReq r && !isPopw r) s)
def execWaitRequestReply (n : Nat) (s : State) : Result := .next (replyGo n isWaitReq s)
def execPopwAnswer (n : Nat) (s : State) : Result := .next (replyGo n isPopw s)

/-! ### Deferred faults and deadlines -/

/-- DEFERRED_FAULT: a WAITING seat takes its oldest deferred fault at once, a RUNNING one at its hand boundary, which a hand
whose header only is read is none of (17 R287, 16 R260). -/
def deferredNow (fe k : Nat) (s : State) : State :=
  let t := seatAt s fe k
  if t.st == .waiting || (t.st == .running && t.hand.isNone && !t.hdrOnly) then takeDeferred fe k s else s

def execDeferredFault (fe k : Nat) (s : State) : Result := .next (deferredNow fe k s)

/-- The deadline of a seat that waits in WAITEV (16 R269). -/
def waitevDl (t : Seat) : Option W64 :=
  match t.hand with
  | some h =>
    (match h.slots[h.slot]? with
     | some w =>
       (match decode w.lo w.hi with
        | .ok (.waitev _ a _) => if rdS h a == BitVec.allOnes 64 then none else some (rdS h a)
        | _ => none)
     | none => none)
  | none => none

/-- Pod time reaches the deadline of a waiting WAITEV: its slot then ends with S[sd] = 0, unless a record came first. -/
def deadline (fe k : Nat) (s : State) : State :=
  let t := seatAt s fe k
  if t.st != .waiting then s
  else
    match waitevDl t with
    | some d => { s with time := Nat.max s.time d.toNat }
    | none => s

def execWaitevDeadline (fe k : Nat) (s : State) : Result := .next (deadline fe k s)

end Sys2Proof.Machine
end

