-- ==== Sys2Proof/Machine/Float.lean ====
section
/-!
DEFINITION. The scalar float instructions (16 R276, R280 to R282): they read FP32 from bits [31:0], write it into bits
[31:0] with zeros above, OR their flags into FPFLAGS and trap under FPCTL's enables (03 R40).
-/

namespace Sys2Proof.Machine

/-- The rounding state of a hand: FPCTL and SRSEED as its earlier slots left them. -/
def rndOf (h : Hand) : Rnd := Rnd.of h.work.fpctl h.work.srseed

/-- Write the result of a float operation, or fault on an enabled condition (03 R40). -/
def putFloat (d : Reg) (x : Nat × Rnd) (h : Hand) : Hand :=
  match fpTrap h.work.fpctl x.2.fl with
  | some c => hFault c 0 0 h
  | none =>
    modWork (fun a => { a with fpflags := a.fpflags ||| w64 x.2.fl, srseed := x.2.gen }) (wrS d (w64 x.1) h)

/-- The FP32 code in the low half of a register. -/
def rdF (h : Hand) (r : Reg) : Nat := (rdS h r).toNat % 2 ^ 32

def opFF (w : Nat) (f : Fmt → Rnd → Nat → Nat → Nat × Rnd) (d a b : Reg) (q : Sel) (s : State) : State :=
  issue w q (fun _ h => putFloat d (f .fp32 (rndOf h) (rdF h a) (rdF h b)) h) s

def opF (w : Nat) (f : Fmt → Rnd → Nat → Nat × Rnd) (d a : Reg) (q : Sel) (s : State) : State :=
  issue w q (fun _ h => putFloat d (f .fp32 (rndOf h) (rdF h a)) h) s

def execFadd (d a b : Reg) (q : Sel) (s : State) : Result := .next (opFF 8 fAdd d a b q s)
def execFsub (d a b : Reg) (q : Sel) (s : State) : Result := .next (opFF 8 fSub d a b q s)
def execFmul (d a b : Reg) (q : Sel) (s : State) : Result := .next (opFF 8 fMul d a b q s)
def execFdiv (d a b : Reg) (q : Sel) (s : State) : Result := .next (opFF 24 fDiv d a b q s)
/-- FMIN and FMAX do not round and set no flag (16 R280). -/
def execFmin (d a b : Reg) (q : Sel) (s : State) : Result :=
  .next (issue 8 q (fun _ h => wrS d (w64 (minmax .fp32 false (rdF h a) (rdF h b))) h) s)
def execFmax (d a b : Reg) (q : Sel) (s : State) : Result :=
  .next (issue 8 q (fun _ h => wrS d (w64 (minmax .fp32 true (rdF h a) (rdF h b))) h) s)
def execFabs (d a : Reg) (q : Sel) (s : State) : Result :=
  .next (issue 4 q (fun _ h => wrS d (w64 (fAbs .fp32 (rdF h a))) h) s)
def execFneg (d a : Reg) (q : Sel) (s : State) : Result :=
  .next (issue 4 q (fun _ h => wrS d (w64 (fNeg .fp32 (rdF h a))) h) s)
/-- FFMA: S[sa] × S[sb] + S[sd], rounded once. -/
def execFfma (d a b : Reg) (q : Sel) (s : State) : Result :=
  .next (issue 8 q (fun _ h => putFloat d (fFma .fp32 (rndOf h) (rdF h a) (rdF h b) (rdF h d)) h) s)
def execFrcp (d a : Reg) (q : Sel) (s : State) : Result := .next (opF 12 fRcp d a q s)
def execFrsq (d a : Reg) (q : Sel) (s : State) : Result := .next (opF 12 fRsq d a q s)
def execFsqrt (d a : Reg) (q : Sel) (s : State) : Result := .next (opF 24 fSqrt d a q s)
def execFexp2 (d a : Reg) (q : Sel) (s : State) : Result := .next (opF 12 fExp2 d a q s)
def execFlog2 (d a : Reg) (q : Sel) (s : State) : Result := .next (opF 12 fLog2 d a q s)
/-- FCVT: the source's low bits converted, in the mode and SAT of FPCTL (16 R282). -/
def execFcvt (dst src : BitVec 4) (d a : Reg) (q : Sel) (s : State) : Result :=
  .next (issue 8 q (fun _ h => putFloat d (convert dst.toNat src.toNat (rndOf h) (rdS h a).toNat) h) s)

/-- FCMP.cc: a NaN operand makes ne and un 1 and every other condition 0 (16 R276). -/
def fcmpRel (f : Fmt) (cc a b : Nat) : Bool :=
  let x := f.decode a
  let y := f.decode b
  if x = .nan || y = .nan then cc == 1 || cc == 6
  else if cc == 6 then false
  else relCode cc (eqFV x y) (ltFV false x y)

def execFcmp (cc : BitVec 3) (pd : Pred) (a b : Reg) (q : Sel) (s : State) : Result :=
  .next (issue 8 q (fun _ h => wrP pd (fcmpRel .fp32 cc.toNat (rdF h a) (rdF h b)) h) s)

end Sys2Proof.Machine
end

