-- ==== Sys2Proof/Machine/Node.lean ====
section
/-!
DEFINITION. The operator nodes of a plane (18 R300 to R303, R320 to R328): tokens, the three modes of empty elements,
and what one firing of a node takes, keeps and emits. A node sees its input channels and whether its outputs have room.
-/

namespace Sys2Proof.Machine

/-! ### The table of nodes (18 R320) -/

/-- Format classes. -/
inductive FmtClass where
  | arith | float | int | width | none | cvt | fp32
  deriving DecidableEq, Repr

/-- What R320 gives a node: inputs required and optional (bit 0 for A, 1 for B, 2 for C), outputs, format class. -/
structure NodeSpec where
  req : Nat
  opt : Nat := 0
  outs : Nat := 1
  cls : FmtClass
  deriving DecidableEq, Repr

def nodeSpec (op : Nat) : NodeSpec :=
  match op with
  | 0 | 1 | 2 | 4 | 5 => { req := 3, cls := .arith }
  | 3 => { req := 7, cls := .arith }
  | 6 | 7 => { req := 1, cls := .arith }
  | 8 | 9 | 10 => { req := 3, cls := .width }
  | 11 | 12 => { req := 1, opt := 2, cls := .int }
  | 13 => { req := 1, cls := .cvt }
  | 14 => { req := 1, cls := .float }
  | 15 => { req := 1, cls := .fp32 }
  | 16 | 17 | 18 | 19 | 20 | 21 => { req := 1, cls := .float }
  | 22 => { req := 3, cls := .arith }
  | 23 => { req := 7, cls := .none }
  | 24 => { req := 1, opt := 2, outs := 2, cls := .width }
  | 25 | 26 | 29 => { req := 3, cls := .none }
  | 27 | 28 => { req := 1, cls := .arith }
  | 30 => { req := 3, outs := 2, cls := .none }
  | 31 | 37 | 38 => { req := 1, cls := .none }
  | 32 => { req := 0, cls := .width }
  | 33 => { req := 1, outs := 2, cls := .none }
  | 34 => { req := 3, cls := .arith }
  | 35 => { req := 1, cls := .width }
  | 36 => { req := 3, cls := .none }
  | _ => { req := 1, cls := .arith }

/-- The codes that FMT admits (18 R304). -/
def fmtAdmitted (f : Nat) : Bool := !(f == 5 || f == 6 || f == 7 || f == 11 || f == 15)

def fmtInClass (c : FmtClass) (f param : Nat) : Bool :=
  match c with
  | .arith => fmtAdmitted f && !(f == 3 || f == 4)
  | .float => decide (f < 3)
  | .int => fmtAdmitted f && decide (8 ≤ f)
  | .width => fmtAdmitted f
  | .none => f == 0
  | .cvt => fmtAdmitted f && (decide (f < 8) || decide (param % 16 < 8))
  | .fp32 => f == 0

/-- The configuration of one node. -/
structure NodeCfg where
  op : Nat
  fmt : Nat
  param : Nat
  param2 : Nat
  emode : Nat
  repc : W32
  /-- selectors of A, B and C; 0x3F for an unbound one -/
  src : List Nat
  /-- FPCTL latched at PLANEON (03 R42) -/
  fpctl : W64

def NodeCfg.bound (c : NodeCfg) (i : Nat) : Bool := c.src.getD i 0x3F != 0x3F
/-- Width of an element in bits. -/
def fmtWidth (f : Nat) : Nat := match fmtOf f with
  | some g => g.width
  | none => intWidth f
def NodeCfg.w (c : NodeCfg) : Nat := fmtWidth c.fmt

/-! ### Tokens (18 R300) -/

def errToken (code : BitVec 8) (eidx : Nat) : Token :=
  { elems := [Config.emptyElem], empty := 1, eor := true, last := true, err := true, code := code,
    eidx := BitVec.ofNat 12 eidx }
/-- A token of one empty element with the row's flags. -/
def flagToken (eor last : Bool) : Token := { elems := [Config.emptyElem], empty := 1, eor := eor, last := last }
def abortToken : Token := { elems := [Config.emptyElem], empty := 1, eor := true, abort := true }

/-- A token of elements with their emptiness. -/
def mkToken (l : List (W32 × Bool)) (eor last : Bool) : Token :=
  { elems := l.map (·.1), eor := eor, last := last
    empty := BitVec.ofNat 8 (l.zipIdx.foldl (fun acc p => acc + bitAt p.1.2 p.2) 0) }

/-- Elements in tokens of up to 8, the flags on the last of them. -/
def tokensOf (l : List (W32 × Bool)) (eor last : Bool) : List Token :=
  let n := cdiv l.length 8
  (List.range n).map fun i => mkToken ((l.drop (8 * i)).take 8) (eor && i + 1 == n) (last && i + 1 == n)

/-- Take `n` elements from the head of a channel; the flags stay with the last element (18 R300). -/
def takeElems (n : Nat) : List Token → List Token
  | [] => []
  | t :: rest =>
    if t.elems.length ≤ n then rest
    else { t with elems := t.elems.drop n, empty := t.empty >>> n } :: rest

/-- An element as a node sees it: its word, whether it is empty, and the elements of the head up to and with it. -/
structure Seen where
  v : W32
  e : Bool
  raw : Nat
  deriving DecidableEq, Repr

/-- A head under the mode of input `i` (18 R301). -/
def viewOf (c : NodeCfg) (i : Nat) (t : Token) : List Seen :=
  let mode := c.emode / 4 ^ i % 4
  t.elems.zipIdx.filterMap fun p =>
    let e := t.empty.getLsbD p.2
    if e && mode == 1 then none
    else if e && mode == 2 then some { v := c.repc, e := false, raw := p.2 + 1 }
    else some { v := p.1, e := e, raw := p.2 + 1 }

/-- A whole token under the mode of input A; none when every element is absorbed and it carries no flag. -/
def viewToken (c : NodeCfg) (t : Token) : Option Token :=
  if t.err || t.abort then some t
  else
    match viewOf c 0 t with
    | [] => if t.eor || t.last then some (flagToken t.eor t.last) else none
    | l => some (mkToken (l.map fun x => (x.v, x.e)) t.eor t.last)

/-! ### One position (18 R321, R322) -/

def wordOf (n : Nat) : W32 := w32 n

/-- The low bits of a signed or natural result. -/
def wrapTo (w : Nat) (i : Int) : W32 := w32 (i % (2 ^ w : Nat)).toNat

/-- Integer formats: the result of an arithmetic node. -/
def intElem (c : NodeCfg) (a b d : W32) : W32 :=
  let w := c.w
  let sg := intSigned c.fmt
  let x := asInt sg w a.toNat
  let y := asInt sg w b.toNat
  let z := asInt sg w d.toNat
  let m := wrapTo w
  match c.op with
  | 0 => m (x + y)
  | 1 => m (x - y)
  | 2 => m (x * y)
  | 3 => m (x * y + z)
  | 4 => m (if y < x then y else x)
  | 5 => m (if x < y then y else x)
  | 6 => m (if x < 0 then -x else x)
  | 7 => m (-x)
  | 11 | 12 =>
    let k := if c.bound 1 then b.toNat % 2 ^ w else c.param % 64
    if c.op == 11 then (if w ≤ k then 0 else m (x * (2 ^ k : Nat)))
    else if w ≤ k then m (if x < 0 then -1 else 0)
    else m (x / (2 ^ k : Nat))
  | _ =>
    let lo := asInt sg w c.param
    let hi := asInt sg w c.param2
    let t := if x < lo then lo else x
    m (if hi < t then hi else t)

/-- Float formats: the result of an arithmetic node, rounded in the plane's mode. -/
def floatElem (c : NodeCfg) (f : Fmt) (r : Rnd) (a b d : Nat) : Nat × Rnd :=
  match c.op with
  | 0 => fAdd f r a b
  | 1 => fSub f r a b
  | 2 => fMul f r a b
  | 3 => fFma f r a b d
  | 4 => (minmax f false a b, r)
  | 5 => (minmax f true a b, r)
  | 6 => (fAbs f a, r)
  | 7 => (fNeg f a, r)
  | 16 => fExp2 f r a
  | 17 => fLog2 f r a
  | 18 => fRcp f r a
  | 19 => fRsq f r a
  | 20 => fTanh f r a
  | 21 => fSigm f r a
  | _ =>
    if f.decode a = .nan then (f.nanCode, r)
    else (minmax f false (minmax f true a (c.param % 2 ^ f.width)) (c.param2 % 2 ^ f.width), r)

/-- One element of a per-position node. -/
def nodeElem (c : NodeCfg) (r : Rnd) (a b d : W32) : W32 × Rnd :=
  let m := 2 ^ c.w
  match c.op with
  | 8 => (w32 ((a &&& b).toNat % m), r)
  | 9 => (w32 ((a ||| b).toNat % m), r)
  | 10 => (w32 ((a ^^^ b).toNat % m), r)
  | 13 =>
    let (v, r) := convert (c.param % 16) c.fmt r a.toNat
    (w32 (v % 2 ^ fmtWidth (c.param % 16)), r)
  | 22 =>
    let hit := match fmtOf c.fmt with
      | some f => fcmpRel f (c.param % 8) (a.toNat % m) (b.toNat % m)
      | none => cmpRel (c.fmt - 8) (c.param % 8) (a.setWidth 64) (b.setWidth 64)
    (if hit then 1 else 0, r)
  | 23 => (if a != 0 then b else d, r)
  | 36 => (a, r)
  | _ =>
    match fmtOf c.fmt with
    | some f => let (v, r) := floatElem c f r (a.toNat % m) (b.toNat % m) (d.toNat % m); (w32 v, r)
    | none => (intElem c a b d, r)

/-! ### A firing -/

/-- What a firing leaves: node state, generator, the three input channels, flags that leave with its tokens, and the
tokens that it emits now on outputs 0 and 1. -/
structure Fired where
  st : NodeState
  gen : W32
  chans : List (List Token)
  fl : Nat := 0
  out0 : Option Token := none
  out1 : Option Token := none

/-- The state of a node whose row has ended or been discarded. -/
def freshRow (st : NodeState) : NodeState :=
  { st with acc := none, bufA := [], bufB := [], pos := 0, rows := 0, rowDone := false, rowLast := false, endB := false, lastB := false,
            fl := 0 }

/-- The row in progress has ended on input `i`, and with it, when it was the last, its stream (log 32). -/
def NodeState.rowEnded (st : NodeState) (i : Nat) : Bool := (i == 0 && st.rowDone) || (i == 1 && st.endB)
def NodeState.streamEnded (st : NodeState) (i : Nat) : Bool :=
  (i == 0 && st.rowDone && st.rowLast) || (i == 1 && st.endB && st.lastB)

/-- Emit on the outputs: the first token of each now, the rest later; no firing when an output that it emits on has no
room (18 R302). -/
def emit (room0 room1 : Bool) (x : Fired) (l0 l1 : List Token) : Option Fired :=
  if (!l0.isEmpty && !room0) || (!l1.isEmpty && !room1) then none
  else some { x with out0 := l0.head?, out1 := l1.head?, st := { x.st with out0 := l0.tail, out1 := l1.tail } }

/-- The error tokens of a node, and the streams that it discards from now on (18 R303). A stream whose last row the node has
taken already has ended (log 32). -/
def failNode (c : NodeCfg) (st : NodeState) (gen : W32) (chans : List (List Token)) (room0 room1 : Bool)
    (code : BitVec 8) (eidx : Nat) : Option Fired :=
  let two := (nodeSpec c.op).outs == 2
  let disc := (List.range 3).foldl (fun acc i =>
    if c.bound i && !st.streamEnded i then
      (match (chans.getD i []).head? with
       | some h => if h.last then acc else acc + 2 ^ i
       | none => acc + 2 ^ i)
    else acc) 0
  let t := errToken code eidx
  let chans := chans.zipIdx.map fun p => if st.streamEnded p.2 then p.1 else p.1.tail
  let st := { freshRow st with disc := BitVec.ofNat 3 disc, discRow := 0 }
  emit room0 room1 { st := st, gen := gen, chans := chans } [t] (if two then [t] else [])

/-- A row abort: the rest of the row in progress is discarded on every input (18 R303). -/
def abortNode (c : NodeCfg) (st : NodeState) (gen : W32) (chans : List (List Token)) (room0 room1 : Bool) :
    Option Fired :=
  let two := (nodeSpec c.op).outs == 2
  let disc := (List.range 3).foldl (fun acc i =>
    if c.bound i && !st.rowEnded i then
      (match (chans.getD i []).head? with
       | some h => if h.eor then acc else acc + 2 ^ i
       | none => acc + 2 ^ i)
    else acc) 0
  let chans := chans.zipIdx.map fun p => if st.rowEnded p.2 then p.1 else p.1.tail
  let st := { freshRow st with discRow := BitVec.ofNat 3 disc }
  emit room0 room1 { st := st, gen := gen, chans := chans } [abortToken] (if two then [abortToken] else [])

/-- Discard one head on each input whose stream or row is being discarded; none when nothing is there to discard. -/
def discardNode (st : NodeState) (gen : W32) (chans : List (List Token)) : Option Fired :=
  let go (i : Nat) (l : List Token) : Bool := (st.disc.getLsbD i || st.discRow.getLsbD i) && !l.isEmpty
  if !(chans.zipIdx.any fun p => go p.2 p.1) then none
  else
    let ends (f : Token → Bool) (b : BitVec 3) : BitVec 3 := chans.zipIdx.foldl (fun b p =>
      match p.1.head? with
      | some h => if go p.2 p.1 && f h then b &&& ~~~(BitVec.ofNat 3 (2 ^ p.2)) else b
      | none => b) b
    some { st := { st with disc := ends (·.last) st.disc, discRow := ends (·.eor) st.discRow }, gen := gen,
           chans := chans.zipIdx.map fun p => if go p.2 p.1 then p.1.tail else p.1 }

/-- The k elements that a firing takes from each bound input, whether they end the row, and the channels without them:
`none` when the inputs disagree on EOR (18 R302). -/
structure Taken where
  cols : List (List Seen)
  k : Nat
  fin : Bool
  last : Bool
  chans : List (List Token)
  bad : Bool

def takeInputs (c : NodeCfg) (chans : List (List Token)) : Taken :=
  let act := (List.range 3).filter fun i => c.bound i
  let views := chans.zipIdx.map fun p => match p.1.head? with
    | some h => viewOf c p.2 h
    | none => []
  let heads := chans.map fun l => l.headD (flagToken false false)
  let view (i : Nat) : List Seen := views.getD i []
  let k := act.foldl (fun m i => Nat.min m (view i).length) 4
  let whole (i : Nat) : Bool := k == (view i).length
  let head (i : Nat) : Token := heads.getD i (flagToken false false)
  let ends := act.map fun i => whole i && (head i).eor
  let fin := !act.isEmpty && ends.all id
  let idle := k == 0 && !ends.any id
  let chans' := chans.zipIdx.map fun p =>
    let i := p.2
    if !c.bound i then p.1
    else if idle then (if (view i).isEmpty then p.1.tail else p.1)
    else if whole i then p.1.tail
    else takeElems (match (view i)[k - 1]? with
      | some x => if k == 0 then 0 else x.raw
      | none => 0) p.1
  { cols := views.map (·.take k), k := k, fin := fin, last := act.any fun i => whole i && (head i).last
    chans := chans', bad := ends.any id && !fin }

def seenAt (t : Taken) (i j : Nat) : Seen := (t.cols.getD i []).getD j { v := 0, e := false, raw := 0 }

/-- A per-position node (18 R302, R321): the result at a position with an empty element is empty. The answer is the
elements, or the position and code of a trap. -/
def elemRow (c : NodeCfg) (t : Taken) (r : Rnd) : List Nat → Except (Nat × BitVec 8 × W32) (List (W32 × Bool) × Rnd)
  | [] => .ok ([], r)
  | j :: rest =>
    let a := seenAt t 0 j
    let b := seenAt t 1 j
    let d := seenAt t 2 j
    if a.e || b.e || d.e || (c.op == 36 && b.v == 0) then
      match elemRow c t r rest with
      | .ok (l, r) => .ok ((Config.emptyElem, true) :: l, r)
      | .error e => .error e
    else
      let (v, r1) := nodeElem c { r with fl := 0 } a.v b.v d.v
      match fpTrap c.fpctl r1.fl with
      | some code => .error (j, code, r1.gen)
      | none =>
        match elemRow c t { r1 with fl := orFl r.fl r1.fl } rest with
        | .ok (l, r) => .ok ((v, false) :: l, r)
        | .error e => .error e

/-- One step of a reduction (03 R52, 18 R323). -/
def stepAcc (c : NodeCfg) (r : Rnd) (acc : Option W32) (a b : W32) : W32 × Rnd :=
  let m := 2 ^ c.w
  if c.op == 35 then (acc.getD 0 + (if a.toNat % m == 0 then 0 else 1), r)
  else
    match fmtOf c.fmt with
    | some f =>
      let x := a.toNat % m
      let y := b.toNat % m
      let (v, r) := match acc with
        -- e_0 unrounded, but that every NaN result is the canonical one (03 R33)
        | none => if c.op == 34 then fMul f r x y else if f.decode x == .nan then (f.nanCode, r) else (x, r)
        | some z =>
          if c.op == 34 then fFma f r x y z.toNat
          else if c.op == 28 && c.param % 4 != 0 then (minmax f (c.param % 4 == 2) z.toNat x, r)
          else fAdd f r z.toNat x
      (w32 v, r)
    | none =>
      let op := if c.op == 34 then 3 else if c.op == 28 && c.param % 4 != 0 then 3 + c.param % 4 else 0
      match acc with
      | none => if c.op == 34 then (intElem { c with op := 2 } a b 0, r) else (w32 (a.toNat % m), r)
      | some z => if op == 3 then (intElem { c with op := 3 } a b z, r) else (intElem { c with op := op } z a 0, r)

/-- The steps of a firing: an empty element takes none. The answer is the accumulator after each step. -/
def redRow (c : NodeCfg) (t : Taken) (r : Rnd) (acc : Option W32) :
    List Nat → Except (Nat × BitVec 8 × W32) (List W32 × Option W32 × Rnd)
  | [] => .ok ([], acc, r)
  | j :: rest =>
    let a := seenAt t 0 j
    let b := seenAt t 1 j
    if a.e || b.e then redRow c t r acc rest
    else
      let (v, r1) := stepAcc c { r with fl := 0 } acc a.v b.v
      match fpTrap c.fpctl r1.fl with
      | some code => .error (j, code, r1.gen)
      | none =>
        match redRow c t { r1 with fl := orFl r.fl r1.fl } (some v) rest with
        | .ok (l, acc, r) => .ok (v :: l, acc, r)
        | .error e => .error e

/-- The mask words of a list of positions, 32 to a word, the last padded with 0 (18 R325). -/
def maskWords (bits : List Bool) : List W32 :=
  (List.range (cdiv bits.length 32)).map fun i =>
    w32 ((((bits.drop (32 * i)).take 32).zipIdx).foldl (fun acc p => acc + bitAt p.1 p.2) 0)

/-- The elements of a firing on one input. -/
def takenOn (t : Taken) (i : Nat) : List (W32 × Bool) := (t.cols.getD i []).map fun x => (x.v, x.e)

/-- vqnt's block as two tokens of 8 words (18 R324). -/
def blockTokens (c : NodeCfg) (seg : List (W32 × Bool)) (eor last : Bool) : List Token :=
  let n := blockElems (c.param % 256)
  let f := (fmtOf c.fmt).getD .fp32
  let vals := (List.range n).map fun i => match seg[i]? with
    | some (v, false) => some (f.decode (v.toNat % 2 ^ f.width))
    | _ => none
  let b := quantise (c.param % 256) (c.param / 256 % 8) vals
  let word (i : Nat) : W32 × Bool := (w32 (((b.drop (4 * i)).take 4).foldr (fun x acc => x.toNat + 256 * acc) 0), false)
  [mkToken ((List.range 8).map word) false false, mkToken ((List.range 8).map (fun i => word (8 + i))) eor last]

/-- The bytes of 16 words. -/
def wordsBytes (l : List W32) : List Byte :=
  l.flatMap fun w => (List.range 4).map fun i => BitVec.ofNat 8 (w.toNat / 256 ^ i)

/-- The block that starts at word `16 i` of a row's words. -/
def blockAt (ws : List W32) (i : Nat) : List Byte := wordsBytes ((ws.drop (16 * i)).take 16)

/-- vdqnt's row so far: a complete block that is malformed or that disagrees with the first, or a block too many; at the
row's end a count that differs. The answer is the code and the position of the failing word (18 R324). -/
def dequantBad (param : Nat) (ws : List W32) (fin : Bool) : Option (BitVec 8 × Nat) :=
  let nb := ws.length / 16
  let fmtAt (i : Nat) : Nat := ((blockAt ws i).getD 0 0).toNat
  let want := cdiv param (blockElems (fmtAt 0))
  match (List.range nb).find? fun i => blockBad (blockAt ws i) || blockElems (fmtAt i) != blockElems (fmtAt 0) with
  | some i => some (0x24, 16 * i)
  | none =>
    if 0 < nb && want < nb then some (0x28, 16 * want)
    else if fin && (nb == 0 || nb != want || ws.length % 16 != 0) then some (0x28, ws.length)
    else none

/-- vdqnt's row: the decoded values in FP32, or the error (18 R324). -/
def dequantRow (param : Nat) (ws : List W32) (fin : Bool) : Except (BitVec 8 × Nat) (List (W32 × Bool)) :=
  match dequantBad param ws fin with
  | some e => .error e
  | none =>
    let per := blockElems ((blockAt ws 0).getD 0 0).toNat
    if !fin then .ok []
    else .ok ((List.range param).map fun k =>
      let (c, _) := roundTo .fp32 true { mode := 0, sat := false, gen := 0 } (blockElem (blockAt ws (k / per)) (k % per))
      (w32 c, false))

/-- An expanded row: an element for each set bit; `none` where the counts differ. -/
def expandRow : List Bool → List (W32 × Bool) → Option (List (W32 × Bool))
  | [], [] => some []
  | [], _ :: _ => none
  | false :: m, l => (expandRow m l).map ((Config.emptyElem, true) :: ·)
  | true :: _, [] => none
  | true :: m, x :: l => (expandRow m l).map (x :: ·)

/-- Bits 0 to n-1 of mask words. -/
def maskBits (n : Nat) (ws : List W32) : List Bool := (List.range n).map fun j => (ws.getD (j / 32) 0).getLsbD (j % 32)

/-- The elements seen on input `i` of the head, none past its EOR. -/
def headView (c : NodeCfg) (chans : List (List Token)) (i : Nat) : Option (List Seen × Token) :=
  (chans.getD i []).head?.map fun h => (viewOf c i h, h)

/-- Replace channel `i`. -/
def setAt (l : List (List Token)) (i : Nat) (v : List Token) : List (List Token) := l.set i v

/-- The whole of a head's elements go into a row buffer. -/
def wholeRow (l : List Seen) : List (W32 × Bool) := l.map fun x => (x.v, x.e)

/-- vpack: the tokens of a channel that one firing takes, after the first: within 8 elements, none but the last with EOR
(18 R328). -/
def packMore (c : NodeCfg) (acc : Token) : List Token → Token × List Token
  | [] => (acc, [])
  | t :: rest =>
    if acc.eor || t.err || t.abort then (acc, t :: rest)
    else
      -- an element absorbed is not there, whatever flags its token carries
      let v := viewOf c 0 t
      let x := mkToken (v.map fun x => (x.v, x.e)) t.eor t.last
      if 8 < acc.elems.length + v.length then (acc, t :: rest)
      else packMore c { acc with elems := acc.elems ++ x.elems
                                 empty := acc.empty ||| (x.empty <<< acc.elems.length)
                                 eor := t.eor, last := acc.last || t.last } rest

/-! ### vxpnd (18 R325) -/

/-- What a firing of vxpnd takes: a mask word when the last one is used up, and the next token of A when at most one element of
it is left. Once the row's mask words are there, B must end. The answer may be the position of a failure: a mask row that ends
early, or one that goes on. -/
def xpndTake (c : NodeCfg) (st : NodeState) (chans : List (List Token)) : Except Nat (NodeState × List (List Token)) :=
  let n := c.param % 8192
  let need := cdiv n 32
  let mask : Except Nat (NodeState × List (List Token)) :=
    if st.endB then (if st.rows < need && st.pos == 32 * st.rows then .error st.pos else .ok (st, chans))
    else if st.pos < 32 * st.rows && st.rows < need then .ok (st, chans)
    else
      match headView c chans 1 with
      | none => .ok (st, chans)
      | some (v, h) =>
        let chanB := chans.getD 1 []
        match v with
        | [] => .ok ({ st with endB := h.eor, lastB := h.last }, setAt chans 1 chanB.tail)
        | x :: rest =>
          if st.rows == need then .error n
          else
            let st := { st with bufB := [(x.v, x.e)], rows := st.rows + 1 }
            if rest.isEmpty then .ok ({ st with endB := h.eor, lastB := h.last }, setAt chans 1 chanB.tail)
            else .ok (st, setAt chans 1 (takeElems x.raw chanB))
  match mask with
  | .error e => .error e
  | .ok (st, chans) =>
    if st.rowDone || decide (1 < st.bufA.length) then .ok (st, chans)
    else
      match headView c chans 0 with
      | none => .ok (st, chans)
      | some (v, h) => .ok ({ st with bufA := st.bufA ++ wholeRow v, rowDone := h.eor, rowLast := h.last },
          setAt chans 0 (chans.getD 0 []).tail)

/-- What of some positions can be expanded: an A element for each set bit, as long as there is one. -/
def xpndSome : List Bool → List (W32 × Bool) → List (W32 × Bool) × List (W32 × Bool)
  | [], l => ([], l)
  | false :: m, l => let (r, l) := xpndSome m l; ((Config.emptyElem, true) :: r, l)
  | true :: _, [] => ([], [])
  | true :: m, x :: l => let (r, l) := xpndSome m l; (x :: r, l)

/-- What a firing of vxpnd emits: up to four positions, the last position of the row when both rows have ended. The answer may be
the position of a failure: a set bit without an element, or an element too many. -/
def xpndEmit (c : NodeCfg) (st : NodeState) : Except Nat (Option (NodeState × Token)) :=
  let n := c.param % 8192
  let word : W32 := match st.bufB with
    | (w, e) :: _ => if e then 0 else w
    | [] => 0
  let fits := Nat.min 4 (Nat.min n (32 * st.rows) - st.pos)
  -- the last position waits until both rows have ended
  let m := if st.pos + fits == n && !(st.rowDone && st.endB) then fits - 1 else fits
  let (l, left) := xpndSome ((List.range m).map fun i => word.getLsbD ((st.pos + i) % 32)) st.bufA
  let pos := st.pos + l.length
  if l.isEmpty then
    (if m != 0 && st.rowDone then .error st.pos
     else if m == 0 && fits != 0 && decide (1 < st.bufA.length) then .error n else .ok none)
  else if pos == n then
    (if left.isEmpty then .ok (some (freshRow st, mkToken l true (st.rowLast || st.lastB))) else .error n)
  else .ok (some ({ st with bufA := left, pos := pos }, mkToken l false false))

/-- vxpnd: the elements of A go to the set bits of B's mask words as both arrive. -/
def fireExpand (c : NodeCfg) (st : NodeState) (gen : W32) (chans : List (List Token)) (room0 : Bool) : Option Fired :=
  match xpndTake c st chans with
  | .error e => failNode c st gen chans room0 true 0x28 e
  | .ok (st', chans') =>
    match xpndEmit c st' with
    | .error e => failNode c st' gen chans' room0 true 0x28 e
    | .ok none => if chans' == chans then none else some { st := st', gen := gen, chans := chans' }
    | .ok (some (x, t)) => emit room0 true { st := x, gen := gen, chans := chans' } [t] []

/-- The per-row nodes that buffer a row of one input before they use the other: vrpt and vshuf. -/
def fireBuffered (c : NodeCfg) (st : NodeState) (gen : W32) (chans : List (List Token)) (room0 : Bool) :
    Option Fired :=
  let keep (st : NodeState) (ch : List (List Token)) : Option Fired := some { st := st, gen := gen, chans := ch }
  let fail (e : Nat) : Option Fired := failNode c st gen chans room0 true 0x28 e
  let chanA := chans.getD 0 []
  let limit := if c.op == 26 then 1024 else c.param % 512
  if !st.rowDone then
    match headView c chans 0 with
    | none => none
    | some (v, h) =>
      let buf := st.bufA ++ wholeRow v
      if limit < buf.length || (c.op == 29 && h.eor && buf.length != limit) then fail (Nat.min buf.length limit)
      else keep { st with bufA := buf, rowDone := h.eor, rowLast := st.rowLast || h.last } (setAt chans 0 chanA.tail)
  else
    match headView c chans 1 with
    | none => none
    | some (v, h) =>
      let chanB := chans.getD 1 []
      match c.op with
      | 26 =>
        -- vrpt: one element of B is the count
        (match v with
         | [] => keep st (setAt chans 1 chanB.tail)
         | x :: _ =>
           let n := if x.e then 0 else x.v.toNat
           let rest := setAt chans 1 (takeElems (if v.length == 1 then h.elems.length else x.raw) chanB)
           let row (last : Bool) : List Token := tokensOf st.bufA true last
           if st.bufA.isEmpty then
             emit room0 true { st := freshRow st, gen := gen, chans := rest }
               ((List.range n).map fun i => flagToken true (st.rowLast && i + 1 == n)) []
           else
             -- repetitions left are counted in `rows`; the count is taken with the last one
             let done := st.rows + 1
             if n == 0 then keep (freshRow st) rest
             else if done < n then emit room0 true { st := { st with rows := done }, gen := gen, chans := chans } (row false) []
             else emit room0 true { st := freshRow st, gen := gen, chans := rest } (row st.rowLast) [])
      | _ =>
        -- vshuf: up to 4 indices of B
        (let k := Nat.min 4 v.length
         let fin := h.eor && k == v.length
         let idx := v.take k
         let last := h.last && k == v.length
         let rest := setAt chans 1 (if k == v.length then chanB.tail else
           takeElems (match v[k - 1]? with
             | some x => x.raw
             | none => 0) chanB)
         match findIdx (fun x : Seen => !x.e && decide (limit ≤ x.v.toNat)) idx with
         | some j => fail (st.pos + j)
         | none =>
           let l := idx.map fun x => if x.e then (Config.emptyElem, true) else st.bufA.getD x.v.toNat (Config.emptyElem, true)
           let st' := if fin then freshRow st else { st with pos := st.pos + k }
           let flags := last || (fin && st.rowLast)
           if l.isEmpty then
             (if fin then emit room0 true { st := st', gen := gen, chans := rest } [flagToken true flags] []
              else keep st' rest)
           else emit room0 true { st := st', gen := gen, chans := rest } [mkToken l fin flags] [])

/-- A node whose heads are all ordinary tokens. -/
def fireRow (c : NodeCfg) (st : NodeState) (gen : W32) (chans : List (List Token)) (room0 room1 : Bool) :
    Option Fired :=
  let t := takeInputs c chans
  let fail (code : BitVec 8) (e : Nat) (g : W32) : Option Fired := failNode c st g chans room0 room1 code e
  let js := List.range t.k
  let r : Rnd := Rnd.of c.fpctl gen
  let pos' := if t.fin then 0 else st.pos + t.k
  if t.bad then fail 0x28 (st.pos + t.k - 1) gen
  else if t.k == 0 && !t.fin then some { st := st, gen := gen, chans := t.chans }
  else
    match c.op with
    | 27 | 28 | 34 | 35 =>
      (match redRow c t r st.acc js with
       | .error (j, code, g) => fail code (st.pos + j) g
       | .ok (steps, acc, r) =>
         let fl := orFl st.fl r.fl
         let st' := { st with acc := if t.fin then none else acc, pos := pos', fl := 0 }
         if c.op == 27 then
           (if steps.isEmpty then
              (if t.fin then emit room0 room1 { st := st', gen := r.gen, chans := t.chans, fl := fl }
                 [flagToken true t.last] []
               else some { st := { st' with fl := fl }, gen := r.gen, chans := t.chans })
            else emit room0 room1 { st := st', gen := r.gen, chans := t.chans, fl := fl }
              [mkToken (steps.map fun v => (v, false)) t.fin t.last] [])
         else if t.fin then
           emit room0 room1 { st := st', gen := r.gen, chans := t.chans, fl := fl }
             [mkToken [(acc.getD 0, false)] true t.last] []
         else some { st := { st' with fl := fl }, gen := r.gen, chans := t.chans })
    | 14 =>
      let n := blockElems (c.param % 256)
      let buf := st.bufA ++ takenOn t 0
      let early := if n < buf.length then blockTokens c (buf.take n) false false else []
      let buf := if n < buf.length then buf.drop n else buf
      if t.fin then
        emit room0 room1 { st := freshRow st, gen := gen, chans := t.chans } (early ++ blockTokens c buf true t.last) []
      else emit room0 room1 { st := { st with bufA := buf, pos := pos' }, gen := gen, chans := t.chans } early []
    | 15 =>
      (let ws := st.bufA ++ (takenOn t 0).filter fun x => !x.2
       match dequantRow (c.param % 65536) (ws.map (·.1)) t.fin with
       | .error (code, e) => fail code e gen
       | .ok l =>
         if t.fin then emit room0 room1 { st := freshRow st, gen := gen, chans := t.chans } (tokensOf l true t.last) []
         else some { st := { st with bufA := ws, pos := pos' }, gen := gen, chans := t.chans })
    | 24 =>
      let pick (j : Nat) : Bool :=
        let a := seenAt t 0 j
        let b := seenAt t 1 j
        !a.e && (if c.bound 1 then !b.e && b.v != 0 else a.v.toNat % 2 ^ c.w != 0)
      let sel := (js.filter pick).map fun j => (w32 ((seenAt t 0 j).v.toNat % 2 ^ c.w), false)
      -- the mask bits of the row not yet emitted; a whole word stays until the row is known to go on
      let bits := st.bufB ++ js.map fun j => ((0 : W32), pick j)
      let all := bits.map (·.2)
      let whole := if t.fin then all.length else if 32 < all.length then 32 else 0
      let words := maskWords (all.take whole)
      let l0 := if !sel.isEmpty then [mkToken sel t.fin t.last] else if t.fin then [flagToken true t.last] else []
      let l1 := if !words.isEmpty then [mkToken (words.map fun w => (w, false)) t.fin t.last]
        else if t.fin then [flagToken true t.last] else []
      emit room0 room1 { st := { st with bufB := if t.fin then [] else bits.drop whole, pos := pos' }, gen := gen,
                         chans := t.chans } l0 l1
    | 30 =>
      (let dst (j : Nat) : Nat := if (seenAt t 1 j).e then 0 else (seenAt t 1 j).v.toNat
       match js.find? (fun j => decide (2 ≤ dst j)) with
       | some j => fail 0x28 (st.pos + j) gen
       | none =>
         let part (o : Nat) : List (W32 × Bool) := (js.filter fun j => dst j == o).map fun j =>
           let a := seenAt t 0 j
           if a.e || (seenAt t 1 j).e then (Config.emptyElem, true) else (a.v, false)
         let tail := if t.k == 0 then 2 else dst (t.k - 1)
         let flagged := t.fin || t.last
         let on (o : Nat) : List Token :=
           let p := part o
           let own := if p.isEmpty then [] else [mkToken p (t.fin && tail == o) (t.last && tail == o)]
           if flagged && tail != o then own ++ [flagToken t.fin t.last] else own
         emit room0 room1 { st := { st with pos := pos' }, gen := gen, chans := t.chans } (on 0) (on 1))
    | _ =>
      match elemRow c t r js with
      | .error (j, code, g) => fail code (st.pos + j) g
      | .ok (l, r) =>
        emit room0 room1 { st := { st with pos := pos' }, gen := r.gen, chans := t.chans, fl := r.fl }
          [if l.isEmpty then flagToken t.fin t.last else mkToken l t.fin t.last] []

/-- Nodes that move whole tokens: vpack, vbcast, vdelay, vpass, and vconst, which has no input (18 R328). -/
def fireTokens (c : NodeCfg) (st : NodeState) (gen : W32) (chans : List (List Token)) (room0 room1 : Bool) :
    Option Fired :=
  let chanA := chans.getD 0 []
  match c.op with
  | 32 =>
    let len := c.param2 % 65536
    let rows := c.param2 / 65536 % 65536
    if st.rowDone || len == 0 then none
    else
      let n := Nat.min 4 (len - st.pos)
      let fin := len ≤ st.pos + n
      let ended := fin && rows != 0 && decide (rows ≤ st.rows + 1)
      emit room0 room1 { st := { st with pos := if fin then 0 else st.pos + n, rows := if fin then st.rows + 1 else st.rows,
                                         rowDone := ended }, gen := gen, chans := chans }
        [mkToken (List.replicate n (w32 (c.param % 2 ^ c.w), false)) fin ended] []
  | 31 =>
    (match chanA with
     | [] => none
     | h :: rest =>
       if h.err || h.abort then emit room0 room1 { st := st, gen := gen, chans := setAt chans 0 rest } [h] []
       else
         match viewToken c h with
         | none => some { st := st, gen := gen, chans := setAt chans 0 rest }
         | some v =>
           let (t, left) := packMore c v rest
           emit room0 room1 { st := st, gen := gen, chans := setAt chans 0 left } [t] [])
  | _ =>
    match chanA with
    | [] => none
    | h :: rest =>
      let x : Fired := { st := st, gen := gen, chans := setAt chans 0 rest }
      match viewToken c h with
      | none => some x
      | some v => emit room0 room1 x [v] (if c.op == 33 then [v] else [])

/-- vdelay: up to PARAM tokens are held, the oldest leaves when its output has room (18 R328). -/
def fireDelay (c : NodeCfg) (st : NodeState) (gen : W32) (chans : List (List Token)) (room0 : Bool) : Option Fired :=
  let chanA := chans.getD 0 []
  let out := if room0 then st.out0.head? else none
  let held := if room0 then st.out0.tail else st.out0
  match chanA with
  | h :: rest =>
    if held.length < c.param % 64 then
      some { st := { st with out0 := held ++ (viewToken c h).toList }, gen := gen, chans := setAt chans 0 rest, out0 := out }
    else if out.isSome then some { st := { st with out0 := held }, gen := gen, chans := chans, out0 := out }
    else none
  | [] => if out.isSome then some { st := { st with out0 := held }, gen := gen, chans := chans, out0 := out } else none

/-- One firing of a node, `none` when it cannot fire (18 R302, R303): tokens still to be emitted leave first, then
streams and rows are discarded, then an error or abort token is answered, and then the node does its work. -/
def fireNode (c : NodeCfg) (st : NodeState) (gen : W32) (chans : List (List Token)) (room0 room1 : Bool) :
    Option Fired :=
  if 40 ≤ c.op then none
  else if c.op == 37 then fireDelay c st gen chans room0
  else if !(st.out0.isEmpty && st.out1.isEmpty) then
    (let o0 := if room0 then st.out0.head? else none
     let o1 := if room1 then st.out1.head? else none
     if o0.isNone && o1.isNone then none
     else some { st := { st with out0 := if room0 then st.out0.tail else st.out0
                                 out1 := if room1 then st.out1.tail else st.out1 }, gen := gen, chans := chans
                 out0 := o0, out1 := o1 })
  else
    match discardNode st gen chans with
    | some x => some x
    | none =>
      -- a node that buffers rows receives from A until its row is whole, and then from B
      let rows := c.op == 26 || c.op == 29
      let live (i : Nat) : Bool := c.bound i && !st.rowEnded i && (!rows || i == (if st.rowDone then 1 else 0))
      let heads := (List.range 3).filterMap fun i => if live i then (chans.getD i []).head? else none
      -- it goes on with the next stream or row when every input has reached it
      if st.disc != 0 || st.discRow != 0 then none
      else if c.op == 31 || c.op == 32 || c.op == 33 || c.op == 38 then fireTokens c st gen chans room0 room1
      else
        match heads.find? (·.err) with
        | some h => failNode c st gen chans room0 room1 h.code h.eidx.toNat
        | none =>
          if heads.any (·.abort) then abortNode c st gen chans room0 room1
          else if c.op == 25 then fireExpand c st gen chans room0
          else if rows then fireBuffered c st gen chans room0
          else if (List.range 3).any fun i => c.bound i && (chans.getD i []).isEmpty then none
          else fireRow c st gen chans room0 room1

end Sys2Proof.Machine
end

