-- ==== Sys2Proof/Machine/Plane.lean ====
section
/-!
DEFINITION. Planes: configuration fields and channels (18 R304, R305), the firing of a plane and its arbiter (06 R102),
line channels (02 R23), the check of PLANEON (18 R306), and the instructions PLANEON, PLANEOFF and ARBW (18 R309).
-/

namespace Sys2Proof.Machine

/-! ### Fields and channels -/

def planeAt (f : FE) (pl : Nat) : PlaneState := vget {} f.planes pl
def modPl (pl : Nat) (g : PlaneState → PlaneState) (f : FE) : FE := { f with planes := vset f.planes pl (g (planeAt f pl)) }
def modPlane (fe pl : Nat) (g : PlaneState → PlaneState) (s : State) : State := modFe fe (modPl pl g) s

/-- Reset values of the fields (18 R304). -/
def fieldReset (n : Nat) : W32 :=
  if n < 0x80 then
    (match n % 8 with
     | 0 => 63
     | 1 | 2 | 3 => 0x3F
     | _ => 0)
  else if n < 0x98 then 0x3F
  else 0

def fieldAt (p : PlaneState) (n : Nat) : W32 := KV.get (fieldReset n) n p.fields
def fieldN (p : PlaneState) (n : Nat) : Nat := (fieldAt p n).toNat
def setField (n : Nat) (v : W32) (p : PlaneState) : PlaneState := { p with fields := KV.put (fieldReset n) n v p.fields }

/-- The configuration of node `n`. -/
def nodeCfg (p : PlaneState) (n : Nat) : NodeCfg :=
  { op := fieldN p (8 * n) % 64, fmt := fieldN p (8 * n) / 64 % 16, param := fieldN p (8 * n + 6)
    param2 := fieldN p (8 * n + 7), emode := fieldN p (8 * n + 4), repc := fieldAt p (8 * n + 5)
    src := [fieldN p (8 * n + 1), fieldN p (8 * n + 2), fieldN p (8 * n + 3)], fpctl := p.fpctl }

/-- The channel that a selector of a plane names (18 R305). -/
def chanOf (f : FE) (pl sel : Nat) : List Token :=
  if sel < 0x30 then KV.get [] sel (planeAt f pl).chans
  else if sel < 0x38 then KV.get [] sel f.lines
  else []

def setChan (pl sel : Nat) (l : List Token) (f : FE) : FE :=
  if sel < 0x30 then modPl pl (fun p => { p with chans := KV.put [] sel l p.chans }) f
  else if sel < 0x38 then { f with lines := KV.put [] sel l f.lines }
  else f

/-- Every selector that a plane's used nodes, sinks and line outputs name, with the field that names it. -/
def selectors (p : PlaneState) : List (Nat × Nat) :=
  (List.range 16).flatMap (fun n =>
    let c := nodeCfg p n
    if c.op == 63 then [] else (List.range 3).filterMap fun i => if c.bound i then some (c.src.getD i 0x3F, 8 * n + 1 + i) else none) ++
  (List.range 24).filterMap fun i =>
    let v := fieldN p (0x80 + i)
    if v == 0x3F then none else some (v, 0x80 + i)

def consumed (p : PlaneState) (sel : Nat) : Bool := (selectors p).any (fun e => e.1 == sel)

/-- A channel holds 4 tokens; an output that feeds nothing always has room, its tokens being dropped (log 33). -/
def roomOn (f : FE) (pl sel : Nat) : Bool := !consumed (planeAt f pl) sel || decide ((chanOf f pl sel).length < 4)

/-- Append a token to a channel that feeds something. -/
def pushTok (pl : Nat) (e : Nat × Token) (f : FE) : FE :=
  if consumed (planeAt f pl) e.1 then setChan pl e.1 (chanOf f pl e.1 ++ [e.2]) f else f

/-- The selector that feeds sink port `p`, and its channel. -/
def sinkSel (p : PlaneState) (port : Nat) : Nat := fieldN p (0x80 + port)
def sinkChan (f : FE) (pl port : Nat) : List Token := chanOf f pl (sinkSel (planeAt f pl) port)
def setSink (pl port : Nat) (l : List Token) (f : FE) : FE := setChan pl (sinkSel (planeAt f pl) port) l f

/-! ### Firing (18 R302, 06 R102) -/

/-- What node `n` of a plane does when it fires. -/
def fireAt (f : FE) (pl n : Nat) : Option Fired :=
  let p := planeAt f pl
  let c := nodeCfg p n
  fireNode c (KV.get {} n p.nodes) (vget 1 p.gens n)
    ((List.range 3).map fun i => if c.bound i then chanOf f pl (c.src.getD i 0x3F) else [])
    (roomOn f pl (0x10 + n)) (roomOn f pl (0x20 + n))

/-- Whether anything of a firing is visible: a node that finds nothing to do does not fire. -/
def canFire (f : FE) (pl n : Nat) : Bool := (fireAt f pl n).isSome

/-- A plane is runnable when it is on and a node of it can fire. -/
def runnable (f : FE) (pl : Nat) : Bool := (planeAt f pl).on && (List.range 16).any (canFire f pl)

/-- Fire every node that can: the FE, the flags that leave with tokens, and the tokens emitted. -/
def fireNodes (pl : Nat) : List Nat → FE → FE × Nat × List (Nat × Token)
  | [], f => (f, 0, [])
  | n :: rest, f =>
    match fireAt f pl n with
    | none => fireNodes pl rest f
    | some x =>
      let c := nodeCfg (planeAt f pl) n
      let f := (List.range 3).foldl (fun f i =>
        if c.bound i then setChan pl (c.src.getD i 0x3F) (x.chans.getD i []) f else f) f
      let f := modPl pl (fun p => { p with nodes := KV.put {} n x.st p.nodes, gens := vset p.gens n x.gen }) f
      let out := (x.out0.map fun t => (0x10 + n, t)).toList ++ (x.out1.map fun t => (0x20 + n, t)).toList
      let (f, fl, more) := fireNodes pl rest f
      (f, orFl x.fl fl, out ++ more)

/-- One firing of a plane; its flags go to the owner (03 R44). -/
def firePlane (fe pl : Nat) (s : State) : State :=
  let (f, fl, out) := fireNodes pl (List.range 16) (feAt s fe)
  let f := out.foldl (fun f e => pushTok pl e f) f
  let s := modFe fe (fun _ => f) s
  if fl == 0 then s else orFlags fe ((planeAt f pl).owner.getD 0) (w64 fl) s

/-! ### Lines (02 R23) -/

/-- One FE further in direction `d` (N, E, S, W; N towards lower y), on an express line up to its next tap: `none` at
the die edge. -/
def lineStep (express : Bool) (d x y : Nat) : Nat → Option (Nat × Nat)
  | 0 => none
  | n + 1 =>
    let next := match d with
      | 0 => if y == 0 then none else some (x, y - 1)
      | 1 => if 79 ≤ x then none else some (x + 1, y)
      | 2 => if 39 ≤ y then none else some (x, y + 1)
      | _ => if x == 0 then none else some (x - 1, y)
    match next with
    | none => none
    | some (a, b) =>
      if express && (if d % 2 == 0 then b else a) % 8 != 0 then lineStep express d a b n else some (a, b)

/-- The FE that a line leads to, passing through disabled ones (02 R17). -/
def lineTo (s : State) (express : Bool) (fe d : Nat) : Nat → Option Nat
  | 0 => none
  | n + 1 =>
    match lineStep express d (feX fe) (feY fe) 80 with
    | none => none
    | some (x, y) =>
      let g := feAtXY (feDie fe) x y
      if s.fused.contains g then lineTo s express g d n else some g

/-- The arriving selector at the other end: from direction `d`, channel `ch`. -/
def arriveSel (d ch : Nat) : Nat := 0x30 + 4 * ch + (d + 2) % 4

/-- The token that line output `i` (field 0x90 + i) of a plane has to send, and the FE and channel that it is for. -/
def lineHead (s : State) (fe pl i : Nat) : Option (Token × Nat × Nat) :=
  let f := feAt s fe
  let p := planeAt f pl
  let d := i % 4
  let ch := i / 4
  match p.on && !isEdge fe, chanOf f pl (fieldN p (0x90 + i)), lineTo s (ch == 0 && (fieldAt p 0x98).getLsbD d) fe d 80 with
  | true, t :: _, some g => some (t, g, arriveSel d ch)
  | _, _, _ => none

/-- Every line output of an FE, by plane and field. -/
def lineOuts : List (Nat × Nat) := (List.range 4).flatMap fun pl => (List.range 8).map fun i => (pl, i)

/-- Another FE whose injection has taken the starvation token sends to the same channel: it goes first (02 R23). -/
def starvedFirst (s : State) (fe g sel : Nat) : Bool := s.fes.any fun e =>
  e.2.starved && e.1 != fe && !isSaved e.1 && lineOuts.any fun o => match lineHead s e.1 o.1 o.2 with
    | some (_, g', sel') => g' == g && sel' == sel
    | none => false

/-- What a line output sends now: its channel has room, and no starved FE goes first. -/
def lineReady (s : State) (fe pl i : Nat) : Option (Token × Nat × Nat) :=
  match lineHead s fe pl i with
  | some (t, g, sel) =>
    if (KV.get [] sel (feAt s g).lines).length < 4 && ((feAt s fe).starved || !starvedFirst s fe g sel) then some (t, g, sel)
    else none
  | none => none

/-- A token leaves on a line; the starvation token of its FE is spent. -/
def sendLine (fe pl i : Nat) (s : State) : State :=
  match lineReady s fe pl i with
  | none => s
  | some (t, g, sel) =>
    let s := modFe fe (fun f =>
      let k := fieldN (planeAt f pl) (0x90 + i)
      { setChan pl k (chanOf f pl k).tail f with starved := false }) s
    modFe g (fun f => { f with lines := KV.put [] sel (KV.get [] sel f.lines ++ [t]) f.lines }) s

/-! ### The arbiter (06 R102) -/

/-- A hitch stops ports and nodes (11 R173): the job that holds an FE. -/
def feLive (s : State) (fe : Nat) : Bool :=
  isEdge fe || (match (feAt s fe).holder with
    | some c => !jobFrozen s c
    | none => true)

/-- Packets waiting in a plane's input channels. -/
def waitingOn (f : FE) (pl : Nat) : Nat :=
  let p := planeAt f pl
  (((selectors p).filter fun e => decide (e.2 < 0x80)).map fun e => (chanOf f pl e.1).length).foldl (· + ·) 0

/-- The weights of the runnable planes are added to their credits; the highest credit is chosen, ties going to the lowest
plane. -/
def pickPlane (a : Arbiter) (run : List Nat) : Option Nat × Vector Int 4 :=
  let cr := run.foldl (fun v p => vset v p (vget 0 v p + Int.ofNat (vget 0 a.weights p).toNat)) a.credits
  match run with
  | [] => (none, a.credits)
  | p :: rest =>
    let best := rest.foldl (fun b q => if vget 0 cr b < vget 0 cr q then q else b) p
    let sum := (run.map fun q => (vget 0 a.weights q).toNat).foldl (· + ·) 0
    (some best, vset cr best (vget 0 cr best - Int.ofNat sum))

/-- A cycle of an FE's epoch passes: the packets waiting at each plane are added up, for their mean. -/
def countCycle (fe : Nat) (s : State) : State :=
  if feLive s fe then
    modFe fe (fun f => if 1024 ≤ f.arb.cycle then f else { f with arb := { f.arb with
      cycle := f.arb.cycle + 1
      occ := (List.range 4).foldl (fun v p => vset v p (vget 0 v p + waitingOn f p)) f.arb.occ } }) s
  else s

/-- One cycle of the arbiter: at most one plane fires, and line outputs send. -/
def planeFire (fe : Nat) (s : State) : State :=
  let f := feAt s fe
  let a := f.arb
  if !feLive s fe || decide (1024 ≤ a.cycle) then s
  else
    let run := (List.range 4).filter (runnable f)
    let r := a.cycle % 16
    let (pick, credits) := if r % 4 == 0 && run.contains (r / 4) then (some (r / 4), a.credits) else pickPlane a run
    let s := countCycle fe (modFe fe (fun f => { f with arb := { f.arb with credits := credits } }) s)
    let s := match pick with
      | some p => firePlane fe p s
      | none => s
    each lineOuts (fun e s => sendLine fe e.1 e.2 s) s

def execPlaneFire (fe : Nat) (s : State) : Result := .next (planeFire fe s)

/-- The end of an epoch: unpinned weights are recomputed from the mean occupancy, credits are 0, and a new power mode
takes effect (27 R404). -/
def arbiterEpoch (fe : Nat) (s : State) : State :=
  let s := modFe fe (fun f => { f with arb := { f.arb with
    weights := (List.range 4).foldl (fun v p =>
      if f.arb.pins.getLsbD p then v
      else vset v p (BitVec.ofNat 8 (1 + Nat.min 254 (4 * vget 0 f.arb.occ p / 1024)))) f.arb.weights
    credits := Vector.replicate 4 0
    cycle := 0
    occ := Vector.replicate 4 0 } }) s
  powerEpoch s

def execArbiterEpoch (fe : Nat) (s : State) : Result := .next (arbiterEpoch fe s)

/-- Local injection ahead of passing traffic after 64 cycles of waiting (02 R23). -/
def execInjectionStarvation (fe : Nat) (s : State) : Result := .next (modFe fe (fun f => { f with starved := true }) s)

/-! ### Cascade line outputs (07 R110) -/

def cascAt (s : State) (c : Nat) : Option Cascade := KV.find c s.cascades

/-- Direction in which rows leave stage `k`: along the band, or to the next band. -/
def rowDir (span k : Nat) : Nat := if k % span + 1 == span then 2 else if k / span % 2 == 0 then 1 else 3

/-- The LOUT fields that name the line channels which an FE's bight unit feeds. -/
def bightLines (s : State) (f : FE) : List Nat :=
  match f.bight with
  | none => []
  | some b =>
    match cascAt s b.casc with
    | none => []
    | some c =>
      (if b.stage + 1 < c.d then [0x90 + rowDir c.span b.stage] else []) ++
      (if c.h == 0 then [] else
        -- N towards rank i - 1, S towards rank i + 1; the outer ranks meet, under wrap, on the same lines between them
        (if 0 < b.rank then [0x94] else []) ++ (if b.rank + 1 < c.rank then [0x96] else []))

/-! ### PLANEON's check (18 R306) -/

/-- The parameter field of a node that lies outside its range (18 R320). -/
def paramBad (c : NodeCfg) (n : Nat) : Option Nat :=
  let bad (b : Bool) (k : Nat) : Option Nat := if b then some (8 * n + k) else none
  let p := c.param
  match c.op with
  | 13 => bad (!fmtAdmitted (p % 16)) 6
  | 14 =>
    let f := p % 256
    let ty := p / 256 % 8
    bad (!(f == 0x41 || f == 0x81 || f == 0x82 || f == 0x83) || decide ((if f == 0x41 then 4 else 0) < ty)) 6
  | 15 => bad (p % 65536 == 0) 6
  | 22 => bad (decide ((if c.fmt < 8 then 6 else 5) < p % 8)) 6
  | 25 => bad (p % 8192 == 0 || decide (4096 < p % 8192)) 6
  | 28 => bad (p % 4 == 3) 6
  | 29 => bad (p % 512 == 0 || decide (256 < p % 512)) 6
  | 32 => bad (c.param2 % 65536 == 0) 7
  | 37 => bad (p % 64 == 0 || decide (32 < p % 64)) 6
  | 39 =>
    let below := match fmtOf c.fmt with
      | some f => ltFV true (f.decode (c.param2 % 2 ^ f.width)) (f.decode (p % 2 ^ f.width))
      | none => decide (asInt (intSigned c.fmt) c.w c.param2 < asInt (intSigned c.fmt) c.w p)
    bad below 7
  | _ => none

/-- The fields of node `n` that R306 finds at fault. -/
def nodeBad (p : PlaneState) (n : Nat) : List Nat :=
  let c := nodeCfg p n
  if c.op == 63 then []
  else
    let sp := nodeSpec c.op
    (if fmtInClass sp.cls c.fmt c.param then [] else [8 * n]) ++
    (List.range 3).filterMap (fun i =>
      let need := sp.req.testBit i
      let may := need || sp.opt.testBit i
      if (need && !c.bound i) || (!may && c.bound i) then some (8 * n + 1 + i) else none) ++
    (paramBad c n).toList

/-- The lowest field at fault of a plane's configuration, if any. -/
def planeBad (s : State) (f : FE) (pl : Nat) : Option Nat :=
  let p := planeAt f pl
  let sels := selectors p
  let nodes := (List.range 16).flatMap (nodeBad p)
  let shared := (sels.filter fun e => decide (1 < (sels.filter fun x => x.1 == e.1).length)).map (·.2)
  let lines := (List.range 8).filterMap fun i =>
    let used (q : PlaneState) : Bool := fieldN q (0x90 + i) != 0x3F
    if used p && ((List.range 4).any (fun q => q != pl && (planeAt f q).on && used (planeAt f q)) ||
        (bightLines s f).contains (0x90 + i)) then some (0x90 + i) else none
  (nodes ++ shared ++ lines).foldl (fun m x => match m with
    | none => some x
    | some y => some (Nat.min x y)) none

/-! ### PLANEON, PLANEOFF, ARBW (18 R309) -/

def execPlaneon (pl : Plane) (q : Sel) (s : State) : Result :=
  .next (issue 8 q (fun s h =>
    match planeBad s (feAt s s.curFe) pl.toNat with
    | some n => hFault Code.format (w64 (pl.toNat * 256 + n)) 0 h
    | none => hEff (.planeon pl) h) s)
def execPlaneoff (pl : Plane) (q : Sel) (s : State) : Result := .next (issue 8 q (fun _ h => hEff (.planeoff pl) h) s)
def execArbw (wt : BitVec 8) (pl : Plane) (q : Sel) (s : State) : Result :=
  .next (issue 4 q (fun _ h => hEff (.arbw pl wt) h) s)

/-- The generator of node `n` at PLANEON (03 R43). -/
def nodeSeed (seed : W32) (n : Nat) : W32 :=
  let v := seed ^^^ w32 (0x9E3779B9 * (n + 1))
  if v = 0 then 1 else v

/-- A vconst whose rows have run out starts again (18 R328). -/
def restartConst (p : PlaneState) : PlaneState :=
  { p with nodes := p.nodes.filter fun e => !(fieldN p (8 * e.1) % 64 == 32 && e.2.rowDone) }

/-- PLANEON at commit: on, with the issuing seat's FPCTL and SRSEED, and that seat its owner. "As they stood when that
PLANEON committed" is read as at the end of its hand, so that a CSRW or a draw in a later slot of the hand counts
(03 R42, R43; DESIGN CHOICE, log 126). -/
def planeOn (fe k pl : Nat) (s : State) : State :=
  let a := (seatAt s fe k).arch
  modPlane fe pl (fun p => restartConst { p with
    on := true, owner := some k, fpctl := a.fpctl
    gens := Vector.ofFn fun (i : Fin 16) => nodeSeed a.srseed i.val }) s

def planeOff (fe pl : Nat) (s : State) : State := modPlane fe pl (fun p => { p with on := false }) s

/-- ARBW at commit: pin the weight, or unpin it with 0. -/
def arbPin (fe pl : Nat) (w : BitVec 8) (s : State) : State :=
  let m : BitVec 4 := BitVec.ofNat 4 (2 ^ pl)
  modFe fe (fun f => { f with arb :=
    if w = 0 then { f.arb with pins := f.arb.pins &&& ~~~m }
    else { f.arb with pins := f.arb.pins ||| m, weights := vset f.arb.weights pl w } }) s

end Sys2Proof.Machine
end

