-- ==== Sys2Proof/Machine/Stream.lean ====
section
/-!
DEFINITION. Ports and stream commands (18 R310 to R318, R373, R374): their checks while the hand runs, what a port does
with the command at its head token by token, latched translations (09 R152, R154), sparse rows, the port ERROR, SPUSH,
SPULL, SPEEK, PORTRST and PORTSTAT, and data tokens of gather units (13 R203).
-/

namespace Sys2Proof.Machine

/-! ### Ports -/

/-- Port `p` of a plane: 0 to 15 are vi0 to vi15, 16 to 31 vo0 to vo15. -/
def portOf (f : FE) (pl p : Nat) : PortState := KV.get {} p (planeAt f pl).ports
def portIx (sink : Bool) (port : Nat) : Nat := if sink then 16 + port else port
def modPortF (pl p : Nat) (g : PortState → PortState) (f : FE) : FE :=
  modPl pl (fun q => { q with ports := KV.put {} p (g (KV.get {} p q.ports)) q.ports }) f
def modPort (fe pl p : Nat) (g : PortState → PortState) (s : State) : State := modFe fe (modPortF pl p g) s

def esize (esz : BitVec 2) : Nat := 4 / 2 ^ esz.toNat
def cmdCount (c : StreamCmd) : Nat := fld c.count 31 0
def cmdHigh (c : StreamCmd) : Nat := fld c.count 63 32

/-- FAULTINFO of a port fault (18 R316). -/
def portInfo (sink : Bool) (pl port eidx : Nat) : W64 :=
  w64 (2 ^ 62 + bitAt sink 57 + pl % 4 * 2 ^ 55 + port % 16 * 2 ^ 51 + eidx % 4096 * 2 ^ 36)

/-! ### Checks while the hand runs (18 R311 to R314) -/

/-- Bytes of the sparse form of `n` positions with `stored` elements. -/
def sparseBytes (n stored es : Nat) : Nat := 4 * (1 + cdiv n 32 + cdiv (stored * es) 4)

/-- The checks of a stream of `bytes` bytes, aligned to `al`. -/
def chkStream (s : State) (a : W64) (bytes al : Nat) (g sink : Bool) (k : Hand → Hand) (h : Hand) : Hand :=
  if g then chkGlobal s a al (if sink then { w := true } else { r := true }) false (fun _ => k) h
  else if a.toNat % al != 0 then hFault Code.align 0 a h
  else if bytes != 0 && decide (spTop < a.toNat + bytes) then hFault Code.localBounds 0 (w64 (Nat.max a.toNat spTop)) h
  else k h

/-- A stream command of the current seat. -/
def mkCmd (s : State) (h : Hand) (a b : W64) (g : Bool) (esz : BitVec 2) (sparse : Bool) : StreamCmd :=
  { seat := s.curSeat, hand := h.addr, addr := a, count := b, glob := g, esz := esz, sparse := sparse, ctx := (cur s).ctx }

/-- SIN and SOUT. -/
def streamOp (sink sparse : Bool) (port : Port) (a b : Reg) (pl : Plane) (g : Bool) (esz : BitVec 2) (q : Sel)
    (s : State) : State :=
  issue 8 q (fun s h =>
    let c := mkCmd s h (rdS h a) (rdS h b) g esz sparse
    let n := cmdCount c
    let es := esize esz
    let go (h : Hand) : Hand := hEff (.stream pl sink port c) h
    if !sparse then chkStream s c.addr (n * es) es g sink go h
    else if sink then
      (let cap := cmdHigh c
       if port.toNat % 2 == 1 || n == 0 || decide (4096 < n) || decide (8192 < n * es) || cap == 0 || decide (n < cap) then
         hFault Code.reservedField 0 0 h
       else chkStream s c.addr (sparseBytes n cap es) 4 g sink go h)
    else chkStream s c.addr (sparseBytes n n es) 4 g sink go h) s

def execSinDense (port : Port) (a b : Reg) (pl : Plane) (g : Bool) (esz : BitVec 2) (q : Sel) (s : State) : Result :=
  .next (streamOp false false port a b pl g esz q s)
def execSinExpand (port : Port) (a b : Reg) (pl : Plane) (g : Bool) (esz : BitVec 2) (q : Sel) (s : State) : Result :=
  .next (streamOp false true port a b pl g esz q s)
def execSoutDense (port : Port) (a b : Reg) (pl : Plane) (g : Bool) (esz : BitVec 2) (q : Sel) (s : State) : Result :=
  .next (streamOp true false port a b pl g esz q s)
def execSoutSparse (port : Port) (a b : Reg) (pl : Plane) (g : Bool) (esz : BitVec 2) (q : Sel) (s : State) : Result :=
  .next (streamOp true true port a b pl g esz q s)

def execSpush (port : Port) (a : Reg) (pl : Plane) (eor last : Bool) (q : Sel) (s : State) : Result :=
  .next (issue 8 q (fun _ h => hEff (.spush pl port (w32 (rdS h a).toNat) eor last) h) s)

/-! ### SPULL and SPEEK (18 R317) -/

/-- Element `i` of a channel with its token's flags: the word of R317, and the token. -/
def elemAt : Nat → List Token → Option (W64 × Token)
  | _, [] => none
  | i, t :: rest =>
    match t.elems[i]? with
    | some v =>
      let fin := i + 1 == t.elems.length
      some (w64 (v.toNat + bitAt (t.empty.getLsbD i) 32 + bitAt (t.eor && fin) 33 + bitAt (t.last && fin) 34 +
        bitAt t.abort 35), t)
    | none => elemAt (i - t.elems.length) rest

def spull (d : Reg) (port : Port) (pl : Plane) (s : State) : State × Ans :=
  let f := feAt s s.curFe
  let ix := portIx true port.toNat
  let p := portOf f pl.toNat ix
  let info (e : Nat) : W64 := portInfo true pl.toNat port.toNat e
  if p.ecode != 0 then (modHand (hFault p.ecode p.einfo 0) s, .done)
  else if p.reserved != 0 && p.holder != some s.curSeat then (s, .wait)
  else
    match elemAt p.reserved (sinkChan f pl.toNat port.toNat) with
    | none => (s, .wait)
    | some (v, t) =>
      if t.err then (modHand (hFault t.code (info t.eidx.toNat) 0) s, .done)
      else
        let s := modPort s.curFe pl.toNat ix (fun p => { p with reserved := p.reserved + 1, holder := some s.curSeat }) s
        (modHand (fun h => hEff (.spull pl port) (wrS d v h)) s, .done)

def execSpull (d : Reg) (port : Port) (pl : Plane) (q : Sel) (s : State) : Result :=
  .next (issueB 8 q (spull d port pl) s)

/-- The head element with bit 63, and for an error token bit 36 and its CODE. -/
def speekWord (f : FE) (pl port : Nat) : W64 :=
  if (portOf f pl (portIx true port)).ecode != 0 then 0
  else
    match elemAt 0 (sinkChan f pl port) with
    | none => 0
    | some (v, t) =>
      if t.err then w64 (2 ^ 63 + 2 ^ 36 + fld v 35 32 * 2 ^ 32 + t.code.toNat)
      else v ||| w64 (2 ^ 63)

def execSpeek (d : Reg) (port : Port) (pl : Plane) (q : Sel) (s : State) : Result :=
  .next (issue 4 q (fun s h => wrS d (speekWord (feAt s s.curFe) pl.toNat port.toNat) h) s)

/-! ### PORTRST and PORTSTAT (18 R318) -/

def execPortrst (port : Port) (pl : Plane) (sink : Bool) (q : Sel) (s : State) : Result :=
  .next (issue 8 q (fun _ h => hEff (.portrst pl sink port) h) s)

def portStat (f : FE) (pl : Nat) (sink : Bool) (port : Nat) : W64 :=
  let p := portOf f pl (portIx sink port)
  let ch := if sink then sinkChan f pl port else chanOf f pl port
  w64 (p.done.toNat * 2 ^ 32 + p.ecode.toNat * 2 ^ 24 + Nat.min 8 p.queue.length * 2 ^ 20 + bitAt (p.ecode != 0) 16 +
    Nat.min 4 ch.length * 16)

def execPortstat (d : Reg) (port : Port) (pl : Plane) (sink : Bool) (q : Sel) (s : State) : Result :=
  .next (issue 4 q (fun s h => wrS d (portStat (feAt s s.curFe) pl.toNat sink port.toNat) h) s)

/-- The tag of a word that a command wrote in part is set when no more of it will be written (18 R312). -/
def flushDirty (c : StreamCmd) (s : State) : State :=
  match c.dirty with
  | some pa => setTag pa true s
  | none => s

/-- A sparse command gives the staging buffer up, or its place in the order. -/
def unstage (pl port : Nat) (f : FE) : FE :=
  let g := f.staging
  let left := g.waiting.filter (fun w => !(w.1 == pl && w.2 == port))
  { f with staging := if g.port = some (pl, port) then { waiting := left } else { g with waiting := left } }

def portReset (fe pl : Nat) (sink : Bool) (port : Nat) (s : State) : State :=
  let ix := portIx sink port
  let s := match (portOf (feAt s fe) pl ix).queue with
    | c :: _ => flushDirty c s
    | [] => s
  modFe fe (fun f =>
    let f := modPortF pl ix (fun p => { p with
      queue := [], ecode := 0, einfo := 0, done := 0, reserved := 0, holder := none, window := [], seq := 0 }) f
    let f := if sink then setSink pl port [] f else setChan pl port [] f
    if sink then unstage pl port f else f) s

/-- Every port of a plane reset as by PORTRST (06 R104, 18 R305). -/
def portsReset (fe pl : Nat) (s : State) : State :=
  each (List.range 16) (fun p s => portReset fe pl true p (portReset fe pl false p s)) s

/-! ### Commits to a port -/

/-- Whether a port takes one more command (18 R310). -/
def portRoom (f : FE) (pl : Nat) (sink : Bool) (port : Nat) : Bool :=
  let p := portOf f pl (portIx sink port)
  p.ecode != 0 || decide (p.queue.length < 8)

/-- A command commits to its port: dropped by a port in ERROR (18 R316); a sparse SOUT joins the order in which the
staging buffer is taken. -/
def portPut (fe pl : Nat) (sink : Bool) (port : Nat) (c : StreamCmd) (s : State) : State :=
  let ix := portIx sink port
  if (portOf (feAt s fe) pl ix).ecode != 0 then s
  else
    let (m, s) := freshId s
    let s := modPort fe pl ix (fun p => { p with queue := p.queue ++ [{ c with mark := m }] }) s
    if sink && c.sparse then
      modFe fe (fun f => { f with staging := { f.staging with waiting := f.staging.waiting ++ [(pl, port)] } }) s
    else s

/-- No command, job or tap feeds a source port (18 R310). -/
def portQuiet (f : FE) (pl port : Nat) : Bool :=
  let p := portOf f pl (portIx false port)
  p.queue.isEmpty && p.producer == .none && p.window.isEmpty

/-- SPUSH needs a free slot of the channel, and no other producer at work on the port. -/
def spushRoom (f : FE) (pl port : Nat) : Bool :=
  (portOf f pl (portIx false port)).ecode != 0 || (decide ((chanOf f pl port).length < 4) && portQuiet f pl port)

def spushPut (fe pl port : Nat) (v : W32) (eor last : Bool) (s : State) : State :=
  modFe fe (fun f => setChan pl port (chanOf f pl port ++ [mkToken [(v, false)] eor last]) f) s

/-- The first reserved element of a sink port leaves it (18 R317). -/
def spullTake (fe pl port : Nat) (s : State) : State :=
  let ix := portIx true port
  if (portOf (feAt s fe) pl ix).reserved == 0 then s
  else
    modFe fe (fun f =>
      let f := setSink pl port (takeElems 1 (sinkChan f pl port)) f
      modPortF pl ix (fun p => { p with reserved := p.reserved - 1, holder := if p.reserved == 1 then none else p.holder }) f) s

/-! ### Latched translations (09 R152, R154) -/

/-- The current address of a dense command. -/
def cmdVa (c : StreamCmd) : Nat := c.addr.toNat + c.pos * esize c.esz

/-- Whether a dense global command must translate before its next access. -/
def needsLatch (c : StreamCmd) : Bool :=
  c.glob && !c.sparse && decide (c.pos < cmdCount c) && (latchHas c.latch (cmdVa c)).isNone

/-- Replace the command at the head of a port's queue. -/
def setHead (fe pl ix : Nat) (c : StreamCmd) (s : State) : State :=
  modPort fe pl ix (fun p => { p with queue := match p.queue with
    | _ :: r => c :: r
    | [] => [] }) s

/-- The command at a port's head has completed. -/
def endHead (fe pl ix : Nat) (s : State) : State :=
  modPort fe pl ix (fun p => { p with queue := p.queue.tail, done := p.done + 1 }) s

/-- Put a token on a source port's channel. -/
def feedPort (fe pl port : Nat) (t : Token) (s : State) : State :=
  modFe fe (fun f => setChan pl port (chanOf f pl port ++ [t]) f) s

/-- Deliver the token of a gather unit that is next in sequence (13 R203). -/
def windowStep (fe pl ix : Nat) (s : State) : State :=
  let p := portOf (feAt s fe) pl ix
  match p.window.find? (fun e => e.1 == p.seq.toNat) with
  | some (_, t) =>
    if (chanOf (feAt s fe) pl ix).length < 4 then
      feedPort fe pl ix t (modPort fe pl ix (fun p => { p with
        seq := p.seq + 1, window := p.window.filter (fun e => e.1 != p.seq.toNat) }) s)
    else s
  | none => s

/-- The next sequence number of a port's stream: the first from its head on that no token in the window has. -/
def windowNext (p : PortState) : BitVec 16 :=
  p.seq + BitVec.ofNat 16 (((List.range 64).find? fun i => !p.window.any fun e => e.1 == (p.seq + BitVec.ofNat 16 i).toNat).getD 64)

/-- A token of a stream's own requests takes its place in the window of its port (13 R203). -/
def windowSend (fe pl ix : Nat) (t : Token) (s : State) : State :=
  windowStep fe pl ix (modPort fe pl ix (fun p => { p with window := p.window ++ [((windowNext p).toNat, t)] }) s)

/-- A token of a command enters its source port: a global one's by its sequence number, which its stream counts from 0. -/
def sendToken (fe pl ix : Nat) (c : StreamCmd) (t : Token) (s : State) : State :=
  if !c.glob then feedPort fe pl ix t s
  else windowSend fe pl ix t
    (if c.pos == 0 then modPort fe pl ix (fun p => if p.window.isEmpty then { p with seq := 0 } else p) s else s)

/-- A sink port, and the port above it for a sparse command, enters ERROR (18 R316, R374): its commands and tokens are
dropped, and the seat of the command gets a deferred fault. -/
def portError (fe pl port : Nat) (c : StreamCmd) (code : BitVec 8) (info addr : W64) (s : State) : State :=
  let s := flushDirty c s
  let hit (p : Nat) (s : State) : State :=
    modFe fe (fun f => setSink pl p [] (modPortF pl (portIx true p) (fun x => { x with
      queue := [], ecode := code, einfo := info, reserved := 0, holder := none }) f)) s
  let s := hit port s
  let s := if c.sparse then hit (port + 1) s else s
  let s := modFe fe (unstage pl port) s
  deferFault fe c.seat c.ctx { code := code, info := info, addr := addr } false s

/-- A stream's translation fails: an error token at a source port, which ends the command, ERROR at a sink port. -/
def latchFail (fe pl ix : Nat) (c : StreamCmd) (code : BitVec 8) (s : State) : State :=
  if ix < 16 then
    (let row := if cmdHigh c == 0 then cmdCount c else cmdHigh c
     endHead fe pl ix (sendToken fe pl ix c (errToken code (c.pos % row)) s))
  else portError fe pl (ix - 16) c code (portInfo true pl (ix - 16) c.pos) (w64 (cmdVa c)) s

/-- A command of an odd port waits for a sparse one that committed before it on the port below. -/
def boundBelow (f : FE) (pl port : Nat) (c : StreamCmd) : Bool :=
  port % 2 == 1 && (portOf f pl (portIx true (port - 1))).queue.any fun x => x.sparse && decide (x.mark < c.mark)

/-- The command at a port's head is the one that the port runs: no other producer feeds it (18 R310), and no sparse command
binds it (18 R374). -/
def headRuns (f : FE) (pl ix : Nat) (c : StreamCmd) : Bool :=
  if ix < 16 then (portOf f pl ix).producer == .none else !boundBelow f pl (ix - 16) c

/-- What a dense command needs of a translation. -/
def portNeed (ix : Nat) : Need := if ix < 16 then { r := true } else { w := true }

/-- STREAM_RELATCH: the command at the port's head translates its current address and latches the result; a stream whose
latch a re-latch token dropped parks without a fault while nothing maps its address, until a MAPR covers it (09 R154). -/
def relatch (fe pl ix : Nat) (s : State) : State :=
  match (portOf (feAt s fe) pl ix).queue with
  | [] => s
  | c :: _ =>
    let d := feDie fe
    let va := cmdVa c
    if !needsLatch c || !feLive s fe || c.parked.isSome || !headRuns (feAt s fe) pl ix c then s
    else
      match latchNew s fe d c.ctx va (portNeed ix) with
      | .ok l => setHead fe pl ix { c with latch := some l, dropped := false } (xlateTouch c.ctx va s)
      | .error (.refuse code) =>
        if c.dropped && code == Code.dataPage then
          report (.park c.ctx (w64 va)) (setHead fe pl ix { c with parked := some va } s)
        else if ix < 16 && decide (4 ≤ (chanOf (feAt s fe) pl ix).length) then s
        else latchFail fe pl ix c code (refusedAt d c.ctx va none code s)
      | .error _ => s

def execStreamRelatch (fe pl port : Nat) (s : State) : Result := .next (relatch fe pl port s)

/-! ### Accesses of a stream -/

/-- A write of the seat, older than identity `mark`, that has not been performed at its home (18 R315). -/
def storesPending (s : State) (fe k mark : Nat) : Bool :=
  (unperformed s).any fun r => sameSeat r fe k && decide (r.id < mark) && isWriteOp r.op

/-- Such a write comes before a command of a port: any for a global access, one of the FE's own words for a local one. -/
def cmdBehind (s : State) (fe : Nat) (c : StreamCmd) : Bool :=
  (unperformed s).any fun r => sameSeat r fe c.seat && decide (r.id < c.mark) && isWriteOp r.op &&
    (c.glob || (ownModule s r.pa && feOfPa r.pa == some fe))

/-- Write one element of a SOUT and keep its word's tag in step (18 R312): an earlier word written in part is set full
when the command leaves it, and this word when its last byte is written. -/
def putElem (pa n v : Nat) (c : StreamCmd) (s : State) : State × StreamCmd :=
  let word := pa / 4 * 4
  let s := if c.dirty.isSome && c.dirty != some word then flushDirty c s else s
  let s := streamStore c.ctx pa n v s
  if !hasTag s pa then (s, { c with dirty := none })
  else if (pa + n) % 4 == 0 then (setTag word true s, { c with dirty := none })
  else (s, { c with dirty := some word })

/-- An empty element that covers a word's end lets the tag of that word be set. -/
def skipElem (pa n : Nat) (c : StreamCmd) (s : State) : State × StreamCmd :=
  if (pa + n) % 4 == 0 then (flushDirty c s, { c with dirty := none }) else (s, c)

/-- The address of the element at the command's position, local or latched. -/
def elemPa (s : State) (fe : Nat) (c : StreamCmd) : Option Nat :=
  if c.glob then latchHas c.latch (cmdVa c) else some (ownPa s fe (cmdVa c))

/-! ### A dense SIN (18 R311) -/

/-- What an access of a command meets; a local one goes on. -/
def cmdMeets (s : State) (fe : Nat) (c : StreamCmd) (pa : Nat) : Meets := if c.glob then meets s (feDie fe) c.ctx pa else .go

/-- What the next element of a command meets, where its address is known. -/
def elemMeets (s : State) (fe : Nat) (c : StreamCmd) : Option (Nat × Meets) := (elemPa s fe c).map fun pa => (pa, cmdMeets s fe c pa)

/-- Read up to `k` elements of a SIN, none past the latch's limit nor one that its home does not take. -/
def sinElems (fe : Nat) (c : StreamCmd) : Nat → State → List W32 × StreamCmd × State
  | 0, s => ([], c, s)
  | k + 1, s =>
    match elemMeets s fe c with
    | some (pa, .go) =>
      let (v, s) := streamLoad c.ctx pa (esize c.esz) s
      let (l, c, s) := sinElems fe { c with pos := c.pos + 1 } k s
      (w32 v :: l, c, s)
    | _ => ([], c, s)

def sinStep (fe pl ix : Nat) (c : StreamCmd) (s : State) : State :=
  let n := cmdCount c
  if n == 0 then endHead fe pl ix (sendToken fe pl ix c (flagToken true true) s)
  else
    let row := if cmdHigh c == 0 then n else cmdHigh c
    let d := feDie fe
    match elemMeets s fe c with
    | some (pa, .refuse code) => latchFail fe pl ix c code (refusedAt d c.ctx (cmdVa c) (some pa) code s)
    | some (pa, .go) =>
      let k := Nat.min 8 (Nat.min (row - c.pos % row) (n - c.pos))
      let (l, c', s) := sinElems fe c k s
      let s := if c.glob then takeWay d c.ctx pa s else s
      let fin := c'.pos == n
      let s := sendToken fe pl ix c (mkToken (l.map fun v => (v, false)) (fin || c'.pos % row == 0) fin) s
      if fin then endHead fe pl ix s else setHead fe pl ix c' s
    | _ => s

/-! ### An expanding SIN (18 R314) -/

/-- The accesses of a command to `n` bytes of its area: local, or through its latch, which follows the address. -/
def areaSpan (s : State) (fe : Nat) (c : StreamCmd) (va n : Nat) (need : Need) : Span :=
  if c.glob then spanOf s fe (feDie fe) c.ctx need c.latch (segments va n)
  else { parts := [{ va := va, pa := ownPa s fe va, n := n, fresh := false }] }

/-- A sparse command waits while a part of its area, the sparse form of `stored` elements, cannot be reached. -/
def areaWaits (s : State) (fe : Nat) (c : StreamCmd) (stored : Nat) (need : Need) : Bool :=
  (areaSpan s fe c c.addr.toNat (sparseBytes (cmdCount c) stored (esize c.esz)) need).stop == .wait

/-- The accesses of a part of a command's area have been made. -/
def areaGo (fe : Nat) (c : StreamCmd) (write : Bool) (p : Span) (s : State) : State :=
  if c.glob then spanGo (feDie fe) c.ctx write p s else s

/-- Set bits among the low `n` of mask words. -/
def bitCount (l : List Bool) : Nat := (l.filter id).length

/-- The position of set bit `k`. -/
def bitPos (l : List Bool) (k : Nat) : Nat := (((l.zipIdx.filter (·.1)).map (·.2))[k]?).getD 0

/-- The row of an expanding SIN; or the code of what fails, and the position of its first element that cannot be read. -/
def expandArea (fe : Nat) (c : StreamCmd) (s : State) : Except (BitVec 8 × Nat) (List W32) × State :=
  let n := cmdCount c
  let a := c.addr.toNat
  let es := esize c.esz
  let base := a + 4 + 4 * cdiv n 32
  let hd := areaSpan s fe c a 4 { r := true }
  let s1 := areaGo fe c false hd s
  if hd.stop != .go then (.error (stopCode hd.stop, 0), s1)
  else if n == 0 || decide (4096 < n) || leNat (spanBytes s hd) != n then (.error (Code.format, 0), s1)
  else
    let mk := areaSpan s fe { c with latch := hd.latch } (a + 4) (4 * cdiv n 32) { r := true }
    let s1 := areaGo fe c false mk s1
    if mk.stop != .go then (.error (stopCode mk.stop, 0), s1)
    else
      let bits := maskBits n (words32 (cdiv n 32) (spanBytes s mk))
      let vs := areaSpan s fe { c with latch := mk.latch } base (bitCount bits * es) { r := true }
      let s1 := areaGo fe c false vs s1
      if vs.stop != .go then (.error (stopCode vs.stop, bitPos bits ((vs.stopVa - base) / es)), s1)
      else
        let bs := spanBytes s vs
        let ws := (List.range (bitCount bits)).map fun i => (w32 (leNat ((bs.drop (es * i)).take es)), false)
        (.ok ((expandRow bits ws).getD [] |>.map fun x => if x.2 then 0 else x.1), s1)

def expandStep (fe pl ix : Nat) (c : StreamCmd) (s : State) : State :=
  match c.row with
  | none =>
    (match expandArea fe c s with
     | (.error (code, pos), s) => endHead fe pl ix (sendToken fe pl ix c (errToken code pos) s)
     | (.ok l, s) => setHead fe pl ix { c with row := some l, latch := none } s)
  | some l =>
    let n := l.length
    let k := Nat.min 8 (n - c.pos)
    let fin := n ≤ c.pos + k
    let s := sendToken fe pl ix c (mkToken (((l.drop c.pos).take k).map fun v => (v, false)) fin fin) s
    if fin then endHead fe pl ix s else setHead fe pl ix { c with pos := c.pos + k } s

/-! ### A dense SOUT (18 R312) -/

/-- Write elements of the head token of a SOUT, none past the latch's limit or N nor one that its home does not take: the
elements taken. -/
def soutElems (fe : Nat) (c : StreamCmd) : List (W32 × Bool) → Nat → State → Nat × StreamCmd × State
  | [], k, s => (k, c, s)
  | (v, e) :: rest, k, s =>
    if cmdCount c ≤ c.pos then (k, c, s)
    else
      match elemMeets s fe c with
      | some (pa, .go) =>
        let es := esize c.esz
        let (s, c) := if e then skipElem pa es c s else putElem pa es (v.toNat % 2 ^ (8 * es)) c s
        soutElems fe { c with pos := c.pos + 1 } rest (k + 1) s
      | _ => (k, c, s)

def tokElems (t : Token) : List (W32 × Bool) := t.elems.zipIdx.map fun p => (p.1, t.empty.getLsbD p.2)

def soutStep (fe pl port : Nat) (c : StreamCmd) (s : State) : State :=
  let ix := portIx true port
  let f := feAt s fe
  let fin (s : State) (c : StreamCmd) : State := endHead fe pl ix (flushDirty c s)
  if cmdCount c ≤ c.pos then fin s c
  else
    match sinkChan f pl port with
    | [] => s
    | t :: _ =>
      let drop (s : State) : State := modFe fe (fun f => setSink pl port (sinkChan f pl port).tail f) s
      if (portOf f pl ix).reserved != 0 then s
      else if t.abort then drop s
      else if t.err then
        portError fe pl port c t.code (portInfo true pl port t.eidx.toNat) (w64 (cmdVa c)) (drop s)
      else
        match elemMeets s fe c with
        | some (pa, .refuse code) => latchFail fe pl ix c code (refusedAt (feDie fe) c.ctx (cmdVa c) (some pa) code s)
        | some (pa, .go) =>
          let (k, c, s) := soutElems fe c (tokElems t) 0 s
          let s := if c.glob then takeWay (feDie fe) c.ctx pa s else s
          let s := modFe fe (fun f => setSink pl port (takeElems k (sinkChan f pl port)) f) s
          if cmdCount c ≤ c.pos || (k == t.elems.length && t.last) then fin s c else setHead fe pl ix c s
        | _ => s

/-! ### A sparse SOUT (18 R313, R373, R374) -/

/-- Stage a token of the values. -/
def stageVals (es : Nat) (t : Token) (g : Staging) : Staging :=
  { g with vals := g.vals ++ ((tokElems t).filter fun x => !x.2).map (fun x => w32 (x.1.toNat % 2 ^ (8 * es)))
           eorV := t.eor }

/-- Stage a token of the mask: an empty element, that of an ABORT token among them, or an error token fails the row
(18 R373, log 121). -/
def stageMask (t : Token) (g : Staging) : Staging :=
  { g with masks := g.masks ++ (tokElems t).map (·.1), bad := g.bad || t.err || (tokElems t).any (·.2), eorM := t.eor }

/-- A command of port p + 1 that committed before the sparse one. -/
def sparseBlocked (f : FE) (pl port : Nat) (c : StreamCmd) : Bool :=
  (portOf f pl (portIx true (port + 1))).queue.any fun x => decide (x.mark < c.mark)

/-- The head of the mask's port, which a port in ERROR discards until its own PORTRST (18 R316, R374). -/
def maskHead (f : FE) (pl port : Nat) : Option Token :=
  if (portOf f pl (portIx true (port + 1))).ecode != 0 then none else (sinkChan f pl (port + 1)).head?

/-- The staging buffer takes one token of the row of the command that holds it, or is taken by the command that is next in
commit order. An ABORT token of the values discards what is staged of them (18 R300, log 121). -/
def stageStep (fe pl port : Nat) (c : StreamCmd) (s : State) : State :=
  let f := feAt s fe
  let g := f.staging
  let es := esize c.esz
  let drop (p : Nat) (s : State) : State := modFe fe (fun f => setSink pl p (sinkChan f pl p).tail f) s
  let put (g : Staging) (s : State) : State := modFe fe (fun f => { f with staging := g }) s
  if g.port.isNone then
    (if g.waiting.head? = some (pl, port) && !sparseBlocked f pl port c then
       put { port := some (pl, port), waiting := g.waiting.tail } s
     else s)
  else if g.port != some (pl, port) then s
  else
    match (if g.eorV then none else (sinkChan f pl port).head?), (if g.eorM then none else maskHead f pl port) with
    | some t, _ =>
      if t.abort then put { g with vals := [] } (drop port s)
      else if t.err then
        portError fe pl port c t.code (portInfo true pl port t.eidx.toNat) c.addr (drop port s)
      else put (stageVals es t g) (drop port s)
    | none, some t => put (stageMask t g) (drop (port + 1) s)
    | none, none => s

/-- Values packed into words, the lowest position in the lowest bits. -/
def packWords (es : Nat) (l : List W32) : List W32 :=
  let per := 4 / es
  (List.range (cdiv l.length per)).map fun i =>
    w32 (((l.drop (per * i)).take per).zipIdx.foldl (fun acc p => acc + p.1.toNat * 2 ^ (8 * es * p.2)) 0)

/-- The area of the row that is staged cannot be reached now. -/
def stagingWaits (s : State) (fe : Nat) : Bool :=
  match (feAt s fe).staging.port with
  | none => false
  | some (pl, port) => match (portOf (feAt s fe) pl (portIx true port)).queue with
    | c :: _ => areaWaits s fe c (cmdHigh c) { w := true }
    | [] => false

/-- SPARSE_ROW_CHECK: the row that is staged whole is checked and written, or the ports fail (18 R313). -/
def sparseCheck (fe : Nat) (s : State) : State :=
  let f := feAt s fe
  let g := f.staging
  match g.port with
  | none => s
  | some (pl, port) =>
    match (portOf f pl (portIx true port)).queue with
    | [] => modFe fe (fun f => { f with staging := { waiting := g.waiting } }) s
    | c :: _ =>
      if !(g.eorV && g.eorM) || !feLive s fe then s
      else
        let n := cmdCount c
        let set := bitCount (g.masks.flatMap fun w => (List.range 32).map w.getLsbD)
        let fail (code : BitVec 8) (info addr : W64) (s : State) : State := portError fe pl port c code info addr s
        if g.bad || g.masks.length != cdiv n 32 || g.vals.length != set then
          fail Code.format (portInfo true pl port 0) c.addr s
        else if cmdHigh c < set then fail Code.storeOverrun (w64 set) c.addr s
        else if stagingWaits s fe then s
        else
          let es := esize c.esz
          let bs := packBytes 4 ((w32 n :: g.masks ++ packWords es g.vals).map (·.toNat))
          let p := areaSpan s fe c c.addr.toNat bs.length { w := true }
          let s := spanPut p.parts bs (areaGo fe c true p s)
          if p.stop != .go then
            -- the element of the first word that no translation serves
            (let k := (p.stopVa - (c.addr.toNat + 4 + 4 * cdiv n 32)) / es
             fail (stopCode p.stop) (portInfo true pl port (bitPos (maskBits n g.masks) k)) (w64 p.stopVa) s)
          else
            modFe fe (fun f => { f with staging := { waiting := f.staging.waiting } })
              (endHead fe pl (portIx true port) s)

def execSparseRowCheck (fe : Nat) (s : State) : Result := .next (sparseCheck fe s)

/-! ### One token of a port -/

/-- The next element of a command cannot be reached now. -/
def elemWaits (s : State) (fe : Nat) (c : StreamCmd) : Bool := (elemMeets s fe c).any (·.2 == .wait)

/-- Whether a source port has something to do. -/
def sourceReady (s : State) (fe pl ix : Nat) : Bool :=
  let f := feAt s fe
  let p := portOf f pl ix
  decide ((chanOf f pl ix).length < 4) &&
    (p.window.any (fun e => e.1 == p.seq.toNat) ||
     (p.producer == .none && decide (p.window.length < 64) && (match p.queue with
      | c :: _ => !needsLatch c && !cmdBehind s fe c &&
          (if c.sparse then c.row.isSome || decide (4096 < cmdCount c) || !areaWaits s fe c (cmdCount c) { r := true }
           else !elemWaits s fe c)
      | [] => false)))

/-- Whether a sink port has something to do. -/
def sinkReady (s : State) (fe pl port : Nat) : Bool :=
  let f := feAt s fe
  let ix := portIx true port
  let p := portOf f pl ix
  if p.ecode != 0 then !(sinkChan f pl port).isEmpty
  else
    match p.queue with
    | [] => false
    | c :: _ =>
      if boundBelow f pl port c || cmdBehind s fe c then false
      else if c.sparse then
        (let g := f.staging
         if g.port.isNone then g.waiting.head? == some (pl, port) && !sparseBlocked f pl port c
         else g.port == some (pl, port) && ((!g.eorV && !(sinkChan f pl port).isEmpty) ||
           (!g.eorM && (maskHead f pl port).isSome)))
      else decide (cmdCount c ≤ c.pos) ||
        (!(sinkChan f pl port).isEmpty && p.reserved == 0 && !needsLatch c &&
         !elemWaits s fe c)

/-- PORT_COMMAND_COMPLETE: the command at the port's head goes on by one token, and counts in DONE when that was its last
(18 R310 to R318). Ports 16 to 31 are the sink ports. -/
def portStep (fe pl ix : Nat) (s : State) : State :=
  if !feLive s fe then s
  else if ix < 16 then
    (if !sourceReady s fe pl ix then s
     else
       let p := portOf (feAt s fe) pl ix
       if p.window.any (fun e => e.1 == p.seq.toNat) then windowStep fe pl ix s
       else
         match p.queue with
         | [] => s
         | c :: _ => if c.sparse then expandStep fe pl ix c s else sinStep fe pl ix c s)
  else if !sinkReady s fe pl (ix - 16) then s
  else
    let port := ix - 16
    let p := portOf (feAt s fe) pl ix
    if p.ecode != 0 then modFe fe (setSink pl port []) s
    else
      match p.queue with
      | [] => s
      | c :: _ => if c.sparse then stageStep fe pl port c s else soutStep fe pl port c s

def execPortCommandComplete (fe pl port : Nat) (s : State) : Result := .next (portStep fe pl port s)

/-- A data token of a gather unit reaches a port: it is kept in the reorder window of 64 tokens, and delivered in
sequence (13 R203). -/
def dataToken (fe pl port : Nat) (seq : BitVec 16) (words : List W32) (eor last : Bool) (s : State) : State :=
  let p := portOf (feAt s fe) pl port
  if port < 16 && !words.isEmpty && words.length ≤ 8 && (seq - p.seq).toNat < 64 &&
      !p.window.any (fun e => e.1 == seq.toNat) then
    windowStep fe pl port (modPort fe pl port (fun p => { p with
      window := p.window ++ [(seq.toNat, mkToken (words.map fun w => (w, false)) eor last)] }) s)
  else s

def execDataTokenArrival (fe pl port : Nat) (seq : BitVec 16) (words : List (BitVec 32)) (eor last : Bool) (s : State) :
    Result := .next (dataToken fe pl port seq words eor last s)

end Sys2Proof.Machine
end

