-- ==== Sys2Proof/Machine/ConfigNet.lean ====
section
/-!
DEFINITION. The configuration network (14 R229 to R233, 18 R304, R307, R308): packets with their latches and checks, the
writes of a packet applied together at each FE, and CFG, CFGW and CFGSYNC.
-/

namespace Sys2Proof.Machine

/-! ### Field values (18 R304) -/

/-- Whether a value may be written to a field. -/
def fieldOk (n : Nat) (v : W32) : Bool :=
  let x := v.toNat
  let sel : Bool := decide (x < 64) && !(decide (0x38 ≤ x) && decide (x < 0x3F))
  if n == 0xFE then decide (x < 2)
  else if n == 0x98 then decide (x < 16)
  else if 0x99 ≤ n then false
  else if 0x80 ≤ n then sel
  else
    match n % 8 with
    | 0 => decide (x < 1024) && fmtAdmitted (x / 64) && (decide (x % 64 < 40) || x % 64 == 63)
    | 1 | 2 | 3 => sel
    | 4 => decide (x < 64) && x % 4 != 3 && x / 4 % 4 != 3 && x / 16 != 3
    | _ => true

/-! ### Packets (14 R229 to R232) -/

/-- A write at one position: x, y, plane, field, value. -/
structure FieldWrite where
  x : Nat
  y : Nat
  pl : Nat
  field : Nat
  v : W32
  deriving DecidableEq, Repr

/-- A latch of a target position: words so far, bits so far, offset of the latest. -/
structure Latch where
  n : Nat := 0
  v : Nat := 0
  off : Nat := 0
  deriving DecidableEq, Repr

/-- Where a packet may write: its origin and the region of its sender. -/
structure CfgScope where
  ox : Nat
  oy : Nat
  region : Nat × Nat × Nat × Nat

/-- A position inside the die and the region. -/
def CfgScope.has (c : CfgScope) (x y : Nat) : Bool :=
  let (rx, ry, rw, rh) := c.region
  decide (x < 80) && decide (y < 40) && decide (rx ≤ x) && decide (x < rx + rw) && decide (ry ≤ y) && decide (y < ry + rh)

/-- What the check of a packet has gathered: writes in order, latches, offsets of bad words. -/
structure CfgScan where
  writes : List FieldWrite := []
  latches : KV Latch := []
  bad : List Nat := []

def wordAt (ws : List W32) (i : Nat) : Nat := (ws.getD i 0).toNat

/-- The positions of a rectangle word. -/
def rectCells (w : Nat) : List (Nat × Nat) :=
  let rx := w / 2 ^ 26
  let ry := w / 2 ^ 20 % 64
  (List.range (w / 2 ^ 14 % 64 + 1)).flatMap fun u => (List.range (w / 2 ^ 8 % 64 + 1)).map fun v => (rx + u, ry + v)

/-- One write word at one position. -/
def scanAt (off pl field val : Nat) (x y : Nat) (a : CfgScan) : CfgScan :=
  let key := 1024 * y + x
  let l := KV.get {} key a.latches
  if field == 0xFF then
    { a with bad := if l.n == 3 then a.bad ++ [off] else a.bad
             latches := KV.set key { n := l.n + 1, v := l.v * 1024 + val, off := off } a.latches }
  else
    let v := w32 (l.v * 1024 + val)
    { a with bad := if fieldOk field v then a.bad else a.bad ++ [off]
             latches := KV.drop key a.latches
             writes := a.writes ++ [{ x := x, y := y, pl := pl, field := field, v := v }] }

/-- One write word at every position of its pattern. -/
def scanWord (c : CfgScope) (rot off w : Nat) (cells : List (Nat × Nat)) (a : CfgScan) : CfgScan :=
  let place (e : Nat × Nat) : Nat × Nat := (c.ox + e.1 + w / 2 ^ 26, c.oy + e.2 + w / 2 ^ 20 % 64)
  let ps := (cells.map place).eraseDups
  let a := if ps.all (fun p => c.has p.1 p.2) then a else { a with bad := a.bad ++ [off] }
  ps.foldl (fun a p => scanAt off ((w / 2 ^ 18 % 4 + rot) % 4) (w / 2 ^ 10 % 256) (w % 1024) p.1 p.2 a) a

/-- The patterns of a packet from word `i` on: what they write, and the word after them. -/
def scanPatterns (c : CfgScope) (rot : Nat) (ws : List W32) : Nat → Nat → CfgScan → CfgScan × Nat
  | 0, i, a => (a, i)
  | n + 1, i, a =>
    let nrect := wordAt ws i / 2 ^ 24
    let nwords := wordAt ws (i + 1) % 2 ^ 16
    let a := if wordAt ws i % 2 ^ 24 != 0 || nrect == 0 then { a with bad := a.bad ++ [4 * i] } else a
    let a := if wordAt ws (i + 1) / 2 ^ 16 != 0 || nwords == 0 then { a with bad := a.bad ++ [4 * i + 4] } else a
    let rects := (List.range nrect).map fun k => (i + 2 + k, wordAt ws (i + 2 + k))
    let a := rects.foldl (fun a r => if r.2 % 256 != 0 then { a with bad := a.bad ++ [4 * r.1] } else a) a
    let cells := rects.flatMap fun r => rectCells r.2
    let first := i + 2 + nrect
    let a := (List.range nwords).foldl (fun a k => scanWord c rot (4 * (first + k)) (wordAt ws (first + k)) cells a) a
    let fin := first + nwords
    if (nrect + nwords) % 2 == 1 then
      scanPatterns c rot ws n (fin + 1) (if wordAt ws fin != 0 then { a with bad := a.bad ++ [4 * fin] } else a)
    else scanPatterns c rot ws n fin a

/-- The words that a packet's patterns take, from word `i` on, by their counts alone. -/
def packetEnd (ws : List W32) : Nat → Nat → Nat
  | 0, i => i
  | n + 1, i =>
    let k := wordAt ws i / 2 ^ 24 + wordAt ws (i + 1) % 2 ^ 16
    packetEnd ws n (if ws.length ≤ i then i + 2 else i + 2 + k + k % 2)

def minOf : List Nat → Option Nat
  | [] => none
  | x :: r => match minOf r with
    | none => some x
    | some y => some (Nat.min x y)

/-- The check of a whole packet: its writes, or the offset of its first bad word (14 R232). -/
def checkPacket (c : CfgScope) (rot : Nat) (ws : List W32) : Except Nat (List FieldWrite) :=
  let npat := wordAt ws 0 / 2 ^ 16
  let len := wordAt ws 1
  if wordAt ws 0 % 2 ^ 16 != 0 || npat == 0 then .error 0
  else if 65536 < len || len % 8 != 0 || 4 * packetEnd ws npat 2 != len then .error 4
  else
    let (a, _) := scanPatterns c rot ws npat 2 {}
    match minOf (a.bad ++ a.latches.map fun e => e.2.off) with
    | some off => .error off
    | none => .ok a.writes

/-- A packet of one write, as CFGW sends it (18 R307). -/
def checkSingle (c : CfgScope) (w v : W32) : Option FieldWrite :=
  let x := c.ox + w.toNat / 2 ^ 26
  let y := c.oy + w.toNat / 2 ^ 20 % 64
  let field := w.toNat / 2 ^ 10 % 256
  if c.has x y && fieldOk field v then some { x := x, y := y, pl := w.toNat / 2 ^ 18 % 4, field := field, v := v }
  else none

/-! ### Applying a packet (14 R233) -/

/-- One write to a plane; CLEAR resets every field. -/
def writeField (n : Nat) (v : W32) (p : PlaneState) : PlaneState :=
  if n == 0xFE then (if v = 1 then { p with fields := [] } else p) else setField n v p

/-- A node whose OP a packet has changed starts with no row state (log 34). -/
def dropChanged (old p : PlaneState) : PlaneState :=
  { p with nodes := p.nodes.filter fun e => fieldN old (8 * e.1) % 64 == fieldN p (8 * e.1) % 64 }

/-- All writes of one packet at one FE, together. -/
def applyAt (ws : List FieldWrite) (f : FE) : FE :=
  { f with planes := Vector.ofFn fun (i : Fin 4) =>
      let old := planeAt f i.val
      dropChanged old ((ws.filter fun w => w.pl == i.val).foldl (fun p w => writeField w.field w.v p) old) }

/-- Apply writes at every target of a die; those to a disabled FE are discarded (02 R17). An offset of (0, 0) of an edge
core is the edge core itself. -/
def applyWrites (die : Nat) (edge : Option Nat) (ws : List FieldWrite) (s : State) : State :=
  let cells := (ws.map fun w => (w.x, w.y)).eraseDups
  each cells (fun p s =>
    let fe := edge.getD (feAtXY die p.1 p.2)
    if s.fused.contains fe then s
    else modFe fe (applyAt (ws.filter fun w => w.x == p.1 && w.y == p.2)) s) s

/-- The outcome of a packet of a seat: it has been applied, or its failure is recorded for CFGSYNC (18 R307, R308). -/
def cfgDone (p : CfgPacket) (flt : Option FaultRec) (s : State) : State :=
  match p.serial with
  | none => s
  | some n =>
    modSeat p.fe p.seat (fun t => { t with
      cfgDone := t.cfgDone + 1
      cfgFail := match flt with
        | some x => t.cfgFail ++ [(n, x)]
        | none => t.cfgFail }) s

/-- CONFIG_PACKET_APPLY: packet `n` in flight is checked whole and applied at its targets; the packets of
one seat keep their order. -/
def cfgApply (n : Nat) (s : State) : State :=
  match s.cfgs[n]? with
  | none => s
  | some p =>
    if (s.cfgs.take n).any (fun x => x.fe == p.fe && x.seat == p.seat) then s
    else
    let s := { s with cfgs := removeAt n s.cfgs }
    let c : CfgScope := { ox := p.ox, oy := p.oy, region := p.region }
    let edge := if isEdge p.fe && p.serial.isSome then some p.fe else none
    match p.readFault, p.single with
    | some f, _ => cfgDone p (some f) s
    | none, some (w, v) =>
      (match checkSingle c w v with
       | some x => cfgDone p none (applyWrites p.die edge [x] s)
       | none => cfgDone p (some { code := Code.format, info := w64 (2 ^ 63) }) s)
    | none, none =>
      match checkPacket c p.rot.toNat p.words with
      | .ok ws => cfgDone p none (applyWrites p.die edge ws s)
      | .error off => cfgDone p (some { code := Code.format, info := w64 off }) s

def execConfigPacketApply (n : Nat) (s : State) : Result := .next (cfgApply n s)

/-! ### Sending a packet -/

/-- The region of an FE for the launch of a seat: its region in region mode, the FE alone in deal mode (14 R232). -/
def senderRegion (s : State) (fe launch : Nat) : Nat × Nat × Nat × Nat :=
  let alone := (feX fe, feY fe, 1, 1)
  match KV.find launch s.launches with
  | none => alone
  | some l =>
    if l.dealMode then alone
    else
      match l.levels.find? (fun x => x.w != 0) with
      | none => alone
      | some lv =>
        match l.regions.find? (fun r => r.2.1 == feDie fe && decide (r.2.2.1 ≤ feX fe) && decide (feX fe < r.2.2.1 + lv.w) &&
            decide (r.2.2.2 ≤ feY fe) && decide (feY fe < r.2.2.2 + lv.h)) with
        | some r => (r.2.2.1, r.2.2.2, lv.w, lv.h)
        | none => alone

/-- A packet of a seat. -/
def seatPacket (s : State) (fe k : Nat) (rot : Plane) (words : List W32) (single : Option (W32 × W32))
    (flt : Option FaultRec) : CfgPacket :=
  let t := seatAt s fe k
  { fe := fe, seat := k, serial := some t.cfgSent, ctx := t.ctx, die := feDie fe, ox := feX fe, oy := feY fe
    region := senderRegion s fe t.launch, rot := rot, words := words, single := single, readFault := flt }

def sendCfg (p : CfgPacket) (s : State) : State :=
  modSeat p.fe p.seat (fun t => { t with cfgSent := t.cfgSent + 1 }) { s with cfgs := s.cfgs ++ [p] }

/-- The words of a packet at a virtual address, as an agent on die `d` reads them: as many as its LEN says, when LEN is one a
packet may have. -/
def readPacket (s : State) (d c va : Nat) : Reads (List W32) :=
  (readBytes s d c va 8).andThen fun h =>
    let len := leNat (h.drop 4)
    if 65536 < len || len % 8 != 0 || len < 8 then .done (words32 2 h)
    else (readBytes s d c va len).map (words32 (len / 4))

/-- The packet of a CFG, as its seat reads it. -/
def cfgRead (s : State) (fe k : Nat) (va : W64) : Reads (List W32) := readPacket s (feDie fe) (seatAt s fe k).ctx va.toNat

/-- CFG at commit. -/
def cfgSend (fe k : Nat) (va : W64) (rot : Plane) (s : State) : State :=
  let x := cfgRead s fe k va
  let s := readsGo (feDie fe) (seatAt s fe k).ctx x.spans s
  match x.out with
  | .ok ws => sendCfg (seatPacket s fe k rot ws none none) s
  | .error m => sendCfg (seatPacket s fe k rot [] none (some { code := stopCode m, addr := w64 x.stopVa })) s

/-- CFGW at commit. -/
def cfgwSend (fe k : Nat) (w v : W32) (s : State) : State := sendCfg (seatPacket s fe k 0 [] (some (w, v)) none) s

/-! ### CFG, CFGW, CFGSYNC (18 R307, R308) -/

def execCfg (a : Reg) (p : Plane) (q : Sel) (s : State) : Result :=
  .next (issueG 8 q 8 (rdS · a) (fun s h => chkGlobal s (rdS h a) 8 { r := true } false (fun _ => hEff (.cfg (rdS h a) p)) h) s)
def execCfgw (a b : Reg) (q : Sel) (s : State) : Result :=
  .next (issue 8 q (fun _ h => hEff (.cfgw (w32 (rdS h a).toNat) (w32 (rdS h b).toNat)) h) s)

/-- CFGSYNC waits for the packets of its seat's earlier hands, and raises the failure of the first that failed. -/
def cfgSync (s : State) : State × Ans :=
  let t := cur s
  match t.hand with
  | none => (s, .done)
  | some h =>
    if t.cfgDone < h.cfgMark then (s, .wait)
    else
      match (t.cfgFail.filter fun e => decide (e.1 < h.cfgMark)).mergeSort (fun a b => decide (a.1 ≤ b.1)) with
      | [] => (s, .done)
      | (n, f) :: _ =>
        (modHand (fun h => if h.flt.isSome then h else { hFault f.code f.info f.addr h with cfgHit := some n }) s, .done)

/-- The fault of a failed packet has been delivered: it is not raised again. -/
def cfgSpent (fe k : Nat) (h : Hand) (s : State) : State :=
  match h.cfgHit with
  | some n => modSeat fe k (fun t => { t with cfgFail := t.cfgFail.filter fun e => e.1 != n }) s
  | none => s

def execCfgsync (q : Sel) (s : State) : Result := .next (issueB 8 q cfgSync s)

end Sys2Proof.Machine
end

