-- ==== Sys2Proof/Machine/Matrix.lean ====
section
/-!
DEFINITION. The matrix array (19 R330 to R340, 03 R45, R51): claims, the checks of its instructions, the array queue, and
what the array does with the command at its head.
-/

namespace Sys2Proof.Machine

/-! ### Claims (19 R331) -/

/-- Who claims slot `m`, as the hand sees it. -/
def claimSeen (h : Hand) (m : Nat) : Option Nat := h.claims.getD m none

/-- Go on when every slot named is claimed by the current seat: SLOT_STATE with the slot's number otherwise. -/
def chkSlots (s : State) : List Nat → (Hand → Hand) → Hand → Hand
  | [], g, h => g h
  | m :: rest, g, h =>
    if claimSeen h m = some s.curSeat then chkSlots s rest g h else hFault Code.slotState (w64 m) 0 h

def execMclaim (m : Slot) (q : Sel) (s : State) : Result :=
  .next (issue 4 q (fun s h =>
    let c := claimSeen h m.toNat
    if c.isSome && c != some s.curSeat then hFault Code.slotState (w64 m.toNat) 0 h
    else hEff (.mclaim m (BitVec.ofNat 7 h.slot)) { h with claims := h.claims.set m.toNat (some s.curSeat) }) s)

def execMrel (m : Slot) (q : Sel) (s : State) : Result :=
  .next (issue 4 q (fun s h => chkSlots s [m.toNat] (fun h =>
    hEff (.mrel m) { h with claims := h.claims.set m.toNat none }) h) s)

/-! ### Commands (19 R334 to R340) -/

def hArr (op : ArrOp) (h : Hand) : Hand := hEff (.array op) h

def execMload (a : Reg) (m : Slot) (q : Sel) (s : State) : Result :=
  .next (issue 8 q (fun s h => chkSlots s [m.toNat] (fun h =>
    let off := (rdS h a).toNat
    chkLocal off 2048 64 (hArr (.mload off m)) h) h) s)

def execMstore (a : Reg) (m : Slot) (q : Sel) (s : State) : Result :=
  .next (issue 8 q (fun s h => chkSlots s [m.toNat] (fun h =>
    let off := (rdS h a).toNat
    chkLocal off 2048 64 (hArr (.mstore off m)) h) h) s)

def execMma (x : AccNo) (ma mb : Slot) (fmt : BitVec 3) (q : Sel) (s : State) : Result :=
  .next (issue 8 q (fun s h => chkSlots s [ma.toNat, mb.toNat] (hArr (.mma x ma mb fmt)) h) s)

/-- K elements per chunk (19 R336). -/
def chunkK (fmt : Nat) : Nat := match fmt with
  | 0 | 1 => 32
  | 2 => 16
  | 3 => 62
  | _ => 124

/-- Bytes of an element of an unscaled format. -/
def fmtBytes (fmt : Nat) : Nat := if fmt == 2 then 4 else 2

/-- The MTILE descriptor and what it gives (19 R337). -/
structure Tile where
  k : Nat
  nt : Nat
  chunks : Nat
  /-- pitches and packed rows of A and B, rows of B -/
  pa : Nat
  pb : Nat
  ra : Nat
  rb : Nat
  rowsB : Nat

def tileOf (d : W64) (fmt : Nat) : Tile :=
  let k := fld d 12 0
  let nt := fld d 18 16 + 1
  let n := k / chunkK fmt
  let ra := if fmt < 3 then k * fmtBytes fmt else n * 64
  let rb := if fmt < 3 then 32 * nt * fmtBytes fmt else n * 64
  let pick (p r : Nat) : Nat := if p == 0 then r else p
  { k := k, nt := nt, chunks := n, pa := pick (fld d 47 32) ra, pb := pick (fld d 63 48) rb, ra := ra, rb := rb
    rowsB := if fmt < 3 then k else 32 * nt }

/-- Whether the descriptor breaks R337. -/
def tileBad (d : W64) (x fmt : Nat) : Bool :=
  let t := tileOf d fmt
  fld d 31 19 != 0 || fld d 15 13 != 0 || t.k == 0 || decide (4096 < t.k) || t.k % chunkK fmt != 0 ||
    decide (8 < x + t.nt) || fld d 63 48 % 64 != 0 || fld d 47 32 % 64 != 0 || decide (t.pa < t.ra) || decide (t.pb < t.rb)

def extentA (t : Tile) : Nat := 31 * t.pa + t.ra
def extentB (t : Tile) : Nat := (t.rowsB - 1) * t.pb + t.rb

def execMtile (d a b : Reg) (x : AccNo) (ma : Slot) (fmt : BitVec 3) (q : Sel) (s : State) : Result :=
  .next (issue 16 q (fun s h => chkSlots s [ma.toNat, ma.toNat + 1] (fun h =>
    let dv := rdS h d
    let av := (rdS h a).toNat
    let bv := (rdS h b).toNat
    let t := tileOf dv fmt.toNat
    if tileBad dv x.toNat fmt.toNat then hFault Code.format dv 0 h
    else if av % 64 != 0 then hFault Code.align 0 (w64 av) h
    else if bv % 64 != 0 then hFault Code.align 0 (w64 bv) h
    else chkLocal av (extentA t) 64 (chkLocal bv (extentB t) 64 (hArr (.mtile dv av bv x ma fmt))) h) h) s)

def execAccz (x : AccNo) (q : Sel) (s : State) : Result := .next (issue 4 q (fun _ h => hArr (.accz x) h) s)

/-- ACCST: in SR mode a store to a narrow format starts its generator with one draw of the seat's (19 R338). -/
def execAccst (a : Reg) (x : AccNo) (fmt : BitVec 3) (q : Sel) (s : State) : Result :=
  .next (issue 8 q (fun _ h =>
    let off := (rdS h a).toNat
    chkLocal off (1024 * fmtBytes fmt.toNat) 64 (fun h =>
      let draw := fmt != 2 && fld h.work.fpctl 2 0 == 4
      let g := if draw then srDraw h.work.srseed else h.work.srseed
      hArr (.accst off x fmt h.work.fpctl g) (modWork (fun w => { w with srseed := g }) h)) h) s)

def accAt (f : FE) (x : Nat) : Acc := vget {} f.accs x

/-- ACCRD waits for every command that entered before its hand began issue (19 R339). -/
def execAccrd (d b : Reg) (x : AccNo) (q : Sel) (s : State) : Result :=
  .next (issueB 8 q (fun s =>
    match (cur s).hand with
    | none => (s, .done)
    | some h =>
      let f := feAt s s.curFe
      if f.arrOut < h.arrMark then (s, .wait)
      else
        let i := fld (rdS h b) 9 0
        (modHand (wrS d ((KV.get 0 i (accAt f x.toNat).elems).setWidth 64)) s, .done)) s)

def execAccpeek (d b : Reg) (x : AccNo) (q : Sel) (s : State) : Result :=
  .next (issue 8 q (fun s h =>
    let a := accAt (feAt s s.curFe) x.toNat
    wrS d (w64 ((KV.get 0 (fld (rdS h b) 9 0) a.elems).toNat + a.steps.toNat * 2 ^ 32)) h) s)

def execMtrans (a : Reg) (md ms : Slot) (w32 : Bool) (q : Sel) (s : State) : Result :=
  .next (issue 8 q (fun s h => chkSlots s [ms.toNat, md.toNat] (fun h =>
    let v := rdS h a
    let r := fld v 5 0
    let c := fld v 13 8
    if r == 0 || decide (32 < r) || c == 0 || decide ((if w32 then 16 else 32) < c) then hFault Code.format 0 0 h
    else hArr (.mtrans md ms w32 r c) h) h) s)

/-! ### The array queue (19 R333) -/

def isMtile (op : ArrOp) : Bool := match op with
  | .mtile _ _ _ _ _ _ => true
  | _ => false

/-- An MTILE that has not finished. -/
def mtileBusy (f : FE) : Bool := f.arrQ.any fun c => isMtile c.op

/-- A command enters the queue. -/
def arrEnter (fe : Nat) (c : ArrCmd) (s : State) : State :=
  modFe fe (fun f => { f with arrQ := f.arrQ ++ [c], arrIn := f.arrIn + 1 }) s

/-- The command at the head has been performed. -/
def arrLeave (fe : Nat) (s : State) : State := modFe fe (fun f => { f with arrQ := f.arrQ.tail, arrOut := f.arrOut + 1 }) s

/-! ### Slots and sums (19 R332, 03 R51) -/

def slotByte (f : FE) (m i : Nat) : Byte := KV.get 0 i (vget {} f.opm m).data
def slotNum (f : FE) (m i : Nat) : Nat → Nat
  | 0 => 0
  | n + 1 => (slotByte f m i).toNat + 256 * slotNum f m (i + 1) n
def slotBlock (f : FE) (m row : Nat) : List Byte := (List.range 64).map fun i => slotByte f m (64 * row + i)

/-- Write bytes into a slot from byte `i` on. -/
def putSlot (m i : Nat) (bs : List Byte) (f : FE) : FE :=
  let o := vget {} f.opm m
  { f with opm := vset f.opm m { o with data := bs.zipIdx.foldl (fun d p => KV.put 0 (i + p.2) p.1 d) o.data } }

def mFmt (fmt : Nat) : Fmt := match fmt with
  | 0 => .bf16
  | 1 => .fp16
  | _ => .fp32

/-- Element A[m][k] and element B[k][n] of an unscaled format. -/
def elemA (f : FE) (fmt slot m k : Nat) : FV :=
  let n := fmtBytes fmt
  (mFmt fmt).decode (slotNum f slot (64 * m + n * k) n)
def elemB (f : FE) (fmt slot k n : Nat) : FV :=
  let b := fmtBytes fmt
  (mFmt fmt).decode (slotNum f slot ((if fmt == 2 then 128 else 64) * k + b * n) b)

/-- Exact products of a list of pairs, summed (03 R51). -/
def dotFV (l : List (FV × FV)) : FV :=
  match l.map fun p => (mulFV p.1 p.2).1 with
  | [] => .fin false 0 1
  | x :: r => r.foldl (fun acc y => (addFV 0 acc y).1) x

def rne : Rnd := { mode := 0, sat := false, gen := 0 }

/-- c + g in FP32 under RNE, whatever FPCTL holds (03 R45). -/
def accAdd (c : W32) (g : FV) : W32 := w32 (roundTo .fp32 false rne (addFV 0 (Fmt.decode .fp32 c.toNat) g).1).1

/-- A zero of a fixed-point sum carries no sign. -/
def fixedZero : FV → FV
  | .fin s n d => if n == 0 then .fin false 0 1 else .fin s n d
  | v => v

/-- The new value of element (m, n) after step `st` of an MMA. -/
def stepElem (f : FE) (fmt sa sb st m n : Nat) (c : W32) : W32 :=
  match fmt with
  | 2 => (List.range 8).foldl (fun c k =>
      w32 (roundTo .fp32 false rne (fmaFV 0 (elemA f 2 sa m (8 * st + k)) (elemB f 2 sb (8 * st + k) n)
        (Fmt.decode .fp32 c.toNat)).1).1) c
  | 0 | 1 => (List.range 8).foldl (fun c j =>
      accAdd c (dotFV ((List.range 4).map fun i => (elemA f fmt sa m (4 * j + i), elemB f fmt sb (4 * j + i) n)))) c
  | _ =>
    let a := slotBlock f sa m
    let b := slotBlock f sb n
    accAdd c (fixedZero (dotFV ((List.range (if fmt == 3 then 62 else 124)).map fun i => (blockElem a i, blockElem b i))))

/-- A block of another family than the command's, or a malformed one (19 R335). -/
def blockWrong (fmt : Nat) (b : List Byte) : Bool :=
  let k := (b.getD 0 0).toNat
  blockBad b || (if fmt == 3 then k == 0x41 else k != 0x41)

/-- Steps of one MMA. -/
def mmaSteps (fmt : Nat) : Nat := if fmt == 2 then 2 else 1

/-- One MMA over slots `sa` and `sb` into accumulator `x`; `none` when a block stops it. -/
def mmaFE (fmt sa sb x : Nat) (f : FE) : Option FE :=
  if 3 ≤ fmt && (List.range 32).any (fun r => blockWrong fmt (slotBlock f sa r) || blockWrong fmt (slotBlock f sb r)) then none
  else
    let acc := accAt f x
    let elems := (List.range 1024).foldl (fun e i =>
      KV.put 0 i ((List.range (mmaSteps fmt)).foldl (fun c st => stepElem f fmt sa sb st (i / 32) (i % 32) c)
        (KV.get 0 i acc.elems)) e) acc.elems
    let steps := acc.steps + BitVec.ofNat 32 (mmaSteps fmt)
    some { f with accs := vset f.accs x { elems := elems, steps := steps } }

/-! ### Performing a command -/

/-- Change receiver `j` of a card. -/
def modRcv (id j : Nat) (g : Receiver → Receiver) (s : State) : State :=
  { s with cards := s.cards.map fun e =>
      if e.1 == id then (e.1, { e.2 with rcv := e.2.rcv.zipIdx.map fun p => if p.2 == j then g p.1 else p.1 }) else e }

/-- A command meets a bad block: a deferred FORMAT for the issuing seat, or a failed receiver for a follow-on (19 R335,
R344). -/
def arrFormat (fe : Nat) (c : ArrCmd) (step : Nat) (s : State) : State :=
  match c.card with
  | some (id, j) => modRcv id j (fun r => { r with failed := true, performed := true }) s
  | none => deferFault fe c.seat ((feAt s fe).holder.getD 0) { code := Code.format, info := w64 step } false s

/-- A follow-on has been performed (19 R344). -/
def arrCredit (c : ArrCmd) (s : State) : State :=
  match c.card with
  | some (id, j) => modRcv id j (fun r => { r with performed := true }) s
  | none => s

def localBytes (s : State) (fe off n : Nat) : List Byte := bytesAt s (ownPa s fe off) n

/-- The value, flags and trap of element `i` of an ACCST (19 R338). -/
def accstGo (f : Fmt) (fpctl : W64) (acc : KV W32) : List Nat → Rnd → Except (Nat × BitVec 8) (List Nat × Rnd)
  | [], r => .ok ([], r)
  | i :: rest, r =>
    let (v, r1) := roundTo f true { r with fl := 0 } (Fmt.decode .fp32 (KV.get 0 i acc).toNat)
    match fpTrap fpctl r1.fl with
    | some code => .error (i, code)
    | none =>
      match accstGo f fpctl acc rest { r1 with fl := orFl r.fl r1.fl } with
      | .ok (l, r) => .ok (v :: l, r)
      | .error e => .error e

def accStore (fe : Nat) (c : ArrCmd) (off x fmt : Nat) (fpctl : W64) (gen : W32) (s : State) : State :=
  let acc := (accAt (feAt s fe) x).elems
  let land (l : List Nat) (s : State) : State := landBytes (ownPa s fe off) (packBytes (fmtBytes fmt) l) s
  if fmt == 2 then land ((List.range 1024).map fun i => (KV.get 0 i acc).toNat) s
  else
    match accstGo (mFmt fmt) fpctl acc (List.range 1024) (Rnd.of fpctl gen) with
    | .error (i, code) => deferFault fe c.seat ((feAt s fe).holder.getD 0) { code := code, info := w64 i } false s
    | .ok (l, r) => land l (if r.fl == 0 then s else orFlags fe c.seat (w64 r.fl) s)

/-- A transposition (19 R340). -/
def transpose (md ms : Nat) (w32 : Bool) (r c : Nat) (f : FE) : FE :=
  let src (i j : Nat) : Nat := if w32 then slotNum f ms (64 * i + 4 * j) 4 else slotNum f ms (64 * i + 2 * j) 2
  let rows := if w32 then 16 else 32
  let bytes := (List.range rows).flatMap fun i => packBytes (if w32 then 4 else 2)
    ((List.range 32).map fun j => if i < c && j < r then src j i else 0)
  putSlot md 0 bytes f

/-- A write of the command's seat to its FE, from before the command, is still to be performed (12 R190). -/
def arrBehind (s : State) (fe : Nat) (c : ArrCmd) : Bool :=
  (unperformed s).any fun r => sameSeat r fe c.seat && decide (r.id < c.mark) && isWriteOp r.op &&
    touches r (ownPa s fe 0) spTop

/-- Perform the command at the head of the array queue, an MTILE excepted (19 R333 to R340). -/
def arrPerform (fe : Nat) (s : State) : State :=
  match (feAt s fe).arrQ with
  | [] => s
  | c :: _ =>
    if !feLive s fe || isMtile c.op || arrBehind s fe c then s
    else
      arrLeave fe (match c.op with
        | .mload off m => let bs := localBytes s fe off 2048; modFe fe (putSlot m.toNat 0 bs) s
        | .mstore off m =>
          landBytes (ownPa s fe off) ((List.range 2048).map fun i => slotByte (feAt s fe) m.toNat i) s
        | .mma x ma mb fmt =>
          arrCredit c (match mmaFE fmt.toNat ma.toNat mb.toNat x.toNat (feAt s fe) with
            | some f => modFe fe (fun _ => f) s
            | none => arrFormat fe c 0 s)
        | .accz x => modFe fe (fun f => { f with accs := vset f.accs x.toNat {} }) s
        | .accst off x fmt fpctl gen => accStore fe c off x.toNat fmt.toNat fpctl gen s
        | .mtrans md ms w r k => modFe fe (transpose md.toNat ms.toNat w r k) s
        | .mtile _ _ _ _ _ _ => s)

def execArrayCommandPerform (fe : Nat) (s : State) : Result := .next (arrPerform fe s)

/-- Load chunk `j` of rows of A into a slot. -/
def loadA (s : State) (fe a : Nat) (t : Tile) (j slot : Nat) (f : FE) : FE :=
  (List.range 32).foldl (fun f m => putSlot slot (64 * m) (localBytes s fe (a + m * t.pa + 64 * j) 64) f) f

/-- Load chunk `j` of columns 32t to 32t + 31 of B into a slot. -/
def loadB (s : State) (fe b fmt : Nat) (t : Tile) (j col slot : Nat) (f : FE) : FE :=
  match fmt with
  | 2 => (List.range 16).foldl (fun f r =>
      putSlot slot (128 * r) (localBytes s fe (b + (16 * j + r) * t.pb + 128 * col) 128) f) f
  | 0 | 1 => (List.range 32).foldl (fun f r =>
      putSlot slot (64 * r) (localBytes s fe (b + (32 * j + r) * t.pb + 64 * col) 64) f) f
  | _ => (List.range 32).foldl (fun f r =>
      putSlot slot (64 * r) (localBytes s fe (b + (32 * col + r) * t.pb + 64 * j) 64) f) f

/-- One step of the MTILE at the head (19 R336). -/
def mtileStep (fe : Nat) (s : State) : State :=
  match (feAt s fe).arrQ with
  | [] => s
  | c :: _ =>
    match c.op with
    | .mtile d a b x ma fmt =>
      if !feLive s fe || arrBehind s fe c then s
      else
        let t := tileOf d fmt.toNat
        let j := c.step / t.nt
        let col := c.step % t.nt
        let s := modFe fe (fun f => loadB s fe b fmt.toNat t j col (ma.toNat + 1)
          (if col == 0 then loadA s fe a t j ma.toNat f else f)) s
        (match mmaFE fmt.toNat ma.toNat (ma.toNat + 1) (x.toNat + col) (feAt s fe) with
         | none => arrLeave fe (arrFormat fe c c.step s)
         | some f =>
           let s := modFe fe (fun _ => f) s
           if t.chunks * t.nt ≤ c.step + 1 then arrLeave fe s
           else modFe fe (fun f => { f with arrQ := match f.arrQ with
             | c :: r => { c with step := c.step + 1 } :: r
             | [] => [] }) s)
    | _ => s

def execMtileStep (fe : Nat) (s : State) : Result := .next (mtileStep fe s)

/-! ### Claims at commit -/

/-- The first MCLAIM of a hand that another seat's commit has overtaken, with its slot. -/
def claimLost (k : Nat) : List (Option Nat) → List Eff → Option (Nat × BitVec 7)
  | _, [] => none
  | cl, e :: rest =>
    match e with
    | .mclaim m slot =>
      let c := cl.getD m.toNat none
      if c.isSome && c != some k then some (m.toNat, slot) else claimLost k (cl.set m.toNat (some k)) rest
    | .mrel m => claimLost k (cl.set m.toNat none) rest
    | _ => claimLost k cl rest

def setClaim (fe m : Nat) (c : Option Nat) (s : State) : State :=
  modFe fe (fun f => { f with opm := vset f.opm m { vget {} f.opm m with claim := c } }) s

end Sys2Proof.Machine
end

