-- ==== Sys2Proof/Machine/Engine.lean ====
section
/-!
DEFINITION. Engine cards (14 R235 to R239, R407, 19 R341 to R348): CPY, CPYX, GSTRM, COLL and CARDSTAT; the check of a
card, the transforms of the copy engines (19 R342, 13 R210, R211), landings and their credits (08 R136), follow-on
commands, stream jobs, and completion records.
-/

namespace Sys2Proof.Machine

/-! ### Posts (14 R235, 19 R341) -/

def cardKind (w : List W64) : Nat := fld (nth w 0) 47 44
def cardXform (w : List W64) : Nat := fld (nth w 0) 43 40
def cardTag (w : List W64) : BitVec 16 := BitVec.ofNat 16 (fld (nth w 0) 63 48)
def isCopy (kind : Nat) : Bool := kind == 1 || kind == 2

/-- A post: the card's bytes must be in order; they are read at commit. A card of a copy kind has as many receiver entries as
it names. -/
def postOp (kind : Nat) (a : Reg) (q : Sel) (s : State) : State :=
  issueRead 8 q (fun s h => ownBehind s s.curFe s.curSeat (rdS h a).toNat 8) (fun s h =>
    let off := (rdS h a).toNat
    let w := w64 (localRead s s.curFe h off 8)
    let n := if isCopy (fld w 47 44) then 192 + 16 * (fld w 39 36 + 1) else 192
    chkLocal off n 64 (hEff (.card off kind)) h) s

def execCpy (a : Reg) (q : Sel) (s : State) : Result := .next (postOp 1 a q s)
def execCpyx (a : Reg) (q : Sel) (s : State) : Result := .next (postOp 2 a q s)
def execGstrm (a : Reg) (q : Sel) (s : State) : Result := .next (postOp 3 a q s)
def execColl (a : Reg) (q : Sel) (s : State) : Result := .next (postOp 4 a q s)

def cardAt (s : State) (id : Nat) : Option Card := KV.find id s.cards
def modCard (id : Nat) (g : Card → Card) (s : State) : State :=
  { s with cards := s.cards.map fun e => if e.1 == id then (e.1, g e.2) else e }

/-- A footprint of eight descriptors, read regions first (05 R85); the second answer says that it is well formed. -/
def footprint (w : List W64) : List (Region × Bool) × Bool :=
  let d (i : Nat) : W64 × W64 := (nth w (2 * i), nth w (2 * i + 1))
  let ok := (List.range 8).all fun i => fld (d i).2 63 48 == 0 && decide ((d i).1.toNat + fld (d i).2 47 0 ≤ 2 ^ 64)
  ((List.range 8).filterMap fun i =>
    let len := fld (d i).2 47 0
    if len == 0 then none else some ({ base := (d i).1.toNat, len := len }, decide (4 ≤ i)), ok)

/-- A receiver entry. -/
def receiverOf (w0 w1 : W64) : Receiver :=
  { dest := w0, bar := fld w1 63 53, bv := bit w1 52, opm := bit w1 51, slot := fld w1 50 46 }

/-- The words of a card of `n` receivers, and what its posting makes of them. -/
def newCard (id : Nat) (p : Poster) (ctx want : Nat) (w : List W64) (source : Nat) : Card :=
  let nr := if isCopy (cardKind w) then fld (nth w 0) 39 36 + 1 else 0
  { id := id, poster := p, ctx := ctx, want := want, w := w.take 8 ++ (w.drop 24).take (2 * nr)
    foot := (footprint ((w.drop 8).take 16)).1
    rcv := (List.range nr).map fun j => receiverOf (nth w (24 + 2 * j)) (nth w (25 + 2 * j))
    source := BitVec.ofNat 8 source
    status := if (footprint ((w.drop 8).take 16)).2 then 0 else Code.format }

/-- The engine that a card goes to (14 R239, 19 R341). -/
def engineOf (die want draw : Nat) (w : List W64) : Nat :=
  match want with
  | 3 => 0x68
  | 4 => 0x60 + fld (nth w 3) 63 32 % 8
  | _ => 12 * die + Config.cardScheduler draw % 12

/-- Whether `n` more fit where `used` of `cap` are taken; more than `cap` at once wait for all of it. -/
def fits (used n cap : Nat) : Bool := decide (used + n ≤ Nat.max cap n)

/-- Cards that a hand is to post. -/
def countCards (h : Hand) : Nat := (h.effects.filter fun e => match e with
  | .card _ _ => true
  | _ => false).length

/-- The cards of a hand would be more than the 64 that its seat may have outstanding (19 R341). -/
def cardsFull (t : Seat) (h : Hand) : Bool := countCards h != 0 && !fits t.cards.length (countCards h) 64

/-- A post at commit: the card is read, and its engine takes it. -/
def postCard (fe k off want : Nat) (s : State) : State :=
  let n := 192 + 16 * 16
  let w := words64 (n / 8) (seatBytes s fe k off n)
  let (id, s) := freshId s
  let c := { newCard id (.seat fe k) (seatAt s fe k).ctx want w (engineOf (feDie fe) want s.fresh w) with mark := id }
  let s := { s with cards := KV.set id c s.cards, fresh := s.fresh + 1 }
  modSeat fe k (fun t => { t with cards := t.cards ++ [id] }) s

/-! ### The check of a card (14 R238) -/

/-- Whether a code of R248 names a type. -/
def codeOk (c : Nat) : Bool := decide (c < 5) || (decide (8 ≤ c) && decide (c < 16))
def codeBytes (c : Nat) : Nat := fmtWidth c / 8

/-- Source formats of quantise. -/
def quantSrc (c : Nat) : Fmt := match c with
  | 0 => .fp32
  | 1 => .fp16
  | _ => .bf16

/-- Bytes of a unit of the source, 0 for parameters outside their ranges (19 R342). -/
def xformUnit (xf : Nat) (v : W64) : Nat :=
  match xf with
  | 0 => if v = 0 then 1 else 0
  | 1 =>
    let sc := fld v 3 0
    let d := fld v 7 4
    if fld v 63 12 != 0 || decide (3 < fld v 10 8) || !codeOk sc || !codeOk d || (decide (8 ≤ sc) && decide (8 ≤ d)) then 0
    else codeBytes sc
  | 2 =>
    let f := fld v 15 8
    let ty := fld v 18 16
    let cols := fld v 47 24
    if fld v 63 48 != 0 || fld v 23 19 != 0 || fld v 7 4 != 0 || decide (2 < fld v 3 0) || cols == 0 ||
        !(f == 0x41 || f == 0x81 || f == 0x82 || f == 0x83) || decide ((if f == 0x41 then 4 else 0) < ty) then 0
    else cols * (quantSrc (fld v 3 0)).width / 8
  | 3 =>
    if fld v 63 40 != 0 || fld v 7 2 != 0 || fld v 1 0 == 3 then 0
    else fld v 23 8 * fld v 39 24 * (4 / 2 ^ fld v 1 0)
  | _ => 4096

def cardLen (w : List W64) : Nat := fld (nth w 2) 47 0

/-- Whether the transform's parameters are out of range or do not divide the length. -/
def xformBad (xf : Nat) (v : W64) (len : Nat) : Bool :=
  let u := xformUnit xf v
  u == 0 || len % u != 0 || (decide (4 ≤ xf) && decide (fld v 63 32 < len / 4096))

/-- The follow-on MMA of word 4: accumulator, slots and format (22 R376). -/
def followOn (v : W64) : Option (AccNo × Slot × Slot × BitVec 3) :=
  let lo := w32 (fld v 31 0)
  let hi := w32 (fld v 63 32)
  let w := waveOf hi
  match decode lo hi with
  | .ok (.mma x ma mb fmt q) =>
    if q = 0 && w.own = 0 && w.pred = 127 && w.succ = 127 then some (x, ma, mb, fmt) else none
  | _ => none

/-- Whether a card fails with FORMAT before it moves a byte. -/
def cardBad (c : Card) : Bool :=
  let w := c.w
  let k := cardKind w
  let copy := isCopy k
  let z (i hi lo : Nat) : Bool := fld (nth w i) hi lo == 0
  c.status != 0 || k != c.want || !z 0 35 0 || (!copy && !z 0 43 36) ||
  (match k with
   | 1 | 2 =>
     !z 2 63 48 || decide (5 < cardXform w) || cardLen w == 0 || decide (2 ^ 40 < cardLen w) ||
       xformBad (cardXform w) (nth w 3) (cardLen w) || !z 5 63 0 || !z 6 63 0 || !z 7 63 0 ||
       (if k == 2 then (followOn (nth w 4)).isNone else !z 4 63 0) ||
       (List.range c.rcv.length).any (fun j => !z (9 + 2 * j) 45 0)
   | 3 => fld (nth w 2) 31 0 % 4 != 0 || !z 3 63 8 || !z 6 63 6 || !z 7 63 0
   | 4 =>
     !z 2 63 48 || !z 3 31 8 || !z 3 3 2 || decide (3 < fld (nth w 3) 7 4) || decide (1 < fld (nth w 3) 1 0) ||
       !z 6 63 10 || !z 7 63 0
   | _ => true)

/-- The die of the engine that runs a card (02 R25): that of a copy engine, of the X-die of a collective engine, or of the
gather unit of a stream job. -/
def cardDie (c : Card) : Nat :=
  let n := c.source.toNat
  if n < 0x60 then n / 12 else if n < 0x68 then 8 + (n - 0x60) / 4 else fld (nth c.w 3) 7 0 / 32

/-- Two cards of one context conflict (12 R195). -/
def conflicts (a b : Card) : Bool :=
  let meet (x y : Region) : Bool := decide (x.base < y.base + y.len) && decide (y.base < x.base + x.len)
  a.ctx == b.ctx && a.foot.any fun x => b.foot.any fun y => (x.2 || y.2) && meet x.1 y.1

/-! ### Transforms (19 R342) -/

/-- What an engine on die `d` meets over `n` bytes of a context's space: the first wait or refusal. -/
def spanMeets (s : State) (d c va n : Nat) (need : Need) : Meets := (engineSpan s d c va n need none).stop

/-- The accesses of these bytes, as far as they go: links, walks, and caches (13 R200). -/
def spanTouch (d c va n : Nat) (need : Need) (s : State) : State :=
  spanGo d c need.w (engineSpan s d c va n need none) s

/-- Bytes of a context's space that an engine on die `d` reads, as many as can be read, and why the next cannot. The translation
of each is latched until its limit (09 R152). -/
def readFrom (s : State) (d c va n : Nat) : List Byte × BitVec 8 :=
  let p := engineSpan s d c va n { r := true } none
  (spanBytes s p, stopCode p.stop)

/-- Elements of `n` bytes. -/
def elemsOf (n : Nat) (l : List Byte) : List Nat := (List.range (l.length / n)).map fun i => leNat ((l.drop (n * i)).take n)

def castBytes (v : W64) (l : List Byte) : List Byte :=
  let r : Rnd := { mode := fld v 10 8, sat := bit v 11, gen := 0 }
  packBytes (codeBytes (fld v 7 4)) ((elemsOf (codeBytes (fld v 3 0)) l).map fun x => (convert (fld v 7 4) (fld v 3 0) r x).1)

/-- A row as its blocks. -/
def quantRow (fmt type : Nat) (vals : List FV) : List Byte :=
  let n := blockElems fmt
  (List.range (cdiv vals.length n)).flatMap fun i =>
    quantise fmt type ((List.range n).map fun j => vals[n * i + j]?)

def quantBytes (v : W64) (l : List Byte) : List Byte :=
  let f := quantSrc (fld v 3 0)
  let cols := fld v 47 24
  let es := elemsOf (f.width / 8) l
  (List.range (es.length / cols)).flatMap fun r =>
    quantRow (fld v 15 8) (fld v 18 16) (((es.drop (cols * r)).take cols).map f.decode)

def transBytes (v : W64) (l : List Byte) : List Byte :=
  let es := 4 / 2 ^ fld v 1 0
  let rows := fld v 23 8
  let cols := fld v 39 24
  let xs := elemsOf es l
  packBytes es ((List.range (xs.length / (rows * cols))).flatMap fun k => (List.range cols).flatMap fun c =>
    (List.range rows).map fun r => xs.getD (k * rows * cols + r * cols + c) 0)

/-! ### Compressed staging blocks (13 R210, R211) -/

/-- Offsets within an area of P pages: the size array and the escape table. -/
def sizesOff (p : Nat) : Nat := 4096 * p
def escapesOff (p : Nat) : Nat := roundUp (sizesOff p + 2 * p) 64

/-- The 32-word bitmap of a page. -/
def pageMap (ws : List W32) : List W32 := maskWords (ws.map fun w => w != 0)

/-- A page stored: its words, its size entry, and the positions of its inverted words; `room` is how many entries the
escape table still takes. -/
def storePage (page room : Nat) (ws : List W32) : List W32 × Nat × List Nat :=
  let nz := ws.filter (· != 0)
  let body := pageMap ws ++ nz
  let esc := (List.range body.length).filter fun i => body.getD i 0 == Config.stagingMarker
  let size := 4 * (nz.length + 33)
  if 4096 ≤ size || room < esc.length then (ws, 0, [])
  else
    ((body.map fun w => if w == Config.stagingMarker then ~~~w else w) ++ [Config.stagingMarker], size,
      esc.map fun i => page * 65536 + i)

/-- Pages stored one after the other: pieces of the area, size entries, escape entries. -/
def storePages (first p used : Nat) : Nat → List (List W32) → List (Nat × List Byte) × List Nat × List Nat
  | _, [] => ([], [], [])
  | i, ws :: rest =>
    let (words, size, esc) := storePage (first + i) (256 - used) ws
    let (pieces, sizes, escs) := storePages first p (used + esc.length) (i + 1) rest
    ((4096 * i, packBytes 4 (words.map (·.toNat))) :: pieces, size :: sizes, esc ++ escs)

/-- The compressed image of whole pages, after the `used` entries that the table holds already. -/
def compressPieces (v : W64) (used : Nat) (l : List Byte) : List (Nat × List Byte) :=
  let p := fld v 63 32
  let n := l.length / 4096
  let pages := (List.range n).map fun i => words32 1024 ((l.drop (4096 * i)).take 4096)
  let (pieces, sizes, escs) := storePages (fld v 31 0) p used 0 pages
  pieces ++ [(sizesOff p, packBytes 2 sizes)] ++
    (if escs.isEmpty then [] else [(escapesOff p + 8 * used, packBytes 8 escs)])

/-- A page read back: in compressed form the words that the escape table lists are inverted. -/
def loadPage (page size : Nat) (escs : List Nat) (slot : List W32) : List W32 :=
  if size == 0 then slot
  else
    let ws := slot.zipIdx.map fun p => if escs.contains (page * 65536 + p.2) then ~~~p.1 else p.1
    let bits := maskBits 1024 ws
    (expandRow bits (((ws.drop 32).take (bitCount bits)).map fun w => (w, false))).getD [] |>.map
      fun x => if x.2 then 0 else x.1

/-- The entries that an escape table holds: up to its last one that is not 0. -/
def escapeEntries (l : List Nat) : List Nat := (l.reverse.dropWhile (· == 0)).reverse

/-- Page 0 and word 0 make the entry 0, which at the end of a table nothing tells from an unused one: there the stored word
itself tells, which is the marker's complement (log 35). -/
def zeroEntry (es : List Nat) (word0 : Nat) : Bool :=
  let l := escapeEntries es
  !l.contains 0 && decide (l.length < 256) && word0 == (~~~Config.stagingMarker).toNat

/-- The words listed by the table of a source area whose first page is `first`. -/
def escapesRead (first : Nat) (es : List Nat) (word0 : Nat) : List Nat :=
  escapeEntries es ++ (if first == 0 && zeroEntry es word0 then [0] else [])

/-- The pages of a source area as far as they can be read, and the code of what stops the next (14 R407). -/
def decompress (s : State) (d c src : Nat) (v : W64) (len : Nat) : List Byte × BitVec 8 :=
  let p := fld v 63 32
  let (body, e1) := readFrom s d c src len
  let (sz, e2) := readFrom s d c (src + sizesOff p) (2 * (len / 4096))
  let (es, e3) := readFrom s d c (src + escapesOff p) 2048
  let n := if e3 != 0 then 0 else Nat.min (body.length / 4096) (sz.length / 2)
  let escs := escapesRead (fld v 31 0) (elemsOf 8 es) (leNat (body.take 4))
  ((List.range n).flatMap fun i => packBytes 4
      ((loadPage (fld v 31 0 + i) ((elemsOf 2 sz).getD i 0) escs (words32 1024 ((body.drop (4096 * i)).take 4096))).map
        (·.toNat)),
   if n == len / 4096 then 0 else if e3 != 0 then e3 else if e1 != 0 then e1 else e2)

/-- Entries that the escape table of a destination area holds already. -/
def escapesUsed (s : State) (d c dest : Nat) (v : W64) : Nat :=
  let p := fld v 63 32
  let es := elemsOf 8 (readFrom s d c (dest + escapesOff p) 2048).1
  let word0 := leNat (readFrom s d c dest 4).1
  let packed := leNat (readFrom s d c (dest + sizesOff p) 2).1 != 0
  (escapeEntries es).length + (if fld v 31 0 == 0 && packed && zeroEntry es word0 then 1 else 0)

/-- The areas that a card reads before it moves a byte. -/
def cardReads (c : Card) : List (Nat × Nat) :=
  let src := (nth c.w 1).toNat
  let len := cardLen c.w
  let p := fld (nth c.w 3) 63 32
  if !isCopy (cardKind c.w) then []
  else if cardXform c.w == 5 then
    [(src, len), (src + sizesOff p, 2 * (len / 4096)), (src + escapesOff p, 2048)]
  else [(src, len)]

/-- The destination pieces of a copy card for an area at `dest`, and the code of a source that cannot be read to its end
(14 R407). -/
def cardPieces (s : State) (c : Card) (dest : Nat) : List (Nat × List Byte) × BitVec 8 :=
  let w := c.w
  let v := nth w 3
  let src := (nth w 1).toNat
  let len := cardLen w
  let d := cardDie c
  match cardXform w with
  | 5 =>
    let (l, e) := decompress s d c.ctx src v len
    (if l.isEmpty then [] else [(0, l)], e)
  | xf =>
    let (l, e) := readFrom s d c.ctx src len
    let u := xformUnit xf v
    let l := l.take (l.length / u * u)
    (if l.isEmpty then []
     else match xf with
       | 1 => [(0, castBytes v l)]
       | 2 => [(0, quantBytes v l)]
       | 3 => [(0, transBytes v l)]
       | 4 => compressPieces v (escapesUsed s d c.ctx dest v) l
       | _ => [(0, l)], e)

/-! ### CARD_CHECK -/

/-- A port that takes a stream job: no queued command and no other producer (19 R343). -/
def portIdle (f : FE) (pl port : Nat) : Bool :=
  let p := portOf f pl port
  p.queue.isEmpty && p.producer == .none && p.window.isEmpty

/-- The receiving FE, plane and port of a stream job. -/
def streamTarget (s : State) (c : Card) : Option (Nat × Nat × Nat) :=
  match ctxPa s c.ctx (nth c.w 5).toNat { w := true } with
  | .ok pa =>
    if ownModule s pa && paClass pa == 1 && paOff pa == 0 then
      (feOfPa pa).bind fun fe =>
        if (feAt s fe).holder = some c.ctx then some (fe, fld (nth c.w 6) 5 4, fld (nth c.w 6) 3 0) else none
    else none
  | .error _ => none

def endCard (id : Nat) (status : BitVec 8) (s : State) : State := modCard id (fun c => { c with status := status, done := true }) s

/-- The level entries of a topology table (13 R213), as an engine on die `d` reads them; `none` for one that is malformed or does
not name this module. -/
def readLevel (s : State) (d ctx base i : Nat) : Reads (Option CollLevel) :=
  (readWords s d ctx (base + 64 + 64 * i) 8).andThen fun w =>
    let a := nth w 0
    let p := fld a 57 48 + 1
    let wire := fld a 47 44
    let ty := fld a 43 41
    let res := bit a 40
    (readBytes s d ctx (nth w 1).toNat (2 * p)).map fun ms =>
      let members := (elemsOf 2 ms).map (· % 1024)
      let clear := fld a 63 58 == 0 && fld a 39 0 == 0 && (List.range 5).all (fun j => nth w (3 + j) == 0) &&
        (elemsOf 2 ms).all (fun m => decide (m < 1024))
      match findIdx (fun m => m == s.moduleId.toNat) members with
      | some me =>
        if clear && 2 ≤ p && wire ≤ 5 && ty ≤ 4 && (wire != 5 || res) then
          some { members := members, me := me, wire := wire, type := ty, res := res, resBase := (nth w 2).toNat }
        else none
      | none => none

def readLevels (s : State) (d ctx base : Nat) : Nat → Nat → Reads (Option (List CollLevel))
  | _, 0 => .done (some [])
  | i, n + 1 => (readLevel s d ctx base i).andThen fun
    | none => .done none
    | some l => (readLevels s d ctx base (i + 1) n).map fun r => r.map (l :: ·)

def readTable (s : State) (d ctx base : Nat) : Reads (Option (List CollLevel)) :=
  (readWords s d ctx base 8).andThen fun h =>
    if fld (nth h 0) 63 2 != 0 || fld (nth h 0) 1 0 == 3 || (List.range 7).any (fun i => nth h (i + 1) != 0) then .done none
    else readLevels s d ctx base 0 (fld (nth h 0) 1 0 + 1)

/-- The topology table of a collective. -/
def cardTable (s : State) (c : Card) : Reads (Option (List CollLevel)) := readTable s (cardDie c) c.ctx (nth c.w 4).toNat

/-- Element size of a collective, and its source as FP32. -/
def collBytes (w : List W64) : Nat := if fld (nth w 3) 1 0 == 0 then 4 else 2
def collElem (w : List W64) (x : Nat) : W32 := if fld (nth w 3) 1 0 == 0 then w32 x else w32 (x * 65536)

/-- A card that may not begin: its poster's earlier writes come first (12 R195), a card that it conflicts with is before it,
or its source cannot be reached yet. -/
def cardWaits (s : State) (id : Nat) (c : Card) : Bool :=
  (match c.poster with
   | .seat fe k => storesPending s fe k c.mark
   | .node _ => false) ||
  s.cards.any (fun e => decide (e.1 < id) && conflicts e.2 c) ||
  (!cardBad c && ((cardReads c).any (fun a => spanMeets s (cardDie c) c.ctx a.1 a.2 { r := true } == .wait) ||
    (cardKind c.w == 4 && (cardTable s c).waits)))

/-- What is delivered of two versions of some pieces, the first `n` bytes of the old one and the rest of the new one; the pieces of
the two correspond. -/
def splice : Nat → List (Nat × List Byte) → List (Nat × List Byte) → List (Nat × List Byte)
  | _, [], new => new
  | n, (off, bs) :: old, new =>
    if bs.length ≤ n then (off, bs) :: splice (n - bs.length) old new.tail
    else if n == 0 then new
    else match new with
      | [] => [(off, bs.take n)]
      | (_, b) :: r => (off, bs.take n) :: (off + n, b.drop n) :: r

/-- What a card delivers to a receiver, and its bytes. -/
def rcvOut (c : Card) (r : Receiver) : List (Nat × List Byte) := r.out.getD c.out
def outLen (c : Card) (r : Receiver) : Nat := ((rcvOut c r).map (·.2.length)).foldl (· + ·) 0

/-- The source of a copy card is read, for every receiver's area; that of a card that goes on after its checkpoint, for what each
receiver has not got yet (04 R67, 22 R379). -/
def copySetup (id : Nat) (c : Card) (s : State) : State :=
  let (pieces, e) := cardPieces s c ((c.rcv.head?.map (·.dest.toNat)).getD 0)
  let own (r : Receiver) : List (Nat × List Byte) := if cardXform c.w == 4 then (cardPieces s c r.dest.toNat).1 else pieces
  let rcv := if c.again then c.rcv.map fun r => { r with out := some (splice r.landed (rcvOut c r) (own r)) }
    else if cardXform c.w == 4 then c.rcv.map fun r => { r with out := some (own r) } else c.rcv
  let s := each (cardReads c) (fun a => spanTouch (cardDie c) c.ctx a.1 a.2 { r := true }) s
  if e != 0 && pieces.isEmpty && !c.again then endCard id e s
  else modCard id (fun c => { c with checked := true, again := false, out := pieces, rcv := rcv, broken := e }) s

/-- A card is checked, and set up when the check passes. -/
def cardCheck (id : Nat) (s : State) : State :=
  match cardAt s id with
  | none => s
  | some c =>
    if (c.checked && !c.again) || c.done || c.checkpointed || jobFrozen s c.ctx || cardWaits s id c then s
    else if cardBad c then endCard id Code.format s
    else
      match cardKind c.w with
      | 3 =>
        (match streamTarget s c with
         | none => endCard id Code.engineError s
         | some (fe, pl, port) =>
           if portIdle (feAt s fe) pl port then
             modCard id (fun c => { c with checked := true })
               (modPort fe pl port (fun p => { p with producer := .gather id, seq := 0 }) s)
           else endCard id Code.engineError s)
      | 4 =>
        let x := cardTable s c
        let s := readsGo (cardDie c) c.ctx x.spans s
        (match x.out with
         | .error m => endCard id (stopCode m) s
         | .ok none => endCard id Code.format s
         | .ok (some ls) => modCard id (fun c => { c with checked := true, levels := ls }) s)
      | _ => copySetup id c s

def execCardCheck (card : Nat) (s : State) : Result := .next (cardCheck card s)

/-! ### Landings (08 R136, 14 R237) -/

/-- The offset from DEST and the bytes left of the piece in which byte `n` of the output lies. -/
def pieceAt : Nat → List (Nat × List Byte) → Option (Nat × List Byte)
  | _, [] => none
  | n, (off, bs) :: rest => if n < bs.length then some (off + n, bs.drop n) else pieceAt (n - bs.length) rest

/-- The FE of a receiver, which its DEST names whatever that permits: as it stood when its first byte landed, or as it is now. -/
def rcvFe (s : State) (c : Card) (r : Receiver) : Option Nat :=
  match r.home with
  | some fe => some fe
  | none =>
    match ctxPa s c.ctx r.dest.toNat {} with
    | .ok pa => if ownModule s pa && paClass pa == 1 then feOfPa pa else none
    | .error _ => none

/-- A receiver fails: an error arrival, when it has an object and the card's context holds its FE, and nothing further; a
packet for an FE that another context holds is reported (04 R69). -/
def failRcv (id j : Nat) (s : State) : State :=
  match cardAt s id with
  | none => s
  | some c =>
    match c.rcv[j]? with
    | none => s
    | some r =>
      let s := modRcv id j (fun r => { r with failed := true }) s
      match rcvFe s c r with
      | some fe =>
        if !((feAt s fe).holder = some c.ctx) then report (.discarded c.ctx (ownPa s fe 0)) s
        else if r.bv then errorBar fe r.bar s
        else s
      | none => s

/-- The OPM slots that the bytes of a receiver's pieces land in, from its SLOT on. -/
def landSlots (c : Card) (r : Receiver) : List Nat := (rcvOut c r).flatMap fun p =>
  (List.range ((p.1 + p.2.length + 2047) / 2048 - p.1 / 2048)).map fun i => r.slot + p.1 / 2048 + i

/-- The cases of R237 that fail a receiver, whose DEST translates to `pa`, before a byte lands there. -/
def rcvBad (s : State) (c : Card) (r : Receiver) (pa : Nat) : Bool :=
  let pad := paClass pa == 1
  (r.opm && (!pad || paOff pa != 0 || (landSlots c r).any (fun i => decide (32 ≤ i)))) ||
    (!pad && (r.bv || c.want == 2)) ||
    (ownModule s pa && pad && (match feOfPa pa with
      | none => true
      | some fe =>
        let f := feAt s fe
        !(f.holder = some c.ctx) || (r.bv && (barAt f r.bar).st == .free) ||
          (r.opm && (landSlots c r).any fun i => (vget {} f.opm i).claim.isNone)))

/-- Credit landed bytes to the receiver's object, on the FE that its DEST names; a FREE object fails the receiver. -/
def creditRcv (id j n : Nat) (r : Receiver) (s : State) : State :=
  match r.home with
  | some fe =>
    if !r.bv || n == 0 then s
    else
      let (s, took) := arriveBar fe r.bar n s
      if took then s else failRcv id j s
  | none => s

/-- Bytes into OPM slots from byte `off` of the landing on. -/
def landOpm (slot off : Nat) (bs : List Byte) (f : FE) : FE :=
  bs.zipIdx.foldl (fun f p => putSlot (slot + (off + p.2) / 2048) ((off + p.2) % 2048) [p.1] f) f

/-- What an engine's access under a latch of its own does: it goes to an address; it stays for now; it parks; or it fails. -/
inductive Latching where
  | go (pa : Nat) (l : PaLatch) (fresh : Bool)
  | stay
  | park
  | fail (code : BitVec 8)
  deriving DecidableEq, Repr

/-- The access at an address whose latch a card keeps under `key` (09 R152, R154). -/
def latching (s : State) (c : Card) (key va : Nat) (need : Need) : Latching :=
  let old := KV.find key c.lats
  if (KV.find key c.parked).isSome then .stay
  else match latched s noFe (cardDie c) c.ctx old.join va need with
    | .ok (pa, l, fresh) => .go pa l fresh
    | .error (.refuse e) => if e == Code.dataPage && old == some none then .park else .fail e
    | .error _ => .stay

/-- A card parks at an address, and reports it (09 R154). -/
def parkCard (id key va : Nat) (s : State) : State := match cardAt s id with
  | some c => report (.park c.ctx (w64 va)) (modCard id (fun c => { c with parked := KV.set key va c.parked }) s)
  | none => s

/-- The address that the next packet of a receiver is for; all of an OPM landing goes by DEST. -/
def rcvVa (r : Receiver) (off : Nat) : Nat := if r.opm then r.dest.toNat else r.dest.toNat + off

/-- The packet's bytes at their home: memory, OPM slots or a scratchpad. -/
def landAtHome (r : Receiver) (pa off : Nat) (bs : List Byte) (s : State) : State :=
  match (if r.opm && ownModule s pa then feOfPa pa else none) with
  | some fe => modFe fe (landOpm r.slot off bs) s
  | none => homePut pa bs s

/-- The next packet of a receiver: up to a 64-byte boundary of its block (12 R182), and none across 4 KiB of the transfer, where a
card may be checkpointed (04 R67). -/
def nextPacket (c : Card) (r : Receiver) : Option (Nat × List Byte) :=
  (pieceAt r.landed (rcvOut c r)).map fun p =>
    (p.1, p.2.take (Nat.min (64 - (r.dest.toNat + p.1) % 64) (4096 - r.landed % 4096)))

/-- A packet of a card has had no reply in time: its record says so (10 R165, R166). -/
def packetLost (id : Nat) (code : BitVec 8) (s : State) : State :=
  if code == Code.linkTimeout then modCard id (fun c => { c with lost := true }) s else s

/-- ENGINE_PACKET_LANDING: the next packet of a copy card lands at receiver `j`, and its bytes are credited; those of the last one
after the follow-on. A receiver that an unreadable source leaves short fails (14 R407). -/
def landPacket (id j : Nat) (s : State) : State :=
  match cardAt s id with
  | none => s
  | some c =>
    match c.rcv[j]? with
    | none => s
    | some r =>
      if c.done || !c.checked || c.again || c.checkpointed || r.failed || jobFrozen s c.ctx then s
      else
        match nextPacket c r with
        | none => if c.broken != 0 && !r.whole then failRcv id j s else s
        | some (off, bs) =>
          let va := rcvVa r off
          let n := bs.length
          let d := cardDie c
          match latching s c j va { w := true } with
          | .stay => s
          | .park => parkCard id j va s
          | .fail e => failRcv id j (packetLost id e (refusedAt d c.ctx va none e s))
          | .go pa l fresh =>
            let s := if fresh then xlateTouch c.ctx va s else s
            if r.landed == 0 && rcvBad s c r pa then failRcv id j s
            else
              match meets s d c.ctx pa with
              | .wait => s
              | .refuse e => failRcv id j (packetLost id e (refusedAt d c.ctx va (some pa) e s))
              | .go =>
                let whole := r.landed + n == outLen c r && c.broken == 0
                let hold := whole && c.want == 2
                let home := r.home.orElse fun _ => rcvFe s c r
                let s := modCard id (fun c => { c with lats := KV.set j (some l) c.lats }) s
                let s := landAtHome r pa off bs (edgeTouch c.ctx pa true (takeWay d c.ctx pa s))
                let s := modRcv id j (fun r => { r with
                  landed := r.landed + n, whole := whole, owed := if hold then n else 0, home := home }) s
                if hold then s else creditRcv id j n { r with home := home } s

/-- A receiver that a packet can reach now, or that fails or parks now. -/
def landReady (s : State) (c : Card) (j : Nat) (r : Receiver) : Bool :=
  !r.failed && !c.again &&
    (match nextPacket c r with
      | none => c.broken != 0 && !r.whole
      | some (off, _) => match latching s c j (rcvVa r off) { w := true } with
        | .stay => false
        | .park | .fail _ => true
        | .go pa _ _ => (r.landed == 0 && rcvBad s c r pa) || meets s (cardDie c) c.ctx pa != .wait)

/-! ### Follow-on commands (19 R344) -/

/-- FOLLOW_ON_MMA: once the last byte has landed, the MMA enters the receiver's array queue, and then the last packet is
credited. -/
def follow (id j : Nat) (s : State) : State :=
  match cardAt s id with
  | none => s
  | some c =>
    match c.rcv[j]? with
    | none => s
    | some r =>
      if c.done || !c.checked || c.checkpointed || r.failed || r.fired || c.want != 2 || !r.whole || jobFrozen s c.ctx then s
      else
        match rcvFe s c r, followOn (nth c.w 4) with
        | some fe, some (x, ma, mb, fmt) =>
          let f := feAt s fe
          if mtileBusy f then s
          else if (vget {} f.opm ma.toNat).claim.isNone || (vget {} f.opm mb.toNat).claim.isNone then failRcv id j s
          else
            let s := arrEnter fe { seat := 0, hand := 0, op := .mma x ma mb fmt, card := some (id, j) } s
            creditRcv id j r.owed r (modRcv id j (fun r => { r with fired := true, owed := 0 }) s)
        | _, _ =>
          -- a receiver of another module: its queue is not of this machine
          modRcv id j (fun r => { r with fired := true, performed := true }) s

def execFollowOnMma (card rcv : Nat) (s : State) : Result := .next (follow card rcv s)

/-! ### Stream jobs (19 R343, 13 R204) -/

def jobRows (w : List W64) : Nat := fld (nth w 2) 63 32
def jobRowWords (w : List W64) : Nat := fld (nth w 2) 31 0 / 4
/-- Rows sent are in `prog`, words of the row in progress in `col`. -/
def jobVa (c : Card) : Nat := (nth c.w 1).toNat + c.prog * (nth c.w 4).toNat + 4 * c.col

/-- The port lets go of its job. -/
def freeProducer (c : Card) (s : State) : State :=
  match streamTarget s c with
  | some (fe, pl, port) =>
    modPort fe pl port (fun p => if p.producer == .gather c.id then { p with producer := .none } else p) s
  | none => s

/-- A job ends. -/
def jobClose (id : Nat) (st : BitVec 8) (s : State) : State :=
  match cardAt s id with
  | some c => freeProducer c (endCard id st s)
  | none => s

/-- A translation that fails, or a refused access, enters the port as an error token, and the card completes with that
code (19 R343). -/
def jobFail (id : Nat) (c : Card) (code : BitVec 8) (s : State) : State :=
  match streamTarget s c with
  | none => endCard id code s
  | some (fe, pl, port) => jobClose id code (windowSend fe pl port (errToken code c.col) s)

/-- Words of the next token: up to eight, within the row, the 256-byte segment and the latch; a word across the end of either is
one of its own. -/
def jobTake (c : Card) : Nat :=
  let upTo (e : Nat) : Nat := Nat.max 1 ((e - jobVa c) / 4)
  Nat.min 8 (Nat.min (jobRowWords c.w - c.col) (Nat.min (upTo ((jobVa c / 256 + 1) * 256)) (match c.latch with
    | some (_, e, _) => upTo e
    | none => 8)))

/-- The address past the last byte that a job has read. -/
def jobRead (c : Card) : Option Nat :=
  if c.col != 0 then some (jobVa c)
  else if c.prog == 0 then none
  else some ((nth c.w 1).toNat + (c.prog - 1) * (nth c.w 4).toNat + 4 * jobRowWords c.w)

/-- A job stands between two segments: its next word is not wholly in the one that it read last (13 R204). -/
def jobBetween (c : Card) : Bool := match jobRead c with
  | some e => e == 0 || (jobVa c + 3) / 256 != (e - 1) / 256
  | none => true

/-- The window has room for the next token, and for a whole segment when it is the first of one: a request goes at most 63 ahead
of the oldest token not delivered (13 R203). -/
def jobRoom (p : PortState) (c : Card) : Bool := decide (p.window.length + (if jobBetween c then 9 else 1) ≤ 64)

/-- The accesses of the next token. -/
def jobSpan (s : State) (c : Card) : Span := engineSpan s (cardDie c) c.ctx (jobVa c) (4 * jobTake c) { r := true } c.latch

/-- One data token of a stream job: its segment requests go to the gather units that serve them (13 R204), at most 63 ahead of
the oldest token not delivered (13 R203). -/
def jobStep (id : Nat) (s : State) : State :=
  match cardAt s id with
  | none => s
  | some c =>
    match streamTarget s c with
    | none => if c.done || !c.checked then s else endCard id Code.engineError s
    | some (fe, pl, port) =>
      if c.done || !c.checked || c.checkpointed || cardKind c.w != 3 || jobFrozen s c.ctx ||
          !jobRoom (portOf (feAt s fe) pl port) c then s
      else
        let rows := jobRows c.w
        let len := jobRowWords c.w
        if rows ≤ c.prog then jobClose id 0 s
        else if len == 0 then
          (let s := windowSend fe pl port (flagToken true (c.prog + 1 == rows)) (modCard id (fun c => { c with prog := c.prog + 1 }) s)
           if c.prog + 1 == rows then jobClose id 0 s else s)
        else if (latchHas c.latch (jobVa c)).isNone then s
        else
          let p := jobSpan s c
          match p.stop with
          | .wait => s
          | .refuse code => jobFail id c code (spanGo (cardDie c) c.ctx false p s)
          | .go =>
            let k := jobTake c
            let ws := words32 k (spanBytes s p)
            let s := spanGo (cardDie c) c.ctx false p s
            let eor := c.col + k == len
            let fin := eor && c.prog + 1 == rows
            let s := modCard id (fun c => if eor then { c with prog := c.prog + 1, col := 0 } else { c with col := c.col + k }) s
            let s := windowSend fe pl port (mkToken (ws.map fun w => (w, false)) eor fin) s
            if fin then jobClose id 0 s else s

/-- Whether a stream job must translate before its next read. -/
def jobNeedsLatch (c : Card) : Bool :=
  c.checked && !c.done && cardKind c.w == 3 && decide (c.prog < jobRows c.w) && jobRowWords c.w != 0 &&
    (latchHas c.latch (jobVa c)).isNone

/-- A stream job latches the translation of its next read; a failure enters the port as an error token, and the card
completes with that code; one that a re-latch token has made translate anew parks while nothing maps its address (09 R154). -/
def jobRelatch (id : Nat) (s : State) : State :=
  match cardAt s id with
  | none => s
  | some c =>
    let va := jobVa c
    if !jobNeedsLatch c || c.checkpointed || !c.parked.isEmpty || jobFrozen s c.ctx then s
    else
      match latchNew s noFe (cardDie c) c.ctx va { r := true } with
      | .ok l => modCard id (fun c => { c with latch := some l, dropped := false }) (xlateTouch c.ctx va s)
      | .error (.refuse code) =>
        if c.dropped && code == Code.dataPage then parkCard id 0 va s
        else jobFail id c code (refusedAt (cardDie c) c.ctx va none code s)
      | .error _ => s

/-- ENGINE_PACKET_LANDING: for a stream job, its next latch or token. -/
def execEnginePacketLanding (card rcv : Nat) (s : State) : Result :=
  .next (match cardAt s card with
    | some c =>
      if cardKind c.w == 3 then (if jobNeedsLatch c then jobRelatch card s else jobStep card s)
      else landPacket card rcv s
    | none => s)

/-! ### The end of a card (14 R239, R240) -/

/-- Whether every event of a copy card has been performed, a follow-on that has entered its queue among them. -/
def copyOver (c : Card) : Bool :=
  c.checked && isCopy (cardKind c.w) && c.rcv.all fun r =>
    if r.failed then !r.fired || r.performed
    else r.whole && (c.want != 2 || r.performed)

def cardOver (c : Card) : Bool := c.done || copyOver c

def rcvMask (c : Card) : Nat := c.rcv.zipIdx.foldl (fun acc p => acc + bitAt p.1.failed p.2) 0

/-- Bytes landed at receivers that have not failed, or elements reduced. -/
def cardBytes (c : Card) : Nat :=
  if cardKind c.w == 4 then c.reduced
  else if cardKind c.w == 3 then 4 * (c.prog * jobRowWords c.w + c.col)
  else ((c.rcv.filter fun r => !r.failed).map (·.landed)).foldl (· + ·) 0

/-- STATUS of a card's record (08 R136). -/
def cardStatus (c : Card) : BitVec 8 :=
  if c.status != 0 then c.status
  else if c.broken != 0 then c.broken
  else if c.lost then Code.linkTimeout
  else if c.rcv.isEmpty || c.rcv.all (fun r => !r.failed) then 0
  else if c.rcv.all (·.failed) then Code.engineError
  else Code.multicastPartial

/-- COMPLETION_RECORD_POST: the card's record goes to its poster, and the card is no longer outstanding; one that a node
posted waits for the node's completion. -/
def cardRecord (id : Nat) (s : State) : State :=
  match cardAt s id with
  | none => s
  | some c =>
    if !cardOver c || jobFrozen s c.ctx then s
    else
      match c.poster with
      | .node _ => modCard id (fun c => { c with done := true, status := cardStatus c }) s
      | .seat fe k =>
        let bad := c.status != 0 && isCopy (cardKind c.w)
        let s := postFor fe k (cardTag c.w) (cardStatus c) c.source (if bad then 0 else rcvMask c)
          (if bad then 0 else cardBytes c) s
        let s := modSeat fe k (fun t => { t with cards := t.cards.filter (· != id) }) s
        { s with cards := KV.drop id s.cards }

def execCompletionRecordPost (card : Nat) (s : State) : Result := .next (cardRecord card s)

/-- A card has had no reply in time (10 R166): a job's port gets an error token; the receivers of a copy card that have not got
their last byte fail, each with an error arrival, and its record carries LINK_TIMEOUT. -/
def cardLost (id : Nat) (c : Card) (s : State) : State :=
  match cardKind c.w with
  | 3 => jobFail id c Code.linkTimeout s
  | 4 => endCard id Code.linkTimeout s
  | _ =>
    let open_ := (c.rcv.zipIdx.filter fun p => !p.1.failed && !p.1.whole).map (·.2)
    each open_ (failRcv id) (modCard id (fun c => { c with lost := true }) s)

/-! ### CARDSTAT (19 R348) -/

def cardstat (s : State) (t : Seat) (tag : Nat) : W64 :=
  match (t.cards.filterMap (cardAt s)).find? fun c => (cardTag c.w).toNat == tag with
  | some c => w64 (2 ^ 63 + c.source.toNat * 2 ^ 48 + cardBytes c % 2 ^ 48)
  | none => 0

def execCardstat (d b : Reg) (q : Sel) (s : State) : Result :=
  .next (issue 8 q (fun s h => wrS d (cardstat s (cur s) (fld (rdS h b) 15 0)) h) s)

end Sys2Proof.Machine
end

