-- ==== Sys2Proof/Machine/Coll.lean ====
section
/-!
DEFINITION. Collectives (13 R213 to R216, 19 R345), one ring step at a time, and the checkpoint of a card (04 R67). This
model holds one module: what a peer sends is a free wire value.
-/

namespace Sys2Proof.Machine

/-! ### Ranges and chunks (13 R214) -/

/-- Elements of a block unit by WIRE. -/
def unitElems (wire : Nat) : Nat := match wire with
  | 2 | 3 | 4 => 62
  | 5 => 124
  | _ => 1

/-- Chunk `j` of a range of elements at a level: first element and the one past its last. -/
def chunkOf (l : CollLevel) (r : Nat × Nat) (j : Nat) : Nat × Nat :=
  let b := unitElems l.wire
  let p := l.members.length
  let nb := cdiv (r.2 - r.1) b
  (Nat.min r.2 (r.1 + b * (j * nb / p)), Nat.min r.2 (r.1 + b * ((j + 1) * nb / p)))

/-- The range that level `n` works on: this module's own chunk of each level below. -/
def rangeAt (r : Nat × Nat) : List CollLevel → Nat → Nat × Nat
  | _, 0 => r
  | [], _ + 1 => r
  | l :: rest, n + 1 => rangeAt (chunkOf l r l.me) rest n

/-! ### Wire values (13 R215) -/

def fp32Of (x : FV) : W32 := w32 (roundTo .fp32 false rne x).1
def fvOf (w : W32) : FV := Fmt.decode .fp32 w.toNat

/-- FMT of a block by WIRE. -/
def wireFmt (wire : Nat) : Nat := match wire with
  | 2 => 0x81
  | 3 => 0x82
  | 4 => 0x83
  | _ => 0x41

/-- The first `n` elements of consecutive blocks. -/
def blocksFV (per n : Nat) (bs : List Byte) : List FV :=
  (List.range n).map fun i => blockElem ((bs.drop (64 * (i / per))).take 64) (i % per)

/-- Decode(Encode(v)) without residuals. -/
def wireTrip (l : CollLevel) (vals : List FV) : List FV :=
  match l.wire with
  | 0 => vals
  | 1 => vals.map fun v => Fmt.decode .bf16 (roundTo .bf16 false rne v).1
  | w => blocksFV (unitElems w) vals.length (quantRow (wireFmt w) (if w == 5 then l.type else 0) vals)

/-- `n` free words. -/
def freeWords : Nat → State → List W64 × State
  | 0, s => ([], s)
  | n + 1, s =>
    let (v, s) := freeWord s
    let (l, s) := freeWords n s
    (v :: l, s)

/-- A block that a peer sends: its format is the level's, the rest is free. -/
def freeBlock (l : CollLevel) (s : State) : List Byte × State :=
  let (ws, s) := freeWords 8 s
  let bs := ws.flatMap fun w => (List.range 8).map fun i => BitVec.ofNat 8 (w.toNat / 256 ^ i)
  let sc := (bs.getD 1 0).toNat
  let ty := if l.wire != 5 then 0 else if l.type == 4 then sc / 64 else l.type
  (BitVec.ofNat 8 (wireFmt l.wire) :: BitVec.ofNat 8 (64 * ty + sc % 64) :: bs.drop 2, s)

def freeBlocks (l : CollLevel) : Nat → State → List Byte × State
  | 0, s => ([], s)
  | n + 1, s =>
    let (b, s) := freeBlock l s
    let (r, s) := freeBlocks l n s
    (b ++ r, s)

/-- The decoded values of `n` elements that a peer sends (log 23). -/
def freeWire (l : CollLevel) (n : Nat) (s : State) : List FV × State :=
  match l.wire with
  | 0 => let (ws, s) := freeWords n s; (ws.map fun w => Fmt.decode .fp32 (w.toNat % 2 ^ 32), s)
  | 1 => let (ws, s) := freeWords n s; (ws.map fun w => Fmt.decode .bf16 (w.toNat % 2 ^ 16), s)
  | w => let (bs, s) := freeBlocks l (cdiv n (unitElems w)) s; (blocksFV (unitElems w) n bs, s)

/-! ### Memory of the card's context -/

/-- The accesses of a collective to an area, under the latch that it keeps for it (09 R152). -/
def cardSpan (s : State) (c : Card) (key va n : Nat) (need : Need) : Span :=
  engineSpan s (cardDie c) c.ctx va n need (KV.find key c.lats).join

/-- Bytes that a collective reads in a step that begins at `s`, as many as can be read, and why the next cannot. -/
def cardRead (s : State) (c : Card) (key va n : Nat) : List Byte × BitVec 8 :=
  let p := cardSpan s c key va n { r := true }
  (spanBytes s p, stopCode p.stop)

/-- Write bytes as a collective lands them in a step that begins at `s0`; the state keeps those written before one that cannot
be. -/
def cardPut (s0 : State) (c : Card) (key va : Nat) (bs : List Byte) (s : State) : State × BitVec 8 :=
  let p := cardSpan s0 c key va bs.length { w := true }
  (spanPut p.parts bs s, stopCode p.stop)

/-- The keys of a card's latches: its source, its destination, the residuals of a level. -/
def srcKey : Nat := 0
def dstKey : Nat := 1
def resKey (n : Nat) : Nat := 2 + n

/-- Encode at this member (13 R215) at level `n`: the values sent, decoded again; residuals are read and written. -/
def encode215 (s0 : State) (c : Card) (n i : Nat) (l : CollLevel) (vals : List FV) (s : State) : List FV × State × BitVec 8 :=
  if !l.res then (wireTrip l (vals.map fun v => fvOf (fp32Of v)), s, 0)
  else
    let (rb, e) := cardRead s0 c (resKey n) (l.resBase + 4 * i) (4 * vals.length)
    if e != 0 then ([], s, e)
    else
      let t := (vals.zip (elemsOf 4 rb)).map fun p => fvOf (fp32Of (addFV 0 p.1 (Fmt.decode .fp32 p.2)).1)
      let w := wireTrip l t
      let (s, e) := cardPut s0 c (resKey n) (l.resBase + 4 * i)
        (packBytes 4 ((t.zip w).map fun p => (fp32Of (addFV 0 p.1 (negFV p.2)).1).toNat)) s
      (w, s, e)

/-- Working values of elements `a` to `b - 1`. -/
def workAt (c : Card) (r : Nat × Nat) : List FV := (List.range (r.2 - r.1)).map fun i => fvOf (KV.get 0 (r.1 + i) c.work)
def putWork (id a : Nat) (vals : List FV) (s : State) : State :=
  modCard id (fun c => { c with work := vals.zipIdx.foldl (fun m p => KV.set (a + p.2) (fp32Of p.1) m) c.work }) s

/-- The final store of elements `r`. -/
def storeOut (s0 : State) (id : Nat) (r : Nat × Nat) (s : State) : State :=
  match cardAt s id with
  | none => s
  | some c =>
    let n := collBytes c.w
    let out (x : FV) : Nat := if n == 4 then (fp32Of x).toNat else (roundTo .bf16 false rne x).1
    let (s, e) := cardPut s0 c dstKey ((nth c.w 5).toNat + n * r.1) (packBytes n ((workAt c r).map out)) s
    if e != 0 then endCard id e s else s

/-! ### COLL_RING_STEP -/

def collOp (c : Card) : Nat := fld (nth c.w 3) 7 4

/-- The ring steps of a collective in order: gather or reduce, level, step of the level. A broadcast goes around the ring of
each level, from the top level down, in one step less than the ring has members. -/
def collPlan (c : Card) : List (Bool × Nat × Nat) :=
  let at' (g : Bool) (less : Nat) (p : CollLevel × Nat) : List (Bool × Nat × Nat) :=
    (List.range (p.1.members.length - less)).map fun k => (g, p.2, k)
  let red := c.levels.zipIdx.flatMap (at' false 0)
  let gat := c.levels.zipIdx.reverse.flatMap (at' true 0)
  match collOp c with
  | 0 => red ++ gat
  | 1 => red
  | 2 => gat
  | _ => c.levels.zipIdx.reverse.flatMap (at' true 1)

def noLevel : CollLevel := { members := [], me := 0, wire := 0, type := 0, res := false, resBase := 0 }

/-- The links from a card's engine to the next member of a level, its port last, and those from the previous one; none where
a module has no route. An engine whose port is on the other X-die crosses the splices between them (02 R22). -/
def ringLinks (s : State) (c : Card) (l : CollLevel) : Option (List Nat × List Nat) :=
  let p := l.members.length
  let peer (i : Nat) : Option Nat := routePort s (l.members.getD (i % p) 0)
  match peer (l.me + 1), peer (l.me + p - 1) with
  | some a, some b =>
    some (hopRoute (cardDie c) (8 + portX a) ++ [riggingKey a], hopRoute (8 + portX b) (cardDie c) ++ [riggingKey b])
  | _, _ => none

/-- The elements that step (`g`, `n`, `k`) of a collective works on. -/
def stepChunk (c : Card) (g : Bool) (n k : Nat) : Nat × Nat :=
  let l := c.levels.getD n noLevel
  let p := l.members.length
  chunkOf l (rangeAt (0, cardLen c.w) c.levels n) ((l.me + (if g then p else 2 * p - 1) - k) % p)

/-- The range that is the source of a collective at this module: all of it to reduce, the module's own elements to gather, the
root's to broadcast. -/
def sourceRange (s : State) (c : Card) : Nat × Nat :=
  let n := cardLen c.w
  match collOp c with
  | 0 | 1 => (0, n)
  | 2 => rangeAt (0, n) c.levels c.levels.length
  | _ => if fld (nth c.w 6) 9 0 == s.moduleId.toNat then (0, n) else (0, 0)

/-- An area that a step reads or writes: the key of its latch, its address and bytes, and what it needs. -/
structure Area where
  key : Nat
  va : Nat
  n : Nat
  need : Need
  deriving DecidableEq, Repr

/-- The memory that the next step reads or writes. -/
def stepAreas (s : State) (c : Card) : List Area :=
  let b := collBytes c.w
  let out (r : Nat × Nat) : Area := { key := dstKey, va := (nth c.w 5).toNat + b * r.1, n := b * (r.2 - r.1), need := { w := true } }
  let final := c.prog == (collPlan c).length
  if c.prog == 0 then
    (let r := sourceRange s c
     [{ key := srcKey, va := (nth c.w 1).toNat + b * r.1, n := b * (r.2 - r.1), need := { r := true } }])
  else
    match (collPlan c)[c.prog - 1]? with
    | none => []
    | some (g, n, k) =>
      let l := c.levels.getD n noLevel
      let ch := stepChunk c g n k
      if collOp c == 3 then (if final then [out (0, cardLen c.w)] else [])
      else if g then (if n == 0 then [out ch] else [])
      else
        (if l.res && k + 1 != l.members.length then
          [{ key := resKey n, va := l.resBase + 4 * ch.1, n := 4 * (ch.2 - ch.1), need := { r := true, w := true } }] else []) ++
        (if final && collOp c == 1 then [out (rangeAt (0, cardLen c.w) c.levels c.levels.length)] else [])

/-- The accesses of the next step to one of its areas. -/
def areaAccess (s : State) (c : Card) (a : Area) : Span := cardSpan s c a.key a.va a.n a.need

/-- An area that the next step cannot reach yet, or that its card is parked at. -/
def areasWait (s : State) (c : Card) : Bool :=
  (stepAreas s c).any fun a => (KV.find a.key c.parked).isSome || (areaAccess s c a).stop == .wait

/-- An area that nothing maps after a re-latch token, and where: the engine parks (09 R154). -/
def areasPark (s : State) (c : Card) : Option (Nat × Nat) := (stepAreas s c).findSome? fun a =>
  let p := areaAccess s c a
  if KV.find a.key c.lats == some none && p.stop == .refuse Code.dataPage then some (a.key, p.stopVa) else none

/-- What a collective does next: 0 it waits, 1 it goes on, 2 a peer cannot answer (10 R166), 3 it parks. -/
def ringState (s : State) (c : Card) : Nat :=
  if areasWait s c then 0
  else if (areasPark s c).isSome then 3
  else
    match (collPlan c)[c.prog - 1]? with
    | none => 1
    | some (_, n, k) =>
      if c.prog == 0 || (k == 0 && collOp c == 2) then 1
      else match ringLinks s c (c.levels.getD n noLevel) with
        | none => 2
        | some (out, back) =>
          if routeDead s (out ++ back) then 2
          else if routeClear s (ctxAt s c.ctx).job false out then 1 else 0

/-- Read the source, as it is at `s0`. -/
def collLoad (s0 : State) (id : Nat) (c : Card) (s : State) : State :=
  let r := sourceRange s c
  let b := collBytes c.w
  let (l, e) := cardRead s0 c srcKey ((nth c.w 1).toNat + b * r.1) (b * (r.2 - r.1))
  if e != 0 then endCard id e s
  else modCard id (fun c => { c with
    prog := 1, work := (elemsOf b l).zipIdx.map fun p => (r.1 + p.2, collElem c.w p.1) }) s

/-- The step at which a broadcast reaches this module: that of its distance from the root on the first ring that holds both,
and the last step where none does, the ring's own source being unknown then (log 23). -/
def arrivesAt (c : Card) : Nat :=
  let root := fld (nth c.w 6) 9 0
  let plan := collPlan c
  (findIdx (fun (x : Bool × Nat × Nat) =>
    let l := c.levels.getD x.2.1 noLevel
    match findIdx (· == root) l.members with
    | some i => (l.me + l.members.length - i) % l.members.length == x.2.2 + 1
    | none => false) plan).getD (plan.length - 1)

/-- Broadcast: the root's bytes go around each ring unchanged; what arrives from another module is free. -/
def broadcastStep (s0 : State) (id : Nat) (c : Card) (s : State) : State :=
  let n := cardLen c.w
  let b := collBytes c.w
  let arrives := fld (nth c.w 6) 9 0 != s.moduleId.toNat && arrivesAt c == c.prog - 1
  let (work, s) :=
    if arrives then
      (let (ws, s) := freeWords n s
       (ws.zipIdx.map fun p => (p.2, collElem c.w (p.1.toNat % 2 ^ (8 * b))), s))
    else (c.work, s)
  let s := modCard id (fun c => { c with work := work }) s
  if c.prog < (collPlan c).length then s
  else
    let vals := (List.range n).map fun i => (KV.get 0 i work).toNat / (if b == 4 then 1 else 65536)
    let (s, e) := cardPut s0 c dstKey (nth c.w 5).toNat (packBytes b vals) s
    if e != 0 then endCard id e s else s

/-- A step of reduction at level `n`: the chunk that stands at this member is encoded and sent on, or finished. -/
def reduceStep (s0 : State) (id n k : Nat) (c : Card) (s : State) : State :=
  let l := c.levels.getD n noLevel
  let p := l.members.length
  let ch := stepChunk c false n k
  let x := workAt c ch
  let (acc, s) :=
    if k == 0 then (x, s)
    else
      (let (w, s) := freeWire l (ch.2 - ch.1) s
       ((w.zip x).map fun p => fvOf (fp32Of (addFV 0 p.1 p.2).1), s))
  let s := if k == 0 then s else modCard id (fun c => { c with reduced := c.reduced + (ch.2 - ch.1) }) s
  if k + 1 == p then putWork id ch.1 acc s
  else
    let (_, s, e) := encode215 s0 c n ch.1 l acc s
    if e != 0 then endCard id e s else s

/-- A step of gathering at level `n`: this member's own chunk as the wire carries it, or a chunk that arrives. -/
def gatherStep (s0 : State) (id n k : Nat) (c : Card) (s : State) : State :=
  let l := c.levels.getD n noLevel
  let ch := stepChunk c true n k
  let (v, s) := if k == 0 then (wireTrip l (workAt c ch), s) else freeWire l (ch.2 - ch.1) s
  let s := putWork id ch.1 v s
  if n == 0 then storeOut s0 id ch s else s

/-- A ring step that can go on, from the state `s0` at its start: the elements of its chunk over the links, and its memory. -/
def ringGo (s0 : State) (id : Nat) (c : Card) (g : Bool) (n k : Nat) (s : State) : State :=
  let s := match ringLinks s c (c.levels.getD n noLevel) with
    | some (out, _) => each out (crossLink c.ctx) s
    | none => s
  let s := if collOp c == 3 then broadcastStep s0 id c s else if g then gatherStep s0 id n k c s else reduceStep s0 id n k c s
  let s := modCard id (fun c => { c with prog := c.prog + 1 }) s
  if c.prog < (collPlan c).length then s
  else
    let s := if collOp c == 1 then storeOut s0 id (rangeAt (0, cardLen c.w) c.levels c.levels.length) s else s
    modCard id (fun c => { c with done := true, reduced := if c.status == 0 then cardLen c.w else c.reduced }) s

/-- The accesses that the next step makes; their translations stay latched. -/
def stepTouch (id : Nat) (c : Card) (s : State) : State :=
  each (stepAreas s c) (fun a s =>
    let p := areaAccess s c a
    modCard id (fun x => { x with lats := match p.latch with
      | some l => KV.set a.key (some l) x.lats
      | none => x.lats }) (spanGo (cardDie c) c.ctx a.need.w p s)) s

/-- One step of a collective; the last one ends its card. -/
def ringStep (id : Nat) (s : State) : State :=
  match cardAt s id with
  | none => s
  | some c =>
    if cardKind c.w != 4 || !c.checked || c.done || c.checkpointed || jobFrozen s c.ctx then s
    else
      match ringState s c, (if c.prog == 0 then none else (collPlan c)[c.prog - 1]?) with
      | 0, _ => s
      | 1, some (g, n, k) => ringGo s id c g n k (stepTouch id c s)
      | 1, none => if c.prog == 0 then collLoad s id c (stepTouch id c s) else endCard id 0 s
      | 3, _ => (match areasPark s c with
        | some (key, va) => parkCard id key va s
        | none => s)
      | _, _ => endCard id Code.linkTimeout s

def execCollRingStep (card : Nat) (s : State) : Result := .next (ringStep card s)

/-! ### CARD_CHECKPOINT (04 R67, 13 R216, 18 R319) -/

/-- A card of a context under pre-emption stops at its next boundary: 4 KiB of transfer, a ring step, or a 256-byte segment of
a stream job's source (13 R204, R216). -/
def atBoundary (c : Card) : Bool :=
  if cardKind c.w == 3 then !c.checked || jobBetween c
  else !isCopy (cardKind c.w) || c.rcv.all fun r => r.failed || r.landed % 4096 == 0 || r.landed == outLen c r

/-- The card's seat waits at a commit for one of its cards to complete (19 R341). -/
def cardAwaited (s : State) (c : Card) : Bool :=
  match c.poster with
  | .node _ => false
  | .seat fe k =>
    let t := seatAt s fe k
    decide (64 ≤ t.cards.length) && (match t.hand with
      | some h => decide (h.slots.length ≤ h.slot)
      | none => false)

def checkpoint (id : Nat) (s : State) : State :=
  match cardAt s id with
  | none => s
  | some c =>
    if (ctxAt s c.ctx).st == .preempting && !cardOver c && !c.checkpointed && !cardAwaited s c && atBoundary c then
      modCard id (fun c => { c with checkpointed := true, latch := none, lats := [] }) s
    else s

def execCardCheckpoint (card : Nat) (s : State) : Result := .next (checkpoint card s)

end Sys2Proof.Machine
end

