-- ==== Sys2Proof/Machine/Launch.lean ====
section
/-!
DEFINITION. Launches and groups (06 R90 to R105): the check of a launch record and of its image, placement by region and by
deal, seats at their first hand, retirement.
-/

namespace Sys2Proof.Machine

/-! ### The launch record (06 R90, R92) -/

def prod (l : List Nat) : Nat := l.foldl (· * ·) 1

def levelOf (w : List W64) (i : Nat) : Level :=
  let a := nth w (16 + 2 * i)
  let b := nth w (17 + 2 * i)
  { gang := bit a 40, count := fld a 39 16, domain := fld a 10 8, w := fld b 14 8, h := fld b 5 0 }

def recLevels (w : List W64) : List Level := (List.range (fld (nth w 0) 10 8 + 1)).map (levelOf w)

/-- A reserved bit of a record is set. -/
def recReserved (w : List W64) : Bool :=
  let z (i hi lo : Nat) : Bool := fld (nth w i) hi lo == 0
  let n := fld (nth w 0) 10 8 + 1
  !(z 0 63 42 && z 0 31 23 && z 0 13 11 && z 0 7 2 && z 4 2 0 && z 6 31 19 && z 7 63 32 &&
    (List.range 7).all (fun i => nth w (9 + i) == 0) &&
    (List.range 8).all (fun i =>
      if i < n then z (16 + 2 * i) 63 41 && z (16 + 2 * i) 15 11 && z (16 + 2 * i) 7 0 && z (17 + 2 * i) 63 15 &&
        z (17 + 2 * i) 7 6
      else nth w (16 + 2 * i) == 0 && nth w (17 + 2 * i) == 0))

/-- Domains rise strictly. -/
def rising : List Nat → Bool
  | a :: b :: r => decide (a < b) && rising (b :: r)
  | _ => true

/-- The limit of COUNT by DOMAIN. -/
def countMax : Nat → Nat
  | 0 => 1
  | 2 => 8
  | 4 => 50
  | 5 => 64
  | 6 => 4
  | _ => 2 ^ 24

/-- The levels of a record are malformed, apart from its use mask. W and H of a level other than a region's are 0, in deal mode
too (DESIGN CHOICE, log 110). -/
def levelsBad (w : List W64) (ls : List Level) : Bool :=
  let region := !bit (nth w 0) 0
  let mb := fld (nth w 0) 41 32
  let doms := ls.map (·.domain)
  let seats := match ls.getLast? with
    | some l => l.count
    | none => 0
  doms.any (· == 7) || !rising doms || doms.getLast? != some 6 ||
  ls.any (fun l => l.count == 0 || decide (countMax l.domain < l.count) ||
    (l.domain == 1 && decide (1023 < mb + l.count - 1)) ||
    (if l.domain == 3 then l.w == 0 || decide (64 < l.w) || l.h == 0 || decide (40 < l.h) else l.w != 0 || l.h != 0)) ||
  (if region then !doms.contains 3 || doms.contains 4 || !doms.contains 5
   else doms.contains 3 || !doms.contains 5 || nth w 8 != 0) ||
  decide (384 < fld (nth w 0) 22 14) || decide (fld (nth w 6) 18 0 < 0x200) || fld (nth w 6) 18 0 % 0x40 != 0 ||
  decide (0x60000 < seats * fld (nth w 6) 18 0) || fld (nth w 1) 2 0 != 0 || decide (2 ^ 32 < prod (ls.map (·.count)))

/-- Set positions of a use mask of `n` bits with rows of width `w`, in row-major order. -/
def maskPos (w n : Nat) (bs : List Byte) : List (Nat × Nat) :=
  (List.range n).filterMap fun j => if (bs.getD (j / 8) 0).getLsbD (j % 8) then some (j % w, j / w) else none

/-! ### The program image (14 R234, 07 R107 to R109) -/

def stageOf (a b : W64) : StageEntry :=
  { hand := a, const := w32 (fld b 63 32), planes := BitVec.ofNat 4 (fld b 7 4), seat := fld b 3 2 }

/-- A cascade descriptor, before its region is placed. -/
def cascOf (cid : Nat) (w : List W64) (stages : List StageEntry) : Cascade :=
  let a := nth w 0
  { id := 0, launch := 0, ctx := 0, cid := cid, rank := fld a 57 52, d := fld a 51 42, x0 := fld a 41 36, y0 := fld a 35 30
    span := fld a 29 23, w := fld a 22 17, h := fld a 16 12, fmt := fld a 11 9, rpol := fld a 8 7, cpol := fld a 6 5
    nrows := fld (nth w 1) 63 32, lw := fld (nth w 1) 31 19, base := fld (nth w 1) 18 0
    src := nth w 2, spitch := fld (nth w 3) 47 0, dst := nth w 4, dpitch := fld (nth w 5) 47 0
    stages := stages, die := 0, bx := 0, bY := 0, st := .declared }

/-- Element size of a cascade. -/
def cascEsize (c : Cascade) : Nat := if c.fmt == 0 || c.fmt == 3 then 4 else 2

/-- Where rank FE `i` of stage `k` lies relative to the region base (07 R110). -/
def stagePos (c : Cascade) (k i : Nat) : Nat × Nat :=
  let b := k / c.span
  let p := k % c.span
  (c.x0 + (if b % 2 == 0 then p else c.span - 1 - p), c.y0 + b * c.rank + i)

/-- Words of a bight row, and of the bight area of stage `k` (07 R112). -/
def bightCols (c : Cascade) : Nat := c.lw + 2 * c.h
def bightRows (c : Cascade) (k : Nat) : Nat := c.w + (if c.rpol == 3 then 2 * c.h else 0) + (if k + 1 == c.d then 1 else 0)

/-- A descriptor is out of its ranges. -/
def cascBad (w : List W64) (ents : List (W64 × W64)) (c : Cascade) : Bool :=
  let cols := c.rank * c.lw
  let es := cascEsize c
  fld (nth w 0) 63 58 != 0 || fld (nth w 0) 4 0 != 0 || fld (nth w 3) 63 48 != 0 || fld (nth w 5) 63 48 != 0 ||
  nth w 6 != 0 || nth w 7 != 0 || decide (4 < c.fmt) || c.rank == 0 || decide (40 < c.rank) || c.d == 0 || decide (512 < c.d) ||
  decide (39 < c.y0) || c.span == 0 || decide (64 < c.span) || decide (33 < c.w) || decide (16 < c.h) ||
  decide (2 ^ 32 - 17 < c.nrows) || c.lw == 0 || decide (4096 < c.lw) || c.base % 0x40 != 0 || c.src.toNat % 64 != 0 ||
  c.dst.toNat % 64 != 0 || c.spitch % 64 != 0 || c.dpitch % 64 != 0 ||
  decide (c.w < 2 * c.h + 1) || (decide (1 < c.rank) && decide (c.lw < c.h)) || (decide (cols ≤ c.h) && decide (2 ≤ c.cpol)) ||
  (c.rpol == 3 && decide (1 < c.d)) || decide (c.spitch < cols * es) || decide (c.dpitch < cols * es) ||
  ents.any (fun e => fld e.1 2 0 != 0 || fld e.2 31 8 != 0 || fld e.2 1 0 != 0)

/-- The descriptors of a cascade table and whether one is bad, as the CP reads them. -/
def readCascs (s : State) (ctx : Nat) : Nat → Nat → Nat → Reads (List Cascade × Bool)
  | _, _, 0 => .done ([], false)
  | cid, va, n + 1 =>
    (readWords s cpDie ctx va 8).andThen fun w =>
      let d := fld (nth w 0) 51 42
      (readWords s cpDie ctx (va + 64) (2 * d)).andThen fun e =>
        let ents := (List.range d).map fun k => (nth e (2 * k), nth e (2 * k + 1))
        let c := cascOf cid w (ents.map fun p => stageOf p.1 p.2)
        (readCascs s ctx (cid + 1) (va + roundUp (64 + 16 * d) 64) n).map fun x => (c :: x.1, x.2 || cascBad w ents c)

/-- The address at an offset from another, none below it: past 64 bits it is one that no translation holds (14 R234). -/
def addrAfter (va off : Nat) : W64 := if va + off < 2 ^ 64 then w64 (va + off) else BitVec.allOnes 64

/-- The image of a launch: its cascades, its plane table and whether a reserved bit or a field is bad. IMAGE = 0 names no image
(log 36). -/
def readImage (s : State) (ctx : Nat) (va : Nat) : Reads (List Cascade × List (W64 × Nat × W64) × Bool) :=
  if va == 0 then .done ([], [], false)
  else
    (readWords s cpDie ctx va 8).andThen fun h =>
      let n := fld (nth h 0) 23 16
      (readWords s cpDie ctx (va + (nth h 2).toNat) (2 * n)).andThen fun t =>
        let bad := fld (nth h 0) 63 24 != 0 || fld (nth h 0) 15 4 != 0 || decide (8 < fld (nth h 0) 3 0) ||
          fld (nth h 1) 5 0 != 0 || fld (nth h 2) 3 0 != 0 || (List.range 5).any (fun i => nth h (3 + i) != 0) ||
          (List.range n).any (fun i => bit (nth t (2 * i + 1)) 2)
        let plns := (List.range n).map fun i =>
          (nth t (2 * i), fld (nth t (2 * i + 1)) 1 0, addrAfter va (fld (nth t (2 * i + 1)) 63 3 * 8))
        (readCascs s ctx 0 (va + (nth h 1).toNat) (Nat.min 8 (fld (nth h 0) 3 0))).map fun x => (x.1, plns, bad || x.2)

/-- The plane-table entry of a stage's plane. -/
def planeEntry (plns : List (W64 × Nat × W64)) (e : StageEntry) (p : Nat) : Option W64 :=
  (plns.find? fun x => x.1 == e.hand && x.2.1 == p).map (·.2.2)

/-- The rank FEs of every stage of the cascades. -/
def cascPlaces (cs : List Cascade) : List (Nat × Nat) :=
  cs.flatMap fun c => (List.range c.d).flatMap fun k => (List.range c.rank).map fun i => stagePos c k i

/-- No element stands twice. -/
def noDup : List (Nat × Nat) → Bool
  | [] => true
  | x :: r => !r.contains x && noDup r

/-- The checks of 07 R109 that concern the launch: placement, seats, bight areas, planes. -/
def cascsBad (l : Launch) (spill : Nat) : Bool :=
  let seats := match l.levels.getLast? with
    | some x => x.count
    | none => 0
  l.cascs.any (fun c => c.stages.zipIdx.any fun p =>
    decide (seats ≤ p.1.seat) || decide (0x60000 - seats * spill < c.base + 4 * bightCols c * bightRows c p.2) ||
    (List.range 4).any (fun q => p.1.planes.getLsbD q && (planeEntry l.plns p.1 q).isNone)) ||
  (cascPlaces l.cascs).any (fun x => !l.pos.contains x) || !noDup (cascPlaces l.cascs)

/-! ### Units of placement -/

/-- Levels down to the unit of placement: the region in region mode, the FE-level group in deal mode. -/
def unitLevels (l : Launch) : Nat :=
  if l.dealMode then l.levels.length - 1
  else match findIdx (fun x : Level => x.domain == 3) l.levels with
    | some i => i + 1
    | none => 0

/-- Units under one group of level `i`. -/
def unitsUnder (l : Launch) (i : Nat) : Nat := prod ((((l.levels.take (unitLevels l)).drop (i + 1))).map (·.count))
def unitCount (l : Launch) : Nat := prod ((l.levels.take (unitLevels l)).map (·.count))
def levelAt (l : Launch) (dom : Nat) : Option Nat := findIdx (fun x : Level => x.domain == dom) l.levels
def regionLevel (l : Launch) : Level := l.levels.getD (unitLevels l - 1) { gang := false, count := 0, domain := 0, w := 0, h := 0 }
/-- FE-level groups of a unit. -/
def perUnit (l : Launch) : Nat := if l.dealMode then 1 else l.pos.length

/-- The module that a unit runs on (06 R99). -/
def unitModule (s : State) (l : Launch) (u : Nat) : Nat :=
  match levelAt l 1 with
  | some i => l.modBase + u / unitsUnder l i % (l.levels.getD i (regionLevel l)).count
  | none => s.moduleId.toNat

/-- Units that GANG places together with each other (06 R98). -/
def setSize (l : Launch) : Nat :=
  match findIdx (fun x : Level => x.gang) (l.levels.take (unitLevels l - 1)) with
  | some i => unitsUnder l i
  | none => 1

/-! ### The fabric -/

/-- An enabled FE that stands with the placer. -/
def feFree (s : State) (fe : Nat) : Bool := !s.fused.contains fe && (feAt s fe).idle

/-- A base of a region is usable (06 R94); on an `empty` fabric every FE is free. -/
def baseOk (s : State) (l : Launch) (empty : Bool) (die bx y : Nat) : Bool :=
  let r := regionLevel l
  l.pos.all (fun p => !s.fused.contains (feAtXY die (bx + p.1) (y + p.2))) &&
    (empty || (List.range r.h).all fun v => (List.range r.w).all fun u => (feAt s (feAtXY die (bx + u) (y + v))).idle)

/-- The first usable base for region `u`: dies from u mod 8 upward, then y, then x. -/
def findBase (s : State) (l : Launch) (empty : Bool) (u : Nat) : Option (Nat × Nat × Nat) :=
  let r := regionLevel l
  let step := if l.align8 then 8 else 1
  let spots := (List.range 8).flatMap fun i => (List.range (cdiv (41 - r.h) step)).flatMap fun y =>
    (List.range (cdiv (81 - r.w) step)).map fun x => ((u + i) % 8, step * x, step * y)
  spots.find? fun p => baseOk s l empty p.1 p.2.1 p.2.2

/-- Free enabled FEs of a die. -/
def freeOnDie (s : State) (die : Nat) : Nat :=
  3200 - (s.fused.filter fun fe => fe / 3200 == die).length -
    (s.fes.filter fun e => e.1 / 3200 == die && !e.2.idle && !s.fused.contains e.1).length

/-- The die with the most free FEs, the lowest of several; none when no FE is free. -/
def bestDie (s : State) : Option Nat :=
  ((List.range 8).foldl (fun (b : Option Nat × Nat) d =>
    let n := freeOnDie s d
    if b.2 < n then (some d, n) else b) (none, 0)).1

/-- The FE of a cluster by its number. -/
def feAtNum (die c n : Nat) : Nat := feAtXY die (8 * (c % 10) + n % 8) (8 * (c / 10) + n / 8)
def clusterFree (s : State) (die c : Nat) : Nat := ((List.range 64).filter fun n => feFree s (feAtNum die c n)).length
/-- The lowest-numbered free FE of the clusters `cs` of a die. -/
def firstFree (s : State) (die : Nat) (cs : List Nat) : Option Nat :=
  (cs.flatMap fun c => (List.range 64).map (feAtNum die c)).find? (feFree s)

/-! ### Checking and starting a launch -/

/-- The launch that a record describes, before any of it is placed. -/
def launchOf (s : State) (ctx : Nat) (o : Origin) (prio : BitVec 2) (w : List W64) : Launch :=
  let l : Launch := {
    id := s.nextId, ctx := ctx, origin := o, prio := prio
    dealMode := bit (nth w 0) 0, align8 := bit (nth w 0) 1, modBase := fld (nth w 0) 41 32, bmax := fld (nth w 0) 22 14
    entry := nth w 1, args := nth w 2, fltvec := nth w 4, ovfBase := nth w 5, ovfSz := w64 (fld (nth w 6) 63 32)
    spillSz := fld (nth w 6) 18 0, seed := w32 (fld (nth w 7) 31 0), levels := recLevels w, waiting := [] }
  l

/-- Check a record with its use mask and image (06 R92, R96, 07 R109): the launch, ready for placement; `none` for one that is
malformed, and so is a deal-mode launch whose image has cascades (DESIGN CHOICE, log 110). -/
def checkWords (s : State) (ctx : Nat) (o : Origin) (prio : BitVec 2) (w : List W64) : Reads (Option Launch) :=
  if recReserved w || levelsBad w (recLevels w) then .done none
  else
    let l := launchOf s ctx o prio w
    let r := regionLevel l
    let mask := if l.dealMode then .done [] else readBytes s cpDie ctx (nth w 8).toNat (cdiv (r.w * r.h) 8)
    mask.andThen fun bs => (readImage s ctx (nth w 3).toNat).map fun (cs, plns, bad) =>
      let l := { l with pos := maskPos r.w (r.w * r.h) bs, cascs := cs, plns := plns }
      let feCount := (l.levels.getD (unitLevels l) r).count
      if bad || (l.dealMode && !cs.isEmpty) || (!l.dealMode && (l.pos.length != feCount || cascsBad l l.spillSz)) then none
      else
        let units := List.range (unitCount l)
        let own := units.filter fun u => unitModule s l u == s.moduleId.toNat
        let l := { l with
          waiting := own
          remote := ((units.map (unitModule s l)).filter (· != s.moduleId.toNat)).eraseDups }
        if !l.dealMode && !own.isEmpty && (findBase s l true 0).isNone then none else some l

/-- The same of a record in a context's memory. -/
def checkLaunch (s : State) (ctx : Nat) (o : Origin) (prio : BitVec 2) (va : Nat) : Reads (Option Launch) :=
  (readWords s cpDie ctx va 32).andThen fun w => checkWords s ctx o prio w

/-- The status of a launch whose record could not be read or is malformed: a record, mask or image that no translation serves is
malformed (DESIGN CHOICE, log 110). -/
def launchFault {α : Type} (x : Reads α) : BitVec 8 := match x.out with
  | .error (.refuse e) => if e == Code.linkTimeout || e == Code.memoryUncorrectable then e else Code.format
  | _ => Code.format

/-- A launch retires when every group has been placed and has retired, here and on other modules. -/
def launchOver (l : Launch) : Bool := l.unread.isNone && l.waiting.isEmpty && l.placed.isEmpty && l.remote.isEmpty

/-- A module that the launching CP cannot reach. -/
def moduleLost (s : State) (m : Nat) : Bool := match routePort s m with
  | some p => routeDead s (hopRoute 8 (8 + portX p) ++ [riggingKey p])
  | none => true

/-- A module that cannot be reached fails its part with LINK_TIMEOUT (06 R99). -/
def forward (s : State) (l : Launch) : Launch :=
  let lost := l.remote.filter (moduleLost s)
  if lost.isEmpty then l
  else { l with remote := l.remote.filter (fun m => !lost.contains m), status := Code.linkTimeout }

def modLaunch (id : Nat) (g : Launch → Launch) (s : State) : State :=
  { s with launches := s.launches.map fun e => if e.1 == id then (e.1, g e.2) else e }

/-- Enter a checked launch. -/
def enterLaunch (l : Launch) (s : State) : State :=
  { s with launches := KV.set l.id (forward s l) s.launches, nextId := s.nextId + 1 }

/-- The context is BOUND again when every launch of it has retired; while it is PREEMPTING or STOPPED the table has no such event,
which is reported (04 R54). -/
def settleCtx (c : Nat) (s : State) : State :=
  if s.launches.any (fun e => e.2.ctx == c && !launchOver e.2) then s
  else match (ctxAt s c).st with
    | .running => modCtx c (fun x => { x with st := .bound }) s
    | .preempting | .stopped => report (.contextError c) s
    | _ => s

/-- A launch that has retired: a seat's record is posted, a node's completion follows (06 R100, R105). -/
def launchRetire (id : Nat) (s : State) : State :=
  match KV.find id s.launches with
  | none => s
  | some l =>
    if !launchOver l then s
    else
      let s := settleCtx l.ctx s
      match l.origin with
      | .node _ => s
      | .far m _ =>
        -- the report goes to the module that forwarded the record (06 R99)
        sendReq { id := s.nextId, ctx := l.ctx, fe := farFe m 0, seat := 0, hand := 0, va := 0, pa := m * 2 ^ 46, op := .pass, far := some m }
          { s with nextId := s.nextId + 1, launches := KV.drop id s.launches, cascades := s.cascades.filter fun e => e.2.launch != id }
      | .seat fe k parent tag =>
        let s := modCtx l.ctx (fun x => { x with children := x.children - 1 })
          { s with launches := KV.drop id s.launches, cascades := s.cascades.filter fun e => e.2.launch != id }
        let t := seatAt s fe k
        if t.launch == parent && t.st != .free then postRec fe k (mkRec tag l.status 0xF0 l.orphan 0 0) s else s

/-- LAUNCH at commit (19 R349, 06 R100): beyond 64 outstanding it starts nothing; otherwise the launch waits for the parent's
earlier stores. -/
def deviceLaunch (fe k : Nat) (va : W64) (tag : BitVec 16) (s : State) : State :=
  let t := seatAt s fe k
  let c := t.ctx
  if 64 ≤ (ctxAt s c).children then postRec fe k (mkRec tag Code.engineError 0xF0 false 0 0) s
  else
    let (id, s) := freshId (modCtx c (fun x => { x with children := x.children + 1 }) s)
    { s with launches := KV.set id (unreadLaunch id c (.seat fe k t.launch tag) t.prio va id) s.launches }

/-- Every store that the parent made before a launch has been performed (06 R100). -/
def parentDone (s : State) (l : Launch) : Bool := match l.unread, l.origin with
  | some (_, mark), .seat fe k _ _ => !(awaiting s).any fun r => sameSeat r fe k && decide (r.id < mark)
  | _, _ => true

/-- The record of a device-side launch, or that of another module's launch, whose groups on other modules only the launching CP
knows of (06 R99, R100). -/
def launchRead (s : State) (l : Launch) (va : W64) : Reads (Option Launch) := match l.words with
  | some w => (checkWords s l.ctx l.origin l.prio w).map fun x => x.map fun n => { n with remote := [] }
  | none => checkLaunch s l.ctx l.origin l.prio va.toNat

/-- A launch's record can be read now: the parent's earlier accesses have been performed, and nothing on the way waits. -/
def readReady (s : State) (l : Launch) : Bool := match l.unread with
  | some (va, _) => parentDone s l && !(launchRead s l va).waits
  | none => false

/-- The record is read; a malformed one places nothing, and completes with FORMAT. -/
def readLaunch (id : Nat) (s : State) : State :=
  match KV.find id s.launches with
  | none => s
  | some l =>
    match l.unread with
    | none => s
    | some (va, _) =>
      if !readReady s l then s
      else
        let x := launchRead s l va
        let s := readsGo cpDie l.ctx x.spans s
        let new := match x.out with
          | .ok (some n) => forward s { n with id := id }
          | _ => { l with unread := none, status := launchFault x }
        launchRetire id { s with launches := KV.set id new s.launches }

/-- LAUNCH: its record's address is checked while the hand runs. -/
def execLaunch (a b : Reg) (q : Sel) (s : State) : Result :=
  .next (issueG 8 q 256 (rdS · a) (fun s h =>
    chkGlobal s (rdS h a) 256 { r := true } false (fun _ =>
      hEff (.launch (rdS h a) (BitVec.ofNat 16 (fld (rdS h b) 15 0)))) h) s)

/-! ### Seats at their first hand (06 R93) -/

/-- Zero the scratchpad of an FE, every tag full (08 R128). -/
def clearPad (fe : Nat) (s : State) : State :=
  let inPad (a : Nat) : Bool := decide (spBase fe ≤ a) && decide (a < spBase fe + spTop)
  { s with mem := s.mem.filter (fun c => !inPad c.1), tags := s.tags.filter (fun c => !inPad c.1) }

/-- Give an FE to a context: one that did not hold it last finds it clean (08 R128, 09 R156, 18 R305, 19 R331). -/
def giveFe (c fe : Nat) (s : State) : State :=
  let f := feAt s fe
  if f.holder = some c || (f.holder = none && f.last = some c) then modFe fe (fun f => { f with holder := some c, idle := false }) s
  else modFe fe (fun f => { arb := f.arb, starved := f.starved, holder := some c, idle := false }) (clearPad fe s)

/-- Group indices of a seat by level, from its linear index. -/
def groupIndices (ls : List Level) (i : Nat) : List Nat :=
  ls.zipIdx.map fun p => i / groupSize ls p.2 % p.1.count

def zeroToOne (v : W32) : W32 := if v = 0 then 1 else v

/-- The seat with linear index `i`, as it begins at `hand`. -/
def firstSeat (l : Launch) (belayEn : Bool) (k i : Nat) (hand : W64) : Seat :=
  let lim := 0x60000 - k * l.spillSz
  let ovf := l.ovfBase + w64 i * l.ovfSz
  let idx := groupIndices l.levels i
  let regs := idx.zipIdx.foldl (fun v p => vset v (2 + p.2) (w64 p.1)) (vset (Vector.replicate 64 (0 : W64)) 1 l.args)
  { st := .loaded
    arch := {
      s := vset regs 62 (w64 lim)
      srseed := zeroToOne (l.seed ^^^ w32 i)
      belayEn := belayEn
      belayMax := if l.bmax == 0 then 384 else BitVec.ofNat 9 l.bmax
      fltvec := l.fltvec }
    pc := hand
    prio := l.prio
    ctx := l.ctx
    spillbase := BitVec.ofNat 19 (lim - l.spillSz)
    spilllim := BitVec.ofNat 19 lim
    ovflim := ovf
    ovfptr := ovf + l.ovfSz
    launch := l.id
    index := i }

/-- Place FE-level group `g` on an FE: its seats begin, a stage seat at its stage's hand (07 R111). -/
def placeGroup (l : Launch) (g fe : Nat) (hand : Nat → Option W64) (s : State) : State :=
  let n := match l.levels.getLast? with
    | some x => x.count
    | none => 0
  let en := (ctxAt s l.ctx).belayEn
  let s := giveFe l.ctx fe s
  let s := each (List.range n) (fun k => modSeat fe k fun _ => firstSeat l en k (g * n + k) ((hand k).getD l.entry)) s
  let s := modLaunch l.id (fun x => { x with placed := x.placed ++ [(g, fe)] }) s
  if (ctxAt s l.ctx).st == .bound then
    (let job := (ctxAt s l.ctx).job
     modCtx l.ctx (fun x => { x with st := .running })
       { s with links := s.links.map fun e => (e.1, { e.2 with jobs := e.2.jobs.filter (· != job) }) })
  else s

/-! ### Cascades of a region (07 R111) -/

/-- The FE of rank `i` of stage `k`. -/
def rankFe (c : Cascade) (k i : Nat) : Nat :=
  let p := stagePos c k i
  feAtXY c.die (c.bx + p.1) (c.bY + p.2)

/-- Load a plane of the image onto a rank FE, which is the packet's origin. -/
def loadPlane (l : Launch) (c : Cascade) (fe p : Nat) (va : W64) (s : State) : State :=
  let r := regionLevel l
  let x := readPacket s cpDie l.ctx va.toNat
  let s := readsGo cpDie l.ctx x.spans s
  match x.out with
  | .error _ => s
  | .ok ws =>
    match checkPacket { ox := feX fe, oy := feY fe, region := (c.bx, c.bY, r.w, r.h) } p ws with
    | .ok fw => applyWrites c.die none fw s
    | .error _ => s

/-- The fault record of a bight unit (07 R123). -/
def cascInfo (stage rank col kind row : Nat) : W64 :=
  w64 (2 ^ 63 + stage % 512 * 2 ^ 54 + rank % 64 * 2 ^ 48 + col % 2 ^ 13 * 2 ^ 35 + kind % 4 * 2 ^ 33 + row % 2 ^ 32)

/-- Address of column `col` of a row of the input or output lattice, for rank FE `i`. -/
def latticeVa (c : Cascade) (out : Bool) (i row col : Nat) : Nat :=
  (if out then c.dst.toNat + row * c.dpitch else c.src.toNat + row * c.spitch) + (i * c.lw + col) * cascEsize c

/-- The new bight unit of rank FE `i` of stage `k`; stage 0 latches SRC and the last stage DST, and a latch that fails is a
recorded fault; so is an N that NROWS gives and that is no more than H under mirror (07 R119). -/
def newBight (s : State) (c : Cascade) (k i fe : Nat) (e : StageEntry) : Bight :=
  let b : Bight := { casc := c.id, stage := k, rank := i, const := e.const, seat := e.seat
                     n := if k == 0 then c.nrows else 0, nknown := k == 0 && c.nrows != 0 }
  let latch (b : Bight) (out : Bool) : Bight :=
    let need : Need := if out then { w := true } else { r := true }
    match latchNew s fe (feDie fe) c.ctx (latticeVa c out i 0 0) need with
    | .ok x => if out then { b with latchOut := some x } else { b with latch := some x }
    -- a walk that waits is made again before the first access
    | .error .wait | .error .go => b
    | .error (.refuse code) => if b.flt.isSome then b else { b with flt := some { code := code, info := cascInfo k i 0x1FFF 1 0, addr := w64 (latticeVa c out i 0 0) } }
  let b := if k == 0 then latch b false else b
  let b := if k + 1 == c.d then latch b true else b
  if b.nknown && c.rpol == 2 && decide (c.nrows ≤ c.h) && b.flt.isNone then
    { b with flt := some { code := Code.cascadeBounds, info := cascInfo k i 0x1FFF 2 (c.nrows - 1), addr := 0 } }
  else b

/-- Place a cascade: planes loaded, SRC and DST latched, counters cleared. -/
def placeCasc (l : Launch) (die bx y : Nat) (c : Cascade) (s : State) : State :=
  let c := { c with id := s.nextId, launch := l.id, ctx := l.ctx, die := die, bx := bx, bY := y, st := .placed }
  let s := { s with nextId := s.nextId + 1, cascades := KV.set c.id c s.cascades }
  let s := each c.stages.zipIdx (fun p s => each (List.range c.rank) (fun i s =>
    let fe := rankFe c p.2 i
    let s := each (List.range 4) (fun q s => if p.1.planes.getLsbD q then
        (match planeEntry l.plns p.1 q with
         | some va => loadPlane l c fe q va s
         | none => s)
      else s) s
    let b := newBight s c p.2 i fe p.1
    let touch (made out : Bool) (s : State) : State := if made then xlateTouch l.ctx (latticeVa c out i 0 0) s else s
    touch b.latch.isSome false (touch b.latchOut.isSome true (modFe fe (fun f => { f with bight := some b }) s))) s) s
  if s.fes.any (fun e => match e.2.bight with
    | some b => b.casc == c.id && b.flt.isSome
    | none => false) then
    { s with cascades := KV.set c.id { c with st := .stopped, prev := .placed } s.cascades }
  else s

/-- The hand at which seat `k` of an FE at relative position `p` begins, when it is a stage seat. -/
def stageHand (cs : List Cascade) (p : Nat × Nat) (k : Nat) : Option W64 :=
  (cs.flatMap fun c => c.stages.zipIdx.filterMap fun e =>
    if e.1.seat == k && (List.range c.rank).any (fun i => stagePos c e.2 i == p) then some e.1.hand else none).head?

/-! ### REGION_PLACE (06 R94 to R98) -/

/-- Place region `u`, if a base is free. -/
def placeRegion (id u : Nat) (s : State) : Option State :=
  match KV.find id s.launches with
  | none => none
  | some l =>
    match findBase s l false u with
    | none => none
    | some (die, bx, y) =>
      let r := regionLevel l
      -- the placer takes the whole rectangle
      let s := each ((List.range r.h).flatMap fun v => (List.range r.w).map fun x => feAtXY die (bx + x) (y + v))
        (fun fe => modFe fe (fun f => { f with idle := false })) s
      let s := modLaunch id (fun x => { x with regions := x.regions ++ [(u, die, bx, y)] }) s
      let s := each l.pos.zipIdx (fun p s =>
        placeGroup l (u * l.pos.length + p.2) (feAtXY die (bx + p.1.1) (y + p.1.2)) (stageHand l.cascs p.1) s) s
      some (each l.cascs (placeCasc l die bx y) s)

/-- The units that are placed next: the first that waits, with those that GANG ties to it. -/
def nextSet (l : Launch) : List Nat :=
  match l.waiting with
  | [] => []
  | u :: _ => l.waiting.filter fun v => v / setSize l == u / setSize l

/-- Nothing is placed for a context that is neither BOUND nor RUNNING, or whose job is frozen, or while a packet of the image's
planes cannot be read. -/
def mayPlace (s : State) (l : Launch) : Bool :=
  ((ctxAt s l.ctx).st == .bound || (ctxAt s l.ctx).st == .running) && !jobFrozen s l.ctx &&
    !(!l.cascs.isEmpty && l.plns.any fun x => (readPacket s cpDie l.ctx x.2.2.toNat).waits)

def placeAll (f : Nat → State → Option State) : List Nat → State → Option State
  | [], s => some s
  | u :: r, s => (f u s).bind (placeAll f r)

/-- The units of a set are no longer waiting. -/
def unwait (id : Nat) (us : List Nat) (s : State) : State :=
  modLaunch id (fun x => { x with waiting := x.waiting.filter fun u => !us.contains u }) s

def regionPlace (id : Nat) (s : State) : State :=
  match KV.find id s.launches with
  | none => s
  | some l =>
    if l.unread.isSome then readLaunch id s
    else if l.dealMode || l.waiting.isEmpty || !mayPlace s l then s
    else
      match placeAll (placeRegion id) (nextSet l) s with
      | none => s
      | some t => unwait id (nextSet l) t

def execRegionPlace (launch : Nat) (s : State) : Result := .next (regionPlace launch s)

/-! ### DEAL (06 R97, R98) -/

/-- A cluster of the module by number, its die included. -/
def clusterId (fe : Nat) : Nat := 50 * feDie fe + feCluster fe

/-- What the enclosing group of level `dom` is tied to. -/
def tieOf (l : Launch) (dom : Nat) (ties : List (Nat × Nat)) (u : Nat) : Option Nat :=
  (levelAt l dom).bind fun i => (ties.find? fun e => e.1 == u / unitsUnder l i).map (·.2)

/-- Where a dealt group goes: its die, and its FE. `cur` is the deal under way: its die and how many groups it holds. The
groups under a cluster-level group go to one cluster of one die, whatever deal they are of (06 R97). -/
def dealPlace (s : State) (l : Launch) (cur : Option (Nat × Nat)) (u : Nat) : Option (Nat × Nat) :=
  let cluster := tieOf l 4 l.clusterOf u
  let tied := (tieOf l 2 l.dieOf u).orElse fun _ => cluster.map (· / 50)
  let die := match tied, cur with
    | some d, _ => some d
    | none, some (d, n) => if n < 64 && decide (0 < freeOnDie s d) then some d else bestDie s
    | none, none => bestDie s
  match die with
  | none => none
  | some d =>
    match levelAt l 4 with
    | none => (firstFree s d (List.range 50)).map fun fe => (d, fe)
    | some i =>
      let c := match cluster with
        | some c => some (c % 50)
        | none => (List.range 50).find? fun c => decide (unitsUnder l i ≤ clusterFree s d c)
      match c with
      | none => none
      | some c => (firstFree s d [c]).map fun fe => (d, fe)

/-- Deal group `u`: it is placed, and its die and cluster tie the groups that follow it. -/
def dealOne (id u : Nat) (cur : Option (Nat × Nat)) (s : State) : Option (State × Option (Nat × Nat)) :=
  match KV.find id s.launches with
  | none => none
  | some l =>
    match dealPlace s l cur u with
    | none => none
    | some (d, fe) =>
      let s := placeGroup l u fe (fun _ => none) s
      let s := modLaunch id (fun x => { x with
        dieOf := match levelAt l 2 with
          | some i => if x.dieOf.any (fun e => e.1 == u / unitsUnder l i) then x.dieOf
            else x.dieOf ++ [(u / unitsUnder l i, d)]
          | none => x.dieOf
        clusterOf := match levelAt l 4 with
          | some i => if x.clusterOf.any (fun e => e.1 == u / unitsUnder l i) then x.clusterOf
            else x.clusterOf ++ [(u / unitsUnder l i, clusterId fe)]
          | none => x.clusterOf }) s
      let n := match cur with
        | some (e, n) => if e == d && n < 64 then n + 1 else 1
        | none => 1
      some (s, some (d, n))

def dealSet (id : Nat) : List Nat → Option (Nat × Nat) → State → Option (State × Option (Nat × Nat))
  | [], cur, s => some (s, cur)
  | u :: r, cur, s =>
    match dealOne id u cur s with
    | none => none
    | some (s, cur) => dealSet id r cur s

/-- One deal: sets are dealt in order as long as they go on the deal's die and it holds at most 64 groups. -/
def dealGo (id : Nat) : Nat → Option (Nat × Nat) → State → State
  | 0, _, s => s
  | fuel + 1, cur, s =>
    match KV.find id s.launches with
    | none => s
    | some l =>
      if l.waiting.isEmpty then s
      else
        match dealSet id (nextSet l) cur s with
        | none => s
        | some (t, now) =>
          -- a set that begins another deal waits for it
          let same := match cur, now with
            | some (d, n), some (e, m) => d == e && decide (n < m)
            | none, _ => true
            | _, _ => false
          if same then dealGo id fuel now (unwait id (nextSet l) t) else s

def deal (id : Nat) (s : State) : State :=
  match KV.find id s.launches with
  | none => s
  | some l => if !l.dealMode || !mayPlace s l then s else dealGo id 64 none s

def execDeal (launch : Nat) (s : State) : Result := .next (deal launch s)

/-! ### GROUP_RETIRE (06 R104, R105) -/

/-- A seat-level group retires: HALT committed, cards complete, split-phase requests landed, a stage's emissions complete
(07 R127), and everything that it has sent performed, so that its stores are released to what follows its retirement
(05 R86, 06 R100, log 101). -/
def seatDone (s : State) (fe k : Nat) : Bool :=
  let f := feAt s fe
  let t := seatOf f k
  t.st == .retired && t.cards.isEmpty && t.splits.isEmpty && !(unperformed s).any (sameSeat · fe k) && (match f.bight with
    | some b => b.seat != k || b.emis.isEmpty
    | none => true)

/-- The part of launch `id` on module `m` is over: that module reports it as retired, or cannot be reached, which fails it
with LINK_TIMEOUT (06 R99). Numbers of GROUP_RETIRE from 2^24 on name launch and module (log 37). -/
def remoteRetired (id m : Nat) (s : State) : State :=
  match KV.find id s.launches with
  | none => s
  | some l =>
    if !l.remote.contains m then s
    else
      launchRetire id (modLaunch id (fun x => { x with
        remote := x.remote.filter (· != m)
        status := if moduleLost s m && x.status == 0 then Code.linkTimeout else x.status }) s)

/-- The FEs of a region's rectangle that no group of it runs on: the placer holds them back until the region ends. -/
def rectSpare (l : Launch) (e : Nat × Nat × Nat × Nat) : List Nat :=
  let r := regionLevel l
  (List.range r.h).flatMap fun v => (List.range r.w).filterMap fun x =>
    if l.pos.contains (x, v) then none else some (feAtXY e.2.1 (e.2.2.1 + x) (e.2.2.2 + v))

/-- Whether FEs stand with the placer. -/
def setIdle (idle : Bool) (fes : List Nat) (s : State) : State := each fes (fun fe => modFe fe (fun f => { f with idle := idle })) s

/-- The regions of a launch whose groups have all retired return what the placer held back for them. -/
def endRegions (id : Nat) (s : State) : State :=
  match KV.find id s.launches with
  | none => s
  | some l =>
    let done := l.regions.filter fun r => !l.placed.any fun p => p.1 / perUnit l == r.1
    modLaunch id (fun x => { x with regions := x.regions.filter fun e => !done.contains e })
      (setIdle true (done.flatMap (rectSpare l)) s)

/-- An FE-level group retires: slots, planes, records and barrier objects go, and the FE returns to the placer; with the last
group of its region the rest of the rectangle returns too. -/
def groupRetire (fe : Nat) (s : State) : State :=
  let f := feAt s fe
  let used := (List.range 4).filter fun k => (seatOf f k).st != .free
  match used with
  | [] => s
  | k :: _ =>
    let t := seatOf f k
    if isEdge fe || isSaved fe || !used.all (seatDone s fe) || jobFrozen s t.ctx then s
    else
      let s := each (List.range 4) (fun pl s => if (planeAt f pl).owner.isSome then planeOff fe pl (portsReset fe pl s) else s) s
      let s := freeBars fe s
      let s := modFe fe (fun f => { f with
        opm := f.opm.map (fun o => { o with claim := none })
        seats := Vector.replicate 4 {}
        bight := none
        idle := true }) s
      let s := { s with recs := s.recs.filter (fun r => r.fe != fe) }
      let s := modLaunch t.launch (fun x => { x with placed := x.placed.filter fun p => p.2 != fe }) s
      launchRetire t.launch (endRegions t.launch s)

def execGroupRetire (fe : Nat) (s : State) : Result := .next (if 2 ^ 24 ≤ fe then remoteRetired (fe / 2 ^ 10 - 2 ^ 14) (fe % 2 ^ 10) s else groupRetire fe s)

end Sys2Proof.Machine
end

