-- ==== Sys2Proof/Machine/Bight.lean ====
section
/-!
DEFINITION. Cascades at work (07 R112 to R127, 19 R350, R351, 23 R380 to R382): reception of rows, the row instructions,
emissions, retirement, faults of a stage, the states of a cascade.
-/

namespace Sys2Proof.Machine

/-! ### Access -/

def bightAt (s : State) (fe : Nat) : Option Bight := (feAt s fe).bight
def modBight (fe : Nat) (g : Bight → Bight) (s : State) : State := modFe fe (fun f => { f with bight := f.bight.map g }) s
def modCasc (id : Nat) (g : Cascade → Cascade) (s : State) : State :=
  { s with cascades := s.cascades.map fun e => if e.1 == id then (e.1, g e.2) else e }

/-- The FEs of stage `k` that are at their places. -/
def stageFes (c : Cascade) (k : Nat) : List Nat := (List.range c.rank).map (rankFe c k)
def cascFes (c : Cascade) : List Nat := (List.range c.d).flatMap (stageFes c)

/-- The bight unit of an FE, when it serves the cascade. -/
def ofCasc (s : State) (c : Cascade) (fe : Nat) : Option Bight :=
  match bightAt s fe with
  | some b => if b.casc == c.id then some b else none
  | none => none

/-- A bight unit with its cascade, at work: neither declared, saved nor done, and its job not frozen. -/
def liveBight (s : State) (fe : Nat) : Option (Bight × Cascade) :=
  match bightAt s fe with
  | none => none
  | some b =>
    match cascAt s b.casc with
    | none => none
    | some c =>
      if c.st == .declared || c.st == .saved || c.st == .done || jobFrozen s c.ctx then none else some (b, c)

/-! ### The bight area (07 R112) -/

/-- Offset of local column `col` of row place `p`: 0 to W - 1 the slots, then the wrap store, then the egress row. -/
def cellOff (c : Cascade) (p : Nat) (col : Int) : Nat := c.base + 4 * (bightCols c * p) + 4 * (col + c.h).toNat
def cellRead (s : State) (fe : Nat) (c : Cascade) (p : Nat) (col : Int) : W32 :=
  w32 (rdPa s (ownPa s fe (cellOff c p col)) 4)
/-- A 16-bit format takes bits 15 to 0 of an element; the others of its word are zero. -/
def cellWrite (fe : Nat) (c : Cascade) (p : Nat) (col : Int) (v : W32) (s : State) : State :=
  wrPa (ownPa s fe (cellOff c p col)) 4 (v.toNat % 2 ^ (8 * cascEsize c)) s
def cellsWrite (fe : Nat) (c : Cascade) (p : Nat) (col : Int) (l : List W32) (s : State) : State :=
  each l.zipIdx (fun e s => cellWrite fe c p (col + e.2) e.1 s) s

/-! ### States of a cascade (07 R121) -/

/-- A state change; in another state the event is ignored. -/
def cascMove (src : List CascState) (dst : CascState) (c : Cascade) : Cascade :=
  if src.contains c.st then { c with st := dst } else c

/-- Taps let go of their ports when a cascade is DONE (18 R310). -/
def freeTaps (fe : Nat) (s : State) : State :=
  match bightAt s fe with
  | none => s
  | some b => each b.taps (fun t s => modPort fe t.pl.toNat t.port.toNat (fun p =>
      if p.producer == .tap then { p with producer := .none } else p) s) s

/-- Empty the planes of a stage: channels, node row state and discard states go; generators stay (23 R382). -/
def flushPlanes (fe : Nat) (planes : BitVec 4) (s : State) : State :=
  each (List.range 4) (fun pl s =>
    if planes.getLsbD pl then modPlane fe pl (fun p => { p with chans := [], nodes := [] }) s else s) s

def stageOf' (c : Cascade) (k : Nat) : StageEntry := c.stages.getD k { hand := 0, const := 0, planes := 0, seat := 0 }

/-- The cascade is DONE. -/
def cascDone (id : Nat) (aborted : Bool) (s : State) : State :=
  match cascAt s id with
  | none => s
  | some c =>
    let s := modCasc id (fun c => { c with st := .done, aborted := c.aborted || aborted }) s
    each (cascFes c) (fun fe s =>
      match ofCasc s c fe with
      | none => s
      | some b =>
        let s := freeTaps fe s
        if aborted then
          modBight fe (fun b => { b with
            emis := [], row := [], rowEor := false, rowLast := false, haloLo := [], haloHi := []
            rowChan := [], haloChanLo := [], haloChanHi := [] }) (flushPlanes fe (stageOf' c b.stage).planes s)
        else s) s

/-- BEND with abort, or a stage seat's early HALT, in any state but DECLARED and DONE. -/
def cascAbort (id : Nat) (s : State) : State :=
  match cascAt s id with
  | none => s
  | some c => if c.st == .declared || c.st == .done then s else cascDone id true s

/-- DRAINING ends when the last stage has completed emission N - 1, or has handled N = 0, on every rank FE. -/
def doneCheck (id : Nat) (s : State) : State :=
  match cascAt s id with
  | none => s
  | some c =>
    if c.st == .draining && (stageFes c (c.d - 1)).all (fun fe => match ofCasc s c fe with
      | some b => b.nknown && decide (b.n ≤ b.emt)
      | none => true) then cascDone id false s
    else s

/-! ### Faults of a stage (07 R123) -/

/-- Withdraw the emissions that have not completed: a row-abort goes downstream where a stage follows, the stage's planes are
emptied, and REDO replays the admissions. -/
def withdrawEmis (fe : Nat) (s : State) : State :=
  match bightAt s fe with
  | none => s
  | some b =>
    match cascAt s b.casc with
    | none => s
    | some c =>
      if b.emis.isEmpty || c.st == .done then s
      else
        let s := if b.stage + 1 < c.d then
            modBight (rankFe c (b.stage + 1) b.rank) (fun d => { d with rowChan := d.rowChan ++ [abortToken] }) s
          else s
        let s := flushPlanes fe (stageOf' c b.stage).planes s
        modBight fe (fun b => { b with emis := [], redo := b.redo + (b.iss - b.emt), iss := b.emt }) s

/-- Record a fault at a stage FE: on an emission fault, and on a failed write to DST (`dst`), its emissions are withdrawn; the
cascade is STOPPED. -/
def recordFault (fe : Nat) (code : BitVec 8) (kind row col : Nat) (addr : W64) (dst : Bool) (s : State) : State :=
  match bightAt s fe with
  | none => s
  | some b =>
    match cascAt s b.casc with
    | none => s
    | some _ =>
      let s := if kind == 0 || dst then withdrawEmis fe s else s
      let f : FaultRec := { code := code, info := cascInfo b.stage b.rank col kind (row % 2 ^ 32), addr := addr }
      let s := modBight fe (fun b => if b.flt.isSome then b else { b with flt := some f, taken := false }) s
      modCasc b.casc (fun c => match c.st with
        | .placed | .filling | .streaming | .draining => { c with st := .stopped, prev := c.st }
        | _ => c) s

/-- The codes that a stage records, by KIND. -/
def stageCode (kind : Nat) (code : BitVec 8) : Bool :=
  match kind with
  | 0 => [Code.fpOverflow, Code.fpInvalid, Code.fpDivzero, Code.indexRange, Code.cascadeBounds].contains code
  | 1 => code == Code.dataPage || code == Code.dataPerm
  | 2 => code == Code.cascadeBounds
  | _ => false

/-- STAGE_FAULT_RECORD, for a stage at work; no other code is one that a stage records. A fault of KIND 1 is one of a write when
its address is that of the output row's element. -/
def stageFaultEvent (fe : Nat) (code : BitVec 8) (kind row col : Nat) (addr : W64) (s : State) : State :=
  match liveBight s fe with
  | some (b, c) =>
    if stageCode kind code then
      recordFault fe code kind row col addr
        (kind == 1 && b.stage + 1 == c.d && addr == w64 (latticeVa c true b.rank row col)) s
    else s
  | none => s

def execStageFaultRecord (fe : Nat) (code : BitVec 8) (kind : BitVec 2) (row : BitVec 32) (col : BitVec 13) (addr : BitVec 64)
    (s : State) : Result := .next (stageFaultEvent fe code kind.toNat row.toNat col.toNat addr s)

/-- A stage seat resumes from its handler: its fault is over, and with the last one the cascade goes on (07 R121, R124). -/
def resumeStage (fe k : Nat) (s : State) : State :=
  match bightAt s fe with
  | none => s
  | some b =>
    if b.seat != k || b.flt.isNone || !b.taken then s
    else
      let s := modBight fe (fun b => { b with flt := none, taken := false }) s
      match cascAt s b.casc with
      | none => s
      | some c =>
        if (cascFes c).any (fun g => match ofCasc s c g with
          | some x => x.flt.isSome
          | none => false) then s
        else doneCheck b.casc (modCasc b.casc (fun c => if c.st == .stopped then { c with st := c.prev } else c) s)

/-! ### N (07 R119) -/

/-- A stage learns N: N = 0 passes an empty row on; N ≤ H under mirror is a fault for row N - 1. A BEND that sets an N whose row
N - 1 has been admitted already drains the cascade at its commit (DESIGN CHOICE, log 112). -/
def learnN (fe n : Nat) (s : State) : State :=
  match bightAt s fe with
  | none => s
  | some b =>
    match cascAt s b.casc with
    | none => s
    | some c =>
      let s := modBight fe (fun b => { b with n := n, nknown := true }) s
      let s := if b.stage == 0 && (n == 0 || decide (n ≤ b.adm)) then
          modCasc c.id (cascMove [.placed, .filling, .streaming] .draining) s
        else s
      let s := if n == 0 && b.stage + 1 < c.d then
          modBight (rankFe c (b.stage + 1) b.rank) (fun d => { d with
            rowChan := d.rowChan ++ [{ abortToken with last := true }] }) s
        else s
      let s := if c.rpol == 2 && decide (n ≤ c.h) then recordFault fe Code.cascadeBounds 2 (n + 2 ^ 32 - 1) 0x1FFF 0 false s else s
      if b.stage + 1 == c.d then doneCheck c.id s else s

/-! ### Reception (07 R114, 23 R381) -/

/-- The word that the column policy gives past the end of a lattice row, `i` columns out, from the row itself. -/
def endWord (c : Cascade) (const : W32) (row : List W32) (low : Bool) (i : Nat) : W32 :=
  let n := row.length
  match c.cpol with
  | 0 => const
  | 1 => row.getD (if low then 0 else n - 1) 0
  | 2 => row.getD (if low then i else n - 1 - i) 0
  | _ => row.getD (if low then n - i else i - 1) 0

/-- Whether a rank FE has a neighbour below or above, across the wrap line with CPOL wrap (07 R110). -/
def hasLo (c : Cascade) (i : Nat) : Bool := decide (0 < i) || (c.cpol == 3 && decide (1 < c.rank))
def hasHi (c : Cascade) (i : Nat) : Bool := decide (i + 1 < c.rank) || (c.cpol == 3 && decide (1 < c.rank))
def loRank (c : Cascade) (i : Nat) : Nat := (i + c.rank - 1) % c.rank
def hiRank (c : Cascade) (i : Nat) : Nat := (i + 1) % c.rank

/-- A row with its halo columns, from the slice and what the neighbours sent. -/
def bightRow (c : Cascade) (b : Bight) : List W32 :=
  let mid := b.haloLo ++ b.row ++ b.haloHi
  let lo := if hasLo c b.rank then [] else (List.range c.h).map fun j => endWord c b.const mid true (c.h - j)
  let hi := if hasHi c b.rank then [] else (List.range c.h).map fun j => endWord c b.const mid false (j + 1)
  lo ++ mid ++ hi

/-- Everything of the row under reception has arrived. -/
def rowWhole (c : Cascade) (b : Bight) : Bool :=
  b.rowEor && (!hasLo c b.rank || b.haloLo.length == c.h) && (!hasHi c b.rank || b.haloHi.length == c.h)

/-- The row under reception is a prologue row, which stage 0 reads before row 0 (07 R120). -/
def inPrologue (c : Cascade) (b : Bight) : Bool := b.stage == 0 && c.rpol == 3 && c.nrows != 0 && decide (b.seeded < c.h)

/-- A row that is whole goes into its slot, or into the wrap store, and RCV advances. -/
def rowDone (fe : Nat) (s : State) : State :=
  match bightAt s fe with
  | none => s
  | some b =>
    match cascAt s b.casc with
    | none => s
    | some c =>
      if !rowWhole c b then s
      else
        let pro := inPrologue c b
        let s := cellsWrite fe c (if pro then c.w + b.seeded else b.rcv % c.w) (-c.h) (bightRow c b) s
        let s := modBight fe (fun b => { b with
          row := [], rowEor := false, rowLast := false, haloLo := [], haloHi := []
          seeded := if pro then b.seeded + 1 else b.seeded
          rcv := if pro then b.rcv else b.rcv + 1 }) s
        if pro then s
        else
          let s := if b.stage == 0 && b.rcv == 0 then modCasc c.id (cascMove [.placed] .filling) s else s
          if b.rowLast && !b.nknown then learnN fe (b.rcv + 1) s else s

/-- The slice of a row has arrived whole: its ends go to the rank neighbours (07 R114). -/
def sliceDone (fe : Nat) (s : State) : State :=
  match bightAt s fe with
  | none => s
  | some b =>
    match cascAt s b.casc with
    | none => s
    | some c =>
      let toks (l : List W32) : List Token := tokensOf (l.map fun w => (w, false)) true false
      let s := modBight fe (fun b => { b with rowEor := true }) s
      let s := if hasLo c b.rank && c.h != 0 then
          modBight (rankFe c b.stage (loRank c b.rank)) (fun d => { d with
            haloChanHi := d.haloChanHi ++ toks (b.row.take c.h) }) s
        else s
      let s := if hasHi c b.rank && c.h != 0 then
          modBight (rankFe c b.stage (hiRank c b.rank)) (fun d => { d with
            haloChanLo := d.haloChanLo ++ toks (b.row.drop (b.row.length - c.h)) }) s
        else s
      rowDone fe s

/-- Stage 0 may read its next input row: it holds no row in part, a slot is free, N is not reached, and it holds no fault. -/
def stage0Ready (s : State) (fe : Nat) : Bool :=
  match liveBight s fe with
  | none => false
  | some (b, c) =>
    b.stage == 0 && b.row.isEmpty && !b.rowEor && b.flt.isNone &&
      (inPrologue c b || ((!b.nknown || decide (b.rcv < b.n)) && decide (b.rcv - b.ret < c.w)))

/-- The row of the input lattice that stage 0 reads next: one of its prologue first. -/
def inputRow (c : Cascade) (b : Bight) : Nat :=
  if inPrologue c b then (c.nrows * c.h + c.nrows - c.h + b.seeded) % c.nrows else b.rcv

/-- The accesses of a rank FE to its part of a row of the input or of the output lattice. -/
def rowSpan (s : State) (fe : Nat) (c : Cascade) (b : Bight) (out : Bool) (row : Nat) : Span :=
  spanOf s fe (feDie fe) c.ctx (if out then { w := true } else { r := true }) (if out then b.latchOut else b.latch)
    (segments (latticeVa c out b.rank row 0) (c.lw * cascEsize c))

/-- Column of the element at an address of a row. -/
def spanCol (c : Cascade) (b : Bight) (out : Bool) (row va : Nat) : Nat := (va - latticeVa c out b.rank row 0) / cascEsize c

/-- A row's access is parked: its latch fell at an UNMAP, and it finds its first address unmapped; it waits for MAPR (09 R154). -/
def rowParks (b : Bight) (out : Bool) (p : Span) : Bool :=
  (if out then b.droppedOut else b.dropped) && p.stop == .refuse Code.dataPage && p.stopPa.isNone && p.parts.isEmpty

/-- The latch that a row's accesses have left; a new one ends what a dropped one began. -/
def rowLatch (out : Bool) (p : Span) (b : Bight) : Bight :=
  if out then { b with latchOut := p.latch, droppedOut := b.droppedOut && !p.parts.any (·.fresh) }
  else { b with latch := p.latch, dropped := b.dropped && !p.parts.any (·.fresh) }

/-- STAGE0_ROW_READ: the next row of the input lattice, or of its prologue. A read that a re-latch after UNMAP finds
unmapped parks; another failure is a fault of KIND 1. -/
def stage0Read (fe : Nat) (s : State) : State :=
  match liveBight s fe with
  | none => s
  | some (b, c) =>
    if !stage0Ready s fe || b.parked.isSome then s
    else
      let row := inputRow c b
      let p := rowSpan s fe c b false row
      match p.stop with
      | .wait => s
      | .go =>
        let l := (elemsOf (cascEsize c) (spanBytes s p)).map w32
        sliceDone fe (modBight fe (fun b => { rowLatch false p b with row := l }) (spanGo (feDie fe) c.ctx false p s))
      | .refuse code =>
        if rowParks b false p then
          report (.park c.ctx (w64 p.stopVa)) (modBight fe (fun b => { b with parked := some p.stopVa }) s)
        else
          recordFault fe code 1 row (spanCol c b false row p.stopVa) (w64 p.stopVa) false
            (modBight fe (rowLatch false p) (spanGo (feDie fe) c.ctx false p s))

def execStage0RowRead (fe : Nat) (s : State) : Result := .next (stage0Read fe s)

/-- Whether a token can be taken from the row channel (0) or a halo channel (1 from below, 2 from above). -/
def sliceReady (s : State) (fe chan : Nat) : Bool :=
  match liveBight s fe with
  | none => false
  | some (b, c) =>
    match chan with
    | 0 => decide (0 < b.stage) && (match b.rowChan with
      | [] => false
      | t :: _ => t.abort || (b.nknown && decide (b.n ≤ b.rcv)) || (!b.rowEor && decide (b.rcv - b.ret < c.w)))
    | 1 => !b.haloChanLo.isEmpty && decide (b.haloLo.length < c.h)
    | _ => !b.haloChanHi.isEmpty && decide (b.haloHi.length < c.h)

/-- ROW_SLICE_ARRIVAL: a stage FE takes a token from its line. A row-abort discards the partial row; with last-row it says
that there are no more rows. -/
def sliceArrive (fe chan : Nat) (s : State) : State :=
  match liveBight s fe with
  | none => s
  | some (b, c) =>
    if !sliceReady s fe chan then s
    else
      match chan with
      | 0 =>
        (match b.rowChan with
         | [] => s
         | t :: r =>
           let s := modBight fe (fun b => { b with rowChan := r }) s
           if t.abort then
             (let s := if b.rowEor then s else modBight fe (fun b => { b with row := [], rowLast := false }) s
              if t.last && !b.nknown then learnN fe b.rcv s else s)
           else if b.nknown && decide (b.n ≤ b.rcv) then s
           else
             let s := modBight fe (fun b => { b with row := (b.row ++ t.elems).take c.lw, rowLast := b.rowLast || t.last }) s
             if t.eor then sliceDone fe s else s)
      | 1 =>
        (match b.haloChanLo with
         | [] => s
         | t :: r => rowDone fe (modBight fe (fun b => { b with haloChanLo := r, haloLo := b.haloLo ++ t.elems }) s))
      | _ =>
        (match b.haloChanHi with
         | [] => s
         | t :: r => rowDone fe (modBight fe (fun b => { b with haloChanHi := r, haloHi := b.haloHi ++ t.elems }) s))

def execRowSliceArrival (fe chan : Nat) (s : State) : Result := .next (sliceArrive fe chan s)

/-! ### The boundary policies (07 R120) -/

/-- The element at row `rr`, local column `col`: the row policy first, then the column policy on the row it selects. A column
outside the lattice under the constant policy reads the constant (log 38); the others read the stored halo columns. The wrap
store holds the H prologue rows first, and rows 0 to H - 1 after them (DESIGN CHOICE, log 112). -/
def elemOf (s : State) (fe : Nat) (b : Bight) (c : Cascade) (const : W32) (rr : Int) (col : Int) : W32 :=
  let below := decide (rr < 0)
  let past := b.nknown && decide ((b.n : Int) ≤ rr)
  let outside := (decide (col < 0) && b.rank == 0) || (decide ((c.lw : Int) ≤ col) && b.rank + 1 == c.rank)
  if (below || past) && c.rpol == 0 then const
  else if outside && c.cpol == 0 then const
  else
    let slot (r : Int) : Nat := r.toNat % c.w
    let place :=
      if below then
        (match c.rpol with
         | 1 => slot 0
         | 2 => slot (-rr)
         | _ => c.w + (rr + c.h).toNat)
      else if past then
        (match c.rpol with
         | 1 => slot (b.n - 1)
         | 2 => slot (2 * (b.n - 1) - rr)
         | _ =>
           let r := (rr - b.n).toNat
           if r < b.ret then c.w + c.h + r else slot r)
      else slot rr
    cellRead s fe c place col

/-! ### The row instructions (19 R351) -/

/-- What the hand in flight has already done, to be performed at its commit. -/
def countEff (h : Hand) (p : Eff → Bool) : Nat := (h.effects.filter p).length
def isBrow (k : Nat) (e : Eff) : Bool := match e with
  | .brow j => j == k
  | _ => false
def isBemit (e : Eff) : Bool := match e with
  | .bemit _ _ => true
  | _ => false
def isBstep (e : Eff) : Bool := match e with
  | .bstep => true
  | _ => false
def tapOf (e : Eff) : Option Tap := match e with
  | .btap pl port dr dc => some { pl := pl, port := port, dr := dr, dc := dc }
  | _ => none
def admSeen (b : Bight) (h : Hand) : Nat := b.adm + countEff h (isBrow 1)
def issSeen (b : Bight) (h : Hand) : Nat := b.iss + countEff h isBemit

/-- A tap takes the place of its port's older binding. -/
def bindTap (t : Tap) (l : List Tap) : List Tap := l.filter (fun x => !(x.pl == t.pl && x.port == t.port)) ++ [t]
def tapsSeen (b : Bight) (h : Hand) : List Tap := (h.effects.filterMap tapOf).foldl (fun l t => bindTap t l) b.taps

/-- A row instruction other than BSTAT. -/
def isRowInstr : Instr → Bool
  | .brow _ _ | .bemit _ _ _ | .bstep _ | .bread _ _ _ _ | .btap _ _ _ _ _ | .bend _ | .bendAbort _ | .bseedC _ _ | .bseedR _ _ => true
  | _ => false

/-- A hand that contains a row instruction. -/
def hasRowInstr (h : Hand) : Bool := h.slots.any fun w => match decode w.lo w.hi with
  | .ok i => isRowInstr i
  | .error _ => false

/-- A row instruction other than BSTAT: its seat must be the stage seat of a cascade on its FE; a fault that the unit has
recorded is taken here, the hand being abandoned; in DONE only BROW goes on. A fault recorded and not yet taken when the
cascade becomes DONE is taken first (07 R121, R123; DESIGN CHOICE, log 128). -/
def rowOp (brow : Bool) (f : Bight → Cascade → Hand → State → State × Ans) (s : State) : State × Ans :=
  let bounds := (modHand (hFault Code.cascadeBounds 0 0) s, Ans.done)
  match (cur s).hand, bightAt s s.curFe with
  | none, _ => (s, .done)
  | _, none => bounds
  | some h, some b =>
    match cascAt s b.casc with
    | none => bounds
    | some c =>
      if b.seat != s.curSeat then bounds
      else
        match b.flt with
        | some x =>
          if !b.taken then
            (faultHere s.curFe s.curSeat x (modBight s.curFe (fun b => { b with taken := true }) s), .done)
          else go b c h
        | none => go b c h
where
  go (b : Bight) (c : Cascade) (h : Hand) : State × Ans :=
    if c.st == .done && !brow then (modHand (hFault Code.cascadeBounds 0 0) s, .done) else f b c h s

/-- The slot ends with its hand changed. -/
def onHand (g : Hand → Hand) (s : State) : State × Ans := (modHand g s, .done)
def rowFault (s : State) : State × Ans := onHand (hFault Code.cascadeBounds 0 0) s

/-- BROW (07 R115). Its ISS counts the emissions of BEMITs earlier in its hand, as for BEMIT, BREAD and BSTEP (19 R351 names
only those three; DESIGN CHOICE, log 128). -/
def browGo (d : Reg) (b : Bight) (c : Cascade) (h : Hand) (s : State) : State × Ans :=
  let yieldRow (kind : Nat) (v : W64) : State × Ans := onHand (fun h => hEff (.brow kind) (wrS d v h)) s
  let ones : W64 := w64 (2 ^ 64 - 1)
  if (List.range 3).any (fun k => countEff h (isBrow k) != 0) then rowFault s
  else if c.st == .done then yieldRow 2 ones
  else if c.st == .stopped || c.st == .saved then (s, .wait)
  else if b.redo != 0 then yieldRow 0 (w64 ((issSeen b h + c.h) % 2 ^ 32))
  else if b.nknown && decide (b.n + c.h ≤ b.adm) then yieldRow 2 ones
  else if (b.nknown && decide (b.n ≤ b.adm)) || decide (b.adm < b.rcv) then yieldRow 1 (w64 (b.adm % 2 ^ 32))
  else if b.rcv - b.ret == c.w && b.pret == 0 then rowFault s
  else (s, .wait)

def execBrow (d : Reg) (q : Sel) (s : State) : Result := .next (issueB 8 q (rowOp true (browGo d)) s)

/-- The plane is one that the stage loads. -/
def stagePlane (b : Bight) (c : Cascade) (pl : Plane) : Bool := (stageOf' c b.stage).planes.getLsbD pl.toNat

/-- Prologue rows that a rank FE holds whole: its own and those of its neighbours, when they are seeded (07 R120). -/
def prologueRows (s : State) (b : Bight) (c : Cascade) : Nat :=
  if c.nrows != 0 then b.seeded
  else
    let ofRank (i : Nat) : Nat := match ofCasc s c (rankFe c b.stage i) with
      | some x => x.seeded
      | none => 0
    let n := b.seeded
    let n := if c.h != 0 && hasLo c b.rank then Nat.min n (ofRank (loRank c b.rank)) else n
    if c.h != 0 && hasHi c b.rank then Nat.min n (ofRank (hiRank c b.rank)) else n

/-- Whether a tap of an emission of row `row` needs a prologue row that is not there. -/
def needsPrologue (s : State) (b : Bight) (c : Cascade) (taps : List Tap) (row : Nat) : Bool :=
  c.rpol == 3 && taps.any fun t =>
    decide ((row : Int) + t.dr < 0) && decide (prologueRows s b c ≤ ((row : Int) + t.dr + c.h).toNat)

/-- BEMIT (07 R116). -/
def execBemit (port : Port) (pl : Plane) (q : Sel) (s : State) : Result :=
  .next (issueGen (fun _ _ => 8) 8 q false (rowOp false fun b c h s =>
    let taps := tapsSeen b h
    if !stagePlane b c pl || taps.isEmpty || decide (admSeen b h < issSeen b h + c.h + 1) ||
        needsPrologue s b c taps (issSeen b h) then rowFault s
    else onHand (hEff (.bemit pl port)) s) s)

/-- While its cascade is STOPPED a stage issues no new emission: the commit of its BEMIT waits (07 R124, log 122). -/
def emitHeld (s : State) (fe : Nat) : Bool := match liveBight s fe with
  | some (_, c) => c.st == .stopped
  | none => false

/-- BSTEP (07 R117). -/
def execBstep (q : Sel) (s : State) : Result :=
  .next (issueGen (fun _ _ => 8) 8 q false (rowOp false fun b _ h s =>
    if 63 ≤ b.pret + countEff h isBstep then rowFault s else onHand (hEff .bstep) s) s)

/-- A displacement lies within the halo. -/
def inHalo (c : Cascade) (d : BitVec 6) : Bool := decide (-(c.h : Int) ≤ d.toInt) && decide (d.toInt ≤ (c.h : Int))

/-- BREAD (07 R118). -/
def execBread (d : Reg) (dr dc : BitVec 6) (q : Sel) (s : State) : Result :=
  .next (issueGen (fun _ _ => 8) 8 q false (rowOp false fun b c h s =>
    if !inHalo c dr || !inHalo c dc || decide (admSeen b h < issSeen b h + c.h + 1) then rowFault s
    else onHand (wrS d ((elemOf s s.curFe b c b.const (issSeen b h + dr.toInt) dc.toInt).setWidth 64)) s) s)

/-- BTAP (07 R116). A tap of a seventeenth port takes CASCADE_BOUNDS (DESIGN CHOICE, log 128). -/
def execBtap (port : Port) (dr dc : BitVec 6) (pl : Plane) (q : Sel) (s : State) : Result :=
  .next (issueGen (fun _ _ => 8) 8 q false (rowOp false fun b c h s =>
    let t : Tap := { pl := pl, port := port, dr := dr.toInt, dc := dc.toInt }
    if !inHalo c dr || !inHalo c dc || !stagePlane b c pl || decide (16 < (bindTap t (tapsSeen b h)).length) then rowFault s
    else onHand (hEff (.btap pl port dr.toInt dc.toInt)) s) s)

/-- CSTATE of BSTAT. -/
def cstate : CascState → Nat
  | .declared => 0
  | .placed => 1
  | .filling => 2
  | .streaming => 3
  | .draining => 4
  | .stopped => 5
  | .saved => 6
  | .done => 7

/-- BSTAT (07 R122). -/
def bstatWord (b : Bight) (c : Cascade) : Nat → W64
  | 0 => w64 (b.stage % 512 * 2 ^ 33 + b.rank % 64 * 2 ^ 27 + (b.rcv - b.ret) % 64 * 2 ^ 21 + b.pret % 64 * 2 ^ 15 +
      b.redo % 64 * 2 ^ 9 + bitAt c.aborted 8 + bitAt b.nknown 7 + bitAt b.flt.isSome 6 + cstate c.st * 8)
  | 1 => w64 (b.rcv % 2 ^ 32)
  | 2 => w64 (b.adm % 2 ^ 32)
  | 3 => w64 (b.iss % 2 ^ 32)
  | 4 => w64 (b.emt % 2 ^ 32)
  | 5 => w64 (b.ret % 2 ^ 32)
  | 6 => w64 (b.n % 2 ^ 32)
  | _ => w64 c.cid

def execBstat (d : Reg) (sel : BitVec 3) (q : Sel) (s : State) : Result :=
  .next (issue 4 q (fun s h =>
    match bightAt s s.curFe with
    | none => wrS d 0 h
    | some b =>
      match cascAt s b.casc with
      | none => wrS d 0 h
      | some c => wrS d (if b.seat == s.curSeat then bstatWord b c sel.toNat else 0) h) s)

/-- BEND (07 R119). -/
def execBend (q : Sel) (s : State) : Result :=
  .next (issueGen (fun _ _ => 8) 8 q false (rowOp false fun b _ _ s =>
    if b.stage != 0 then rowFault s else onHand (hEff .bend) s) s)
def execBendAbort (q : Sel) (s : State) : Result :=
  .next (issueGen (fun _ _ => 8) 8 q false (rowOp false fun _ _ _ s => onHand (hEff .bendAbort) s) s)

/-- BSEED (07 R120). -/
def execBseedC (a : Reg) (q : Sel) (s : State) : Result :=
  .next (issueGen (fun _ _ => 8) 8 q false (rowOp false fun _ _ h s =>
    onHand (hEff (.bseedC (w32 (rdS h a).toNat))) s) s)
def isBseedR (e : Eff) : Bool := match e with
  | .bseedR _ => true
  | _ => false
def execBseedR (a : Reg) (q : Sel) (s : State) : Result :=
  .next (issueGen (fun _ _ => 8) 8 q false (rowOp false fun b c h s =>
    onHand (chkLocal (rdS h a).toNat (4 * c.lw) 4 (fun h =>
      if c.st != .placed || decide (c.h ≤ b.seeded + countEff h isBseedR) then hFault Code.cascadeBounds 0 0 h
      else hEff (.bseedR (rdS h a).toNat) h)) s) s)

/-! ### Their effects at commit -/

/-- The stage seat's FE takes part in a cascade: apply `g` to its bight unit and cascade. -/
def onBight (fe : Nat) (g : Bight → Cascade → State → State) (s : State) : State :=
  match bightAt s fe with
  | none => s
  | some b =>
    match cascAt s b.casc with
    | none => s
    | some c => g b c s

/-- Stage 0 has admitted row N - 1: the cascade drains (07 R121). One that learned this while it was STOPPED drains with the
next BROW of stage 0. -/
def drainCheck (fe : Nat) (s : State) : State :=
  onBight fe (fun b c s =>
    if b.stage == 0 && b.nknown && decide (b.n ≤ b.adm) then
      doneCheck c.id (modCasc c.id (cascMove [.placed, .filling, .streaming] .draining) s)
    else s) s

def browCommit (fe k kind : Nat) (s : State) : State :=
  drainCheck fe (match kind with
    | 0 => modBight fe (fun b => { b with redo := b.redo - 1 }) s
    | 1 => modBight fe (fun b => { b with adm := b.adm + 1 }) s
    | _ => modSeat fe k (fun t => { t with browEnd := true }) s)

def bemitCommit (fe : Nat) (pl : Plane) (port : Port) (s : State) : State :=
  modBight fe (fun b => { b with
    iss := b.iss + 1
    emis := b.emis ++ [{ row := b.iss, pl := pl, port := port, const := b.const, taps := b.taps, fed := b.taps.map fun _ => 0 }] }) s

def btapCommit (fe : Nat) (pl : Plane) (port : Port) (dr dc : Int) (s : State) : State :=
  modPort fe pl.toNat port.toNat (fun p => { p with producer := .tap })
    (modBight fe (fun b => { b with taps := bindTap { pl := pl, port := port, dr := dr, dc := dc } b.taps }) s)

/-- BEND at commit: N := RCV; a row in part is discarded. -/
def bendCommit (fe : Nat) (s : State) : State :=
  onBight fe (fun b _ s => learnN fe b.rcv (modBight fe (fun b => { b with row := [], rowEor := false }) s)) s

def bendAbortCommit (fe : Nat) (s : State) : State := onBight fe (fun _ c s => cascAbort c.id s) s

/-- A stage seat HALTs: before its BROW has yielded all ones this ends the cascade by abort (07 R121). -/
def haltStage (fe k : Nat) (s : State) : State :=
  onBight fe (fun b c s => if b.seat == k && !(seatAt s fe k).browEnd then cascAbort c.id s else s) s

/-- Fill the halo columns of prologue row place `p` that lie past the lattice, from the row as it stands. -/
def fillEnds (c : Cascade) (fe rank p : Nat) (const : W32) (s : State) : State :=
  let mid := (List.range (c.lw + (if hasLo c rank then c.h else 0) + (if hasHi c rank then c.h else 0))).map fun (j : Nat) =>
    cellRead s fe c p ((j : Int) - (if hasLo c rank then (c.h : Int) else 0))
  let s := if hasLo c rank then s
    else cellsWrite fe c p (-(c.h : Int)) ((List.range c.h).map fun j => endWord c const mid true (c.h - j)) s
  if hasHi c rank then s else cellsWrite fe c p c.lw ((List.range c.h).map fun j => endWord c const mid false (j + 1)) s

/-- BSEED.r at commit: the next prologue row, with its halo columns exchanged between the rank FEs. It does the same where no
wrap store is laid out or NROWS is not 0, and counts as a prologue row (DESIGN CHOICE, log 112). -/
def bseedRCommit (fe off : Nat) (s : State) : State :=
  onBight fe (fun b c s =>
    let p := c.w + b.seeded
    let row := words32 c.lw (seatBytes s fe b.seat off (4 * c.lw))
    let s := cellsWrite fe c p 0 row s
    let lo := rankFe c b.stage (loRank c b.rank)
    let hi := rankFe c b.stage (hiRank c b.rank)
    let s := if hasLo c b.rank then
        fillEnds c lo (loRank c b.rank) p b.const (cellsWrite lo c p c.lw (row.take c.h) s)
      else s
    let s := if hasHi c b.rank then
        fillEnds c hi (hiRank c b.rank) p b.const (cellsWrite hi c p (-(c.h : Int)) (row.drop (c.lw - c.h)) s)
      else s
    modBight fe (fun b => { b with seeded := b.seeded + 1 }) (fillEnds c fe b.rank p b.const s)) s

/-- Bytes of the row that a BSEED.r reads. -/
def rowBytes (s : State) (fe : Nat) : Nat := match liveBight s fe with
  | some (_, c) => 4 * c.lw
  | none => 0

/-! ### Emissions (07 R116) -/

/-- Tokens of a tap's row. -/
def tapTokens (c : Cascade) : Nat := cdiv c.lw 8

/-- Token `j` that a tap streams: columns dc + 8 j to dc + LW - 1, at most eight. -/
def tapToken (s : State) (fe : Nat) (b : Bight) (c : Cascade) (e : Emission) (t : Tap) (j : Nat) : Token :=
  let n := Nat.min 8 (c.lw - 8 * j)
  mkToken ((List.range n).map fun i => (elemOf s fe b c e.const (e.row + t.dr) (t.dc + (8 * j + i : Nat)), false))
    (j + 1 == tapTokens c) false

/-- The tap fed next: in ascending port number, one with tokens left and room in its port's channel. -/
def tapNext (f : FE) (c : Cascade) (e : Emission) : Option (Nat × Tap) :=
  let l := e.taps.zipIdx.filter fun p => decide (e.fed.getD p.2 0 < tapTokens c) &&
    decide ((chanOf f p.1.pl.toNat p.1.port.toNat).length < 4)
  let l := l.mergeSort fun x y => decide (16 * x.1.port.toNat + x.1.pl.toNat ≤ 16 * y.1.port.toNat + y.1.pl.toNat)
  l.head?.map fun p => (p.2, p.1)

/-- What an emission does next: stream a token, take one of the sink, or nothing yet. A STOPPED cascade begins none. -/
inductive EmitAct where
  | feed (i : Nat) (t : Tap)
  | take
  | none
  deriving DecidableEq, Repr

def emitNext (s : State) (fe : Nat) : EmitAct :=
  match liveBight s fe with
  | none => .none
  | some (b, c) =>
    match b.emis with
    | [] => .none
    | e :: _ =>
      let f := feAt s fe
      let begun := e.fed.any (· != 0) || e.got != 0
      if c.st == .stopped && !begun then .none
      else
        let room := if b.stage + 1 == c.d then true
          else match bightAt s (rankFe c (b.stage + 1) b.rank) with
            | some d => decide (d.rowChan.length < 4)
            | none => false
        if room && !(sinkChan f e.pl.toNat e.port.toNat).isEmpty then .take
        else match tapNext f c e with
          | some (i, t) => .feed i t
          | none => .none

/-- The head emission has completed. -/
def emitDone (fe : Nat) (s : State) : State :=
  onBight fe (fun b c s =>
    let s := modBight fe (fun b => { b with emis := b.emis.tail, emt := b.emt + 1 }) s
    if b.stage + 1 == c.d then
      doneCheck c.id (if b.emt == 0 then modCasc c.id (cascMove [.filling] .streaming) s else s)
    else s) s

/-- The last stage writes a row: to the egress row, whose word c + H is column c, then to DST, up to an access that fails. -/
def egress (fe : Nat) (b : Bight) (c : Cascade) (e : Emission) (s : State) : State :=
  let s := cellsWrite fe c (c.w + (if c.rpol == 3 then 2 * c.h else 0)) 0 e.words s
  let p := rowSpan s fe c b true e.row
  let put (s : State) : State :=
    modBight fe (rowLatch true p)
      (spanPut p.parts (packBytes (cascEsize c) (e.words.map (·.toNat))) (spanGo (feDie fe) c.ctx true p s))
  match p.stop with
  | .wait => s
  | .go => emitDone fe (put s)
  | .refuse code =>
    if rowParks b true p then
      report (.park c.ctx (w64 p.stopVa)) (modBight fe (fun b => { b with parkedOut := some p.stopVa }) s)
    else recordFault fe code 1 e.row (spanCol c b true e.row p.stopVa) (w64 p.stopVa) true (put s)

def setEmis (fe : Nat) (e : Emission) (s : State) : State :=
  modBight fe (fun b => { b with emis := match b.emis with
    | _ :: r => e :: r
    | [] => [] }) s

/-- The last stage holds the whole output row of its oldest emission, still to be written. -/
def rowFull (b : Bight) (c : Cascade) : Bool := match b.emis with
  | e :: _ => b.stage + 1 == c.d && e.got == c.lw
  | [] => false

/-- EMISSION_COMPLETE: the oldest emission goes on by one token; with its last it completes. An ABORT token at the emit sink
is dropped, and the elements already taken stay (07 R116; DESIGN CHOICE, log 128). -/
def emission (fe : Nat) (s : State) : State :=
  match liveBight s fe with
  | none => s
  | some (b, c) =>
    match b.emis with
    | [] => s
    | e :: _ =>
      if rowFull b c then (if b.parkedOut.isSome then s else egress fe b c e s)
      else
        match emitNext s fe with
        | .none => s
        | .feed i t =>
          feedPort fe t.pl.toNat t.port.toNat (tapToken s fe b c e t (e.fed.getD i 0))
            (setEmis fe { e with fed := e.fed.set i (e.fed.getD i 0 + 1) } s)
        | .take =>
          match sinkChan (feAt s fe) e.pl.toNat e.port.toNat with
          | [] => s
          | t :: r =>
            let s := modFe fe (setSink e.pl.toNat e.port.toNat r) s
            if t.abort then s
            else if t.err then recordFault fe t.code 0 e.row t.eidx.toNat 0 false s
            else
              let n := e.got + t.elems.length
              if c.lw < n || (t.eor && n != c.lw) || (!t.eor && n == c.lw) then recordFault fe Code.cascadeBounds 0 e.row 0x1FFF 0 false s
              else if b.stage + 1 == c.d then
                (let e := { e with got := n, words := e.words ++ t.elems }
                 let s := setEmis fe e s
                 if t.eor && b.parkedOut.isNone then egress fe b c e s else s)
              else
                let s := setEmis fe { e with got := n } s
                let s := modBight (rankFe c (b.stage + 1) b.rank) (fun d => { d with
                  rowChan := d.rowChan ++ [{ t with last := t.eor && b.nknown && e.row + 1 == b.n }] }) s
                if t.eor then emitDone fe s else s

def execEmissionComplete (fe : Nat) (s : State) : Result := .next (emission fe s)

/-- Whether an emission can go on. -/
def emissionReady (s : State) (fe : Nat) : Bool :=
  match liveBight s fe with
  | none => false
  | some (b, c) => rowFull b c || emitNext s fe != .none

/-! ### Retirement (07 R117) -/

/-- A bight unit that retires rows: also once its cascade is DONE, for the requests left over then. -/
def retireBight (s : State) (fe : Nat) : Option (Bight × Cascade) :=
  match liveBight s fe with
  | some x => some x
  | none =>
    (bightAt s fe).bind fun b => (cascAt s b.casc).bind fun c =>
      if c.st == .done && !c.aborted && !jobFrozen s c.ctx then some (b, c) else none

def retireReady (s : State) (fe : Nat) : Bool :=
  match retireBight s fe with
  | none => false
  | some (b, c) =>
    decide (0 < b.pret) &&
      (if b.nknown && decide (b.n ≤ b.ret) then true
       else decide ((if b.nknown then Nat.min (b.ret + c.h + 1) b.n else b.ret + c.h + 1) ≤ b.emt))

/-- ROW_RETIRE: one request is applied; with wrap a row below H is copied into the wrap store first, after the prologue rows
(log 112); requests left when RET
has reached N are discarded. -/
def rowRetire (fe : Nat) (s : State) : State :=
  match retireBight s fe with
  | none => s
  | some (b, c) =>
    if !retireReady s fe then s
    else if b.nknown && decide (b.n ≤ b.ret) then modBight fe (fun b => { b with pret := 0 }) s
    else
      let s := if c.rpol == 3 && decide (b.ret < c.h) then
          cellsWrite fe c (c.w + c.h + b.ret) (-(c.h : Int))
            ((List.range (bightCols c)).map fun (j : Nat) => cellRead s fe c (b.ret % c.w) ((j : Int) - c.h)) s
        else s
      doneCheck c.id (modBight fe (fun b => { b with ret := b.ret + 1, pret := b.pret - 1 }) s)

def execRowRetire (fe : Nat) (s : State) : Result := .next (rowRetire fe s)

/-! ### Leaving SAVED (07 R121, R125) -/

def releaseReady (s : State) (c : Cascade) : Bool :=
  c.st == .saved && !jobFrozen s c.ctx && (ctxAt s c.ctx).st == .running && (cascFes c).all fun fe =>
    match ofCasc s c fe with
    | some b =>
      let t := seatAt s fe b.seat
      t.st != .saved && !t.arch.stub
    | none => true

/-- CASCADE_RELEASE: all stages are released together. -/
def cascRelease (id : Nat) (s : State) : State :=
  match cascAt s id with
  | none => s
  | some c => if releaseReady s c then modCasc id (fun c => { c with st := c.held }) s else s

def execCascadeRelease (casc : Nat) (s : State) : Result := .next (cascRelease casc s)

/-! ### LINK_TIMEOUT of what waits (10 R166) -/

/-- The global command that a port runs, when its next access waits on its way. -/
def portAwaits (s : State) (fe pl ix : Nat) : Option StreamCmd :=
  let f := feAt s fe
  match (portOf f pl ix).queue with
  | [] => none
  | c :: _ =>
    if !c.glob || c.parked.isSome || !headRuns f pl ix c || !feLive s fe then none
    else
      let waits :=
        if c.sparse then
          (if ix < 16 then c.row.isNone && areaWaits s fe c (cmdCount c) { r := true }
           else f.staging.port == some (pl, ix - 16) && f.staging.eorV && f.staging.eorM && stagingWaits s fe)
        else if needsLatch c then walkMeets s f.tlb (feDie fe) c.ctx (cmdVa c) == .wait
        else elemWaits s fe c
      if waits then some c else none

/-- What waits on a link, a walk or a channel beside the requests of seats: a card, a port or the row of a bight unit. -/
inductive Awaiting where
  | card (id : Nat)
  | port (fe pl ix : Nat) (c : StreamCmd)
  | row (fe : Nat) (out : Bool)
  deriving DecidableEq, Repr

def waiters (s : State) : List Awaiting :=
  let ports (e : Nat × FE) : List Awaiting := (List.range 128).filterMap fun i =>
    (portAwaits s e.1 (i / 32) (i % 32)).map (Awaiting.port e.1 (i / 32) (i % 32))
  let rows (e : Nat × FE) : List Awaiting := match liveBight s e.1 with
    | none => []
    | some (b, c) =>
      (if stage0Ready s e.1 && b.parked.isNone && (rowSpan s e.1 c b false (inputRow c b)).stop == .wait then [.row e.1 false] else []) ++
      (match b.emis with
       | x :: _ => if rowFull b c && b.parkedOut.isNone && (rowSpan s e.1 c b true x.row).stop == .wait then [.row e.1 true] else []
       | [] => [])
  ((s.cards.filter fun e => e.2.checked && !e.2.done).map fun e => Awaiting.card e.1) ++ s.fes.flatMap ports ++ s.fes.flatMap rows

/-- One of them runs out of time, unless its job is frozen, whose timers stand still (11 R173): its access ends in
LINK_TIMEOUT. -/
def waiterLost (w : Awaiting) (s : State) : State :=
  match w with
  | .card id => (match cardAt s id with
    | some c => if recvFrozen s c.ctx then s else cardLost id c s
    | none => s)
  | .port fe pl ix c => if recvFrozen s c.ctx then s else latchFail fe pl ix c Code.linkTimeout s
  | .row fe out => (match liveBight s fe with
    | none => s
    | some (b, c) =>
      if recvFrozen s c.ctx then s
      else
        let row := if out then (b.emis.head?.map (·.row)).getD 0 else inputRow c b
        let va := (rowSpan s fe c b out row).stopVa
        recordFault fe Code.linkTimeout 1 row (spanCol c b out row va) (w64 va) out s)

/-- LINK_TIMEOUT_FIRE: request `n` runs out of time (10 R166), unless its job is frozen; its reply is discarded. The numbers past
the requests count the others that wait. -/
def linkTimeout (n : Nat) (s : State) : State :=
  match (awaiting s)[n]? with
  | some r =>
    if recvFrozen s r.ctx then s
    else failReq r Code.linkTimeout (takeBack r { s with replies := s.replies.filter fun x => !isReq r x.req })
  | none => match (waiters s)[n - (awaiting s).length]? with
    | some w => waiterLost w s
    | none => s

def execLinkTimeout (n : Nat) (s : State) : Result := .next (linkTimeout n s)

end Sys2Proof.Machine
end

