-- ==== Sys2Proof/Machine/Queue.lean ====
section
/-!
DEFINITION. Queues and the command processor (05 R80 to R89): the mapper, the front end and its packets, the task graph.
-/

namespace Sys2Proof.Machine

/-! ### The mapper (05 R80, R81) -/

/-- The PENDING queue of highest effective priority, of those the one that has waited longest. -/
def bestPending (s : State) : Option Nat :=
  (s.queues.foldl (fun (b : Option (Nat × Queue)) e =>
    if e.2.st != .pending then b
    else match b with
      | none => some e
      | some x => if x.2.eff < e.2.eff || (x.2.eff == e.2.eff && decide (e.2.since < x.2.since)) then some e else b) none).map (·.1)

/-- MAPPER_BIND: a free slot takes the best PENDING queue. Slots stand in the order of their turns: a new one is the last, a slot
that has had its turn goes behind the others, and one that had no packet keeps its place (DESIGN CHOICE, log 123). -/
def mapperBind (s : State) : State :=
  if 32 ≤ s.slots.length then s
  else match bestPending s with
    | none => s
    | some q => modQueue q (fun x => { x with st := .active, quantum := 0 }) { s with slots := s.slots ++ [q] }

def execMapperBind (s : State) : Result := .next (mapperBind s)

/-- QUANTUM_END: while a queue is PENDING, an ACTIVE queue whose quantum ends gives its slot up, between two packets. A
quantum that ends while none is PENDING goes on, and ends when one becomes PENDING (DESIGN CHOICE, log 108). -/
def quantumEnd (q : Nat) (s : State) : State :=
  if (queueAt s q).st == .active && s.queues.any (fun e => e.2.st == .pending) then
    freeSlot q (toPending q s)
  else s

def execQuantumEnd (qn : Nat) (s : State) : Result := .next (quantumEnd qn s)

/-- PRIORITY_AGING: another 65,536 cycles PENDING. -/
def execPriorityAging (qn : Nat) (s : State) : Result :=
  .next (if (queueAt s qn).st == .pending then
      modQueue qn (fun x => { x with eff := if x.eff == 3 then 3 else x.eff + 1 }) s
    else s)

/-! ### Packets (05 R82 to R87) -/

/-- A packet as the front end reads it: its header fields and the bytes of its units. -/
structure Packet where
  op : Nat
  units : Nat
  fence : Bool
  tag : Nat
  index : W32
  w : List W64
  deriving DecidableEq, Repr

/-- The units that an OP requires (05 R83). -/
def opUnits (op units : Nat) : Bool :=
  match op with
  | 0 => true
  | 1 | 2 | 3 => units == 3
  | _ => units == 1

/-- The address of the unit at a ring index. -/
def unitVa (x : Queue) (i : W32) : Nat := x.ringBase.toNat + 64 * (i.toNat % 2 ^ x.log2u.toNat)

/-- Where a packet is malformed whatever its units hold: a CODE of 05 R87, the lowest of several; 0 when it is not. -/
def headBad (x : Queue) (op units : Nat) (index : W32) : Nat :=
  if 5 < op then 1
  else if !opUnits op units then 2
  else if 2 ^ x.log2u.toNat < index.toNat % 2 ^ x.log2u.toNat + units then 3
  else 0

/-- The packet at RPTR, when a knock covers it; one that is malformed by its header, or is too long for what is covered, is known
by its first unit alone, since the CP reads only units that a knock covers (05 R78). -/
def packetReads (s : State) (q : Nat) : Reads (Option Packet) :=
  let x := queueAt s q
  let c := x.ctx.toNat
  let covered := (x.wptr - x.rptr).toNat
  if covered == 0 then .done none
  else
    (readWords s cpDie c (unitVa x x.rptr) 8).andThen fun u =>
      let h := nth u 0
      let n := fld h 9 8 + 1
      let mk (w : List W64) : Packet :=
        { op := fld h 7 0, units := n, fence := bit h 10, tag := fld h 31 16, index := x.rptr, w := w }
      if headBad x (fld h 7 0) n x.rptr != 0 || n == 1 then .done (some (mk u))
      else if covered < n then .done none
      else (readWords s cpDie c (unitVa x x.rptr + 64) (8 * (n - 1))).map fun w => some (mk (u ++ w))

/-- The packet at RPTR, where it can be read now. -/
def packetAt (s : State) (q : Nat) : Option Packet := match (packetReads s q).out with
  | .ok p => p
  | .error _ => none

/-- Reserved bits of a packet, and field values that its descriptor calls malformed. -/
def packetReserved (p : Packet) : Bool :=
  let z (i hi lo : Nat) : Bool := fld (nth p.w i) hi lo == 0
  let zeros (a n : Nat) : Bool := (List.range n).all fun i => nth p.w (a + i) == 0
  let len (v : W64) : Bool := decide (1 ≤ v.toNat) && decide (v.toNat ≤ 2 ^ 40)
  !(z 0 63 32 && z 0 15 11 && (match p.op with
    | 0 => zeros 1 (8 * p.units - 1)
    | 1 => z 1 7 0 && zeros 2 6
    | 2 => z 3 63 48 && len (nth p.w 3) && zeros 6 2 && z 5 63 16 && z 5 15 12 && z 5 7 5 &&
        decide (1 ≤ fld (nth p.w 5) 3 0) && decide (fld (nth p.w 5) 3 0 ≤ 5) &&
        (!bit (nth p.w 5) 4 || decide (fld (nth p.w 5) 3 0 ≤ 2))
    | 3 => len (nth p.w 3) && zeros 4 4
    | 4 => z 1 2 0 && z 3 63 2 && zeros 4 4
    | _ => z 1 2 0 && z 3 63 1 && zeros 4 4))

/-- Why a packet is malformed: a CODE of 05 R87, the lowest of several; 0 when it is not. -/
def packetBad (x : Queue) (p : Packet) : Nat :=
  let e := headBad x p.op p.units p.index
  if e != 0 then e
  else if packetReserved p then 4
  else if 1 ≤ p.op && p.op ≤ 3 && ((List.range 8).any fun i => fld (nth p.w (9 + 2 * i)) 63 48 != 0) then 4
  else if 1 ≤ p.op && p.op ≤ 3 && !(footprint (p.w.drop 8)).2 then 6
  else 0

/-- RPTR moves past a packet and is written to RPTRWB; the queue's turn is over, and it is IDLE when the ring is empty
(05 R79 to R81). -/
def advance (q n : Nat) (s : State) : State :=
  let s := modQueue q (fun x => { x with rptr := x.rptr + w32 n, quantum := x.quantum + 1, stalled := false }) s
  let x := queueAt s q
  let s := cpWrite q x.rptrWb (w64 x.rptr.toNat) s
  if x.st != .active then s
  else if x.rptr == x.wptr then freeSlot q (modQueue q (fun x => { x with st := .idle }) s)
  else { s with slots := s.slots.filter (· != q) ++ [q] }

def meet (a b : Region) : Bool := decide (a.base < b.base + b.len) && decide (b.base < a.base + a.len)

/-- A new node depends on an earlier one of its context (05 R88). -/
def dependsOn (n m : Node) (fence : Bool) : Bool :=
  m.ctx == n.ctx &&
    (m.writes.any (fun a => n.reads.any (meet a) || n.writes.any (meet a)) || m.reads.any (fun a => n.writes.any (meet a)) ||
     (fence && m.queue == n.queue))

/-- A packet becomes a node of the task graph. -/
def enterNode (q : Nat) (p : Packet) (kind : NodeKind) (s : State) : State :=
  let x := queueAt s q
  let foot := if p.op == 5 then [] else (footprint (p.w.drop 8)).1
  let n : Node := { id := s.nextId, queue := q, ctx := x.ctx.toNat, kind := kind, tag := BitVec.ofNat 16 p.tag, index := p.index
                    reads := (foot.filter (!·.2)).map (·.1), writes := (foot.filter (·.2)).map (·.1), deps := [] }
  let deps := (s.graph.filter fun m => dependsOn n m (p.fence || p.op == 5)).map (·.id)
  { s with graph := s.graph ++ [{ n with deps := deps }], nextId := s.nextId + 1 }

/-- The access of the CP to the doubleword at a virtual address. -/
def cpSpan (s : State) (ctx va : Nat) (need : Need) : Span := engineSpan s cpDie ctx va 8 need none

/-- The doubleword of an access that goes on, at its home. -/
def cpLoad (p : Span) (s : State) : Nat × State := match p.parts with
  | a :: _ => if ownModule s a.pa then (rdPa s a.pa 8, s) else (let (w, s) := freeWord s; (w.toNat, s))
  | [] => (0, s)

/-- Store to it; a store leaves tags as they are. -/
def cpStore (p : Span) (v : Nat) (s : State) : State := match p.parts with
  | a :: _ => if ownModule s a.pa then wrPa a.pa 8 v s else s
  | [] => s

/-- The condition of a WAIT on the value of the word at its address. -/
def waitHolds (p : Packet) (v : Nat) : Bool :=
  let w := (nth p.w 2).toNat
  match fld (nth p.w 3) 1 0 with
  | 0 => v == w
  | 1 => v != w
  | 2 => decide (w ≤ v)
  | _ => decide (v < w)

def waitSpan (s : State) (ctx : Nat) (p : Packet) : Span := cpSpan s ctx (nth p.w 1).toNat { r := true }

/-- The condition holds for the word at its address; not while that word cannot be read. -/
def waitMet (s : State) (ctx : Nat) (p : Packet) : Bool :=
  let x := waitSpan s ctx p
  x.stop == .go && waitHolds p (cpLoad x s).1

/-- WAIT: it stops the front end until its condition holds at the word's point of coherence. -/
def waitGo (q : Nat) (p : Packet) (s : State) : State :=
  let c := (queueAt s q).ctx.toNat
  let x := waitSpan s c p
  let s := spanGo cpDie c false x s
  let stall (s : State) : State := modQueue q (fun x => { x with stalled := true }) s
  if x.stop != .go then stall s
  else
    let (v, s) := cpLoad x s
    if waitHolds p v then advance q p.units s else stall s

/-- A slot whose quantum is over while a queue is PENDING takes no further packet (05 R81). -/
def overQuantum (s : State) (q : Nat) : Bool := decide (256 ≤ (queueAt s q).quantum) && (bestPending s).isSome

/-- A read of a queue's units that meets an uncorrectable error stops its context, once (13 R205). -/
def unitsLost (s : State) (q : Nat) : Bool :=
  (match (packetReads s q).out with
    | .error m => refusal m == some Code.memoryUncorrectable
    | .ok _ => false) && (ctxAt s (queueAt s q).ctx.toNat).st == .running

/-- A bound queue that the front end could serve now: it is not stalled, its quantum is not over, and it has a packet that can be
read. -/
def canFront (s : State) (q : Nat) : Bool :=
  let x := queueAt s q
  x.st == .active && !x.stalled && !overQuantum s q && ((packetAt s q).isSome || unitsLost s q)

/-- Whether it is a queue's turn at the front end: it is the first in turn of those that it could serve (05 R81), and the
task graph has room (05 R88). -/
def frontReady (s : State) (q : Nat) : Bool :=
  decide (s.graph.length < 4096) && s.slots.find? (canFront s) == some q

/-- The front end takes the packet at RPTR, when its OP is one of those of the event; a malformed one puts the queue in
ERROR, with no other effect. -/
def packetGo (q : Nat) (ops : Nat → Bool) (s : State) : State :=
  if !frontReady s q then s
  else
    let x := packetReads s q
    let read (s : State) : State := readsGo cpDie (queueAt s q).ctx.toNat x.spans s
    match x.out with
    | .error _ => read s
    | .ok none => s
    | .ok (some p) =>
      if !ops p.op then s
      else
        let bad := packetBad (queueAt s q) p
        let s := read s
        if bad != 0 then queueError q bad p.tag p.index.toNat p.op s
        else
          match p.op with
          | 0 => advance q p.units s
          | 1 => advance q 3 (enterNode q p (.launch (nth p.w 1)) s)
          | 2 => advance q 3 (enterNode q p (.transform (p.w.take 8)) s)
          | 3 => advance q 3 (enterNode q p (.copy (nth p.w 1) (nth p.w 2) (nth p.w 3)) s)
          | 4 => waitGo q p s
          | _ => advance q 1 (enterNode q p (.signal (nth p.w 1) (nth p.w 2) (bit (nth p.w 3) 0)) s)

/-- NOP_PACKET, and a packet of an unknown OP. -/
def execNopPacket (qn : Nat) (s : State) : Result := .next (packetGo qn (fun op => op == 0 || decide (5 < op)) s)
def execLaunchPacket (qn : Nat) (s : State) : Result := .next (packetGo qn (· == 1) s)
def execTransformPacket (qn : Nat) (s : State) : Result := .next (packetGo qn (· == 2) s)
def execCopyPacket (qn : Nat) (s : State) : Result := .next (packetGo qn (· == 3) s)
def execWaitPacket (qn : Nat) (s : State) : Result := .next (packetGo qn (· == 4) s)
def execSignalPacket (qn : Nat) (s : State) : Result := .next (packetGo qn (· == 5) s)

/-- A stalled WAIT is read again, also while the task graph is full, since it makes no node (DESIGN CHOICE, log 123); before it
the CP writes the words that the queue owes (log 119). -/
def waitReread (q : Nat) (s : State) : State :=
  let s := if owesReady s q then writeOwed q (queueAt s q).owes s else s
  let x := queueAt s q
  if x.st != .active || !x.stalled || overQuantum s q then s
  else match packetAt s q with
    | some p => if p.op == 4 then waitGo q p s else s
    | none => s

def execWaitReread (qn : Nat) (s : State) : Result := .next (waitReread qn s)

/-- Whether reading it again would end a WAIT, or the queue owes a word that can be written. -/
def rereadReady (s : State) (q : Nat) : Bool :=
  let x := queueAt s q
  owesReady s q || (x.st == .active && x.stalled && !overQuantum s q && match packetAt s q with
    | some p => p.op == 4 && waitMet s x.ctx.toNat p
    | none => false)

/-! ### The task graph (05 R88, R89) -/

/-- The OP byte of the packet that a node came from. -/
def nodeOp (n : Node) : Nat := match n.kind with
  | .launch _ => 1
  | .transform _ => 2
  | .copy _ _ _ => 3
  | .signal _ _ _ => 5

def nodeAt (s : State) (id : Nat) : Option Node := s.graph.find? fun n => n.id == id
def modNode (id : Nat) (g : Node → Node) (s : State) : State :=
  { s with graph := s.graph.map fun n => if n.id == id then g n else n }

/-- Nodes that depend on node `id`, directly or through others. -/
def dependents : Nat → List Node → List Nat → List Nat
  | 0, _, acc => acc
  | fuel + 1, g, acc =>
    let more := (g.filter fun n => !acc.contains n.id && n.deps.any acc.contains).map (·.id)
    if more.isEmpty then acc else dependents fuel g (acc ++ more)

/-- A node leaves the graph; with an error its dependants are discarded and its queue enters ERROR (05 R89). -/
def nodeLeave (id : Nat) (ok : Bool) (s : State) : State :=
  match nodeAt s id with
  | none => s
  | some n =>
    if ok then
      { s with graph := (s.graph.filter fun m => m.id != id).map fun m => { m with deps := m.deps.filter (· != id) } }
    else
      let gone := dependents s.graph.length s.graph [id]
      let s := { s with graph := (s.graph.filter fun m => !gone.contains m.id).map fun m =>
        { m with deps := m.deps.filter fun d => !gone.contains d } }
      let q := queueAt s n.queue
      if q.st == .disabled || q.st == .error then s else queueError n.queue 8 n.tag.toNat n.index.toNat (nodeOp n) s

/-- The words of the card that a TRANSFORM or COPY node becomes (05 R84): KIND 1, one receiver without BV and OPM. -/
def nodeCardWords (tag : BitVec 16) (xform : Nat) (src dst len param : W64) : List W64 :=
  [w64 (tag.toNat * 2 ^ 48 + 2 ^ 44 + xform * 2 ^ 40), src, len, param, 0, 0, 0, 0] ++ List.replicate 16 0 ++ [dst, 0]

/-- Post a node's card to the engine numbered `source`; its footprint is the packet's. -/
def nodeCard (n : Node) (source : Nat) (w : List W64) (s : State) : State :=
  let (id, s) := freshId s
  let c := newCard id (.node n.id) n.ctx 1 w source
  let c := { c with foot := (n.reads.map fun r => (r, false)) ++ n.writes.map fun r => (r, true) }
  { s with cards := KV.set id c s.cards, fresh := s.fresh + 1 }

/-- The access of a SIGNAL. -/
def signalSpan (s : State) (ctx : Nat) (va : W64) (add : Bool) : Span := cpSpan s ctx va.toNat { r := add, w := true }

/-- SIGNAL's store or atomic add (05 R86); the answer says whether its word could be written. -/
def signalGo (ctx : Nat) (va v : W64) (add : Bool) (s : State) : State × Bool :=
  let p := signalSpan s ctx va add
  let s := spanGo cpDie ctx true p s
  if p.stop != .go then (s, false)
  else
    let (old, s) := if add then cpLoad p s else (0, s)
    (cpStore p ((old + v.toNat) % 2 ^ 64) s, true)

/-- A node dispatches when its counter is zero (05 R88), unless its job is frozen (11 R173). A SIGNAL's access and a launch's
reads wait on their way; a SIGNAL's release holds for what has retired before it, since a group retires when its writes have been
performed. -/
def nodeReady (s : State) (n : Node) : Bool :=
  !n.dispatched && n.deps.isEmpty && !jobFrozen s n.ctx &&
    (match n.kind with
     | .signal va _ add => (signalSpan s n.ctx va add).stop != .wait
     | .launch va => !(checkLaunch s n.ctx (.node n.id) 0 va.toNat).waits
     | _ => true)

/-- NODE_DISPATCH. -/
def nodeDispatch (id : Nat) (s : State) : State :=
  match nodeAt s id with
  | none => s
  | some n =>
    if !nodeReady s n then s
    else
      let s := modNode id (fun n => { n with dispatched := true }) s
      let x := queueAt s n.queue
      match n.kind with
      | .launch va =>
        let r := checkLaunch s n.ctx (.node id) x.prio va.toNat
        let s := readsGo cpDie n.ctx r.spans s
        (match r.out with
         | .ok (some l) => enterLaunch l s
         | _ => nodeLeave id false s)
      | .transform w =>
        let d := nth w 5
        let die := if bit d 11 then Config.anyDie s.fresh % 8 else fld d 10 8
        let eng := if bit d 4 then 0x60 + n.tag.toNat % 8 else 12 * die + Config.cardScheduler s.fresh % 12
        nodeCard n eng (nodeCardWords n.tag (fld d 3 0) (nth w 1) (nth w 2) (w64 (fld (nth w 3) 47 0)) (nth w 4)) s
      | .copy src dst len =>
        nodeCard n (12 * (Config.anyDie s.fresh % 8) + Config.cardScheduler s.fresh % 12) (nodeCardWords n.tag 0 src dst len 0) s
      | .signal va v add =>
        let (s, ok) := signalGo n.ctx va v add s
        nodeLeave id ok s

def execNodeDispatch (node : Nat) (s : State) : Result := .next (nodeDispatch node s)

/-- What a dispatched node came to: its launch has retired, or its engine has reported; `none` while it works. -/
def nodeOver (s : State) (n : Node) : Option Bool :=
  match n.kind with
  | .launch _ =>
    (match s.launches.find? fun e => e.2.origin == .node n.id with
     | some (_, l) => if launchOver l then some (l.status == 0) else none
     | none => none)
  | _ =>
    match s.cards.find? fun e => e.2.poster == .node n.id with
    | some (_, c) => if c.done then some (c.status == 0) else none
    | none => none

/-- NODE_COMPLETE: `ok` says whether the report is of success; a launch or card that failed fails its node whatever it is. -/
def nodeComplete (id : Nat) (ok : Bool) (s : State) : State :=
  match nodeAt s id with
  | none => s
  | some n =>
    match n.dispatched, nodeOver s n with
    | true, some fine =>
      let gone := (s.launches.filter fun e => e.2.origin == .node id).map (·.1)
      let s := { s with
        launches := s.launches.filter fun e => e.2.origin != .node id
        cascades := s.cascades.filter fun e => !gone.contains e.2.launch
        cards := s.cards.filter fun e => e.2.poster != .node id }
      nodeLeave id (ok && fine) s
    | _, _ => s

def execNodeComplete (node : Nat) (ok : Bool) (s : State) : Result := .next (nodeComplete node ok s)

end Sys2Proof.Machine
end

