-- ==== Sys2Proof/Machine/Save.lean ====
section
/-!
DEFINITION. The save block of an FE (04 R66, 07 R125, 18 R409): what of a seat is saved, and the block's sections byte for byte.
Where the spec names the contents of a header or of a node's row state and no bits, their places are DESIGN CHOICE, log 68.
-/

namespace Sys2Proof.Machine

/-! ### What is saved of a seat -/

/-- A seat that is saved as FAULTED. -/
def savedFaulted (t : Seat) : Bool := t.st == .faulted || t.faulted

/-- The hand that a saved seat resumes at. -/
def resumeHand (t : Seat) : W64 := if savedFaulted t then t.arch.faulthand else t.pc

/-- An offset of the loop counter's word: signed, 16 bits, in 8-byte units (16 R264). -/
def fits16 (d : W64) : Bool := decide (-(2 ^ 18 : Int) ≤ d.toInt) && decide (d.toInt < 2 ^ 18)

/-- A loop counter's word in a save block, 0 for one that is saved inactive (16 R264). -/
def loopWord (live : Bool) (res : W64) (x : Loop) : W64 :=
  if live && x.active && fits16 (res - x.first) && fits16 (x.last - res) then
    w64 (fld (res - x.first) 18 3 * 2 ^ 48 + fld (x.last - res) 18 3 * 2 ^ 32 + x.count.toNat)
  else 0

/-- A signed field of 16 bits, in 8-byte units. -/
def signed8 (n : Nat) : W64 := (BitVec.ofNat 16 n).signExtend 64 * 8

/-- The loop that a word restores; nesting is recovered from FIRST (16 R264). -/
def loopOfWord (res v : W64) : Loop :=
  let first := res - signed8 (fld v 63 48)
  if fld v 31 0 == 0 then {}
  else { count := w32 (fld v 31 0), active := true, first := first, last := res + signed8 (fld v 47 32), order := first.toNat }

/-- The live bitmap and the loop-counter live bits of a saved seat's record: all set for one saved while FAULTED (04 R66). -/
def liveBits (t : Seat) : W64 := if savedFaulted t then BitVec.allOnes 64 else t.belayDw
def liveLoops (t : Seat) : Nat := if savedFaulted t then 7 else hdrLclive t.hdr

/-- The registers of a saved seat (04 R66, R68): those absent from the live bitmap read 0 after resume, sp apart. -/
def saveArch (t : Seat) : Arch :=
  let res := resumeHand t
  { t.arch with
    s := t.arch.s.mapIdx fun i v => if i == 62 || (liveBits t).getLsbD i then v else 0
    lc := t.arch.lc.mapIdx fun i x => loopOfWord res (loopWord ((liveLoops t).testBit i) res x) }

/-- A seat's record; its FE's state, which holds it, stands under the number of the save block. -/
def saveSeat (t : Seat) : Seat :=
  match t.st with
  | .belayed | .faulted =>
    { t with arch := saveArch t, pc := resumeHand t, faulted := savedFaulted t, st := .saved, hand := none
             orig := none, passed := false }
  | _ => t

/-- A local range as a save block keeps it: its offset, bytes and tags. -/
def capture (s : State) (fe lo hi : Nat) : Nat × List Byte × List Bool :=
  (lo, bytesAt s (spBase fe + lo) (hi - lo), (List.range ((hi - lo) / 4)).map fun i => tagFull s (spBase fe + lo + 4 * i))

/-- The live ranges of a seat halted at a belay hand (14 R226), and its spill region. -/
def liveRanges (t : Seat) : List (Nat × Nat) :=
  let live (valid : Bool) (rn : Nat) : List (Nat × Nat) :=
    let lo := (vget 0 t.arch.s (2 * rn)).toNat
    let hi := lo + (vget 0 t.arch.s (2 * rn + 1)).toNat
    if valid then [(lo / 4 * 4, Nat.min (roundUp hi 4) spTop)] else []
  if t.st != .belayed || savedFaulted t then []
  else (live (bit t.hdr 52) (fld t.hdr 57 53) ++ live (bit t.hdr 58) (fld t.hdr 63 59)).filter fun r => decide (r.1 < r.2)

def spillRange (t : Seat) : List (Nat × Nat) :=
  let sp := (vget 0 t.arch.s 62).toNat
  if (t.st == .belayed || t.st == .faulted) && decide (sp / 4 * 4 < t.spilllim.toNat) then [(sp / 4 * 4, t.spilllim.toNat)] else []

def seatRanges (t : Seat) : List (Nat × Nat) := liveRanges t ++ spillRange t

/-- The rows of a bight unit that its save carries: the live rows and the wrap store (07 R125). -/
def bightRanges (s : State) (b : Bight) : List (Nat × Nat) :=
  match cascAt s b.casc with
  | none => []
  | some c =>
    let row (p : Nat) : Nat × Nat := (c.base + 4 * bightCols c * p, c.base + 4 * bightCols c * (p + 1))
    ((List.range (b.rcv - b.ret)).map fun i => row ((b.ret + i) % c.w)) ++
      (if c.rpol == 3 then (List.range (2 * c.h)).map fun i => row (c.w + i) else [])

/-! ### Bytes of the sections -/

/-- Little-endian doublewords and words. -/
def dwords (l : List Nat) : List Byte := packBytes 8 l
def words (l : List W32) : List Byte := packBytes 4 (l.map (·.toNat))

/-- The next section begins at an 8-byte boundary. -/
def pad8 (l : List Byte) : List Byte := l ++ List.replicate (roundUp l.length 8 - l.length) 0

/-- A section of `n` parts behind a doubleword; it is absent when it has none. -/
def section_ (head n : Nat) (parts : List Byte) : List Byte := if n == 0 then [] else dwords [head] ++ parts

/-- A token: its header (18 R300) and eight element words. -/
def tokenBytes (t : Token) : List Byte :=
  dwords [t.code.toNat * 2 ^ 56 + t.eidx.toNat * 2 ^ 36 + t.empty.toNat * 2 ^ 8 + bitAt t.abort 7 + bitAt t.err 6 + bitAt t.last 5 +
    bitAt t.eor 4 + (t.elems.length - 1) % 8] ++ words ((List.range 8).map fun i => t.elems.getD i 0)

/-- The live scalar registers other than sp, and the live loop counters, of a seat that is saved at a hand. -/
def liveRegs (t : Seat) : List Nat :=
  if t.st == .belayed || t.st == .faulted then (List.range 64).filter fun i => i != 62 && (liveBits t).getLsbD i else []
def liveCounters (t : Seat) : List Nat :=
  if t.st == .belayed || t.st == .faulted then (List.range 3).filter fun i => (liveLoops t).testBit i else []

/-- A seat's record: header, system words, live scalar registers, live loop counters. -/
def recordBytes (k : Nat) (t : Seat) : List Byte :=
  let a := t.arch
  let st := if savedFaulted t then 2 else if t.st == .belayed then 1 else 0
  dwords ([(resumeHand t).toNat, (liveBits t).toNat, if savedFaulted t then 0 else (hdrStub t.hdr).toNat,
    k * 2 ^ 16 + st * 2 ^ 8 + liveLoops t] ++
    ([w64 a.p.toNat, a.fpctl, a.fpflags, a.srseed.setWidth 64, w64 (bitAt a.belayEn 9 + a.belayMax.toNat), t.spillbase.setWidth 64,
      t.spilllim.setWidth 64, t.ovfptr, t.ovflim, vget 0 a.s 62, a.rethand, w64 (t.ring.length * 256 + t.evq.length), a.fltvec,
      a.dbgctl, jobctxWord t a, a.faultcode, a.faultinfo, a.faultaddr, a.faulthand].map (·.toNat)) ++
    (liveRegs t).map (fun i => (vget 0 a.s i).toNat) ++
    (liveCounters t).map fun i => (loopWord true (resumeHand t) (vget {} a.lc i)).toNat)

/-- A range: its descriptor, the bytes, then one tag bit per word in whole doublewords. -/
def rangeBytes (r : Nat × List Byte × List Bool) : List Byte :=
  let n := r.2.1.length
  let tags (i : Nat) : Nat := ((r.2.2.drop (64 * i)).take 64).zipIdx.foldl (fun acc p => acc + bitAt p.1 p.2) 0
  pad8 (dwords [n * 2 ^ 32 + r.1] ++ r.2.1 ++ dwords ((List.range (cdiv n 256)).map tags))

/-- The records that wait for a seat, those of its ring among them. -/
def eventBytes (t : Seat) : List Byte :=
  section_ (pending t).length (pending t).length (dwords ((pending t).flatMap fun e => [e.w0.toNat, e.w1.toNat]))

/-- A mask of the numbers that a test picks. -/
def maskOf (n : Nat) (p : Nat → Bool) : Nat := ((List.range n).map fun i => bitAt (p i) i).sum

def opmBytes (f : FE) : List Byte :=
  let used (i : Nat) : Bool := (vget {} f.opm i).claim.isSome
  let l := (List.range 32).filter used
  section_ (maskOf 32 used) l.length (l.flatMap fun i =>
    let o := vget {} f.opm i
    dwords [o.claim.getD 0] ++ (List.range 2048).map fun j => KV.get 0 j o.data)

def accBytes (f : FE) : List Byte :=
  let used (i : Nat) : Bool := let a := vget {} f.accs i; !a.elems.isEmpty || a.steps != 0
  let l := (List.range 8).filter used
  section_ (maskOf 8 used) l.length (l.flatMap fun i =>
    let a := vget {} f.accs i
    dwords [a.steps.toNat] ++ words ((List.range 1024).map fun j => KV.get 0 j a.elems))

/-- The macro sequencer, when an MTILE has yielded: its K-chunk and its operand pointers. -/
def sequencerBytes (f : FE) : List Byte := match f.arrQ with
  | c :: _ => (match c.op with
    | .mtile _ a b _ _ _ => dwords [c.step, a + b * 2 ^ 32]
    | _ => [])
  | [] => []

def barrierBytes (f : FE) : List Byte :=
  let l := f.barriers.filter fun b => b.2.st != .free
  let num (b : BarState) : Nat := match b with
    | .free => 0
    | .opened => 1
    | .error => 2
  let last (b : BarLast) : Nat := match b with
    | .ok => 0
    | .overrun => 1
    | .error => 2
    | .reset => 3
  section_ l.length l.length (dwords (l.flatMap fun e =>
    [e.2.expect.toNat + e.1 * 2 ^ 48,
     e.2.arrived.toNat + e.2.phase.toNat * 2 ^ 48 + bitAt e.2.byteMode 56 + bitAt e.2.trap 57 + num e.2.st * 2 ^ 58 + last e.2.last * 2 ^ 60]))

/-! ### The planes section (18 R409) -/

/-- A plane in use (04 R66). -/
def planeInUse (p : PlaneState) : Bool :=
  p.on || !p.fields.isEmpty || p.chans.any (fun e => !e.2.isEmpty) || p.nodes.any (fun e => e.2 != {}) ||
    p.ports.any fun e => !e.2.queue.isEmpty

/-- A node's row state and buffers: counts and flags, its accumulator, the elements and tokens that it holds. -/
def nodeBytes (n : NodeState) : List Byte :=
  if n == {} then []
  else
    dwords [n.pos + n.rows * 2 ^ 32,
      n.fl + n.disc.toNat * 2 ^ 8 + n.discRow.toNat * 2 ^ 12 + bitAt n.rowDone 16 + bitAt n.rowLast 17 + bitAt n.endB 18 +
        bitAt n.lastB 19 + bitAt n.acc.isSome 20 + (n.acc.getD 0).toNat * 2 ^ 32,
      n.bufA.length + n.bufB.length * 2 ^ 16 + n.out0.length * 2 ^ 32 + n.out1.length * 2 ^ 48] ++
    dwords ((n.bufA ++ n.bufB).map fun x => x.1.toNat + bitAt x.2 32) ++ (n.out0 ++ n.out1).flatMap tokenBytes

/-- The selectors of a plane in the order of their consumers: inputs of the nodes, sink ports, line outputs. -/
def consumers (p : PlaneState) : List Nat := (selectors p).map (·.1)

def planeBytes (f : FE) (pl : Nat) : List Byte :=
  let p := planeAt f pl
  let toks := (consumers p).flatMap (chanOf f pl)
  let cmd (ix : Nat) (c : StreamCmd) : List Byte :=
    dwords [c.seat + bitAt c.glob 8 + bitAt c.sparse 9 + c.esz.toNat * 2 ^ 10 + ix * 2 ^ 16, c.addr.toNat, c.count.toNat, c.pos]
  let port (ix : Nat) : Nat :=
    let q := portOf f pl ix
    q.done.toNat * 2 ^ 32 + q.ecode.toNat * 2 ^ 24 + bitAt (q.ecode != 0) 16 + q.queue.length
  dwords [pl + bitAt p.on 2 + bitAt (f.arb.pins.getLsbD pl) 3 + (vget 0 f.arb.weights pl).toNat * 2 ^ 8 + p.owner.getD 0 % 4 * 2 ^ 16,
    p.fpctl.toNat] ++
  words ((List.range 0x99).map (fieldAt p) ++ [0]) ++
  words ((List.range 16).map (vget 0 p.gens)) ++
  (List.range 16).flatMap (fun n =>
    let b := nodeBytes (KV.get {} n p.nodes)
    pad8 (dwords [b.length] ++ b)) ++
  dwords [toks.length] ++ toks.flatMap tokenBytes ++
  dwords ((List.range 32).map port) ++ (List.range 32).flatMap fun ix => (portOf f pl ix).queue.flatMap (cmd ix)

def planesBytes (f : FE) : List Byte :=
  let used (pl : Nat) : Bool := planeInUse (planeAt f pl)
  let l := (List.range 4).filter used
  section_ (maskOf 4 used) l.length (l.flatMap (planeBytes f))

/-! ### The cascade section (07 R125) -/

def cascadeBytes (s : State) (fe : Nat) (b : Bight) : List Byte :=
  match cascAt s b.casc with
  | none => []
  | some c =>
    let flt : FaultRec := b.flt.getD { code := 0, info := 0, addr := 0 }
    let chan (l : List Token) : List Byte := dwords [l.length] ++ l.flatMap tokenBytes
    let got := b.haloLo ++ b.row ++ b.haloHi
    dwords [c.cid + b.stage * 2 ^ 16 + b.rank * 2 ^ 32 + cstate c.st * 2 ^ 40 + bitAt b.nknown 44 + bitAt b.flt.isSome 45 +
        bitAt b.taken 46 + bitAt b.rowEor 47] ++
      words ([b.rcv, b.adm, b.iss, b.emt, b.ret, b.pret, b.redo, b.n].map w32) ++
      dwords [b.const.toNat + flt.code.toNat * 2 ^ 32 + b.seeded * 2 ^ 40, flt.info.toNat, flt.addr.toNat] ++
      chan b.rowChan ++ chan b.haloChanLo ++ chan b.haloChanHi ++
      dwords [got.length] ++ words got ++
      (bightRanges s b).flatMap fun r => bytesAt s (spBase fe + r.1) (r.2 - r.1)

/-! ### The block -/

/-- The sections that follow the FE header, in their order. -/
def saveSections (s : State) (fe : Nat) : List (List Byte) :=
  let f := feAt s fe
  let seats := (List.range 4).filterMap fun k => if (seatOf f k).st == .free then none else some (k, seatOf f k)
  let ranges (g : Seat → List (Nat × Nat)) : List Byte :=
    seats.flatMap fun e => (g e.2).flatMap fun r => rangeBytes (capture s fe r.1 r.2)
  [seats.flatMap (fun e => recordBytes e.1 e.2), ranges liveRanges, ranges spillRange, seats.flatMap (fun e => eventBytes e.2),
   opmBytes f, accBytes f, sequencerBytes f, barrierBytes f, planesBytes f,
   match f.bight with
   | some b => cascadeBytes s fe b
   | none => []].map pad8

/-- The length of an FE's block, in whole units of 4 KiB. -/
def blockBytes (s : State) (fe : Nat) : Nat := roundUp (64 + ((saveSections s fe).map (·.length)).sum) 4096

/-- The block: the FE header, with which sections are present, and the sections. -/
def saveImage (s : State) (fe : Nat) : List Byte :=
  let f := feAt s fe
  let l := saveSections s fe
  let head := dwords [(feidWord s fe).toNat, f.holder.getD 0, blockBytes s fe, (f.seats.toList.filter fun t => t.st != .free).length,
    l.zipIdx.foldl (fun acc p => acc + bitAt (!p.1.isEmpty) p.2) 0, 0, 0, 0]
  let body := head ++ l.flatten
  body ++ List.replicate (blockBytes s fe - body.length) 0

end Sys2Proof.Machine
end

