-- ==== Sys2Proof/Machine/Context.lean ====
section
/-!
DEFINITION. Job contexts (04 R53, R54): binding, the pre-emption request (R63), the save of a context's FEs (R65, R66, 07
R125, 18 R409), resume (R68 to R70) and kill.
-/

namespace Sys2Proof.Machine

/-! ### The number of a saved FE -/

/-- Every request of a context, wherever it stands, and that of every reply. -/
def mapReqs (c : Nat) (g : Req → Req) (s : State) : State :=
  let q (r : Req) : Req := if r.ctx == c then g r else r
  { s with
    reqs := s.reqs.map q
    replies := s.replies.map fun x => { x with req := q x.req }
    refused := s.refused.map q
    melds := s.melds.map fun m => { m with req := q m.req }
    gus := s.gus.map fun e => (e.1, { e.2 with
      fills := e.2.fills.map fun f => (f.1, f.2.1, f.2.2.map q), parked := e.2.parked.map q, rowWait := e.2.rowWait.map q })
    trains := s.trains.map fun e => (e.1, { e.2 with waiting := e.2.waiting.map q, accepted := e.2.accepted.map q })
    fes := s.fes.map fun e => (e.1, { e.2 with waits := e.2.waits.map fun w => match w with
      | .remote r => .remote (q r)
      | _ => w })
    ctxs := s.ctxs.map fun e => (e.1, { e.2 with
      parked := e.2.parked.map q
      blocks := e.2.blocks.map fun b => { b with held := b.held.map q, lands := b.lands.map fun x => (x.1, q x.2.1, x.2.2) } }) }

/-- The FE number of everything that belongs to context `c` and names FE `old` becomes `new`. -/
def renameFe (c old new : Nat) (s : State) : State :=
  let n (fe : Nat) : Nat := if fe == old then new else fe
  let s := mapReqs c (fun r => { r with fe := n r.fe }) s
  { s with
    cfgs := s.cfgs.map fun p => if p.ctx == c then { p with fe := n p.fe } else p
    recs := s.recs.map fun m => { m with fe := n m.fe }
    fes := s.fes.map fun e => (e.1, { e.2 with holds := e.2.holds.map fun h => { h with fe := n h.fe } })
    cards := s.cards.map fun e => (e.1, if e.2.ctx == c then { e.2 with
      rcv := e.2.rcv.map fun r => { r with home := r.home.map n }
      poster := match e.2.poster with
        | .seat fe k => .seat (n fe) k
        | p => p } else e.2)
    launches := s.launches.map fun e => (e.1, if e.2.ctx == c then { e.2 with
      placed := e.2.placed.map fun p => (p.1, n p.2)
      origin := match e.2.origin with
        | .seat fe k l tag => .seat (n fe) k l tag
        | o => o } else e.2) }

/-! ### PREEMPTION_REQUEST (04 R54, R63, R64) -/

/-- A hand that waits at its commit behind an unfinished MTILE (19 R333). -/
def waitsAtMtile (f : FE) (h : Hand) : Bool := h.committing && mtileBusy f && (match h.effects with
  | .array _ :: _ => true
  | _ => false)

/-- A hand that pre-emption does not abandon, because it waits at its commit behind an unfinished MTILE or to post a 65th card
(19 R333, R341), or has been observed to commit (12 R181). -/
def waitsAtCommit (t : Seat) (h : Hand) : Bool :=
  h.committing || (decide (h.slots.length ≤ h.slot) && h.flt.isNone && cardsFull t h)

/-- The request reaches a seat: in an uncommitted belay hand it halts at that hand's start, and elsewhere it runs on; a
FAULTED seat counts as halted. A seat in its rebuild stub runs the stub on, unless it waits or is FAULTED (R70). -/
def preemptSeat (fe k : Nat) (s : State) : State :=
  let t := seatAt s fe k
  let halt (s : State) : State := haltAt fe k t.hdr t.belayDw (abandon fe k s)
  match t.st with
  | .faulted =>
    if t.orig.isSome then halt s else modSeat fe k (fun t => { t with st := .belayed, faulted := true }) s
  | .waiting => halt s
  | .running =>
    (match t.hand with
     | some h => if h.belay && !waitsAtCommit t h && !(t.arch.stub && !t.arch.hin) then halt s else s
     | none => s)
  | _ => s

/-- A RUNNING context begins to be pre-empted. -/
def preemptNow (c : Nat) (s : State) : State :=
  each (seatsOf s c) (fun e s => preemptSeat e.1 e.2 s) (modCtx c (fun x => { x with st := .preempting, pend := false }) s)

/-- The job of a context is frozen, or its own wave is on its way and has frozen the seat that began it (11 R170, R172). -/
def hitched (s : State) (c : Nat) : Bool := jobFrozen s c || s.hitch.markers.any fun m => m.1 == (ctxAt s c).job

/-- A request to a context; while a hitch holds its seats it stays pending (11 R179), and a second one is merged with the
first. -/
def preemptRequest (c : Nat) (cause : BitVec 2) (s : State) : State :=
  let x := ctxAt s c
  match x.st with
  | .running =>
    if x.pend then s
    else
      let s := modCtx c (fun x => { x with cause := cause }) s
      if hitched s c then modCtx c (fun x => { x with pend := true }) s else preemptNow c s
  | .preempting => s
  | _ => report (.contextError c) s

/-- The edge cores' context is no context of 04 R53. -/
def isCtx (c : Nat) : Bool := decide (c < 64)

def execPreemptionRequest (ctx : Nat) (cause : BitVec 2) (s : State) : Result :=
  .next (if isCtx ctx then preemptRequest ctx cause s else s)

/-! ### SEAT_SAVE (04 R65, R66) -/

/-- A seat that stands halted. -/
def seatHalted (t : Seat) : Bool := match t.st with
  | .belayed | .retired => true
  | .faulted => !t.stepping
  | _ => false

/-- FEs on which a context has seats. -/
def ctxFes (s : State) (c : Nat) : List Nat := ((seatsOf s c).map (·.1)).eraseDups

/-- Only a yielded MTILE may stand in the array queue (19 R333). -/
def arrayQuiet (f : FE) : Bool := match f.arrQ with
  | [] => true
  | [x] => (match x.op with
    | .mtile _ _ _ _ _ _ => true
    | _ => false)
  | _ => false

/-- A context may be saved: every seat is halted and its replies have landed, every card is over or checkpointed, every
configuration packet has been applied, and the arrays are quiet. -/
def saveReady (s : State) (c : Nat) : Bool :=
  (ctxAt s c).st == .preempting && !jobFrozen s c &&
    (seatsOf s c).all (fun e => seatHalted (seatAt s e.1 e.2) && (seatAt s e.1 e.2).splits.isEmpty) &&
    s.cards.all (fun e => e.2.ctx != c || cardOver e.2 || e.2.checkpointed) && s.cfgs.all (fun p => p.ctx != c) &&
    (ctxFes s c).all fun fe => arrayQuiet (feAt s fe)

/-- A seat that faulted in its rebuild stub, or in a handler entered from it, halts at the resume hand with its original
record (04 R70). -/
def haltStub (fe k : Nat) (s : State) : State :=
  let t := seatAt s fe k
  if t.st == .faulted && t.orig.isSome then haltAt fe k t.hdr t.belayDw (abandon fe k s) else s

/-- A port's commands without their latches: they translate again at resume, a parked one too (09 R154). -/
def unlatch (p : PlaneState) : PlaneState :=
  { p with ports := p.ports.map fun e => (e.1, { e.2 with queue := e.2.queue.map fun c => { c with latch := none, parked := none } }) }

/-- Save FE `fe` of context `c`: its state moves under the number of its block, what no section of 04 R66 carries is lost,
and the FE is held by none. -/
def saveFe (c fe : Nat) (s : State) : State :=
  let f := feAt s fe
  let ranges := ((List.range 4).flatMap fun k => seatRanges (seatOf f k)) ++ (match f.bight with
    | some b => bightRanges s b
    | none => [])
  let u := fe + 2 ^ 20 * (s.nextId + 1)
  let block : SaveBlock := {
    fe := fe, key := u, ranges := ranges.map fun r => capture s fe r.1 r.2, image := saveImage s fe, off := (((ctxAt s c).blocks.map (·.image.length)).sum)
    held := f.waits.filterMap fun w => match w with
      | .remote r => some r
      | _ => none }
  let f' : FE := { f with
    seats := f.seats.map saveSeat, holder := none, idle := false, waits := [], tlb := [], icache := []
    barriers := f.barriers.filter fun b => b.2.st != .free
    opm := f.opm.map fun o => if o.claim.isSome then o else {}
    planes := f.planes.map unlatch
    bight := f.bight.map fun b => { b with latch := none, latchOut := none, parked := none, parkedOut := none } }
  let gone : FE := { arb := f.arb, starved := f.starved, idle := false, last := some c }
  let s := { s with fes := KV.set u f' (KV.set fe gone s.fes), nextId := s.nextId + 1 }
  modCtx c (fun x => { x with
    blocks := x.blocks ++ [block], savedOn := fe :: x.savedOn
    unmaps := x.unmaps.map fun u => { u with tokens := u.tokens.filter fun n => n.2.1 == 5 || n.1 != fe } }) (renameFe c fe u s)

/-- Land a privileged instruction's words on its edge core (17 R286). -/
def landSys (fe off : Nat) (ws : List W32) (s : State) : State := landWords (ownPa s fe off) ws s

/-- The results of PREEMPT land when the context has left PREEMPTING (19 R355). -/
def settleOwed (c : Nat) (v : W32) (s : State) : State :=
  let l := (ctxAt s c).owed
  each l (fun e s => landSys e.1 e.2 [v] s) (modCtx c (fun x => { x with owed := [] }) s)

/-- The FEs that the placer holds back for the regions of a context's launches. -/
def ctxRects (s : State) (c : Nat) : List Nat :=
  s.launches.flatMap fun e => if e.2.ctx == c then e.2.regions.flatMap (rectSpare e.2) else []

/-- Save a context: emissions are withdrawn (07 R125), every FE writes its block, and the FEs go to the placer. -/
def saveCtx (c : Nat) (s : State) : State :=
  let fes := ctxFes s c
  let s := each fes withdrawEmis (each (seatsOf s c) (fun e => haltStub e.1 e.2) s)
  let rects := ctxRects s c
  let s := each fes (saveFe c) s
  let s := { s with cascades := s.cascades.map fun e =>
    (e.1, if e.2.ctx == c && e.2.st != .done && e.2.st != .declared then { e.2 with st := .saved, held := e.2.st } else e.2) }
  let s := setIdle true (fes ++ rects) s
  if (ctxAt s c).stopAfter then
    settleOwed c 2 (report (.contextStopped c) (modCtx c (fun x => { x with st := .stopped, stopAfter := false, cause := 0 }) s))
  else settleOwed c 0 (modCtx c (fun x => { x with st := .saved, cause := 0 }) s)

/-- SEAT_SAVE: the records of a context are written together, once all of its seats can be saved. A FREE seat stands for
the contexts that have no seat left to halt. -/
def seatSave (fe k : Nat) (s : State) : State :=
  let t := seatAt s fe k
  if t.st == .free then
    (match s.ctxs.find? fun e => (seatsOf s e.1).isEmpty && saveReady s e.1 with
     | some (c, _) => saveCtx c s
     | none => s)
  else if !isEdge fe && saveReady s t.ctx then saveCtx t.ctx s else s

def execSeatSave (fe k : Nat) (s : State) : Result := .next (seatSave fe k s)

/-! ### CONTEXT_BIND and CONTEXT_UNBIND (04 R54) -/

/-- A range image that 09 R150 admits. -/
def rangeOk (i : RangeImage) : Bool :=
  let last := i.pa.toNat + (i.limit.toNat - i.base.toNat) - 1
  fld i.base 11 0 == 0 && fld i.limit 11 0 == 0 && decide (i.base.toNat < 2 ^ 48) &&
    decide (i.base.toNat < i.limit.toNat) && fld i.pa 63 56 == 0 && fld i.pa 11 0 == 0 && fld i.perm 63 4 == 0 &&
    last / classBits == i.pa.toNat / classBits

/-- The valid range entries of a binding. -/
def bindRanges (img : BindImage) : KV Range := img.ranges.foldl (fun m p =>
  if p.1 < 64 && rangeOk p.2 && bit p.2.perm 0 then KV.set p.1 { img := p.2 } m else m) []

/-- Horlyn binds a FREE context: translation, queues and fault vector are installed; a range entry that 09 R150 refuses is
left INVALID. -/
def bindCtx (c : Nat) (img : BindImage) (s : State) : State :=
  if (ctxAt s c).st != .free then report (.contextError c) s
  else
    let s := modCtx c (fun x => { x with
      st := .bound, job := img.job, ranges := bindRanges img, ptRoot := img.ptRoot, fltvec := img.fltvec }) s
    each img.queues (fun e s =>
      let s := modQueue e.1 (fun x => { x with
        ringBase := e.2.ringBase, rptrWb := e.2.rptrWb, errAddr := e.2.errWord, en := bit e.2.ctl 22
        ctx := BitVec.ofNat 6 (fld e.2.ctl 21 16), prio := BitVec.ofNat 2 (fld e.2.ctl 9 8)
        log2u := if 4 ≤ fld e.2.ctl 4 0 && fld e.2.ctl 4 0 ≤ 16 then BitVec.ofNat 5 (fld e.2.ctl 4 0) else 4 }) s
      if bit e.2.ctl 22 then queueEnable e.1 s else queueDisable e.1 s) s

/-- The edge cores' own translation, Horlyn's range entries among it, is installed by the same event (26 R392, log 124). -/
def bindHorlyn (img : BindImage) (s : State) : State :=
  modCtx horlyn (fun x => { x with ranges := bindRanges img, ptRoot := img.ptRoot }) s

def execContextBind (ctx : Nat) (img : BindImage) (s : State) : Result :=
  .next (if isCtx ctx then bindCtx ctx img s else if ctx == horlyn then bindHorlyn img s else s)

/-- What a context has in the module beside its seats is discarded. -/
def discardWork (c : Nat) (s : State) : State :=
  { s with
    launches := s.launches.filter fun e => e.2.ctx != c
    cascades := s.cascades.filter fun e => e.2.ctx != c
    cards := s.cards.filter fun e => e.2.ctx != c
    cfgs := s.cfgs.filter fun p => p.ctx != c
    graph := s.graph.filter fun n => n.ctx != c }

/-- Cached translations of a context leave every FE. -/
def dropTlbs (c : Nat) (s : State) : State :=
  { s with fes := s.fes.map fun e => (e.1, { e.2 with tlb := e.2.tlb.filter fun t => t.ctx != c }) }

/-- Horlyn unbinds a BOUND context: its ranges are INVALID, its tokens are discarded, UNMAPs end, and nothing of its
translations stays cached. An UNMAP that is still pending lands its result 0 (DESIGN CHOICE, log 124). -/
def unbindCtx (c : Nat) (s : State) : State :=
  let x := ctxAt s c
  if x.st != .bound then report (.contextError c) s
  else
    each x.unmaps (fun u s => landSys u.edge u.off [0] s)
      (modCtx c (fun x => { belayEn := x.belayEn, meldWin := x.meldWin }) (dropTlbs c (discardWork c s)))

def execContextUnbind (ctx : Nat) (s : State) : Result := .next (if isCtx ctx then unbindCtx ctx s else s)

/-! ### CONTEXT_RESUME (04 R68 to R70, 07 R125) -/

/-- Where the FE of a block goes: where Horlyn says, or else where it was. -/
def moveOf (moves : List (Nat × Nat)) (b : SaveBlock) : Nat :=
  match moves.find? fun m => m.1 == b.fe with
  | some m => m.2
  | none => b.fe

/-- The place of the FE saved under `key`. -/
def placeOf (x : Ctx) (moves : List (Nat × Nat)) (key : Nat) : Option Nat :=
  (x.blocks.find? fun b => b.key == key).map (moveOf moves)

/-- The base that a region gets: the place of one of its groups less that group's position. -/
def newBase (x : Ctx) (moves : List (Nat × Nat)) (l : Launch) (u : Nat) : Option (Nat × Nat × Nat) :=
  match l.placed.find? fun p => p.1 / perUnit l == u with
  | none => none
  | some p =>
    match placeOf x moves p.2, l.pos[p.1 % perUnit l]? with
    | some n, some (px, py) => if px ≤ feX n && py ≤ feY n then some (feDie n, feX n - px, feY n - py) else none
    | _, _ => none

/-- A region's groups stand at their positions from a base that 06 R94 admits. -/
def regionMoves (s : State) (x : Ctx) (moves : List (Nat × Nat)) (l : Launch) (u : Nat) : Bool :=
  let r := regionLevel l
  match newBase x moves l u with
  | none => false
  | some (d, bx, y) =>
    decide (bx + r.w ≤ 80) && decide (y + r.h ≤ 40) && (!l.align8 || (bx % 8 == 0 && y % 8 == 0)) && baseOk s l false d bx y &&
      l.placed.all fun p => p.1 / perUnit l != u || (match l.pos[p.1 % perUnit l]? with
        | some (px, py) => placeOf x moves p.2 == some (feAtXY d (bx + px) (y + py))
        | none => false)

/-- The groups of a deal that are tied to one die, or to one cluster, stay together. -/
def dealMoves (x : Ctx) (moves : List (Nat × Nat)) (l : Launch) : Bool :=
  let same (dom : Nat) (f : Nat → Nat) : Bool := match levelAt l dom with
    | none => true
    | some i => l.placed.all fun p => l.placed.all fun q => p.1 / unitsUnder l i != q.1 / unitsUnder l i ||
        (placeOf x moves p.2).map f == (placeOf x moves q.2).map f
  !l.dealMode || (same 2 feDie && same 4 clusterId)

def noRepeat : List Nat → Bool
  | [] => true
  | x :: r => !r.contains x && noRepeat r

/-- Horlyn's choice of places follows the rules of placement (04 R68, 06 R94 to R98). -/
def movesOk (s : State) (c : Nat) (moves : List (Nat × Nat)) : Bool :=
  let x := ctxAt s c
  let places := x.blocks.map (moveOf moves)
  noRepeat places && places.all (fun n => decide (n < edgeBase) && feFree s n) &&
    s.launches.all fun e => e.2.ctx != c || (e.2.regions.all (fun g => regionMoves s x moves e.2 g.1) && dealMoves x moves e.2)

/-- Regions, ties and cascades follow their FEs to the new places. -/
def moveLaunch (x : Ctx) (moves : List (Nat × Nat)) (l : Launch) : Launch :=
  let tie (dom : Nat) (old : List (Nat × Nat)) (f : Nat → Nat) : List (Nat × Nat) := match levelAt l dom with
    | none => old
    | some i => old.map fun e => match (l.placed.find? fun p => p.1 / unitsUnder l i == e.1).bind fun p => placeOf x moves p.2 with
      | some n => (e.1, f n)
      | none => e
  { l with
    dieOf := tie 2 l.dieOf feDie
    clusterOf := tie 4 l.clusterOf clusterId
    regions := l.regions.map fun e => match newBase x moves l e.1 with
      | some (d, bx, y) => (e.1, d, bx, y)
      | none => e }

def moveCasc (s : State) (x : Ctx) (moves : List (Nat × Nat)) (c : Cascade) : Cascade :=
  match KV.find c.launch s.launches with
  | none => c
  | some l =>
    match l.regions.find? fun e => e.2 == (c.die, c.bx, c.bY) with
    | none => c
    | some e =>
      match newBase x moves l e.1 with
      | some (d, bx, y) => { c with die := d, bx := bx, bY := y }
      | none => c

/-- An address of a scratchpad of a moved FE, where that FE is now: global addresses keep their meaning (12 R198). -/
def movePa (s : State) (x : Ctx) (moves : List (Nat × Nat)) (pa : Nat) : Nat :=
  match if ownModule s pa && paClass pa == 1 then feOfPa pa else none with
  | none => pa
  | some fe => match x.blocks.find? fun b => b.fe == fe with
    | some b => ownPa s (moveOf moves b) (paOff pa)
    | none => pa

/-- A range entry over scratchpads follows their FEs, when these keep their places to one another (log 68). -/
def moveRange (s : State) (x : Ctx) (moves : List (Nat × Nat)) (r : Range) : Range :=
  let pa := r.img.pa.toNat
  let first := pa / 2 ^ 19
  let last := (pa + (r.img.limit.toNat - r.img.base.toNat) - 1) / 2 ^ 19
  let shift (i : Nat) : Int := (movePa s x moves (i * 2 ^ 19) : Int) - (i * 2 ^ 19 : Nat)
  if ownModule s pa && paClass pa == 1 && (List.range (last - first)).all fun i => shift (first + 1 + i) == shift first then
    { r with img := { r.img with pa := w64 ((pa : Int) + shift first).toNat } }
  else r

/-- Write a saved range into an FE's scratchpad, with its tags. -/
def putRange (n : Nat) (r : Nat × List Byte × List Bool) (s : State) : State :=
  let s := each r.2.1.zipIdx (fun p => wrPa (spBase n + r.1 + p.2) 1 p.1.toNat) s
  each r.2.2.zipIdx (fun p => putTag (spBase n + r.1 + 4 * p.2) p.1) s

/-- A seat as it is restored (04 R68, R70, R75): at its rebuild stub, at its resume hand, or FAULTED. -/
def restoreSeat (en : Bool) (t : Seat) : Seat :=
  if t.st != .saved then t
  else
    let stub := if t.faulted then 0 else hdrStub t.hdr
    let a : Arch := { t.arch with belayEn := en, hin := false, stub := false }
    { t with
      st := if t.faulted then .faulted else .loaded
      faulted := false
      arch := { a with stub := stub != 0 }
      orig := if stub = 0 then none else some a
      stubRet := t.pc
      pc := t.pc + stub
      belayCnt := 0 }

/-- Restore a block onto FE `n`: the whole scratchpad is written (04 R68). -/
def restoreFe (c : Nat) (x : Ctx) (moves : List (Nat × Nat)) (b : SaveBlock) (s : State) : State :=
  let n := moveOf moves b
  let f := feAt s b.key
  let old := feAt s n
  let s := each b.ranges (putRange n) (clearPad n s)
  let used (p : Nat) : Bool := planeInUse (planeAt f p)
  let arb : Arbiter := { old.arb with
    weights := old.arb.weights.mapIdx fun p w => if used p then vget 1 f.arb.weights p else w
    pins := BitVec.ofNat 4 ((List.range 4).map fun p => bitAt ((if used p then f.arb.pins else old.arb.pins).getLsbD p) p).sum }
  let f' : FE := { f with
    holder := some c, idle := false, starved := old.starved, arb := arb
    seats := f.seats.map (restoreSeat (ctxAt s c).belayEn)
    planes := f.planes.map fun p => { p with ports := p.ports.map fun e => (e.1, { e.2 with
      queue := e.2.queue.map fun c => { c with dirty := c.dirty.map (movePa s x moves) } }) }
    holds := f.holds.map fun h => { h with pa := spBase n + h.pa % 2 ^ 19 } }
  renameFe c b.key n { s with fes := KV.drop b.key (KV.set n f' s.fes) }

/-- What was held for an FE is performed on it, packets and replies in arrival order (04 R69). -/
def performHeld (n : Nat) (b : SaveBlock) (s : State) : State :=
  let landing (i : Nat) (s : State) : State :=
    each (b.lands.filter fun x => x.1 == i) (fun x s => landWords (ownPa s n (x.2.1.land.getD 0)) x.2.2 s) s
  landing b.held.length (each b.held.zipIdx (fun p s => bankPerform n { p.1 with pa := ownPa s n (paOff p.1.pa) } (landing p.2 s)) s)

/-- Horlyn resumes a SAVED context; places that break the rules of placement change nothing. Its ranges, its requests and its
streams follow its FEs, and its cards translate anew. -/
def resumeCtx (c : Nat) (moves : List (Nat × Nat)) (s : State) : State :=
  let x := ctxAt s c
  if x.st != .saved || !movesOk s c moves then report (.contextError c) s
  else
    let s := { s with
      cascades := s.cascades.map fun e => (e.1, if e.2.ctx == c then moveCasc s x moves e.2 else e.2)
      launches := s.launches.map fun e => (e.1, if e.2.ctx == c then moveLaunch x moves e.2 else e.2) }
    let s := setIdle false (ctxRects s c) s
    let s := each x.blocks (restoreFe c x moves) s
    let held := (ctxAt s c).blocks
    let s := mapReqs c (fun r => { r with pa := movePa s x moves r.pa }) s
    let s := modCtx c (fun y => { y with
      st := .running, blocks := [], savedOn := [], ranges := y.ranges.map fun e => (e.1, moveRange s x moves e.2) }) s
    -- before any seat issues (R69)
    let s := each held (fun b => performHeld (moveOf moves b) b) s
    let s := { s with cards := s.cards.map fun e => (e.1, if e.2.ctx == c then
      { e.2 with
        checkpointed := false, latch := none, lats := [], parked := []
        -- a copy card reads its source again for what it has not transferred (R67, 22 R379)
        again := e.2.again || (isCopy (cardKind e.2.w) && e.2.checked && !e.2.done) } else e.2) }
    each (seatsOf s c) (fun e => proceedFaulted e.1 e.2) s

def execContextResume (ctx : Nat) (moves : List (Nat × Nat)) (s : State) : Result :=
  .next (if isCtx ctx then resumeCtx ctx moves s else s)

/-! ### CONTEXT_KILL (04 R54) -/

/-- What the seats of an FE owned goes back as at a retirement (06 R104). -/
def vacate (fe : Nat) (s : State) : State :=
  let f := feAt s fe
  let s := each (List.range 4) (fun k => abandon fe k) s
  let s := each (List.range 4) (fun pl s => if (planeAt f pl).owner.isSome then planeOff fe pl (portsReset fe pl s) else s) s
  let s := freeBars fe s
  let s := modFe fe (fun f => { f with
    seats := Vector.replicate 4 {}, opm := f.opm.map (fun o => { o with claim := none }), arrQ := [], bight := none, idle := true }) s
  { s with recs := s.recs.filter fun r => r.fe != fe }

/-- Horlyn kills a SAVED or STOPPED context: seats, cards, launches and save area are discarded, and each queue with work in
flight enters ERROR. Work in flight is a node of the task graph, neither a packet that no node has been made of nor a stalled
WAIT; the error word names the queue's first node (DESIGN CHOICE, log 109). Parked atomics stay until the context is FREE
(17 R293). -/
def killCtx (c : Nat) (s : State) : State :=
  let x := ctxAt s c
  if x.st != .saved && x.st != .stopped then report (.contextError c) s
  else
    let rects := ctxRects s c
    let busy := s.graph.filter fun n => n.ctx == c
    let s := each ((ctxFes s c).filter fun fe => !isSaved fe) vacate s
    let keys := x.blocks.map (·.key)
    let s := { s with fes := s.fes.filter fun e => !keys.contains e.1, recs := s.recs.filter fun r => !keys.contains r.fe }
    let s := setIdle true (if x.st == .stopped && x.blocks.isEmpty then rects else []) s
    let s := discardWork c s
    let s := modCtx c (fun x => { x with
      st := .bound, blocks := [], savedOn := [], children := 0, pend := false, stopAfter := false, cause := 0 }) s
    let s := settleOwed c 2 s
    each (busy.map (·.queue)).eraseDups (fun q s =>
      if (queueAt s q).st == .disabled then s
      else match busy.find? fun n => n.queue == q with
        | some n => queueError q 7 n.tag.toNat n.index.toNat (nodeOp n) s
        | none => s) s

def execContextKill (ctx : Nat) (s : State) : Result := .next (if isCtx ctx then killCtx ctx s else s)

end Sys2Proof.Machine
end

