-- ==== Sys2Proof/Machine/Hitch.lean ====
section
/-!
DEFINITION. The hitch wave (11): its spread in the module, the frozen cut, single steps and the release.
-/

namespace Sys2Proof.Machine

/-- Contexts of the module that belong to a job (11 R169). -/
def ctxsOf (s : State) (job : BitVec 16) : List Nat :=
  s.ctxs.filterMap fun e => if isCtx e.1 && e.2.st != .free && e.2.job == job then some e.1 else none

/-- A seat freezes (11 R173): at once where it stands, and otherwise at its next hand boundary. -/
def hitchSeat (fe k : Nat) (s : State) : State :=
  let t := seatAt s fe k
  match t.st with
  | .waiting | .belayed | .faulted => freezeSeat fe k s
  | .running => if t.hand.isNone then freezeSeat fe k s else s
  | _ => s

/-- Launches of a job's contexts that run on several modules, with the modules they run on (06 R99). -/
def jobModules (s : State) (job : BitVec 16) : List Nat :=
  s.launches.flatMap fun e =>
    if !(ctxsOf s job).contains e.2.ctx then []
    else match levelAt e.2 1 with
      | some i => ((List.range (e.2.levels.getD i (regionLevel e.2)).count).map (e.2.modBase + ·)).filter (· != s.moduleId.toNat)
      | none => []

/-- The rigging ports that lead to the other modules of a job. -/
def jobPorts (s : State) (job : BitVec 16) : List Nat := ((jobModules s job).filterMap (routePort s)).eraseDups

/-- The marker leaves over every link on which the job has had traffic since its placement, and on the rigging ports that lead
to its modules, behind every packet that the job has sent (10 R158, 11 R172). -/
def hitchLinks (job : BitVec 16) (s : State) : State :=
  let s := crossJob job s
  let ks := (s.links.filter fun e => e.2.jobs.contains job).map (·.1)
  each (ks ++ ((jobPorts s job).map riggingKey).filter (!ks.contains ·)) (sendMarker job) s

/-- The meld windows of contexts stop counting, and go on (08 R144). -/
def stopWindows (cs : List Nat) (s : State) : State :=
  { s with melds := s.melds.map fun m => if cs.contains m.req.ctx then { m with due := m.due - s.turns } else m }
def startWindows (cs : List Nat) (s : State) : State :=
  { s with melds := s.melds.map fun m => if cs.contains m.req.ctx then { m with due := m.due + s.turns } else m }

/-- A seat of the job still finishes the hand that it is issuing, and sends what that hand sends before the marker (11 R173,
R175). One that stalls may stall for long: what its hand sends later is let past the marker (`Req.late`). -/
def hitchBusy (s : State) (job : BitVec 16) : Bool :=
  (ctxsOf s job).any fun c => (seatsOf s c).any fun e =>
    let t := seatAt s e.1 e.2
    t.st == .running && !t.stepping && t.hand.any fun h => !h.stalled

/-- A marker that the job's seats have let pass goes over the links. -/
def spreadMarker (job : BitVec 16) (s : State) : State :=
  if !(s.hitch.spread.any (·.1 == job)) || hitchBusy s job then s
  else hitchLinks job { s with hitch := { s.hitch with spread := s.hitch.spread.filter (·.1 != job) } }

/-- A marker reaches the module: for a job that it holds and that is not frozen yet, the job's agents freeze; HITCHFIRST
keeps the earliest cause of the markers received (11 R172, R176). The marker is passed on once the agents stand. -/
def marker (job : BitVec 16) (epoch : BitVec 8) (c : CauseWords) (s : State) : State :=
  let own := s.hitch.markers.any fun m => m.1 == job
  let s := { s with hitch := { s.hitch with markers := s.hitch.markers.filter fun m => m.1 != job } }
  let cs := ctxsOf s job
  if cs.isEmpty then s
  else if s.hitch.frozen.contains job then
    spreadMarker job { s with hitch := { s.hitch with first := firstCause s.hitch.first c } }
  else
    let h := s.hitch
    let h := if own then { h with first := firstCause h.first c } else { h with epoch := epoch, job := job, loc := [], lost := 0, first := c }
    let wide := fld c.who 55 46 != s.moduleId.toNat && !h.wide.contains job
    let h := { h with frozen := job :: h.frozen, spread := h.spread ++ [(job, epoch, c)], wide := if wide then job :: h.wide else h.wide }
    let s := stopWindows cs { s with hitch := { h with st := hitchStat h } }
    spreadMarker job (each cs (fun x s => each (seatsOf s x) (fun e => hitchSeat e.1 e.2) s) s)

def execHitchMarker (job : BitVec 16) (epoch : BitVec 8) (cause : CauseWords) (s : State) : Result :=
  .next (marker job epoch cause s)

/-- A hitch request from the debugger. -/
def execDebuggerHitchRequest (job : BitVec 16) (s : State) : Result :=
  .next (if (ctxsOf s job).isEmpty then s else raiseHitch job 0 Code.hitch 0 0 true s)

/-- HITCH: after its hand's commit a wave starts with cause code 0x62 (19 R354). -/
def execHitch (q : Sel) (s : State) : Result := .next (issue 8 q (fun _ => hEff .hitch) s)

/-- HITCH at commit; a hitch wave never concerns an edge core (26 R392). A stepped seat keeps the cause in FAULTCODE
(11 R176). -/
def hitchCommit (fe k : Nat) (hand : W64) (s : State) : State :=
  let t := seatAt s fe k
  if isEdge fe then s
  else
    let s := raiseHitch (ctxAt s t.ctx).job hand Code.hitch fe k false s
    if t.stepping then modSeat fe k (fun t => { t with arch := { t.arch with faultcode := Code.hitch.setWidth 64 } }) s else s

/-! ### DSTEP (11 R177, 19 R355) -/

/-- The seat that a DSTEP names: FE and seat number, when it is one of this module. -/
def stepSeat (s : State) (n : W64) : Option (Nat × Nat) :=
  let c := fld n 14 9
  if fld n 27 18 == s.moduleId.toNat && decide (c < 50) then some (feAtNum (fld n 17 15) c (fld n 8 3), fld n 1 0) else none

/-- DSTEP at commit: the seat runs one hand, and the status lands at `off` of edge core `e` when that hand is over; of
another module's seat it is free (log 23). -/
def stepCommit (e : Nat) (n : W64) (off : Nat) (s : State) : State :=
  if fld n 27 18 != s.moduleId.toNat then
    (let (v, s) := freeWord s
     landSys e off [w32 (v.toNat % 4)] s)
  else
    match stepSeat s n with
    | none => landSys e off [3] s
    | some (fe, k) =>
      let t := seatAt s fe k
      if t.st != .frozen || t.stepping || (ctxAt s t.ctx).job.toNat != fld n 63 48 || !jobFrozen s t.ctx then landSys e off [3] s
      else
        let s := modSeat fe k (fun t => { t with
          st := if t.prev == .belayed then (if t.faulted then .faulted else .running) else t.prev
          stepping := true, stepTo := some (e, off) }) s
        let s := proceedFaulted fe k s
        if (seatAt s fe k).st == .faulted then stepDone fe k 2 (freezeSeat fe k s) else s

/-! ### DRESUME and the release (11 R178, R179) -/

/-- The skew bound for the job's span: a die, a module, or a pod with the one-way latency of a long-reach port that carries
its traffic (11 R174). -/
def skewBound (s : State) (job : BitVec 16) : Nat :=
  let ports := s.links.filter fun e => isRigging e.1 && (e.2.jobs.contains job || (jobPorts s job).any (riggingKey · == e.1))
  let dies := ((ctxsOf s job).flatMap fun c => (ctxFes s c).map feDie).eraseDups
  if ports.isEmpty && (jobModules s job).isEmpty && !s.hitch.wide.contains job then (if dies.length ≤ 1 then 600 else 1200)
  else 4000 + (ports.map fun e => if e.2.lr then 500 * e.2.rtt else 0).foldl Nat.max 0

/-- DRESUME at commit: 0 armed, 1 EARLY. TIME is invalid before step 5 of bring-up has ended (27 R401). -/
def resumeCommit (e : Nat) (job : BitVec 16) (t : W64) (off : Nat) (s : State) : State :=
  if !bootPast s 5 || t.toNat < s.time + skewBound s job then landSys e off [1] s
  else landSys e off [0] { s with hitch := armRelease job t s.hitch }

/-- The release that comes next, of those whose receivers have been released (`half`) or of the others. -/
def nextRelease (s : State) (half : Bool) : Option Release :=
  (s.hitch.rels.filter (·.half == half)).foldl (fun b x => match b with
    | some y => if x.time.toNat < y.time.toNat then some x else b
    | none => some x) none

/-- RECEIVER_RELEASE: pod time is T. What is held for a context that STOPPED meanwhile, replies and event records, is discarded
(11 R179). -/
def receiverRelease (s : State) : State :=
  match nextRelease s false with
  | none => s
  | some x =>
    let dead (c : Nat) : Bool := (ctxAt s c).job == x.job && (ctxAt s c).st == .stopped
    let s := if s.hitch.frozen.contains x.job && !s.hitch.rels.any (fun y => y.half && y.job == x.job) then
      startWindows (ctxsOf s x.job) s else s
    { s with
      time := Nat.max s.time x.time.toNat
      replies := s.replies.filter fun r => !dead r.req.ctx
      recs := s.recs.filter fun m => !dead (seatAt s m.fe m.seat).ctx
      hitch := { s.hitch with rels := s.hitch.rels.map fun y => if y = x then { y with half := true } else y } }

def execReceiverRelease (s : State) : Result := .next (receiverRelease s)

/-- A FROZEN seat returns to its previous state; one that is BELAYED again takes a fault that was deferred meanwhile (17 R287).
In a STOPPED context it stays, its hand abandoned. -/
def unfreezeSeat (fe k : Nat) (s : State) : State :=
  let s := if (seatAt s fe k).stepping then stepDone fe k 1 s else s
  let t := seatAt s fe k
  if t.st != .frozen then s
  else if (ctxAt s t.ctx).st == .stopped then modSeat fe k (fun t => { t with prev := if t.prev == .waiting then .running else t.prev }) (abandon fe k s)
  else
    let s := modSeat fe k (fun t => { t with st := t.prev }) s
    if t.prev == .belayed && !t.faulted then takeDeferred fe k s else s

/-- The links on which no frozen job is left return to the UP state held before. -/
def thawLinks (job : BitVec 16) (s : State) : State :=
  { s with links := s.links.map fun e =>
    let l := { e.2 with
      frozenJobs := e.2.frozenJobs.filter (· != job), owesMarks := e.2.owesMarks.filter (· != job) }
    (e.1, if l.frozenJobs.isEmpty then { l with st := if l.st == .frozen then l.held else l.st, wasFrozen := false } else l) }

/-- SENDER_RELEASE, 100 ns later: the job runs again; a pre-emption request that was pending takes effect. -/
def senderRelease (s : State) : State :=
  match nextRelease s true with
  | none => s
  | some r =>
    let cs := ctxsOf s r.job
    let h := { s.hitch with
      rels := s.hitch.rels.filter (· != r), frozen := s.hitch.frozen.filter (· != r.job), spread := s.hitch.spread.filter (·.1 != r.job) }
    let s := { s with time := Nat.max s.time (r.time.toNat + 100), hitch := { h with st := hitchStat h } }
    let s := thawLinks r.job s
    each cs (fun c s =>
      let seats := seatsOf s c
      let s := each seats (fun e => unfreezeSeat e.1 e.2) s
      let x := ctxAt s c
      let s := if x.pend && x.st == .running then preemptNow c s
        else if x.pend then settleOwed c (if x.st == .stopped then 2 else 1) (modCtx c (fun x => { x with pend := false }) s)
        else if x.st == .preempting then each seats (fun e => preemptSeat e.1 e.2) s
        else s
      each seats (fun e => proceedFaulted e.1 e.2) s) s

def execSenderRelease (s : State) : Result := .next (senderRelease s)

end Sys2Proof.Machine
end

