-- ==== Sys2Proof/Machine/System.lean ====
section
/-!
DEFINITION. The privileged instructions and ICINV (19 R353 to R357, 09 R153 to R156), their effects at commit, the re-latch
tokens of an UNMAP, and the start of an edge core (26 R392).
-/

namespace Sys2Proof.Machine

/-! ### The slots -/

/-- A privileged instruction: PRIVILEGE off an edge core, then the landing, then `g` (19 R353). -/
def priv (bytes : Nat) (d : Reg) (g : State → Hand → Hand) (s : State) (h : Hand) : Hand :=
  if !isEdge s.curFe then hFault Code.privilege 0 0 h else chkLanding (rdS h d) bytes (g s) h

/-- A privileged instruction whose operation depends on its hand only. -/
def privOp (w bytes : Nat) (d : Reg) (op : Hand → SysOp) (q : Sel) (s : State) : State :=
  issue w q (priv bytes d fun _ h => hEff (.sys (op h) (rdS h d).toNat) h) s

/-- The four words of an image at a local address. -/
def localImage (s : State) (h : Hand) (off : Nat) : RangeImage :=
  let w (i : Nat) : W64 := w64 (localRead s s.curFe h (off + 8 * i) 8)
  { base := w 0, limit := w 1, pa := w 2, perm := w 3 }

/-- MAPR and UNMAP: their image is checked as 32 bytes of doublewords (19 R353). -/
def imageOp (d b : Reg) (op : Hand → RangeImage → SysOp) (q : Sel) (s : State) : State :=
  issueRead 16 q (fun s h => isEdge s.curFe && ownBehind s s.curFe s.curSeat (rdS h b).toNat 32) (priv 4 d fun s h =>
    let off := (rdS h b).toNat
    chkLocal off 32 8 (fun h => hEff (.sys (op h (localImage s h off)) (rdS h d).toNat) h) h) s

def execMaprRange (d a b : Reg) (q : Sel) (s : State) : Result :=
  .next (imageOp d b (fun h img => .mapr false (rdS h a) img) q s)
def execMaprPage (d a b : Reg) (q : Sel) (s : State) : Result :=
  .next (imageOp d b (fun h img => .mapr true (rdS h a) img) q s)
def execUnmap (d a b : Reg) (q : Sel) (s : State) : Result :=
  .next (imageOp d b (fun h img => .unmap (rdS h a) img) q s)

/-- ICINV is not privileged (19 R354). -/
def execIcinv (a b : Reg) (scope : BitVec 3) (q : Sel) (s : State) : Result :=
  .next (issue 8 q (fun _ h => hEff (.icinv (rdS h a) (rdS h b) scope) h) s)

def execDstep (d a : Reg) (q : Sel) (s : State) : Result := .next (privOp 8 4 d (fun h => .dstep (rdS h a)) q s)
def execDresume (d a b : Reg) (q : Sel) (s : State) : Result :=
  .next (privOp 8 4 d (fun h => .dresume (rdS h a) (rdS h b)) q s)
def execPreempt (d a : Reg) (dbg : Bool) (q : Sel) (s : State) : Result :=
  .next (privOp 8 4 d (fun h => .preempt (rdS h a) dbg) q s)
/-- KEYLD: its key is 32-byte aligned (19 R356). -/
def execKeyld (d a b : Reg) (q : Sel) (s : State) : Result :=
  .next (issue 8 q (priv 4 d fun _ h =>
    chkLocal (rdS h b).toNat 32 32 (hEff (.sys (.keyld (rdS h a) (rdS h b).toNat) (rdS h d).toNat)) h) s)

/-- LNKCTL with operation `op` (19 R357); its result has 8 bytes. -/
def lnkctlOp (op : Nat) (d a : Reg) (b : Option Reg) (q : Sel) (s : State) : State :=
  privOp 8 8 d (fun h => .lnkctl op (rdS h a) (match b with
    | some b => rdS h b
    | none => 0)) q s

def execLnkctlRead (d a : Reg) (q : Sel) (s : State) : Result := .next (lnkctlOp 0 d a none q s)
def execLnkctlEnable (d a : Reg) (q : Sel) (s : State) : Result := .next (lnkctlOp 1 d a none q s)
def execLnkctlDisable (d a : Reg) (q : Sel) (s : State) : Result := .next (lnkctlOp 2 d a none q s)
def execLnkctlReset (d a : Reg) (q : Sel) (s : State) : Result := .next (lnkctlOp 3 d a none q s)
def execLnkctlClear (d a : Reg) (q : Sel) (s : State) : Result := .next (lnkctlOp 4 d a none q s)
def execLnkctlLongReach (d a b : Reg) (q : Sel) (s : State) : Result := .next (lnkctlOp 5 d a (some b) q s)
def execLnkctlEncryption (d a b : Reg) (q : Sel) (s : State) : Result := .next (lnkctlOp 6 d a (some b) q s)
def execLnkctlReplayTimeout (d a b : Reg) (q : Sel) (s : State) : Result := .next (lnkctlOp 7 d a (some b) q s)

/-! ### MAPR (09 R153, 19 R353) -/

/-- Whether a range covers a virtual address. -/
def covers (base limit va : Nat) : Bool := decide (base ≤ va) && decide (va < limit)

/-- Cached misses in a range are dropped in every FE of the context. -/
def dropMisses (c base limit : Nat) (s : State) : State :=
  { s with fes := s.fes.map fun e => (e.1, { e.2 with
    tlb := e.2.tlb.filter fun t => !(t.ctx == c && t.hit.isNone && covers base limit t.base.toNat) }) }

/-- Parked atomics in a range are translated anew; those that then permit R and W go to the home that this names
(17 R293). -/
def releaseAtomics (c base limit : Nat) (s : State) : State :=
  let mine := (ctxAt s c).parked.filter fun r => covers base limit r.va.toNat
  let s := modCtx c (fun x => { x with parked := x.parked.filter fun r => !covers base limit r.va.toNat }) s
  each mine (fun r s => match ctxPa s c r.va.toNat { r := true, w := true } with
    | .ok pa => sendReq { r with pa := pa, born := s.nextId, hops := 0, hop := 0, flit := none } s
    | .error _ => modCtx c (fun x => { x with parked := x.parked ++ [r] }) s) s

/-- Nodes parked at an address of a range go on: streams, bight units and cards (09 R154). -/
def unparkNodes (c base limit : Nat) (s : State) : State :=
  let free (p : Option Nat) : Option Nat := p.filter fun va => !covers base limit va
  { s with
    fes := s.fes.map fun e => (e.1, { e.2 with
      planes := e.2.planes.map fun p => { p with ports := p.ports.map fun q => (q.1, { q.2 with
        queue := q.2.queue.map fun x => if x.ctx == c then { x with parked := free x.parked } else x }) }
      bight := e.2.bight.map fun b =>
        if (cascAt s b.casc).any (·.ctx == c) then { b with parked := free b.parked, parkedOut := free b.parkedOut } else b })
    cards := s.cards.map fun e => (e.1, if e.2.ctx == c then
      { e.2 with parked := e.2.parked.filter fun p => !covers base limit p.2 } else e.2) }

/-- The limits of a page mapping: 4 KiB aligned, rising. -/
def pagesOk (i : RangeImage) : Bool :=
  fld i.base 11 0 == 0 && fld i.limit 11 0 == 0 && decide (i.base.toNat < 2 ^ 48) && decide (i.base.toNat < i.limit.toNat)

/-- MAPR at commit: 0 done, 1 refused, 2 entry not INVALID. -/
def maprCommit (page : Bool) (a : W64) (img : RangeImage) (s : State) : W32 × State :=
  let c := fld a 5 0
  let n := fld a 13 8
  let base := img.base.toNat
  let limit := img.limit.toNat
  let open_ (s : State) : State := unparkNodes c base limit (releaseAtomics c base limit (dropMisses c base limit s))
  if (ctxAt s c).st == .free then (1, s)
  else if page then (if pagesOk img then (0, open_ s) else (1, s))
  else if !rangeOk img then (1, s)
  else if (KV.find n (ctxAt s c).ranges).isSome then (2, s)
  else if !bit img.perm 0 then (0, s)
  else (0, open_ (modCtx c (fun x => { x with ranges := KV.set n { img := img } x.ranges }) s))

/-! ### UNMAP and re-latch tokens (09 R153, R154) -/

/-- A latch that lies in a range. -/
def latchIn (base limit : Nat) (l : Option (Nat × Nat × Nat)) : Bool := match l with
  | some (b, e, _) => decide (base ≤ b) && decide (e ≤ limit)
  | none => false

/-- The nodes of a context that have a translation of a range latched. -/
def latchedNodes (s : State) (c base limit : Nat) : List (Nat × Nat × Nat) :=
  (s.fes.flatMap fun e =>
    ((List.range 4).flatMap fun pl => (planeAt e.2 pl).ports.filterMap fun p =>
      match p.2.queue with
      | x :: _ => if x.ctx == c && latchIn base limit x.latch then some (e.1, pl, p.1) else none
      | [] => none) ++
    (match e.2.bight with
     | some b => (match cascAt s b.casc with
       | some k => if k.ctx == c then
             (if latchIn base limit b.latch then [(e.1, 4, 0)] else []) ++
               (if latchIn base limit b.latchOut then [(e.1, 4, 1)] else [])
           else []
       | none => [])
     | none => [])) ++
  s.cards.filterMap fun e =>
    if e.2.ctx == c && (latchIn base limit e.2.latch || e.2.lats.any fun l => latchIn base limit l.2) then some (e.1, 5, 0) else none

/-- UNMAP at commit: the covered entries are RETIRING, cached translations are dropped, a token enters every node that has
one latched. It completes later; the answer says whether it was refused. -/
def unmapCommit (fe off : Nat) (a : W64) (img : RangeImage) (s : State) : Bool × State :=
  let c := fld a 5 0
  let base := img.base.toNat
  let limit := img.limit.toNat
  if !pagesOk img || img.pa != 0 || img.perm != 0 || (ctxAt s c).st == .free then (true, s)
  else
    let nodes := latchedNodes s c base limit
    let kept (l : List Tlb) : List Tlb :=
      l.filter fun t => !(t.ctx == c && decide (base ≤ t.base.toNat) && decide (t.base.toNat + t.size ≤ limit))
    let s := { s with fes := s.fes.map fun e => (e.1, { e.2 with
      tlb := kept e.2.tlb
      seats := e.2.seats.map fun t => { t with hand := t.hand.map fun h => { h with walked := kept h.walked } } }) }
    (false, modCtx c (fun x => { x with
      ranges := x.ranges.map fun e => (e.1,
        if decide (base ≤ e.2.img.base.toNat) && decide (e.2.img.limit.toNat ≤ limit) then { e.2 with retiring := true } else e.2)
      unmaps := x.unmaps ++ [{ base := img.base, limit := img.limit, edge := fe, off := off, mark := s.nextId, tokens := nodes }] }) s)

/-- A node takes a token: its latch is dropped, and it translates again before its next access. -/
def dropLatch (n : Nat × Nat × Nat) (s : State) : State :=
  match n.2.1 with
  | 4 => modFe n.1 (fun f => { f with bight := f.bight.map fun b =>
      if n.2.2 == 0 then { b with latch := none, dropped := true } else { b with latchOut := none, droppedOut := true } }) s
  | 5 => modCard n.1 (fun c => { c with latch := none, lats := c.lats.map fun e => (e.1, none), dropped := true }) s
  | pl => modPort n.1 pl n.2.2 (fun p => { p with queue := match p.queue with
      | x :: r => { x with latch := none, dropped := true } :: r
      | [] => [] }) s

/-- Take the oldest token out of the UNMAPs of a context. -/
def popToken : List Unmap → Option ((Nat × Nat × Nat) × List Unmap)
  | [] => none
  | u :: l => match u.tokens with
    | n :: r => some (n, { u with tokens := r } :: l)
    | [] => (popToken l).map fun x => (x.1, u :: x.2)

/-- RELATCH_TOKEN: the oldest token of a context is taken by its node. -/
def relatchToken (c : Nat) (s : State) : State :=
  match popToken (ctxAt s c).unmaps with
  | none => s
  | some (n, l) => dropLatch n (modCtx c (fun x => { x with unmaps := l }) s)

def execRelatchToken (ctx : Nat) (s : State) : Result := .next (relatchToken ctx s)

/-- An effect of a hand that was translated in an UNMAP's range before it. -/
def effIn (u : Unmap) (e : Eff) : Bool := match e with
  | .gstore _ va _ _ born => decide (born < u.mark) && covers u.base.toNat u.limit.toNat va.toNat
  | .send r => decide (r.born < u.mark) && covers u.base.toNat u.limit.toNat r.va.toNat
  | _ => false

/-- Accesses of a context translated in the range before the UNMAP that have not reached their homes: on their way, parked on
the way, or in a hand that has not committed. -/
def accessesLeft (s : State) (c : Nat) (u : Unmap) : Bool :=
  (unperformed s).any (fun x => x.ctx == c && decide (x.born < u.mark) && covers u.base.toNat u.limit.toNat x.va.toNat) ||
    (seatsOf s c).any fun e => match (seatAt s e.1 e.2).hand with
      | some h => h.effects.any (effIn u)
      | none => false

/-- An UNMAP of a context that can complete: every token of it has emerged, and so has every access. -/
def unmapReady (s : State) (c : Nat) : Option Unmap :=
  (ctxAt s c).unmaps.find? fun u => u.tokens.isEmpty && !accessesLeft s c u

/-- The entries of a context that an UNMAP made RETIRING are INVALID. -/
def endUnmap (u : Unmap) (x : Ctx) : Ctx :=
  { x with
    ranges := x.ranges.filter fun e =>
      !(e.2.retiring && decide (u.base.toNat ≤ e.2.img.base.toNat) && decide (e.2.img.limit.toNat ≤ u.limit.toNat))
    unmaps := x.unmaps.erase u }

/-- UNMAP_COMPLETE: its retiring entries are INVALID, and its result lands. -/
def unmapComplete (c : Nat) (s : State) : State :=
  match unmapReady s c with
  | none => s
  | some u => landSys u.edge u.off [0] (modCtx c (endUnmap u) s)

def execUnmapComplete (ctx : Nat) (s : State) : Result := .next (unmapComplete ctx s)

/-! ### ICINV (09 R156, 19 R354) -/

/-- Whether an FE lies in a scope of another: fe, cluster, die, module, pod, system (15 R251). -/
def inScope (scope me fe : Nat) : Bool :=
  match scope with
  | 0 => fe == me
  | 1 => feDie fe == feDie me && feCluster fe == feCluster me && isEdge fe == isEdge me
  | 2 => feDie fe == feDie me
  | _ => true

/-- The cached bytes of a virtual range are dropped in every FE of the context within the scope. -/
def icinvCommit (fe k : Nat) (base len : W64) (scope : Nat) (s : State) : State :=
  let c := (seatAt s fe k).ctx
  let lo := base.toNat
  let hi := lo + len.toNat
  { s with fes := s.fes.map fun e =>
    if (e.2.holder == some c || e.1 == fe) && inScope scope fe e.1 then
      (e.1, { e.2 with icache := e.2.icache.filter fun b => !covers lo hi b.1 })
    else e }

/-! ### PREEMPT, KEYLD, LNKCTL (19 R355 to R357) -/

/-- PREEMPT at commit; the answer is the result when it is known already. -/
def preemptCommit (fe off : Nat) (a : W64) (dbg : Bool) (s : State) : Option W32 × State :=
  let c := fld a 5 0
  match (ctxAt s c).st with
  | .running | .preempting =>
    (none, preemptRequest c (if dbg then 2 else 0) (modCtx c (fun x => { x with owed := x.owed ++ [(fe, off)] }) s))
  | _ => (some 1, s)

/-- A link id's key as one of the rigging ports that the module has. -/
def isPort (k : Nat) : Bool := isRigging k && decide (k / 16 % 32 < 24) && k % 2 ^ 10 == riggingKey (k / 16 % 32)

/-- KEYLD at commit: the key goes into the slot of the phase not in use, and its source bytes become 0. -/
def keyldCommit (fe : Nat) (link : W64) (off : Nat) (s : State) : W32 × State :=
  let k := linkKey s (w32 (fld link 31 0))
  let v := BitVec.ofNat 256 (leNat (seatBytes s fe 0 off 32))
  let s := wrPa (ownPa s fe off) 32 0 s
  if fld link 63 32 != 0 || !isPort k then (1, s)
  else
    (0, sendOwed k (modLink k (fun l =>
      let l := if l.keyPh then { l with key0 := some v } else { l with key1 := some v }
      if l.keyWait then switchKey l else l) s))

/-- LNKCTL at commit: whether it is refused, and the state after it. -/
def lnkctlCommit (op : Nat) (k : Nat) (v : W64) (s : State) : Bool × State :=
  let l := linkAt s k
  match op with
  | 0 => (false, s)
  | 1 => if l.st == .down then (false, enableLink k s) else (true, s)
  | 2 => (false, disableLink k s)
  | 3 => if l.st == .failed then (false, resetLink k s) else (true, s)
  | 4 => (false, modLink k (fun l => { l with crcErr := 0, tagFail := 0 }) s)
  | 5 =>
    let lr := bit v 8
    let size := fld v 4 0
    if !isRigging k || l.st != .down || (lr && !l.enc) || (lr && (size == 0 || decide (16 < size))) then (true, s)
    else (false, modLink k (fun l => { l with
      lr := lr, carveBase := BitVec.ofNat 32 (fld v 55 24), carveSize := BitVec.ofNat 5 size
      timeoutUs := if lr then 2 * l.rtt else 10 }) s)
  | 6 =>
    if !isRigging k || l.st != .down || (!bit v 0 && l.lr) then (true, s)
    else (false, modLink k (fun l => { l with enc := bit v 0 }) s)
  | _ =>
    if !l.lr || v = 0 || decide (100000 < v.toNat) then (true, s)
    else (false, modLink k (fun l => { l with timeoutUs := Nat.max v.toNat (2 * l.rtt) }) s)

/-- A privileged operation at its commit: the landing word is emptied, and the result lands when the action completes. -/
def sysCommit (fe : Nat) (op : SysOp) (off : Nat) (s : State) : State :=
  let words := match op with
    | .lnkctl _ _ _ => 2
    | _ => 1
  let s := emptyWords (ownPa s fe off) words s
  match op with
  | .mapr page a img =>
    let (v, s) := maprCommit page a img s
    landSys fe off [v] s
  | .unmap a img =>
    let (bad, s) := unmapCommit fe off a img s
    if bad then landSys fe off [1] s else s
  | .dstep n => stepCommit fe n off s
  | .dresume job t => resumeCommit fe (BitVec.ofNat 16 (fld job 15 0)) t off s
  | .preempt a dbg =>
    let (v, s) := preemptCommit fe off a dbg s
    (match v with
     | some v => landSys fe off [v] s
     | none => s)
  | .keyld link src =>
    let (v, s) := keyldCommit fe link src s
    landSys fe off [v] s
  | .lnkctl op link v =>
    let k := linkKey s (w32 (fld link 31 0))
    let (bad, s) := lnkctlCommit op k v s
    let w := (lnkstat (linkAt s k)).toNat + bitAt bad 63
    landSys fe off [lo32 w, hi32 w] s

/-! ### EDGE_CORE_START (26 R392) -/

/-- Horlyn starts an edge core that is stopped at a hand. -/
def edgeStart (die : Nat) (hand : W64) (s : State) : State :=
  let fe := edgeBase + die % 8
  let t := seatAt s fe 0
  match t.st with
  | .free | .retired | .faulted =>
    modFe fe (fun f => { f with
      holder := some horlyn, idle := false
      seats := vset f.seats 0 { st := .loaded, pc := hand &&& ~~~7, ctx := horlyn, arch := { belayEn := false } } }) s
  | _ => s

def execEdgeCoreStart (die : Nat) (hand : W64) (s : State) : Result := .next (if die < 8 then edgeStart die hand s else s)

end Sys2Proof.Machine
end

