-- ==== Sys2Proof/Machine/Commit.lean ====
section
/-!
DEFINITION. HAND_COMMIT (04 R57, 14 R223): the waits at a commit, the effects of a hand in wave order, its registers, and
the hand that the seat runs next (16 R256 to R268); and BELAY_DISTANCE.
-/

namespace Sys2Proof.Machine

/-! ### Effects -/

/-- Landing words from offset `off` on are emptied, each as a write of the seat (12 R197). -/
def emptyLand (fe k : Nat) (hand : W64) (off : Nat) : Nat → State → State
  | 0, s => s
  | n + 1, s => emptyLand fe k hand (off + 4) n (ownOp fe k hand off .clre (setTag (ownPa s fe off) false) s)

/-- A request is issued: its landing words are emptied, and it is stamped and its reply awaited (04 R59). -/
def issueReq (fe k : Nat) (r : Req) (s : State) : State :=
  match r.land with
  | some off =>
    let s := emptyLand fe k r.hand off (landBytesOf r.op / 4) s
    sendNew r (modSeat fe k (fun t => { t with splits := t.splits ++ [s.nextId] }) s)
  | none => sendNew r s

/-- FENCE at commit (12 R187): later writes, and for FENCE.all later reads by request, go behind what the seat has sent; an
atomic of the same hand before a FENCE.ld is an acquire. The effect of every scope is that of the widest (12 R188, log 102). -/
def fenceCommit (fe k : Nat) (hand : W64) (ld st all : Bool) (s : State) : State :=
  let n := s.nextId
  let s := modSeat fe k (fun t => { t with
    fenceSt := if st || all then n else t.fenceSt, fenceAll := if all then n else t.fenceAll }) s
  if ld || all then
    { s with reqs := s.reqs.map fun r => if sameSeat r fe k && r.hand == hand && isAtomic r then { r with acq := true } else r }
  else s

/-- One effect of a hand at its commit. -/
def commitEff (fe k : Nat) (hand : W64) (e : Eff) (s : State) : State :=
  let own (off : Nat) : Nat := ownPa s fe off
  match e with
  | .store off n v => ownOp fe k hand off (.write n v) (wrPa (own off) n v.toNat) s
  | .gstore pa va n v born => sendNew { mkReq s fe k hand va pa (.write n v) none with born := born } s
  | .storeFull off v => ownOp fe k hand off (.setf v) (fun s => setTag (own off) true (wrPa (own off) 4 v.toNat s)) s
  | .setEmpty off take => ownOp fe k hand off (if take then .take else .clre) (setTag (own off) false) s
  | .send r => issueReq fe k r s
  | .binit n byteMode trap expect =>
    ownOp fe k hand (spTop + 8 * n) (.binit byteMode trap expect) (initBar fe k n byteMode trap expect) s
  | .barr n amount => ownOp fe k hand (spTop + 8 * n) (.barr amount) (fun s => (arriveBar fe n amount s).1) s
  | .brst n => ownOp fe k hand (spTop + 8 * n) .brst (resetBar fe n) s
  | .fence ld st all _ => fenceCommit fe k hand ld st all s
  | .stream pl sink port cmd => portPut fe pl.toNat sink port.toNat cmd s
  | .spush pl port v eor last =>
    if (portOf (feAt s fe) pl.toNat port.toNat).ecode != 0 then s else spushPut fe pl.toNat port.toNat v eor last s
  | .spull pl port => spullTake fe pl.toNat port.toNat s
  | .portrst pl sink port => portReset fe pl.toNat sink port.toNat s
  | .cfg va rot => cfgSend fe k va rot s
  | .cfgw word value => cfgwSend fe k word value s
  | .planeon pl => planeOn fe k pl.toNat s
  | .planeoff pl => planeOff fe pl.toNat s
  | .arbw pl w => arbPin fe pl.toNat w s
  | .mclaim m _ => setClaim fe m.toNat (some k) s
  | .mrel m => setClaim fe m.toNat none s
  | .array op => arrEnter fe { seat := k, hand := hand, op := op, mark := s.nextId } s
  | .card off kind => postCard fe k off kind s
  | .evtake tag => evTake fe k tag s
  | .launch va tag => deviceLaunch fe k va tag s
  | .brow kind => browCommit fe k kind s
  | .bemit pl port => bemitCommit fe pl port s
  | .bstep => modBight fe (fun b => { b with pret := b.pret + 1 }) s
  | .btap pl port dr dc => btapCommit fe pl port dr dc s
  | .bend => bendCommit fe s
  | .bendAbort => bendAbortCommit fe s
  | .bseedC v => modBight fe (fun b => { b with const := v }) s
  | .bseedR off => bseedRCommit fe off s
  | .icinv base len scope => icinvCommit fe k base len scope.toNat s
  | .hitch => hitchCommit fe k hand s
  -- passed over for the next turn, unless a request is pending (16 R265)
  | .yield =>
    let x := ctxAt s (seatAt s fe k).ctx
    if x.st == .preempting || x.pend then s else modSeat fe k (fun t => { t with passed := true }) s
  | .sys op land => sysCommit fe op land s

/-! ### Waits at a commit -/

/-- Commands and pushes that a hand is to enter. -/
def countCmds (h : Hand) (pl : Plane) (sink : Bool) (port : Port) : Nat := (h.effects.filter fun e => match e with
  | .stream p x q _ => p == pl && x == sink && q == port
  | _ => false).length
def countPush (h : Hand) (pl : Plane) (port : Port) : Nat := (h.effects.filter fun e => match e with
  | .spush p q _ _ _ => p == pl && q == port
  | _ => false).length

/-- A hand whose commit cannot begin: a command of a full port queue, a push into a full channel or one that another producer
feeds (18 R310), a 65th card (19 R341), a BEMIT of a STOPPED cascade (07 R124). -/
def effBlocked (s : State) (fe k : Nat) (h : Hand) (e : Eff) : Bool :=
  let f := feAt s fe
  match e with
  | .stream pl sink port _ =>
    let p := portOf f pl.toNat (portIx sink port.toNat)
    p.ecode == 0 && !fits p.queue.length (countCmds h pl sink port) 8
  | .spush pl port _ _ _ =>
    (portOf f pl.toNat port.toNat).ecode == 0 &&
      (!portQuiet f pl.toNat port.toNat || !fits (chanOf f pl.toNat port.toNat).length (countPush h pl port) 4)
  | .card _ _ => cardsFull (seatAt s fe k) h
  | .bemit _ _ => emitHeld s fe
  | _ => false

/-- An effect that comes next and cannot be performed yet, its hand's commit having begun: an array command behind an
unfinished MTILE (19 R333); a push behind a command of its own hand (18 R310); one that reads or invalidates what the seat's own earlier writes have still to change
(12 R190, 09 R156, log 100); and a privileged operation whose landing words the seat has still to empty. -/
def effWaits (s : State) (fe k : Nat) (e : Eff) : Bool :=
  match e with
  | .array _ => mtileBusy (feAt s fe)
  | .spush pl port _ _ _ => !spushRoom (feAt s fe) pl.toNat port.toNat
  | .card off _ => ownBehind s fe k off 448
  | .bseedR off => ownBehind s fe k off (rowBytes s fe)
  | .sys op land =>
    (match op with
     | .keyld _ src => ownBehind s fe k src 32 || !goesNow s fe k src (.write 32 0)
     | _ => false) || !goesNow s fe k land .clre || !goesNow s fe k (land + 4) .clre
  | .cfg va _ => writesLeft s fe k || (cfgRead s fe k va).waits
  | .icinv _ _ _ => writesLeft s fe k
  | .bemit _ _ => emitHeld s fe
  | _ => false

/-! ### The next hand (16 R256 to R263) -/

def setLoop (n : Nat) (l : Loop) (a : Arch) : Arch := { a with lc := vset a.lc n l }

/-- The hand at LASTH commits without a control instruction: loops that end there, the innermost first (16 R262). -/
def loopEnd (addr next : W64) : List (Nat × Loop) → Arch → Arch × W64
  | [], a => (a, next)
  | (n, l) :: rest, a =>
    if l.last != addr then loopEnd addr next rest a
    else if l.count.toNat ≤ 1 then loopEnd addr next rest (setLoop n {} a)
    else (setLoop n { l with count := l.count - 1 } a, l.first)

/-- A taken transfer out of the spans that its hand lies in ends their loops. -/
def leaveLoops (addr target : W64) (a : Arch) : Arch :=
  let inside (l : Loop) (x : W64) : Bool := decide (l.first ≤ x) && decide (x ≤ l.last)
  { a with lc := a.lc.map fun l => if l.active && inside l addr && !inside l target then {} else l }

/-- LOOPBRK: loop `n` and those activated after it end. -/
def breakLoops (n : Nat) (a : Arch) : Arch :=
  let o := (vget {} a.lc n).order
  { a with lc := a.lc.map fun l => if l.active && decide (o ≤ l.order) then {} else l }

/-- The order of activation of a new loop. -/
def nextOrder (a : Arch) : Nat := (a.lc.toList.map fun l => if l.active then l.order + 1 else 0).foldl Nat.max 0

/-- Where a seat goes on: its PC, whether only the header at it is to be read, and the span check that is due. -/
structure Onward where
  pc : W64
  hdrOnly : Bool := false
  check : Option Nat := none
  deriving DecidableEq, Repr

/-- The choice of the next hand; traps, HALT and ERET leave NextHand here. -/
def onward (h : Hand) : Arch × Onward :=
  let a := h.work
  match h.ctl with
  | none =>
    let (a, pc) := loopEnd h.addr h.next (activeLoops a).reverse a
    (a, { pc := pc })
  | some (.jump t) | some (.jumpRet t) => (leaveLoops h.addr t a, { pc := t })
  | some (.call t) => (a, { pc := t })
  | some (.loop n c last) =>
    if c == 0 then (setLoop n {} a, { pc := last, hdrOnly := true })
    else
      let twice := (vget {} a.lc n).active || (activeLoops a).length == 3
      (setLoop n { count := BitVec.ofNat 32 c, active := true, first := h.next, last := last, order := nextOrder a } a,
       { pc := h.next, check := some (if twice then n + 4 else n) })
  | some (.loopbrk n) =>
    let l := vget {} a.lc n
    if l.active then (breakLoops n a, { pc := l.last, hdrOnly := true }) else (a, { pc := h.next })
  | some _ => (a, { pc := h.next })

/-! ### HAND_COMMIT -/

/-- Holds and reservations end with their hand (04 R58, 17 R290). -/
def endHolds (fe k : Nat) (h : Hand) (s : State) : State :=
  each h.holds (fun x s => match feOfPa x.pa with
    | some home =>
      if x.remote then sendNew (mkReq s fe k h.addr 0 (wordPa s x.pa) .release none) s
      else ownOp fe k h.addr (paOff x.pa) .release (dropHold home x.pa fe k) s
    | none => s) s

/-- What the control instruction that took effect does after the commit. -/
def afterCommit (fe k : Nat) (h : Hand) (s : State) : State :=
  match h.ctl with
  | some (.trap code info slot) => takeFault fe k { code := code, slot := slot, info := info } true h.addr h.next s
  | some (.brk slot) =>
    let t := seatAt s fe k
    let code := if t.stepping then Code.hitch else Code.breakpoint
    let s := modSeat fe k (fun t => { t with arch := faultRegs { code := code, slot := slot } true h.addr h.next t.arch }) s
    if isEdge fe then s
    else
      let s := raiseHitch (ctxAt s t.ctx).job h.addr Code.breakpoint fe k false s
      if t.stepping then s else freezeSeat fe k s
  | some .halt => haltStage fe k (modSeat fe k (fun t => { t with st := .retired }) s)
  | some .eret =>
    let s' := modSeat fe k returnFrom s
    if (seatAt s fe k).arch.hndl && !(seatAt s' fe k).arch.hndl then resumeStage fe k s' else s'
  | _ => s

/-- A stepped seat is FROZEN again after its hand (11 R177). -/
def endStep (fe k : Nat) (s : State) : State :=
  if (seatAt s fe k).stepping then
    stepDone fe k 0 (if (seatAt s fe k).st == .running then freezeSeat fe k s else s)
  else s

/-- Perform the effects of a hand in wave order (14 R223), up to one that must wait; the answer names those that are left. -/
def runEffs (fe k : Nat) (hand : W64) : List Eff → State → List Eff × State
  | [], s => ([], s)
  | e :: r, s => if effWaits s fe k e then (e :: r, s) else runEffs fe k hand r (commitEff fe k hand e s)

/-- Go on with a commit that has begun: its effects are separate events, which other agents may observe one by one (12 R181),
and the hand stays in flight, its issue stalled, until the last of them. -/
def goCommit (fe k : Nat) (h : Hand) (s : State) : State :=
  let s := modSeat fe k (fun t => { t with hand := none }) s
  match runEffs fe k h.addr h.effects s with
  | ([], s) => endStep fe k (afterCommit fe k h (endHolds fe k h s))
  | (rest, s) =>
    modSeat fe k (fun t => { t with hand := some { h with effects := rest, committing := true, stalled := true } }) s

/-- Commit a hand: its registers, and then its effects. -/
def commitHand (fe k : Nat) (h : Hand) (s : State) : State :=
  let (a, o) := onward h
  goCommit fe k h (modSeat fe k (fun t => { t with
    st := .running, arch := a, pc := o.pc, hdrOnly := o.hdrOnly
    loopCheck := match o.check with
      | some n => t.loopCheck.filter (· % 4 != n % 4) ++ [n]
      | none => t.loopCheck }) s)

/-- A fault that the stage's unit has recorded and that its seat has not taken (07 R123). -/
def stageFault (s : State) (fe k : Nat) (h : Hand) : Option FaultRec :=
  match bightAt s fe with
  | some b => if hasRowInstr h && b.seat == k && !b.taken then b.flt else none
  | none => none

/-- HAND_COMMIT of the seat in turn, whose slots have all been issued: a recorded fault abandons the hand, and a commit that
must wait stalls. A hand that meets a fault recorded by its stage and one of its own takes the stage's, whatever its slot
(DESIGN CHOICE, log 113). -/
def tryCommit (s : State) : State :=
  let fe := s.curFe
  let k := s.curSeat
  match (seatAt s fe k).hand with
  | none => s
  | some h =>
    if h.slot < h.slots.length then s
    else if h.committing then goCommit fe k h s
    else
      match stageFault s fe k h with
      | some f => faultHere fe k f (modBight fe (fun b => { b with taken := true }) s)
      | none =>
        match h.flt, claimLost k ((feAt s fe).opm.toList.map (·.claim)) h.effects with
        | some f, _ => faultHere fe k f (cfgSpent fe k h s)
        | none, some (m, slot) => faultHere fe k { code := Code.slotState, slot := slot, info := w64 m } s
        | none, none =>
          if h.effects.any (effBlocked s fe k h) then modHand (fun h => { h with stalled := true }) s
          else commitHand fe k h s

def execHandCommit (s : State) : Result := .next (tryCommit s)

/-- BELAY_DISTANCE: a hand whose count exceeds MAX under enforcement (04 R60); one that has begun to commit is not abandoned. -/
def belayCheck (s : State) : State :=
  let t := cur s
  match t.hand with
  | some h =>
    if h.work.belayEn && !h.committing && decide (h.work.belayMax.toNat < t.belayCnt.toNat) then
      faultHere s.curFe s.curSeat
        { code := Code.belayDistance, slot := BitVec.ofNat 7 h.slot, info := w64 t.belayCnt.toNat } s
    else s
  | none => s

def execBelayDistance (s : State) : Result := .next (belayCheck s)

end Sys2Proof.Machine
end

