-- ==== Sys2Proof/Machine/Dispatch.lean ====
section
/-!
DEFINITION. The meaning of every instruction and event: one arm per constructor of `Instr`, each a call of its meaning.
-/

namespace Sys2Proof.Machine

/-- What an instruction or event does. -/
def exec (i : Instr) (s : State) : Host.Outcome State Fault Refusal :=
  match i with
  | .nop q => Sys2Proof.Machine.execNop q s
  | .halt q => Sys2Proof.Machine.execHalt q s
  | .yield q => Sys2Proof.Machine.execYield q s
  | .brk q => Sys2Proof.Machine.execBrk q s
  | .eret q => Sys2Proof.Machine.execEret q s
  | .waitev d a q => Sys2Proof.Machine.execWaitev d a q s
  | .add d a b q => Sys2Proof.Machine.execAdd d a b q s
  | .sub d a b q => Sys2Proof.Machine.execSub d a b q s
  | .mul d a b q => Sys2Proof.Machine.execMul d a b q s
  | .mulh d a b q => Sys2Proof.Machine.execMulh d a b q s
  | .mulhn d a b q => Sys2Proof.Machine.execMulhn d a b q s
  | .div d a b q => Sys2Proof.Machine.execDiv d a b q s
  | .divn d a b q => Sys2Proof.Machine.execDivn d a b q s
  | .rem d a b q => Sys2Proof.Machine.execRem d a b q s
  | .remn d a b q => Sys2Proof.Machine.execRemn d a b q s
  | .and d a b q => Sys2Proof.Machine.execAnd d a b q s
  | .or d a b q => Sys2Proof.Machine.execOr d a b q s
  | .xor d a b q => Sys2Proof.Machine.execXor d a b q s
  | .andn d a b q => Sys2Proof.Machine.execAndn d a b q s
  | .shl d a b q => Sys2Proof.Machine.execShl d a b q s
  | .shr d a b q => Sys2Proof.Machine.execShr d a b q s
  | .sra d a b q => Sys2Proof.Machine.execSra d a b q s
  | .rotl d a b q => Sys2Proof.Machine.execRotl d a b q s
  | .clz d a q => Sys2Proof.Machine.execClz d a q s
  | .ctz d a q => Sys2Proof.Machine.execCtz d a q s
  | .popc d a q => Sys2Proof.Machine.execPopc d a q s
  | .min d a b q => Sys2Proof.Machine.execMin d a b q s
  | .max d a b q => Sys2Proof.Machine.execMax d a b q s
  | .minn d a b q => Sys2Proof.Machine.execMinn d a b q s
  | .maxn d a b q => Sys2Proof.Machine.execMaxn d a b q s
  | .sel d a b q => Sys2Proof.Machine.execSel d a b q s
  | .mov d a q => Sys2Proof.Machine.execMov d a q s
  | .cmp ty cc pd a b q => Sys2Proof.Machine.execCmp ty cc pd a b q s
  | .fcmp cc pd a b q => Sys2Proof.Machine.execFcmp cc pd a b q s
  | .pand pd pa pb q => Sys2Proof.Machine.execPand pd pa pb q s
  | .por pd pa pb q => Sys2Proof.Machine.execPor pd pa pb q s
  | .pxor pd pa pb q => Sys2Proof.Machine.execPxor pd pa pb q s
  | .pnot pd pa q => Sys2Proof.Machine.execPnot pd pa q s
  | .addi d a imm q => Sys2Proof.Machine.execAddi d a imm q s
  | .andi d a imm q => Sys2Proof.Machine.execAndi d a imm q s
  | .ori d a imm q => Sys2Proof.Machine.execOri d a imm q s
  | .xori d a imm q => Sys2Proof.Machine.execXori d a imm q s
  | .shli d a amt q => Sys2Proof.Machine.execShli d a amt q s
  | .shri d a amt q => Sys2Proof.Machine.execShri d a amt q s
  | .srai d a amt q => Sys2Proof.Machine.execSrai d a amt q s
  | .cmpi cc pd a imm q => Sys2Proof.Machine.execCmpi cc pd a imm q s
  | .movi d imm => Sys2Proof.Machine.execMovi d imm s
  | .movhi d imm => Sys2Proof.Machine.execMovhi d imm s
  | .fadd d a b q => Sys2Proof.Machine.execFadd d a b q s
  | .fsub d a b q => Sys2Proof.Machine.execFsub d a b q s
  | .fmul d a b q => Sys2Proof.Machine.execFmul d a b q s
  | .fdiv d a b q => Sys2Proof.Machine.execFdiv d a b q s
  | .fmin d a b q => Sys2Proof.Machine.execFmin d a b q s
  | .fmax d a b q => Sys2Proof.Machine.execFmax d a b q s
  | .fabs d a q => Sys2Proof.Machine.execFabs d a q s
  | .fneg d a q => Sys2Proof.Machine.execFneg d a q s
  | .ffma d a b q => Sys2Proof.Machine.execFfma d a b q s
  | .frcp d a q => Sys2Proof.Machine.execFrcp d a q s
  | .frsq d a q => Sys2Proof.Machine.execFrsq d a q s
  | .fsqrt d a q => Sys2Proof.Machine.execFsqrt d a q s
  | .fexp2 d a q => Sys2Proof.Machine.execFexp2 d a q s
  | .flog2 d a q => Sys2Proof.Machine.execFlog2 d a q s
  | .fcvt dst src d a q => Sys2Proof.Machine.execFcvt dst src d a q s
  | .extN d a b q => Sys2Proof.Machine.execExtN d a b q s
  | .extI d a b q => Sys2Proof.Machine.execExtI d a b q s
  | .ins d a b q => Sys2Proof.Machine.execIns d a b q s
  | .br disp q => Sys2Proof.Machine.execBr disp q s
  | .call disp q => Sys2Proof.Machine.execCall disp q s
  | .skip dist q => Sys2Proof.Machine.execSkip dist q s
  | .loop n a last q => Sys2Proof.Machine.execLoop n a last q s
  | .calli a q => Sys2Proof.Machine.execCalli a q s
  | .jmpi a q => Sys2Proof.Machine.execJmpi a q s
  | .ret q => Sys2Proof.Machine.execRet q s
  | .loopbrk n q => Sys2Proof.Machine.execLoopbrk n q s
  | .svc imm q => Sys2Proof.Machine.execSvc imm q s
  | .trap imm q => Sys2Proof.Machine.execTrap imm q s
  | .csrr d n q => Sys2Proof.Machine.execCsrr d n q s
  | .csrw n a q => Sys2Proof.Machine.execCsrw n a q s
  | .csrx d n a q => Sys2Proof.Machine.execCsrx d n a q s
  | .ld w d a off nz q => Sys2Proof.Machine.execLd w d a off nz q s
  | .st w d a off q => Sys2Proof.Machine.execSt w d a off q s
  | .ldg w d a off nz q => Sys2Proof.Machine.execLdg w d a off nz q s
  | .stg w d a off q => Sys2Proof.Machine.execStg w d a off q s
  | .ldf d a off nz q => Sys2Proof.Machine.execLdf d a off nz q s
  | .ldx d a off nz q => Sys2Proof.Machine.execLdx d a off nz q s
  | .stf d a off q => Sys2Proof.Machine.execStf d a off q s
  | .setf d a off q => Sys2Proof.Machine.execSetf d a off q s
  | .clre a off q => Sys2Proof.Machine.execClre a off q s
  | .tagrd d a off q => Sys2Proof.Machine.execTagrd d a off q s
  | .ldfG d a off nz q => Sys2Proof.Machine.execLdfG d a off nz q s
  | .ldxG d a off nz q => Sys2Proof.Machine.execLdxG d a off nz q s
  | .stfG d a off q => Sys2Proof.Machine.execStfG d a off q s
  | .setfG d a off q => Sys2Proof.Machine.execSetfG d a off q s
  | .clreG a off q => Sys2Proof.Machine.execClreG a off q s
  | .tagrdG d a off q => Sys2Proof.Machine.execTagrdG d a off q s
  | .aadd d a b off nr g w64 q => Sys2Proof.Machine.execAadd d a b off nr g w64 q s
  | .amin d a b off nr g w64 q => Sys2Proof.Machine.execAmin d a b off nr g w64 q s
  | .amax d a b off nr g w64 q => Sys2Proof.Machine.execAmax d a b off nr g w64 q s
  | .aminn d a b off nr g w64 q => Sys2Proof.Machine.execAminn d a b off nr g w64 q s
  | .amaxn d a b off nr g w64 q => Sys2Proof.Machine.execAmaxn d a b off nr g w64 q s
  | .aand d a b off nr g w64 q => Sys2Proof.Machine.execAand d a b off nr g w64 q s
  | .aor d a b off nr g w64 q => Sys2Proof.Machine.execAor d a b off nr g w64 q s
  | .axor d a b off nr g w64 q => Sys2Proof.Machine.execAxor d a b off nr g w64 q s
  | .axchg d a b off nr g w64 q => Sys2Proof.Machine.execAxchg d a b off nr g w64 q s
  | .acas d a b off nr g w64 q => Sys2Proof.Machine.execAcas d a b off nr g w64 q s
  | .afadd d a b off nr g q => Sys2Proof.Machine.execAfadd d a b off nr g q s
  | .asig a b off g w64 q => Sys2Proof.Machine.execAsig a b off g w64 q s
  | .pinit d a b off g q => Sys2Proof.Machine.execPinit d a b off g q s
  | .push d a b off g q => Sys2Proof.Machine.execPush d a b off g q s
  | .pop d a off g q => Sys2Proof.Machine.execPop d a off g q s
  | .popw d a b off g q => Sys2Proof.Machine.execPopw d a b off g q s
  | .lit ty d off q => Sys2Proof.Machine.execLit ty d off q s
  | .lea d off q => Sys2Proof.Machine.execLea d off q s
  | .binit a b trap byteMode q => Sys2Proof.Machine.execBinit a b trap byteMode q s
  | .barr a b rem q => Sys2Proof.Machine.execBarr a b rem q s
  | .bwait d a b rem q => Sys2Proof.Machine.execBwait d a b rem q s
  | .btest d a rem q => Sys2Proof.Machine.execBtest d a rem q s
  | .brst a q => Sys2Proof.Machine.execBrst a q s
  | .fenceLd scope q => Sys2Proof.Machine.execFenceLd scope q s
  | .fenceSt scope q => Sys2Proof.Machine.execFenceSt scope q s
  | .fenceAll scope q => Sys2Proof.Machine.execFenceAll scope q s
  | .sinDense port a b pl g esz q => Sys2Proof.Machine.execSinDense port a b pl g esz q s
  | .sinExpand port a b pl g esz q => Sys2Proof.Machine.execSinExpand port a b pl g esz q s
  | .soutDense port a b pl g esz q => Sys2Proof.Machine.execSoutDense port a b pl g esz q s
  | .soutSparse port a b pl g esz q => Sys2Proof.Machine.execSoutSparse port a b pl g esz q s
  | .spush port a pl eor last q => Sys2Proof.Machine.execSpush port a pl eor last q s
  | .spull d port pl q => Sys2Proof.Machine.execSpull d port pl q s
  | .speek d port pl q => Sys2Proof.Machine.execSpeek d port pl q s
  | .portrst port pl sink q => Sys2Proof.Machine.execPortrst port pl sink q s
  | .portstat d port pl sink q => Sys2Proof.Machine.execPortstat d port pl sink q s
  | .cfg a p q => Sys2Proof.Machine.execCfg a p q s
  | .cfgw a b q => Sys2Proof.Machine.execCfgw a b q s
  | .cfgsync q => Sys2Proof.Machine.execCfgsync q s
  | .planeon pl q => Sys2Proof.Machine.execPlaneon pl q s
  | .planeoff pl q => Sys2Proof.Machine.execPlaneoff pl q s
  | .arbw wt pl q => Sys2Proof.Machine.execArbw wt pl q s
  | .mclaim m q => Sys2Proof.Machine.execMclaim m q s
  | .mrel m q => Sys2Proof.Machine.execMrel m q s
  | .mload a m q => Sys2Proof.Machine.execMload a m q s
  | .mstore a m q => Sys2Proof.Machine.execMstore a m q s
  | .mma x ma mb fmt q => Sys2Proof.Machine.execMma x ma mb fmt q s
  | .mtile d a b x ma fmt q => Sys2Proof.Machine.execMtile d a b x ma fmt q s
  | .accz x q => Sys2Proof.Machine.execAccz x q s
  | .accst a x fmt q => Sys2Proof.Machine.execAccst a x fmt q s
  | .accrd d b x q => Sys2Proof.Machine.execAccrd d b x q s
  | .accpeek d b x q => Sys2Proof.Machine.execAccpeek d b x q s
  | .mtrans a md ms w32 q => Sys2Proof.Machine.execMtrans a md ms w32 q s
  | .cpy a q => Sys2Proof.Machine.execCpy a q s
  | .cpyx a q => Sys2Proof.Machine.execCpyx a q s
  | .gstrm a q => Sys2Proof.Machine.execGstrm a q s
  | .coll a q => Sys2Proof.Machine.execColl a q s
  | .evpop d q => Sys2Proof.Machine.execEvpop d q s
  | .evwait d b tagged q => Sys2Proof.Machine.execEvwait d b tagged q s
  | .launch a b q => Sys2Proof.Machine.execLaunch a b q s
  | .cardstat d b q => Sys2Proof.Machine.execCardstat d b q s
  | .brow d q => Sys2Proof.Machine.execBrow d q s
  | .bemit port pl q => Sys2Proof.Machine.execBemit port pl q s
  | .bstep q => Sys2Proof.Machine.execBstep q s
  | .bread d dr dc q => Sys2Proof.Machine.execBread d dr dc q s
  | .btap port dr dc pl q => Sys2Proof.Machine.execBtap port dr dc pl q s
  | .bstat d sel q => Sys2Proof.Machine.execBstat d sel q s
  | .bend q => Sys2Proof.Machine.execBend q s
  | .bendAbort q => Sys2Proof.Machine.execBendAbort q s
  | .bseedC a q => Sys2Proof.Machine.execBseedC a q s
  | .bseedR a q => Sys2Proof.Machine.execBseedR a q s
  | .maprRange d a b q => Sys2Proof.Machine.execMaprRange d a b q s
  | .maprPage d a b q => Sys2Proof.Machine.execMaprPage d a b q s
  | .unmap d a b q => Sys2Proof.Machine.execUnmap d a b q s
  | .icinv a b scope q => Sys2Proof.Machine.execIcinv a b scope q s
  | .hitch q => Sys2Proof.Machine.execHitch q s
  | .dstep d a q => Sys2Proof.Machine.execDstep d a q s
  | .dresume d a b q => Sys2Proof.Machine.execDresume d a b q s
  | .preempt d a dbg q => Sys2Proof.Machine.execPreempt d a dbg q s
  | .keyld d a b q => Sys2Proof.Machine.execKeyld d a b q s
  | .lnkctlRead d a q => Sys2Proof.Machine.execLnkctlRead d a q s
  | .lnkctlEnable d a q => Sys2Proof.Machine.execLnkctlEnable d a q s
  | .lnkctlDisable d a q => Sys2Proof.Machine.execLnkctlDisable d a q s
  | .lnkctlReset d a q => Sys2Proof.Machine.execLnkctlReset d a q s
  | .lnkctlClear d a q => Sys2Proof.Machine.execLnkctlClear d a q s
  | .lnkctlLongReach d a b q => Sys2Proof.Machine.execLnkctlLongReach d a b q s
  | .lnkctlEncryption d a b q => Sys2Proof.Machine.execLnkctlEncryption d a b q s
  | .lnkctlReplayTimeout d a b q => Sys2Proof.Machine.execLnkctlReplayTimeout d a b q s
  | .deferredFault fe k => Sys2Proof.Machine.execDeferredFault fe k s
  | .splitPhaseReply n => Sys2Proof.Machine.execSplitPhaseReply n s
  | .bankPacket n => Sys2Proof.Machine.execBankPacket n s
  | .refusedResend n => Sys2Proof.Machine.execRefusedResend n s
  | .remoteWaitRequest n => Sys2Proof.Machine.execRemoteWaitRequest n s
  | .holdTake n => Sys2Proof.Machine.execHoldTake n s
  | .holdRelease n => Sys2Proof.Machine.execHoldRelease n s
  | .seatSave fe k => Sys2Proof.Machine.execSeatSave fe k s
  | .cardCheckpoint card => Sys2Proof.Machine.execCardCheckpoint card s
  | .quantumEnd qn => Sys2Proof.Machine.execQuantumEnd qn s
  | .nopPacket qn => Sys2Proof.Machine.execNopPacket qn s
  | .launchPacket qn => Sys2Proof.Machine.execLaunchPacket qn s
  | .transformPacket qn => Sys2Proof.Machine.execTransformPacket qn s
  | .copyPacket qn => Sys2Proof.Machine.execCopyPacket qn s
  | .waitPacket qn => Sys2Proof.Machine.execWaitPacket qn s
  | .signalPacket qn => Sys2Proof.Machine.execSignalPacket qn s
  | .waitReread qn => Sys2Proof.Machine.execWaitReread qn s
  | .nodeDispatch node => Sys2Proof.Machine.execNodeDispatch node s
  | .nodeComplete node ok => Sys2Proof.Machine.execNodeComplete node ok s
  | .regionPlace launch => Sys2Proof.Machine.execRegionPlace launch s
  | .deal launch => Sys2Proof.Machine.execDeal launch s
  | .planeFire fe => Sys2Proof.Machine.execPlaneFire fe s
  | .arbiterEpoch fe => Sys2Proof.Machine.execArbiterEpoch fe s
  | .groupRetire fe => Sys2Proof.Machine.execGroupRetire fe s
  | .stage0RowRead fe => Sys2Proof.Machine.execStage0RowRead fe s
  | .rowSliceArrival fe chan => Sys2Proof.Machine.execRowSliceArrival fe chan s
  | .emissionComplete fe => Sys2Proof.Machine.execEmissionComplete fe s
  | .rowRetire fe => Sys2Proof.Machine.execRowRetire fe s
  | .cascadeRelease casc => Sys2Proof.Machine.execCascadeRelease casc s
  | .enginePacketLanding card rcv => Sys2Proof.Machine.execEnginePacketLanding card rcv s
  | .pileOpAtHome n => Sys2Proof.Machine.execPileOpAtHome n s
  | .meldPointArrival n point => Sys2Proof.Machine.execMeldPointArrival n point s
  | .meldWindowExpiry n => Sys2Proof.Machine.execMeldWindowExpiry n s
  | .streamRelatch fe pl port => Sys2Proof.Machine.execStreamRelatch fe pl port s
  | .relatchToken ctx => Sys2Proof.Machine.execRelatchToken ctx s
  | .unmapComplete ctx => Sys2Proof.Machine.execUnmapComplete ctx s
  | .configPacketApply n => Sys2Proof.Machine.execConfigPacketApply n s
  | .portCommandComplete fe pl port => Sys2Proof.Machine.execPortCommandComplete fe pl port s
  | .sparseRowCheck fe => Sys2Proof.Machine.execSparseRowCheck fe s
  | .arrayCommandPerform fe => Sys2Proof.Machine.execArrayCommandPerform fe s
  | .mtileStep fe => Sys2Proof.Machine.execMtileStep fe s
  | .followOnMma card rcv => Sys2Proof.Machine.execFollowOnMma card rcv s
  | .cardCheck card => Sys2Proof.Machine.execCardCheck card s
  | .completionRecordPost card => Sys2Proof.Machine.execCompletionRecordPost card s
  | .eventRecordArrival n => Sys2Proof.Machine.execEventRecordArrival n s
  | .eventRecordRetry n => Sys2Proof.Machine.execEventRecordRetry n s
  | .nakReceive link ackSeq => Sys2Proof.Machine.execNakReceive link ackSeq s
  | .ackReceive link ackSeq => Sys2Proof.Machine.execAckReceive link ackSeq s
  | .riggingRoute n => Sys2Proof.Machine.execRiggingRoute n s
  | .hitchMarker job epoch cause => Sys2Proof.Machine.execHitchMarker job epoch cause s
  | .guRequest n => Sys2Proof.Machine.execGuRequest n s
  | .fillComplete gu seg wb ecc => Sys2Proof.Machine.execFillComplete gu seg wb ecc s
  | .rowSwap gu ch bank row => Sys2Proof.Machine.execRowSwap gu ch bank row s
  | .collRingStep card => Sys2Proof.Machine.execCollRingStep card s
  | .channelClosed chan => Sys2Proof.Machine.execChannelClosed chan s
  | .waitevDeadline fe k => Sys2Proof.Machine.execWaitevDeadline fe k s
  | .waitRequestReply n => Sys2Proof.Machine.execWaitRequestReply n s
  | .popwAnswer n => Sys2Proof.Machine.execPopwAnswer n s
  | .rowCopyComplete gu ch bank row => Sys2Proof.Machine.execRowCopyComplete gu ch bank row s
  | .contextBind ctx img => Sys2Proof.Machine.execContextBind ctx img s
  | .edgeCoreStart die hand => Sys2Proof.Machine.execEdgeCoreStart die hand s
  | .knock qn wptr => Sys2Proof.Machine.execKnock qn wptr s
  | .queueEnable qn => Sys2Proof.Machine.execQueueEnable qn s
  | .preemptionRequest ctx cause => Sys2Proof.Machine.execPreemptionRequest ctx cause s
  | .contextUnbind ctx => Sys2Proof.Machine.execContextUnbind ctx s
  | .contextResume ctx moves => Sys2Proof.Machine.execContextResume ctx moves s
  | .contextKill ctx => Sys2Proof.Machine.execContextKill ctx s
  | .queueDisable qn => Sys2Proof.Machine.execQueueDisable qn s
  | .queueReset qn rptr => Sys2Proof.Machine.execQueueReset qn rptr s
  | .priorityAging qn => Sys2Proof.Machine.execPriorityAging qn s
  | .stageFaultRecord fe code kind row col addr => Sys2Proof.Machine.execStageFaultRecord fe code kind row col addr s
  | .barrierArrival fe bar amount => Sys2Proof.Machine.execBarrierArrival fe bar amount s
  | .errorArrival fe bar => Sys2Proof.Machine.execErrorArrival fe bar s
  | .injectionStarvation fe => Sys2Proof.Machine.execInjectionStarvation fe s
  | .spliceFlitReceive link seq crcOk hdrOk => Sys2Proof.Machine.execSpliceFlitReceive link seq crcOk hdrOk s
  | .riggingFlitReceive link flit crcOk tagOk hdrOk => Sys2Proof.Machine.execRiggingFlitReceive link flit crcOk tagOk hdrOk s
  | .replayTimeout link => Sys2Proof.Machine.execReplayTimeout link s
  | .ackInterval link => Sys2Proof.Machine.execAckInterval link s
  | .framePad link => Sys2Proof.Machine.execFramePad link s
  | .keySoon link => Sys2Proof.Machine.execKeySoon link s
  | .keySwitch link => Sys2Proof.Machine.execKeySwitch link s
  | .linkTrained link out => Sys2Proof.Machine.execLinkTrained link out s
  | .trainingAttemptFail link => Sys2Proof.Machine.execTrainingAttemptFail link s
  | .laneFailure link ucie => Sys2Proof.Machine.execLaneFailure link ucie s
  | .ucieRetrainDone link ucie => Sys2Proof.Machine.execUcieRetrainDone link ucie s
  | .fecMarginLow link => Sys2Proof.Machine.execFecMarginLow link s
  | .lossOfSignal link => Sys2Proof.Machine.execLossOfSignal link s
  | .linkTimeout n => Sys2Proof.Machine.execLinkTimeout n s
  | .debuggerHitchRequest job => Sys2Proof.Machine.execDebuggerHitchRequest job s
  | .fillMergeWindow gu seg => Sys2Proof.Machine.execFillMergeWindow gu seg s
  | .swapWindowEnd gu => Sys2Proof.Machine.execSwapWindowEnd gu s
  | .heartbeatReceived gu => Sys2Proof.Machine.execHeartbeatReceived gu s
  | .heartbeatMissed gu => Sys2Proof.Machine.execHeartbeatMissed gu s
  | .trcmdReadTest chan => Sys2Proof.Machine.execTrcmdReadTest chan s
  | .trcmdWriteTest chan => Sys2Proof.Machine.execTrcmdWriteTest chan s
  | .trcmdPatternTest chan => Sys2Proof.Machine.execTrcmdPatternTest chan s
  | .trbcast chan v => Sys2Proof.Machine.execTrbcast chan v s
  | .trrepair chan v => Sys2Proof.Machine.execTrrepair chan v s
  | .trctlOpen chan => Sys2Proof.Machine.execTrctlOpen chan s
  | .trctlClose chan => Sys2Proof.Machine.execTrctlClose chan s
  | .handback gu => Sys2Proof.Machine.execHandback gu s
  | .pwrctlWrite v => Sys2Proof.Machine.execPwrctlWrite v s
  | .clockThrottle power temp => Sys2Proof.Machine.execClockThrottle power temp s
  | .moduleidWrite v => Sys2Proof.Machine.execModuleidWrite v s
  | .ctxctlWrite ctx v => Sys2Proof.Machine.execCtxctlWrite ctx v s
  | .routeTableWrite n v => Sys2Proof.Machine.execRouteTableWrite n v s
  | .registerWrite reg v bytes => Sys2Proof.Machine.execRegisterWrite reg v bytes s
  | .dataTokenArrival fe pl port seq words eor last => Sys2Proof.Machine.execDataTokenArrival fe pl port seq words eor last s
  | .refresh gu => Sys2Proof.Machine.execRefresh gu s
  | .handFetch => Sys2Proof.Machine.execHandFetch s
  | .handCommit => Sys2Proof.Machine.execHandCommit s
  | .mapperBind => Sys2Proof.Machine.execMapperBind s
  | .receiverRelease => Sys2Proof.Machine.execReceiverRelease s
  | .senderRelease => Sys2Proof.Machine.execSenderRelease s
  | .belayDistance => Sys2Proof.Machine.execBelayDistance s
  | .hostLinkDown => Sys2Proof.Machine.execHostLinkDown s
  | .powerGood => Sys2Proof.Machine.execPowerGood s
  | .mscFailover => Sys2Proof.Machine.execMscFailover s

end Sys2Proof.Machine
end

