-- ==== Sys2Proof/Machine/Sched.lean ====
section
/-!
DEFINITION. What happens next (DESIGN CHOICE, log 39): one interleaving of the agents of a module among those that the
manual admits (06 R101, 12 R182). An event of the agenda comes first. In a round of turns every FE issues one slot, of one seat
after another; then every agent that can go on by itself does, one event at a time; and then the next round begins.
-/

namespace Sys2Proof.Machine

/-! ### Requests, replies and records -/

/-- The event of request `n`. -/
def reqEv (n : Nat) (e : ReqEvent) : Instr :=
  match e with
  | .bank => .bankPacket n
  | .wait => .remoteWaitRequest n
  | .take => .holdTake n
  | .release => .holdRelease n
  | .gu => .guRequest n
  | .meld p => .meldPointArrival n p
  | .pile => .pileOpAtHome n
  | .rigging => .riggingRoute n

def dueReq (s : State) : Option Instr :=
  s.reqs.zipIdx.findSome? fun p => if reqReady s p.1 then some (reqEv p.2 (reqEvent s p.1)) else none

def dueReply (s : State) : Option Instr :=
  s.replies.zipIdx.findSome? fun p =>
    if !replyReady s p.1 then none
    else if isWaitReq p.1.req then some (.waitRequestReply p.2)
    else if isPopw p.1.req then some (.popwAnswer p.2)
    else some (.splitPhaseReply p.2)

def dueRec (s : State) : Option Instr :=
  s.recs.zipIdx.findSome? fun p =>
    let m := p.1
    let t := seatAt s m.fe m.seat
    if isSaved m.fe || recHeld s t then none
    else if !m.held then some (.eventRecordArrival p.2)
    else if roomFor t && !(s.recs.take p.2).any (fun x => x.fe == m.fe && x.seat == m.seat && x.held) then some (.eventRecordRetry p.2)
    else none

/-- The waiting operation whose window expires next, when it has expired (08 R141, log 22), or when all end at once. -/
def dueMeld (s : State) (all : Bool) : Option Instr :=
  let live := s.melds.zipIdx.filter fun p => (all || decide (p.1.due ≤ s.turns)) && !recvFrozen s p.1.req.ctx
  (live.foldl (fun (b : Option (MeldWait × Nat)) p => match b with
    | some q => if p.1.due < q.1.due then some p else b
    | none => some p) none).map fun p => .meldWindowExpiry p.2

/-- What is due on this module's links: flits of a splice on their way arrive; its receiver owes its transmitter a NAK or an
acknowledgement; the far side of a rigging port acknowledges whole frames (log 30), which the port completes first; and a link
that has replayed what it held is acknowledged. -/
def dueLink (s : State) : Option Instr :=
  s.links.findSome? fun e =>
    let k := e.1
    let l := e.2
    let m := seqMod k
    if decide (2 ^ 10 ≤ k) || !carries l then none
    else match l.flying, isRigging k, l.owesNak, l.owesAck with
      | f :: _, _, _, _ => some (.spliceFlitReceive (linkId s k) f.1 true true)
      | [], false, some a, _ => some (.nakReceive (linkId s k) a)
      | [], false, none, some a => some (.ackReceive (linkId s k) a)
      | [], _, _, _ =>
        if l.st == .replay then some (.ackReceive (linkId s k) ((l.mark + m - 1) % m))
        else if !isRigging k || l.buf.isEmpty then none
        else if l.enc && l.inFrame != 0 then (if sends k l then some (.framePad (linkId s k)) else none)
        else some (.ackReceive (linkId s k) ((l.seq + m - 1) % m))

/-! ### The memory edge -/

/-- The row that stands at a place of a bank: its own, or one swapped to a spare. -/
def rowOn (g : Gu) (loc : Nat) : Option Nat :=
  if loc % 2 ^ 16 < 24576 then some loc
  else (g.indir.find? fun e => e.1 / 2 ^ 16 == loc / 2 ^ 16 && e.2 + 24576 == loc % 2 ^ 16).map (·.1)

def dueGu (s : State) : Option Instr :=
  s.gus.findSome? fun e =>
    let n := e.1
    let g := e.2
    match g.fills, g.copying with
    | f :: _, _ => some (.fillComplete n f.1 false .clean)
    | [], k :: _ => some (.rowCopyComplete n (k / 2 ^ 22) (k / 2 ^ 16 % 64) (k % 2 ^ 16))
    | [], [] =>
      if !g.swapen then none
      else g.hot.findSome? fun h => (rowOn g h.1).bind fun k =>
        if rowHot g k then some (.rowSwap n (k / 2 ^ 22) (k / 2 ^ 16 % 64) (k % 2 ^ 16)) else none

def dueTrain (s : State) : Option Instr :=
  s.trains.findSome? fun e => if chanDrained s e.1 then some (.channelClosed e.1) else none

/-! ### The matrix array and the engines -/

/-- The sequencer yields: its context is being pre-empted and no hand waits at its commit behind the MTILE (19 R333). -/
def mtileYields (s : State) (f : FE) : Bool :=
  (match f.holder with
   | some c => (ctxAt s c).st == .preempting
   | none => false) &&
    !f.seats.toList.any fun t => t.hand.any (waitsAtMtile f)

def dueArray (s : State) (e : Nat × FE) : Option Instr :=
  match e.2.arrQ with
  | [] => none
  | c :: _ =>
    if !feLive s e.1 || arrBehind s e.1 c then none
    else if !isMtile c.op then some (.arrayCommandPerform e.1)
    else if mtileYields s e.2 then none
    else some (.mtileStep e.1)

/-- A receiver whose follow-on can enter its queue now. -/
def followReady (s : State) (c : Card) (r : Receiver) : Bool :=
  !r.failed && !r.fired && c.want == 2 && !c.checkpointed && r.whole &&
    (match rcvFe s c r with
     | some fe => !mtileBusy (feAt s fe)
     | none => true)

/-- What a stream job does next, if anything. -/
def jobReady (s : State) (c : Card) : Bool :=
  if jobNeedsLatch c then
    c.parked.isEmpty && (match latchNew s noFe (cardDie c) c.ctx (jobVa c) { r := true } with
     | .ok _ | .error (.refuse _) => true
     | .error _ => false)
  else
    match streamTarget s c with
    | none => true
    | some (fe, pl, port) =>
      jobRoom (portOf (feAt s fe) pl port) c &&
        (decide (jobRows c.w ≤ c.prog) || jobRowWords c.w == 0 ||
          ((latchHas c.latch (jobVa c)).isSome && (jobSpan s c).stop != .wait))

def isNode (c : Card) : Bool := match c.poster with
  | .node _ => true
  | .seat _ _ => false

def dueCard (s : State) : Option Instr :=
  s.cards.findSome? fun e =>
    let id := e.1
    let c := e.2
    if jobFrozen s c.ctx then none
    else if cardOver c then (if isNode c && c.done then none else some (.completionRecordPost id))
    else if c.checkpointed then none
    else if (ctxAt s c.ctx).st == .preempting && !cardAwaited s c && atBoundary c then some (.cardCheckpoint id)
    else if !c.checked || c.again then
      (if cardWaits s id c then none else some (.cardCheck id))
    else if cardKind c.w == 4 then (if ringState s c != 0 then some (.collRingStep id) else none)
    else if cardKind c.w == 3 then (if jobReady s c then some (.enginePacketLanding id 0) else none)
    else c.rcv.zipIdx.findSome? fun p =>
      if landReady s c p.2 p.1 then some (.enginePacketLanding id p.2)
      else if followReady s c p.1 then some (.followOnMma id p.2)
      else none

/-! ### Ports and planes -/

/-- Whether the command at a port's head can translate now, or fail now. -/
def relatchReady (s : State) (fe pl ix : Nat) (c : StreamCmd) : Bool :=
  c.parked.isNone && headRuns (feAt s fe) pl ix c && (match latchNew s fe (feDie fe) c.ctx (cmdVa c) (portNeed ix) with
    | .ok _ => true
    | .error (.refuse code) =>
      (c.dropped && code == Code.dataPage) || decide (16 ≤ ix) || decide ((chanOf (feAt s fe) pl ix).length < 4)
    | .error _ => false)

def duePort (s : State) (fe pl : Nat) (e : Nat × PortState) : Option Instr :=
  let ix := e.1
  let work : Option Instr :=
    if (if ix < 16 then sourceReady s fe pl ix else sinkReady s fe pl (ix - 16)) then some (.portCommandComplete fe pl ix) else none
  match e.2.queue with
  | c :: _ => if needsLatch c then (if relatchReady s fe pl ix c then some (.streamRelatch fe pl ix) else work) else work
  | [] => work

def duePorts (s : State) (e : Nat × FE) : Option Instr :=
  (List.range 4).findSome? fun pl => (planeAt e.2 pl).ports.findSome? (duePort s e.1 pl)

def dueStaging (s : State) (e : Nat × FE) : Option Instr :=
  match e.2.staging.port with
  | none => none
  | some (pl, port) =>
    if (portOf e.2 pl (portIx true port)).queue.isEmpty || (e.2.staging.eorV && e.2.staging.eorM && (e.2.staging.bad || !stagingWaits s e.1)) then
      some (.sparseRowCheck e.1)
    else none

def duePlanes (s : State) (e : Nat × FE) : Option Instr :=
  if 1024 ≤ e.2.arb.cycle then some (.arbiterEpoch e.1)
  else if (List.range 4).any (runnable e.2) || lineOuts.any (fun o => (lineReady s e.1 o.1 o.2).isSome) then
    some (.planeFire e.1)
  else none

/-! ### Cascades -/

/-- Stage 0 of a wrapped cascade of unknown length waits for its BSEED.r rows while its seat is at work (07 R120). -/
def awaitsSeed (s : State) (fe : Nat) (b : Bight) (c : Cascade) : Bool :=
  c.rpol == 3 && c.nrows == 0 && decide (b.seeded < c.h) && (seatAt s fe b.seat).st != .waiting

/-- A row of the input lattice that cannot be read yet. -/
def sliceWaits (s : State) (fe : Nat) (b : Bight) (c : Cascade) : Bool :=
  b.parked.isSome || (rowSpan s fe c b false (inputRow c b)).stop == .wait

/-- A row of the output lattice that cannot be written yet. -/
def egressWaits (s : State) (fe : Nat) (b : Bight) (c : Cascade) : Bool :=
  match b.emis with
  | e :: _ => rowFull b c && (b.parkedOut.isSome || (rowSpan s fe c b true e.row).stop == .wait)
  | [] => false

def dueBight (s : State) (e : Nat × FE) : Option Instr :=
  let fe := e.1
  match liveBight s fe with
  | none => if retireReady s fe then some (.rowRetire fe) else none
  | some (b, c) =>
    if stage0Ready s fe && !awaitsSeed s fe b c && !sliceWaits s fe b c then some (.stage0RowRead fe)
    else if sliceReady s fe 0 then some (.rowSliceArrival fe 0)
    else if sliceReady s fe 1 then some (.rowSliceArrival fe 1)
    else if sliceReady s fe 2 then some (.rowSliceArrival fe 2)
    else if emissionReady s fe && !egressWaits s fe b c then some (.emissionComplete fe)
    else if retireReady s fe then some (.rowRetire fe)
    else none

def dueCasc (s : State) : Option Instr :=
  s.cascades.findSome? fun e => if releaseReady s e.2 then some (.cascadeRelease e.1) else none

/-! ### Queues, nodes and launches -/

/-- The event of the packet at a queue's RPTR. -/
def packetEv (q op : Nat) : Instr :=
  match op with
  | 1 => .launchPacket q
  | 2 => .transformPacket q
  | 3 => .copyPacket q
  | 4 => .waitPacket q
  | 5 => .signalPacket q
  | _ => .nopPacket q

def dueQueue (s : State) : Option Instr :=
  let waits := (bestPending s).isSome
  if waits && decide (s.slots.length < 32) then some .mapperBind
  else (s.queues.findSome? fun e => if owesReady s e.1 then some (.waitReread e.1) else none).orElse fun _ =>
    s.slots.findSome? fun q =>
    let x := queueAt s q
    if waits && x.st == .active && decide (256 ≤ x.quantum) then some (.quantumEnd q)
    else if frontReady s q then some (packetEv q (((packetAt s q).map (·.op)).getD 0))
    else if rereadReady s q then some (.waitReread q)
    else none

def dueNode (s : State) : Option Instr :=
  s.graph.findSome? fun n =>
    if nodeReady s n then some (.nodeDispatch n.id)
    else if n.dispatched && (nodeOver s n).isSome then some (.nodeComplete n.id true)
    else none

/-- What a launch can do next: its record is read, a module that cannot be reached fails its part, a set of groups is
placed. -/
def dueLaunch (s : State) : Option Instr :=
  s.launches.findSome? fun e =>
    let l := e.2
    match l.unread.isSome, l.remote.find? (moduleLost s) with
    | true, _ => if readReady s l then some (.regionPlace e.1) else none
    | false, some m => some (.groupRetire (2 ^ 24 + 2 ^ 10 * e.1 + m))
    | false, none =>
      if l.waiting.isEmpty || !mayPlace s l then none
      else if l.dealMode then (if (dealSet e.1 (nextSet l) none s).isSome then some (.deal e.1) else none)
      else if (placeAll (placeRegion e.1) (nextSet l) s).isSome then some (.regionPlace e.1)
      else none

def dueRetire (s : State) (e : Nat × FE) : Option Instr :=
  let used := (List.range 4).filter fun k => (seatOf e.2 k).st != .free
  match used with
  | [] => none
  | k :: _ =>
    if isEdge e.1 || jobFrozen s (seatOf e.2 k).ctx || !used.all (seatDone s e.1) then none else some (.groupRetire e.1)

/-! ### Contexts and hitches -/

/-- A context that can go on; SEAT_SAVE of one that has no seat left names no FE. -/
def dueCtx (s : State) : Option Instr :=
  s.ctxs.findSome? fun e =>
    if saveReady s e.1 then
      (match seatsOf s e.1 with
       | p :: _ => some (.seatSave p.1 p.2)
       | [] => some (.seatSave noFe 0))
    else if (popToken e.2.unmaps).isSome then some (.relatchToken e.1)
    else if (unmapReady s e.1).isSome then some (.unmapComplete e.1)
    else none

/-- A deferred fault of a WAITING seat is taken at once (17 R287). -/
def dueDeferred (e : Nat × FE) : Option Instr :=
  (List.range 4).findSome? fun k =>
    let t := seatOf e.2 k
    if t.st == .waiting && !t.deferred.isEmpty then some (.deferredFault e.1 k) else none

def dueHitch (s : State) : Option Instr :=
  match s.hitch.markers with
  | m :: _ => some (.hitchMarker m.1 m.2.1 m.2.2)
  | [] => (s.hitch.spread.find? fun m => !hitchBusy s m.1).map fun m => .hitchMarker m.1 m.2.1 m.2.2

/-- The senders of a released job follow its receivers; the receivers of the armed release that comes next are released at its
time, or when nothing else can go on. -/
def dueRelease (s : State) (anyTime : Bool) : Option Instr :=
  if (nextRelease s true).isSome then some .senderRelease
  else (nextRelease s false).bind fun x => if anyTime || decide (x.time.toNat ≤ s.time) then some .receiverRelease else none

/-! ### The agents together -/

/-- An FE's own agents: its deferred faults, array, bight unit, ports, staging buffer, planes, and its retirement. A hitch
stops those that it freezes (11 R173). -/
def dueFe (s : State) (e : Nat × FE) : Option Instr :=
  if isSaved e.1 then none
  else
    (dueDeferred e).orElse fun _ =>
    if feLive s e.1 then
      (dueArray s e).orElse fun _ => (dueBight s e).orElse fun _ => (duePorts s e).orElse fun _ =>
      (dueStaging s e).orElse fun _ => (duePlanes s e).orElse fun _ => dueRetire s e
    else none

/-- The next event of an agent that can go on by itself. -/
def due (s : State) : Option Instr :=
  (dueHitch s).orElse fun _ => (dueReq s).orElse fun _ => (dueReply s).orElse fun _ => (dueRec s).orElse fun _ =>
  (dueLink s).orElse fun _ => (dueMeld s false).orElse fun _ => (dueGu s).orElse fun _ => (dueTrain s).orElse fun _ =>
  (if s.cfgs.isEmpty then none else some (.configPacketApply 0)).orElse fun _ => (dueCard s).orElse fun _ =>
  (s.fes.findSome? (dueFe s)).orElse fun _ => (dueCasc s).orElse fun _ => (dueQueue s).orElse fun _ =>
  (dueNode s).orElse fun _ => (dueLaunch s).orElse fun _ => (dueCtx s).orElse fun _ => dueRelease s false

/-! ### Seats in turn (06 R101) -/

/-- The instruction of the slot that a hand issues next; past its last slot it commits. -/
def slotInstr (h : Hand) : Instr :=
  match h.slots[h.slot]? with
  | none => .handCommit
  | some w =>
    match decode w.lo w.hi with
    | .ok i => i
    | .error _ => .handCommit

/-- A seat that issues now: it fetches a hand or issues a slot of one. -/
def seatGoes (t : Seat) : Bool := (t.st == .running || t.st == .loaded) && !t.hand.any (·.stalled)

/-- A seat that waits or stalls, and tries again when its turn comes. -/
def seatPolls (t : Seat) : Bool := (t.st == .waiting && t.hand.isSome) || (t.st == .running && t.hand.any (·.stalled))

def seatInstr (t : Seat) : Instr := match t.hand with
  | some h => slotInstr h
  | none => .handFetch

/-- A seat that takes turns. -/
def seatReady (t : Seat) : Bool := seatGoes t || seatPolls t

/-- An FE with a seat that takes turns. -/
def feReady (e : Nat × FE) : Bool := !isSaved e.1 && e.2.seats.toList.any seatReady

/-- The turn of an FE: of its ready seats the first after the one that issued last issues one slot, and one that has yielded is
passed over for this turn (06 R101, 16 R265). -/
def feTurn (fe : Nat) (s : State) : Option (Instr × State) :=
  let f := feAt s fe
  let order := ([f.issued + 1, f.issued + 2, f.issued + 3, f.issued + 4].map (· % 4)).filter fun k => seatReady (seatOf f k)
  match order with
  | [] => none
  | k0 :: _ =>
    let k := (order.find? fun k => !(seatOf f k).passed).getD k0
    let s := each (order.takeWhile (· != k) ++ [k]) (fun j => modSeat fe j fun t => { t with passed := false }) s
    some (seatInstr (seatAt s fe k), { modFe fe (fun f => { f with issued := k }) s with curFe := fe, curSeat := k })

/-- The seats that take turns, in order. -/
def turnSeats (s : State) : List (Nat × Nat) :=
  s.fes.flatMap fun e => if isSaved e.1 then [] else (List.range 4).filterMap fun k =>
    if seatReady (seatOf e.2 k) then some (e.1, k) else none

/-- What happens once per round of turns: a refused request is sent again (08 R129), and, when every seat waits, time
passes: a meld window, the armed release, the deadline of a WAITEV, or the epoch that a new power mode waits for. -/
def roundEvent (s : State) (l : List (Nat × Nat)) : Option Instr :=
  ((findIdx (mayResend s) s.refused).map .refusedResend).orElse fun _ =>
  if l.any fun p => seatGoes (seatAt s p.1 p.2) then none
  else (dueMeld s true).orElse fun _ => (dueRelease s true).orElse fun _ =>
    (l.findSome? fun p => match waitevDl (seatAt s p.1 p.2) with
      | some d => if s.time < d.toNat then some (.waitevDeadline p.1 p.2) else none
      | none => none).orElse fun _ => if s.pwrNow == s.pwrMode then none else some (.arbiterEpoch edgeBase)

/-- The FE that comes after number `n` in the round, and its turn. -/
def turnAfter (n : Nat) (s : State) : Option (Instr × State) :=
  (s.fes.find? fun e => decide (n < e.1) && feReady e).bind fun e => feTurn e.1 s

/-- A new round of turns begins, with a cycle of every epoch. -/
def newRound (s : State) : Option (Instr × State) :=
  (s.fes.find? feReady).bind fun e => feTurn e.1 (each s.fes (fun e t => if isSaved e.1 then t else countCycle e.1 t) s)

/-- A round is over: an event of the round comes, unless it has just done so, and then the next round. The number of no FE stands
for the FE in turn meanwhile. -/
def nextRound (s : State) : Option (Instr × State) :=
  let l := turnSeats s
  match (if s.curFe == noFe && !l.isEmpty then none else roundEvent s l) with
  | some i => some (i, { s with curFe := noFe, curSeat := 0 })
  | none => newRound s

/-- The event that comes next, with the state it is to act on; `none` when nothing in the module can go on. -/
def nextInstr (s : State) : Option (Instr × State) :=
  match s.agenda with
  | i :: rest => some (i, { s with agenda := rest })
  | [] =>
    if s.given then some (seatInstr (cur s), { s with given := false })
    else (turnAfter s.curFe s).orElse fun _ =>
      match due s with
      | some i => some (i, s)
      | none => nextRound s

end Sys2Proof.Machine
end

