-- ==== Sys2Proof/Machine/Step.lean ====
section
/-!
DEFINITION. One step of the machine: the event or instruction that comes next, performed.
-/

namespace Sys2Proof.Machine

/-- One step. A state in which nothing can go on by itself is its own next state: the module waits for an event from
outside. -/
def step (s : State) : Host.Outcome State Fault Refusal :=
  if s.curSeat < 4 then
    match nextInstr s with
    | some (i, t) => exec i t
    | none => .next s
  else .fault .noSuchSeat

/-- The state in which the next step issues the instruction with the bits `w`: the seat in turn is RUNNING, with a fetched
hand of this one slot before it, it has the turn, and no event from outside comes first (log 7). -/
def State.withFetchWord (s : State) (nbits w : Nat) : State :=
  let k := if s.curSeat < 4 then s.curSeat else 0
  let t := seatAt s s.curFe k
  let v := w % 2 ^ nbits
  let hand : Hand := {
    addr := t.pc, next := t.pc + 16, slots := [{ lo := BitVec.ofNat 32 v, hi := BitVec.ofNat 32 (v / 2 ^ 32) }]
    work := t.arch }
  { modSeat s.curFe k (fun t => { t with st := .running, hand := some hand }) s with curSeat := k, given := true, agenda := [] }

end Sys2Proof.Machine
end

