-- ==== Sys2Proof/Safety.lean ====
section
/-!
DEFINITION. What counts as a safe run, and the terms in which the statements speak: a state that keeps the forms which the
operations rely on, a step that goes on from it, a seat about to issue a slot, and the state in which that slot is over.
-/

namespace Sys2Proof

open Machine

/-- Memory and tags are in canonical form, and the seat in turn is a seat that an FE has (02 R18). -/
def Inv (s : State) : Prop :=
  Memory.wf s.mem = true ∧ KV.wf false s.tags = true ∧ s.curSeat < 4

/-- The machine goes on from `s`. -/
def GoesOn (s : State) : Prop := ∃ t, step s = .next t

/-- The seat in turn is about to issue a slot of its hand `h` that executes under the selector `q`, the slot's weight `w` has
been counted or can be without a BELAY_DISTANCE (04 R60, 14 R220), and the walks of earlier slots are done. -/
structure Issues (s : State) (h : Hand) (q : Sel) (w : Nat) : Prop where
  seat : s.curSeat < 4
  hand : (cur s).hand = some h
  on : selOn h q = true
  room : h.counted = true ∨ h.work.belayEn = false ∨ (cur s).belayCnt.toNat + w ≤ h.work.belayMax.toNat
  walks : h.walked = []

/-- BELAYCNT once the weight of the slot has been counted; it stops at 0xFFFF (04 R61). -/
def counts (s : State) (h : Hand) (w : Nat) : BitVec 16 :=
  if h.counted then (cur s).belayCnt else BitVec.ofNat 16 (Nat.min ((cur s).belayCnt.toNat + w) 0xFFFF)

/-- The state that the instruction of the slot sees: its weight has been counted. -/
def seen (w : Nat) (s : State) (h : Hand) : State :=
  if h.counted then s
  else modCur (fun t => { t with belayCnt := counts s h w, hand := some { h with counted := true } }) s

/-- A hand at its next slot. -/
def advance (h : Hand) : Hand :=
  { h with slot := h.slot + 1, counted := false, entered := false, stalled := false, asked := none, grant := none }

/-- The page-table walks `l` have been made: the FE in turn keeps their translations, and the gather units have read the
table entries (09 R151, 13 R200). No walk, no change. -/
def walksDone (l : List Tlb) (s : State) : State :=
  each l (fun t => walkTouch t.ctx t.base.toNat) (modFe s.curFe (fun f => { f with tlb := cacheXlat l f.tlb }) s)

/-- The state when the slot is over: its weight has been counted, the walks of the hand, which the instruction has made
`h'`, are done, and the seat in turn is at that hand's next slot. Nothing else has changed. -/
def slotDone (w : Nat) (s : State) (h h' : Hand) : State :=
  modCur (fun t => { t with hand := t.hand.map advance, st := if t.st == .waiting then .running else t.st })
    (walksDone h'.walked (modCur (fun t => { t with belayCnt := counts s h w, hand := some { h' with counted := true, walked := [] } }) s))

/-- Issued under `q` with weight `w`, the instruction `i` makes its hand `f`, of the state as it stands with the weight
counted and the hand, and completes: the seat goes on to its next slot, and nothing else changes. -/
def Does (w : Nat) (i : Instr) (q : Sel) (f : State → Hand → Hand) : Prop :=
  ∀ (s : State) (h : Hand), Issues s h q w →
    exec i s = .next (slotDone w s h (f (seen w s h) { h with counted := true }))

/-- The hand with the register `d` at the value `v`. -/
def setS (d : Reg) (v : W64) (h : Hand) : Hand := { h with work := { h.work with s := h.work.s.setIfInBounds d.toNat v } }


/-- `h'` is `h` with the predicate `p` at the value `v`: p0 is never written, and every other bit stays (00 R6). -/
def SetP (p : Pred) (v : Bool) (h h' : Hand) : Prop :=
  ∃ r : BitVec 8, h' = { h with work := { h.work with p := r } } ∧
    ∀ k < 8, r.getLsbD k = if k = p.toNat ∧ p ≠ 0 then v else h.work.p.getLsbD k

/-- Issued under `q` with weight `w`, the instruction `i` sets the predicate `p` to `v`, and nothing else. -/
def SetsPred (w : Nat) (i : Instr) (q : Sel) (p : Pred) (v : Hand → Bool) : Prop :=
  ∀ (s : State) (h : Hand), Issues s h q w → ∃ h', SetP p (v h) h h' ∧ exec i s = .next (slotDone w s h h')

/-- The relations of CMP and CMPI by their codes: eq, ne, lt, le, gt, ge (15 R247). -/
def relation (cc : Nat) (x y : Int) : Bool :=
  match cc with
  | 0 => decide (x = y)
  | 1 => decide (x ≠ y)
  | 2 => decide (x < y)
  | 3 => decide (x ≤ y)
  | 4 => decide (x > y)
  | _ => decide (x ≥ y)

/-- The hand with a fault of its current slot recorded; an earlier one stands (00 R8). -/
def recorded (h : Hand) (code : BitVec 8) (info addr : W64) : Hand :=
  { h with flt := h.flt.or (some { code := code, slot := BitVec.ofNat 7 h.slot, info := info, addr := addr }) }

/-- The hand with one more effect queued for its commit (04 R57). -/
def queued (h : Hand) (e : Eff) : Hand := { h with effects := h.effects ++ [e] }

/-- The request that the seat in turn sends for its hand. -/
def request (s : State) (h : Hand) (va : W64) (pa : Nat) (op : ReqOp) (land : Option Nat) : Req :=
  { id := s.nextId, born := s.nextId, ctx := (cur s).ctx, fe := s.curFe, seat := s.curSeat, hand := h.addr, va := va, pa := pa, op := op,
    land := land }

/-- DBGCTL watches neither loads nor stores (11 R171). -/
def Unwatched (h : Hand) : Prop := h.work.dbgctl.extractLsb' 10 2 = 0

/-- What the walk meets that translates an address of the seat in turn: it goes on, waits or is refused (10 R166, 13 R205). -/
def walkOf (s : State) (va : W64) : Meets := walkMeets s (feAt s s.curFe).tlb (feDie s.curFe) (cur s).ctx va.toNat

/-- A global access of the seat in turn passes its checks: it is aligned, its walk can be made, and it translates to `pa` with
the permissions it needs; the page-table walks it made are `new` (09 R148). -/
def Reaches (s : State) (va : W64) (al : Nat) (need : Need) (bar : Bool) (pa : Nat) (new : List Tlb) : Prop :=
  va.toNat % al = 0 ∧ walkOf s va = .go ∧ dataXlat s (feAt s s.curFe).tlb (cur s).ctx va.toNat need bar = (.ok pa, new)

/-- A landing area of `n` bytes is aligned and inside the scratchpad (17 R286). -/
def Lands (l : W64) (n : Nat) : Prop := l.toNat % n = 0 ∧ l.toNat + n ≤ 0x60000

/-- The seat in turn can wait in WAITING: it is not being stepped, its context is neither being pre-empted nor STOPPED and its
job is not frozen (04 R63, R73, 11 R173, R177), and no line of a page table is about to fail (13 R205). -/
def MayWait (s : State) : Prop :=
  (cur s).stepping = false ∧ (ctxAt s (cur s).ctx).st ∉ ([.preempting, .stopped] : List CtxState) ∧ jobFrozen s (cur s).ctx = false ∧
    ∀ e ∈ s.gus, e.2.ecc = []

/-- Of the events of the seat in turn that are still to be performed, none acts on the `n` bytes of its FE from `off` on, and none
is an acquire: what the seat does there comes behind nothing (12 R184, R189, R190). -/
def Apart (s : State) (off n : Nat) : Prop :=
  ∀ x ∈ unperformed s, sameSeat x s.curFe s.curSeat = true → x.acq = false ∧ touches x (ownPa s s.curFe off) n = false

/-- No request stands at the bank for the word of the FE in turn at `pa`, and none holds it. -/
def Uncontended (s : State) (pa : Nat) : Prop :=
  (∀ w ∈ (feAt s s.curFe).waits, waiterPa w ≠ pa) ∧ (∀ x ∈ (feAt s s.curFe).holds, x.pa ≠ pa)

/-- The slot has not been reached before: it has no answer and has not entered a wait. -/
def Fresh (h : Hand) : Prop := h.flt = none ∧ h.entered = false ∧ h.grant = none ∧ h.asked = none

/-- The seat in turn runs a stage of the cascade `c`, whose bight unit `b` has no fault, and its hand has queued nothing
yet (07 R113). -/
structure OnStage (s : State) (h : Hand) (b : Bight) (c : Cascade) : Prop where
  unit : bightAt s s.curFe = some b
  casc : KV.find b.casc s.cascades = some c
  seat : b.seat = s.curSeat
  clean : b.flt = none
  first : h.effects = []

/-- A reply to a request, as its home sends it: with its whole way before it. -/
def replyTo (r : Req) (b : ReplyBody) : Reply := { req := { r with hop := 0, flit := none }, body := b }

/-- Request `n` in flight is `r`, of a seat of this module; it stands in no flit and nothing comes before it (12 R189, 25 R388). -/
structure InFlight (s : State) (n : Nat) (r : Req) : Prop where
  flight : s.reqs[n]? = some r
  free : r.flit = none
  here : r.far = none
  next : inOrder s r = true

/-- Request `n` in flight is `r`, and it goes from here, over no link, to the bank units of FE `fe`, which its context holds
(08 R129, 04 R69). -/
structure AtBank (s : State) (n : Nat) (r : Req) (fe : Nat) : Prop extends InFlight s n r where
  near : reqRoute s r = []
  own : ownModule s r.pa = true
  home : paClass r.pa = 1 ∧ feOfPa r.pa = some fe
  holder : (feAt s fe).holder = some r.ctx

/-- Memory of `t` is that of `s` but for `n` bytes from address `a` on, which hold the low bytes of `v`. -/
def Wrote (s t : State) (a n v : Nat) : Prop :=
  ∀ x, memByte t.mem x = if a ≤ x ∧ x < a + n then BitVec.ofNat 8 (v / 256 ^ (x - a)) else memByte s.mem x

/-- The signed value of the low `w` bits of a number. -/
def signedOf (w x : Nat) : Int := (BitVec.ofNat w x).toInt

/-- The new value of an integer atomic of `w` bits by its code (17 R292, 15 R251). -/
def atomicResult (fn w old v v2 : Nat) : Nat :=
  match fn with
  | 1 => if signedOf w v < signedOf w old then v else old
  | 2 => if signedOf w old < signedOf w v then v else old
  | 3 => Nat.min old v
  | 4 => Nat.max old v
  | 5 => old &&& v
  | 6 => old ||| v
  | 7 => old ^^^ v
  | 8 => v
  | 9 => if old = v then v2 else old
  | _ => (old + v) % 2 ^ w

/-- The seat in turn has issued every slot of its hand `h`, which contains no row instruction, holds nothing and has not begun to
commit; the seat is not being stepped (04 R57). -/
structure AtCommit (s : State) (h : Hand) : Prop where
  seat : s.curSeat < 4
  hand : (cur s).hand = some h
  ended : h.slots.length ≤ h.slot
  plain : hasRowInstr h = false ∧ h.holds = [] ∧ h.popws = [] ∧ h.asked = none ∧ h.entered = false
  free : (cur s).stepping = false
  begun : h.committing = false

/-- No loop of the hand is active (16 R260). -/
def NoLoops (h : Hand) : Prop := ∀ n : Fin 3, h.work.lc[n].active = false

/-- The seat once its hand has committed with the registers `a` and goes on at `pc`. -/
def committed (a : Arch) (pc : W64) (t : Seat) : Seat :=
  { t with st := .running, hand := none, arch := a, pc := pc, hdrOnly := false }

/-- The fault registers that a fault `f`, or a trap, of the hand at `hand` leaves (04 R74); the others stay. -/
def faulted (f : FaultRec) (trap : Bool) (hand ret : W64) (a : Arch) : Arch :=
  { a with
    faultcode := BitVec.ofNat 64 ((if trap then 2 ^ 15 else 0) + f.slot.toNat * 256 + f.code.toNat)
    faultinfo := f.info, faultaddr := f.addr, faulthand := hand, rethand := ret }

/-- A fault or trap of the seat in turn starts no hitch wave, and its context is not being pre-empted (04 R73, R75). -/
def Calm (s : State) (a : Arch) (code : BitVec 8) : Prop :=
  a.dbgctl.getLsbD 0 = false ∧ code ≠ 0x61 ∧ (ctxAt s (cur s).ctx).st ≠ .preempting ∧ (cur s).stepping = false

/-- Everything that the seat in turn has sent is performed and answered (12 R189). -/
def Performed (s : State) : Prop := ∀ x ∈ awaiting s, sameSeat x s.curFe s.curSeat = false

/-- The bank units and the port reservations of the FE in turn as the abandonment of its seat's hand leaves them. -/
def NoClaims (s : State) : Prop :=
  (feAt s s.curFe).waits = [] ∧ (feAt s s.curFe).holds = [] ∧ ∀ pl : Fin 4, (feAt s s.curFe).planes[pl].ports = []

/-- The words of the slots lie in memory from address `a` on (14 R225). -/
def SlotsAt (m : List Host.Cell) : Nat → List SlotWords → Prop
  | _, [] => True
  | a, w :: rest =>
    w.lo = BitVec.ofNat 32 (rdBytes m a 4) ∧
    if 0x28 ≤ w.lo.toNat / 2 ^ 26 then w.hi = BitVec.ofNat 32 (rdBytes m (a + 4) 4) ∧ SlotsAt m (a + 8) rest
    else w.hi = 0 ∧ SlotsAt m (a + 4) rest

/-- 16 R280, 03 R40: a float instruction whose result has the code and rounding state `x` under the hand's FPCTL and
generator. With no enabled condition among its flags it writes the code, zero above bit 31, ORs its flags into FPFLAGS and
leaves the generator where its draws have brought it; with one it records the fault of the first enabled condition, in
the order NV, DZ, OF, and changes nothing else. -/
def floatDone (d : Reg) (x : Hand → Nat × Rnd) (w : Nat) (i : Instr) (q : Sel) : Prop :=
  ∀ (s : State) (h : Hand), Issues s h q w →
    let r := x h
    let nv := h.work.fpctl.getLsbD 5 && decide (r.2.fl % 2 = 1)
    let dz := h.work.fpctl.getLsbD 6 && decide (r.2.fl / 2 % 2 = 1)
    let ovf := h.work.fpctl.getLsbD 4 && decide (r.2.fl / 4 % 2 = 1)
    let fault (c : BitVec 8) : Hand :=
      { h with flt := h.flt.or (some { code := c, slot := BitVec.ofNat 7 h.slot, info := 0, addr := 0 }) }
    exec i s = .next (slotDone w s h
      (if nv then fault 0x21 else if dz then fault 0x22 else if ovf then fault 0x20
       else setS d (BitVec.ofNat 64 r.1) { h with work := { h.work with
         fpflags := h.work.fpflags ||| BitVec.ofNat 64 r.2.fl, srseed := r.2.gen } }))

end Sys2Proof
end

