-- ==== Sys2Proof/Certificates/Slice0/Obligations.lean ====
section
/-!
DEFINITION. The statements about the machine, in the order of OBLIGATIONS.json: encodings, steps, each family of
instructions, the events of the machine, and the invariant that every step keeps.
-/

open Sys2Proof Sys2Proof.Machine

/-! ### Encodings -/

/-- 14 R217 to R221: the bytes of the words that encode a well-formed instruction decode to that instruction, with every
operand at every value and any wave tags, and to the bytes after it. -/
def Obligations.EncodeDecodeRoundTrip : Prop :=
  ∀ (i : Instr) (v : Wave) (rest : List Byte), i.event = false → i.wf = true →
    decodeBytes ((encode i v).flatMap (fun w => natBytes 4 w.toNat) ++ rest) = .ok (i, rest)

/-- 14 R217, R219, 15 R242: a word pair that decodes gives a well-formed instruction that a hand can hold, and the encoder
gives its words back, its wave tags included: no reserved bit is dropped and no two instructions share a word. The one
exception is the register sb of an LNKCTL whose operation has no second operand, which the model reads as ignored (log 41).
A major that no table assigns is ILLEGAL_OPCODE. -/
def Obligations.DecodeEncodeRoundTrip : Prop :=
  (∀ (lo hi : W32) (i : Instr), decode lo hi = .ok i →
    i.wf = true ∧ i.event = false ∧
    ((∀ d a q, i ∉ ([.lnkctlRead d a q, .lnkctlEnable d a q, .lnkctlDisable d a q, .lnkctlReset d a q, .lnkctlClear d a q] :
        List Instr)) → encode i (waveOf hi) = if isLong lo then [lo, hi] else [lo])) ∧
  ∀ lo hi : W32, majorOf lo ∈ [0x0D, 0x0E, 0x0F, 0x15, 0x16, 0x17, 0x1F, 0x21, 0x22, 0x23, 0x24, 0x25, 0x26, 0x27, 0x37, 0x38,
    0x39, 0x3A, 0x3B, 0x3C, 0x3D, 0x3E, 0x3F] → decode lo hi = .error .illegalOpcode

/-- 16 R257 to R274, R282, 15 R242: words that the spec writes out, and words that it refuses. -/
def Obligations.SpecWordsDecode : Prop :=
  decode 0x60000001 0 = .ok (.br 0 1) ∧ decode 0x70000020 0 = .ok (.ret 0) ∧ decode 0x68000031 0 = .ok (.skip 3 1) ∧
  decode 0x6C008000 0 = .ok (.loop 0 2 0 0) ∧ decode 0x1471C010 0 = .ok (.addi 7 7 1 0) ∧
  decode 0x4C204020 0 = .ok (.fcvt 2 0 2 1 0) ∧ decode 0x34000000 0 = .error .illegalOpcode ∧
  decode 0x00000100 0 = .error .reservedField ∧ decode 0x4C204880 0 = .error .illegalOpcode

/-! ### Steps -/

/-- 04 R57, 06 R101: a step of the seat that has the turn is the instruction which the words of its hand's next slot decode to,
performed on the state as it stands with the turn spent; past the last slot it is the commit of the hand, and with no hand in
flight the fetch of the next. With no turn given, the next FE of the round that has a ready seat gives it to the first ready
one after the seat that issued last, which issues one slot. An event that comes first is performed on the state without it; and
a seat that no FE has stops the machine. The order of events, seats and agents is the model's choice (log 39). -/
def Obligations.StepRunsTheDecodedSlot : Prop :=
  ∀ (s : State) (h : Hand),
    let runs (h : Hand) (t : State) : Prop :=
      (∀ w i, h.slots[h.slot]? = some w → decode w.lo w.hi = .ok i → step s = exec i t) ∧
      (h.slots.length ≤ h.slot → step s = exec .handCommit t)
    (s.curSeat < 4 → s.agenda = [] → s.given = true →
      ((cur s).hand = some h → runs h { s with given := false }) ∧
      ((cur s).hand = none → step s = exec .handFetch { s with given := false })) ∧
    (∀ e n, s.curSeat < 4 → s.agenda = [] → s.given = false → n < 4 →
      s.fes.find? (fun x => decide (s.curFe < x.1) && feReady x) = some e →
      let k (m : Nat) : Nat := ((feAt s e.1).issued + 1 + m) % 4
      (∀ m < n, seatReady (seatAt s e.1 (k m)) = false) → seatReady (seatAt s e.1 (k n)) = true →
      (seatAt s e.1 (k n)).passed = false →
      let t : State := { modFe e.1 (fun f => { f with issued := k n }) (modSeat e.1 (k n) (fun t => { t with passed := false }) s) with
        curFe := e.1, curSeat := k n }
      ((seatAt s e.1 (k n)).hand = some h → runs h t) ∧
      ((seatAt s e.1 (k n)).hand = none → step s = exec .handFetch t)) ∧
    (∀ i rest, s.curSeat < 4 → s.agenda = i :: rest → step s = exec i { s with agenda := rest }) ∧
    (4 ≤ s.curSeat → step s = .fault .noSuchSeat)

/-- Memory and tags are in canonical form, and the seat in turn is one that an FE has, in the state after reset. -/
def Obligations.InvariantAtReset : Prop := Inv State.reset

/-- 02 R18, 08 R128: every step, of every instruction and every event, keeps memory and tags in canonical form and the seat
in turn among the four that an FE has. -/
def Obligations.InvariantKeptByEveryStep : Prop :=
  ∀ s t : State, Inv s → step s = .next t → Inv t

/-- 14 R220: an instruction that its selector turns off adds its weight to BELAYCNT and has no other effect, whatever it
names: no wait, no fault and no request. One instruction or more of each family, by weight. -/
def Obligations.PredicatedOffSlotDoesNothing : Prop :=
  ∀ (d a b : Reg) (o8 : BitVec 8) (o16 : BitVec 16) (o21 : BitVec 21) (disp : BitVec 22) (imm : BitVec 10) (dist : BitVec 7)
    (port : Port) (pl : Plane) (m : Slot) (x : AccNo) (fmt : BitVec 3) (g wide nz : Bool) (w : BitVec 2) (q : Sel) (s : State)
    (h : Hand), s.curSeat < 4 → (cur s).hand = some h → selOn h q = false →
    let off (n : Nat) (l : List Instr) : Prop :=
      h.counted = true ∨ h.work.belayEn = false ∨ (cur s).belayCnt.toNat + n ≤ h.work.belayMax.toNat →
      ∀ i ∈ l, exec i s = .next (slotDone n s h h)
    off 4 [.nop q, .halt q, .brk q, .add d a b q, .addi d a imm q, .sel d a b q, .br disp q, .call disp q, .skip dist q,
      .svc imm q, .eret q, .csrr d 0x14 q, .csrw 0 a q, .lea d o21 q, .tagrd d a o16 q, .fenceAll 0 q, .speek d port pl q,
      .mclaim m q] ∧
    off 8 [.mul d a b q, .fadd d a b q, .ld w d a o16 nz q, .st w d a o16 q, .ldg w d a o16 nz q, .stg w d a o16 q,
      .ldf d a o16 nz q, .stf d a o16 q, .ldxG d a o16 nz q, .aadd d a b o8 nz g wide q, .popw d a b o8 g q, .lit 0 d o21 q,
      .bwait d a b g q, .sinDense port a b pl g w q, .spull d port pl q, .planeon pl q, .cfgsync q, .mma x m m fmt q,
      .accrd d b x q, .cpy a q, .evwait d b nz q, .launch a b q, .brow d q, .bread d 0 0 q, .hitch q, .dstep d a q,
      .waitev d a q] ∧
    off 16 [.mtile d a b x m fmt q, .maprRange d a b q, .unmap d a b q] ∧ off 24 [.fdiv d a b q] ∧ off 48 [.div d a b q]

/-! ### Registers -/

/-- 16 R270: the instructions of major 0x01, but for a division by zero.

16 R270: the divisions and remainders of nonzero divisors.

16 R270: a division or remainder by zero records INT_DIVZERO, unless the hand holds an earlier fault (00 R8), and
writes no register. -/
def Obligations.IntegerArithmetic : Prop :=
  (∀ (d a b : Reg) (q : Sel),
    Does 4 (.add d a b q) q (fun _ h => setS d (rdS h a + rdS h b) h) ∧
    Does 4 (.sub d a b q) q (fun _ h => setS d (rdS h a - rdS h b) h) ∧
    Does 8 (.mul d a b q) q (fun _ h => setS d (BitVec.ofInt 64 ((rdS h a).toInt * (rdS h b).toInt)) h) ∧
    Does 8 (.mulh d a b q) q (fun _ h => setS d (BitVec.ofInt 64 ((rdS h a).toInt * (rdS h b).toInt / 2 ^ 64)) h) ∧
    Does 8 (.mulhn d a b q) q (fun _ h => setS d (BitVec.ofNat 64 ((rdS h a).toNat * (rdS h b).toNat / 2 ^ 64)) h) ∧
    Does 4 (.and d a b q) q (fun _ h => setS d (rdS h a &&& rdS h b) h) ∧
    Does 4 (.or d a b q) q (fun _ h => setS d (rdS h a ||| rdS h b) h) ∧
    Does 4 (.xor d a b q) q (fun _ h => setS d (rdS h a ^^^ rdS h b) h) ∧
    Does 4 (.andn d a b q) q (fun _ h => setS d (rdS h a &&& ~~~rdS h b) h) ∧
    Does 4 (.shl d a b q) q (fun _ h => setS d (BitVec.ofNat 64 ((rdS h a).toNat * 2 ^ ((rdS h b).toNat % 64))) h) ∧
    Does 4 (.shr d a b q) q (fun _ h => setS d (BitVec.ofNat 64 ((rdS h a).toNat / 2 ^ ((rdS h b).toNat % 64))) h) ∧
    Does 4 (.sra d a b q) q (fun _ h => setS d (BitVec.ofInt 64 ((rdS h a).toInt / 2 ^ ((rdS h b).toNat % 64))) h)) ∧
  (∀ (d a b : Reg) (q : Sel) (s : State) (h : Hand), Issues s h q 48 → rdS h b ≠ 0 →
    exec (.div d a b q) s =
      .next (slotDone 48 s h (setS d (BitVec.ofInt 64 ((rdS h a).toInt.tdiv (rdS h b).toInt)) h)) ∧
    exec (.divn d a b q) s = .next (slotDone 48 s h (setS d (BitVec.ofNat 64 ((rdS h a).toNat / (rdS h b).toNat)) h)) ∧
    exec (.rem d a b q) s =
      .next (slotDone 48 s h (setS d (BitVec.ofInt 64 ((rdS h a).toInt.tmod (rdS h b).toInt)) h)) ∧
    exec (.remn d a b q) s = .next (slotDone 48 s h (setS d (BitVec.ofNat 64 ((rdS h a).toNat % (rdS h b).toNat)) h))) ∧
  (∀ (d a b : Reg) (q : Sel) (s : State) (h : Hand), Issues s h q 48 → rdS h b = 0 → h.flt = none →
    let f : FaultRec := { code := 0x23, slot := BitVec.ofNat 7 h.slot, info := 0, addr := 0 }
    exec (.div d a b q) s = .next (slotDone 48 s h { h with flt := some f }) ∧
    exec (.divn d a b q) s = .next (slotDone 48 s h { h with flt := some f }) ∧
    exec (.rem d a b q) s = .next (slotDone 48 s h { h with flt := some f }) ∧
    exec (.remn d a b q) s = .next (slotDone 48 s h { h with flt := some f }))

/-- 16 R271: the instructions of major 0x02 but for the three bit counts.

16 R271: CLZ, CTZ and POPC write a number n of bits that is fixed by what it counts: for a word other than 0 the
highest one bit is bit 63 - n, or the lowest one is bit n; and n one bits. -/
def Obligations.RotateSelectExtremesMoveAndBitCounts : Prop :=
  (∀ (d a b : Reg) (q : Sel),
    Does 4 (.rotl d a b q) q (fun _ h => setS d (BitVec.ofNat 64 ((rdS h a).toNat * 2 ^ ((rdS h b).toNat % 64) +
      (rdS h a).toNat / 2 ^ (64 - (rdS h b).toNat % 64))) h) ∧
    Does 4 (.min d a b q) q (fun _ h => setS d (if (rdS h a).toInt < (rdS h b).toInt then rdS h a else rdS h b) h) ∧
    Does 4 (.max d a b q) q (fun _ h => setS d (if (rdS h a).toInt > (rdS h b).toInt then rdS h a else rdS h b) h) ∧
    Does 4 (.minn d a b q) q (fun _ h => setS d (if (rdS h a).toNat < (rdS h b).toNat then rdS h a else rdS h b) h) ∧
    Does 4 (.maxn d a b q) q (fun _ h => setS d (if (rdS h a).toNat > (rdS h b).toNat then rdS h a else rdS h b) h) ∧
    Does 4 (.sel d a b q) q (fun _ h => setS d (if rdS h d ≠ 0 then rdS h a else rdS h b) h) ∧
    Does 4 (.mov d a q) q (fun _ h => setS d (rdS h a) h)) ∧
  (∀ (d a : Reg) (q : Sel) (s : State) (h : Hand), Issues s h q 4 →
    (∃ n, exec (.clz d a q) s = .next (slotDone 4 s h (setS d (BitVec.ofNat 64 n) h)) ∧ n ≤ 64 ∧
      (rdS h a).toNat < 2 ^ (64 - n) ∧ (n < 64 → 2 ^ (63 - n) ≤ (rdS h a).toNat)) ∧
    (∃ n, exec (.ctz d a q) s = .next (slotDone 4 s h (setS d (BitVec.ofNat 64 n) h)) ∧ n ≤ 64 ∧
      (∀ i < n, (rdS h a).getLsbD i = false) ∧ (n < 64 → (rdS h a).getLsbD n = true)) ∧
    exec (.popc d a q) s = .next (slotDone 4 s h
      (setS d (BitVec.ofNat 64 ((List.range 64).countP fun i => (rdS h a).getLsbD i)) h)))

/-- 16 R272 to R274: the immediate instructions; MOVI and MOVHI have no selector. -/
def Obligations.Immediates : Prop :=
  ∀ (d a : Reg) (imm : BitVec 10) (amt : BitVec 6) (m : BitVec 20) (q : Sel),
    Does 4 (.shli d a amt q) q (fun _ h => setS d (BitVec.ofNat 64 ((rdS h a).toNat * 2 ^ amt.toNat)) h) ∧
    Does 4 (.shri d a amt q) q (fun _ h => setS d (BitVec.ofNat 64 ((rdS h a).toNat / 2 ^ amt.toNat)) h) ∧
    Does 4 (.srai d a amt q) q (fun _ h => setS d (BitVec.ofInt 64 ((rdS h a).toInt / 2 ^ amt.toNat)) h) ∧
    Does 4 (.addi d a imm q) q (fun _ h => setS d (rdS h a + imm.signExtend 64) h) ∧
    Does 4 (.andi d a imm q) q (fun _ h => setS d (rdS h a &&& imm.signExtend 64) h) ∧
    Does 4 (.ori d a imm q) q (fun _ h => setS d (rdS h a ||| imm.signExtend 64) h) ∧
    Does 4 (.xori d a imm q) q (fun _ h => setS d (rdS h a ^^^ imm.signExtend 64) h) ∧
    Does 4 (.movi d m) 0 (fun _ h => setS d (m.signExtend 64) h) ∧
    Does 4 (.movhi d m) 0 (fun _ h => setS d (BitVec.ofNat 64 ((rdS h d).toNat * 2 ^ 20 + m.toNat)) h)

/-- 16 R278, R279: LEA adds its offset to the address of its hand; the field that S[sb] describes begins at bit S[sb][5:0]
and has S[sb][14:8] bits, or all that remain when that is 0 or too many; EXT.n reads it as a natural number, EXT.i as a signed
one, and INS replaces it by the low bits of S[sa]. Each completes for every operand. -/
def Obligations.AddressAndBitFields : Prop :=
  ∀ (d a b : Reg) (off : BitVec 21) (q : Sel),
    let pos (h : Hand) : Nat := (rdS h b).toNat % 64
    let len (h : Hand) : Nat :=
      let n := (rdS h b).toNat / 256 % 128
      if n = 0 ∨ 64 - pos h < n then 64 - pos h else n
    let field (h : Hand) : Nat := (rdS h a).toNat / 2 ^ pos h % 2 ^ len h
    Does 4 (.lea d off q) q (fun _ h => setS d (h.addr + off.signExtend 64) h) ∧
    Does 4 (.extN d a b q) q (fun _ h => setS d (BitVec.ofNat 64 (field h)) h) ∧
    Does 4 (.extI d a b q) q (fun _ h => setS d (BitVec.ofInt 64 (signedOf (len h) (field h))) h) ∧
    Does 4 (.ins d a b q) q (fun _ h => setS d (BitVec.ofNat 64 ((rdS h d).toNat -
      (rdS h d).toNat / 2 ^ pos h % 2 ^ len h * 2 ^ pos h + (rdS h a).toNat % 2 ^ len h * 2 ^ pos h)) h)

/-! ### Predicates -/

/-- 16 R275, R277: compares of well-formed codes read the low bits of the type, signed or natural, and set their
predicate; the predicate instructions; a write to p0 is discarded (00 R6); a reserved code of CMP and a predicate number
above 7 are RESERVED_FIELD. -/
def Obligations.ComparesAndPredicates : Prop :=
  (∀ lo hi : W32, let sd := lo.extractLsb' 20 6
    let sa := lo.extractLsb' 14 6
    let sb := lo.extractLsb' 8 6
    let fn := (lo.extractLsb' 4 4).toNat
    (majorOf lo = 3 → fn < 8 → 6 ≤ (sd.extractLsb' 3 3).toNat → decode lo hi = .error .reservedField) ∧
    (majorOf lo = 4 → fn < 4 → 8 ≤ sd.toNat ∨ 8 ≤ sa.toNat ∨ 8 ≤ sb.toNat ∨ (fn = 3 ∧ sb ≠ 0) →
      decode lo hi = .error .reservedField)) ∧
  ∀ (ty cc : BitVec 3) (pd pa pb : Pred) (a b : Reg) (imm : BitVec 10) (q : Sel),
    (cc.toNat < 6 → ty.toNat < 4 → SetsPred 4 (.cmp ty cc pd a b q) q pd (fun h =>
      let w := 8 * 2 ^ ty.toNat
      relation cc.toNat ((rdS h a).setWidth w).toInt ((rdS h b).setWidth w).toInt)) ∧
    (cc.toNat < 6 → 4 ≤ ty.toNat → SetsPred 4 (.cmp ty cc pd a b q) q pd (fun h =>
      let w := 8 * 2 ^ (ty.toNat - 4)
      relation cc.toNat (((rdS h a).setWidth w).toNat : Int) (((rdS h b).setWidth w).toNat : Int))) ∧
    (cc.toNat < 6 → SetsPred 4 (.cmpi cc pd a imm q) q pd (fun h =>
      relation cc.toNat (rdS h a).toInt imm.toInt)) ∧
    SetsPred 4 (.cmpi 6 pd a imm q) q pd (fun h => decide ((rdS h a).toNat < (imm.signExtend 64).toNat)) ∧
    SetsPred 4 (.cmpi 7 pd a imm q) q pd (fun h => decide ((rdS h a).toNat ≥ (imm.signExtend 64).toNat)) ∧
    SetsPred 4 (.pand pd pa pb q) q pd (fun h => rdP h pa && rdP h pb) ∧
    SetsPred 4 (.por pd pa pb q) q pd (fun h => rdP h pa || rdP h pb) ∧
    SetsPred 4 (.pxor pd pa pb q) q pd (fun h => rdP h pa != rdP h pb) ∧
    SetsPred 4 (.pnot pd pa q) q pd (fun h => !rdP h pa)

/-! ### Scalar floats -/

/-- 16 R280, R281: each instruction rounds the exact result of its FP32 operands, bits [31:0] of its registers, once, to
FP32 in FPCTL's mode. -/
def Obligations.FloatResultsAndTraps : Prop :=
  ∀ (d a b : Reg) (q : Sel),
    let r (h : Hand) : Rnd := Rnd.of h.work.fpctl h.work.srseed
    let v (h : Hand) (x : Reg) : FV := Fmt.fp32.decode ((rdS h x).toNat % 2 ^ 32)
    let round (h : Hand) (x : FV × Nat) : Nat × Rnd := roundTo .fp32 false ((r h).raise x.2) x.1
    floatDone d (fun h => round h (addFV (r h).mode (v h a) (v h b))) 8 (.fadd d a b q) q ∧
    floatDone d (fun h => round h (addFV (r h).mode (v h a) (negFV (v h b)))) 8 (.fsub d a b q) q ∧
    floatDone d (fun h => round h (mulFV (v h a) (v h b))) 8 (.fmul d a b q) q ∧
    floatDone d (fun h => round h (divFV (v h a) (v h b))) 24 (.fdiv d a b q) q ∧
    floatDone d (fun h => round h (fmaFV (r h).mode (v h a) (v h b) (v h d))) 8 (.ffma d a b q) q ∧
    floatDone d (fun h => round h (rcpFV (v h a))) 12 (.frcp d a q) q ∧
    floatDone d (fun h => round h (rsqFV (v h a))) 12 (.frsq d a q) q ∧
    floatDone d (fun h => round h (sqrtFV (v h a))) 24 (.fsqrt d a q) q ∧
    floatDone d (fun h => round h (exp2Of (v h a))) 12 (.fexp2 d a q) q ∧
    floatDone d (fun h => round h (log2Of (v h a))) 12 (.flog2 d a q) q

/-- 16 R281, R33: FABS and FNEG change the sign bit alone, of a NaN too; FMIN and FMAX give the lesser and the greater of their
operands with −0 below +0, either of two equal ones, the other operand of one NaN and the canonical NaN for two; none of them
sets a flag, and with the selector off none changes anything.

16 R276, R282: FCMP sets its predicate from FP32 values, a NaN making ne and un 1 and all others 0, with no flag; FCVT
converts the low bits of its source, in FPCTL's mode and with its SAT. -/
def Obligations.FloatSignsExtremesCompareAndConvert : Prop :=
  (∀ (d a b : Reg) (q : Sel) (s : State) (h : Hand),
    let x := (rdS h a).extractLsb' 0 32
    let y := (rdS h b).extractLsb' 0 32
    (Issues s h q 4 →
      exec (.fabs d a q) s = .next (slotDone 4 s h (setS d ((x &&& 0x7FFFFFFF#32).setWidth 64) h)) ∧
      exec (.fneg d a q) s = .next (slotDone 4 s h (setS d ((x ^^^ 0x80000000#32).setWidth 64) h))) ∧
    (Issues s h q 8 → ∃ lo hi : BitVec 32,
      exec (.fmin d a b q) s = .next (slotDone 8 s h (setS d (lo.setWidth 64) h)) ∧
      exec (.fmax d a b q) s = .next (slotDone 8 s h (setS d (hi.setWidth 64) h)) ∧
      (Fmt.fp32.decode x.toNat = .nan → Fmt.fp32.decode y.toNat = .nan → lo = 0x7FC00000#32 ∧ hi = 0x7FC00000#32) ∧
      (Fmt.fp32.decode x.toNat = .nan → Fmt.fp32.decode y.toNat ≠ .nan → lo = y ∧ hi = y) ∧
      (Fmt.fp32.decode x.toNat ≠ .nan → Fmt.fp32.decode y.toNat = .nan → lo = x ∧ hi = x) ∧
      (Fmt.fp32.decode x.toNat ≠ .nan → Fmt.fp32.decode y.toNat ≠ .nan →
        (ltFV true (Fmt.fp32.decode x.toNat) (Fmt.fp32.decode y.toNat) = true → lo = x ∧ hi = y) ∧
        (ltFV true (Fmt.fp32.decode y.toNat) (Fmt.fp32.decode x.toNat) = true → lo = y ∧ hi = x) ∧
        (ltFV true (Fmt.fp32.decode x.toNat) (Fmt.fp32.decode y.toNat) = false →
          ltFV true (Fmt.fp32.decode y.toNat) (Fmt.fp32.decode x.toNat) = false → lo = x ∧ hi = x))) ∧
    (s.curSeat < 4 → (cur s).hand = some h → selOn h q = false → h.counted = true ∨ h.work.belayEn = false →
      (∀ i ∈ ([.fabs d a q, .fneg d a q] : List Instr), exec i s = .next (slotDone 4 s h h)) ∧
      ∀ i ∈ ([.fmin d a b q, .fmax d a b q] : List Instr), exec i s = .next (slotDone 8 s h h))) ∧
  (∀ (cc : BitVec 3) (pd : Pred) (dst src : BitVec 4) (d a b : Reg) (q : Sel),
    SetsPred 8 (.fcmp cc pd a b q) q pd (fun h =>
      let x := Fmt.fp32.decode ((rdS h a).toNat % 2 ^ 32)
      let y := Fmt.fp32.decode ((rdS h b).toNat % 2 ^ 32)
      if x = .nan ∨ y = .nan then decide (cc = 1) || decide (cc = 6)
      else match cc.toNat with
        | 0 => eqFV x y
        | 1 => !eqFV x y
        | 2 => ltFV false x y
        | 3 => ltFV false x y || eqFV x y
        | 4 => !(ltFV false x y || eqFV x y)
        | 6 => false
        | _ => !ltFV false x y) ∧
    floatDone d (fun h => convert dst.toNat src.toNat (Rnd.of h.work.fpctl h.work.srseed) (rdS h a).toNat) 8
      (.fcvt dst src d a q) q)

/-! ### Control -/

/-- 16 R255 to R268: a control instruction in a hand where none has taken effect chooses what the commit does; CALL and
CALLI write the link, the address of the hand after this one, to s63; NOP changes nothing and YIELD is queued.

16 R258: CALLI, JMPI and RET go to the address in their register when it is 8-byte aligned, and otherwise record ALIGN
with that address. -/
def Obligations.ControlTransfersOfASlot : Prop :=
  (∀ (q : Sel) (s : State) (h : Hand), Issues s h q 4 → h.ctl = none →
    let ctl (c : Control) : Hand := { h with ctl := some c }
    let slot : BitVec 7 := BitVec.ofNat 7 h.slot
    exec (.nop q) s = .next (slotDone 4 s h h) ∧
    exec (.yield q) s = .next (slotDone 4 s h { h with effects := h.effects ++ [.yield] }) ∧
    exec (.halt q) s = .next (slotDone 4 s h (ctl .halt)) ∧
    exec (.brk q) s = .next (slotDone 4 s h (ctl (.brk slot))) ∧
    exec (.eret q) s = .next (slotDone 4 s h (ctl .eret)) ∧
    (∀ disp, exec (.br disp q) s = .next (slotDone 4 s h (ctl (.jump (h.addr + disp.signExtend 64 * 8))))) ∧
    (∀ disp, exec (.call disp q) s =
      .next (slotDone 4 s h (setS 63 h.next (ctl (.call (h.addr + disp.signExtend 64 * 8)))))) ∧
    (∀ imm : BitVec 10, exec (.svc imm q) s = .next (slotDone 4 s h (ctl (.trap 0x70 (imm.setWidth 64) slot)))) ∧
    (∀ imm : BitVec 10,
      exec (.trap imm q) s = .next (slotDone 4 s h (ctl (.trap 0x70 (imm.setWidth 64 ||| 0x400) slot)))) ∧
    (∀ (n : BitVec 2) (a : Reg) (last : BitVec 10), exec (.loop n a last q) s = .next (slotDone 4 s h
      (ctl (.loop n.toNat (Nat.min (rdS h a).toNat (2 ^ 32 - 1)) (h.next + last.setWidth 64 * 8))))) ∧
    (∀ n : BitVec 2, exec (.loopbrk n q) s = .next (slotDone 4 s h (ctl (.loopbrk n.toNat))))) ∧
  (∀ (a : Reg) (q : Sel) (s : State) (h : Hand), Issues s h q 4 → h.ctl = none →
    let ctl (c : Control) : Hand := { h with ctl := some c }
    let f (t : W64) : FaultRec := { code := 0x14, slot := BitVec.ofNat 7 h.slot, info := 0, addr := t }
    let bad (t : W64) : Hand := { h with flt := h.flt.or (some (f t)) }
    let t := rdS h a
    let l := rdS h 63
    (t.toNat % 8 = 0 → exec (.calli a q) s = .next (slotDone 4 s h (setS 63 h.next (ctl (.call t)))) ∧
      exec (.jmpi a q) s = .next (slotDone 4 s h (ctl (.jump t)))) ∧
    (t.toNat % 8 ≠ 0 → exec (.calli a q) s = .next (slotDone 4 s h (bad t)) ∧
      exec (.jmpi a q) s = .next (slotDone 4 s h (bad t))) ∧
    (l.toNat % 8 = 0 → exec (.ret q) s = .next (slotDone 4 s h (ctl (.jumpRet l)))) ∧
    (l.toNat % 8 ≠ 0 → exec (.ret q) s = .next (slotDone 4 s h (bad l))))

/-- 16 R256: the first control instruction of a hand stands, and a later one has no effect.

16 R259: SKIP goes to the slot at its distance. -/
def Obligations.FirstControlStandsAndSkip : Prop :=
  (∀ (a : Reg) (disp : BitVec 22) (imm last : BitVec 10) (n : BitVec 2) (q : Sel) (s : State) (h : Hand), Issues s h q 4 →
    h.ctl ≠ none → ∀ i ∈ ([.halt q, .brk q, .eret q, .br disp q, .call disp q, .calli a q, .jmpi a q, .ret q,
      .loop n a last q, .loopbrk n q, .svc imm q, .trap imm q] : List Instr), exec i s = .next (slotDone 4 s h h)) ∧
  (∀ (dist : BitVec 7) (q : Sel) (s : State) (h : Hand), Issues s h q 4 → dist ≠ 0 →
    ∃ t, exec (.skip dist q) s = .next t ∧ t = slotDone 4 s h { h with slot := h.slot + dist.toNat - 1 } ∧
      (cur t).hand.map (·.slot) = some (h.slot + dist.toNat))

/-! ### System registers -/

/-- 19 R352, 15 R249: CSRR reads the register it names: SEATID, BELAYMAX with EN in bit 9, BELAYCNT with this slot's weight, the
fault registers, FLTVEC, RETHAND, EVQSTAT, the spill and overflow registers, FPCTL, FPFLAGS, SRSEED, MELDWIN, DBGCTL, each as
the hand's earlier slots left it; every other one too completes, and TIME finds a time of the model's (log 9). CSRW and CSRX
write FLTVEC and RETHAND with bits [2:0] 0, FPFLAGS[4:0], and SRSEED, where 0 stores 1 (03 R37); FPCTL without its reserved
bits, a reserved RM leaving RM (03 R34, R35); DBGCTL without its reserved bits (11 R171); BELAYMAX.MAX, which 0 or a value above 384
leaves, a change of EN being PRIVILEGE (04 R62). A write of a register marked RO records PRIVILEGE. -/
def Obligations.SystemRegisters : Prop :=
  ∀ (d a : Reg) (n : BitVec 6) (q : Sel) (s : State) (h : Hand), Issues s h q 4 →
    let v := rdS h a
    let w (g : Arch → Arch) : Hand := { h with work := g h.work }
    let priv : Hand := { h with flt := h.flt.or (some { code := 0x06, slot := BitVec.ofNat 7 h.slot, info := 0, addr := 0 }) }
    let max : BitVec 9 := v.extractLsb' 0 9
    (∀ p ∈ ([(0x00, BitVec.ofNat 64 s.curSeat), (0x03, BitVec.ofNat 64 ((if h.work.belayEn then 512 else 0) + h.work.belayMax.toNat)),
        (0x04, (counts s h 4).setWidth 64), (0x06, h.work.faultcode), (0x07, h.work.faultaddr), (0x08, h.work.faulthand),
        (0x09, h.work.faultinfo), (0x0A, h.work.fltvec), (0x0B, h.work.rethand),
        (0x0C, BitVec.ofNat 64 ((cur s).ring.length * 256 + (cur s).evq.length)), (0x0D, (cur s).spillbase.setWidth 64),
        (0x0E, (cur s).spilllim.setWidth 64), (0x0F, (cur s).ovfptr), (0x10, (cur s).ovflim), (0x11, h.work.fpctl),
        (0x12, h.work.fpflags), (0x13, h.work.srseed.setWidth 64), (0x15, (ctxAt s (cur s).ctx).meldWin.setWidth 64),
        (0x17, h.work.dbgctl)] : List (BitVec 6 × W64)),
      exec (.csrr d p.1 q) s = .next (slotDone 4 s h (setS d p.2 h))) ∧
    (n ≠ 0x14 → ∃ x, exec (.csrr d n q) s = .next (slotDone 4 s h (setS d x h))) ∧
    (∃ dt, exec (.csrr d 0x14 q) s = .next { slotDone 4 s h (setS d (BitVec.ofNat 64 (s.time + dt)) h) with
      time := s.time + dt, fresh := s.fresh + 1 }) ∧
    exec (.csrw 0x0A a q) s = .next (slotDone 4 s h (w fun x => { x with fltvec := v &&& ~~~7#64 })) ∧
    exec (.csrw 0x0B a q) s = .next (slotDone 4 s h (w fun x => { x with rethand := v &&& ~~~7#64 })) ∧
    exec (.csrw 0x11 a q) s = .next (slotDone 4 s h (w fun x => { x with fpctl :=
      (v &&& 0x170#64) ||| ((if (v &&& 7#64) ≤ 4#64 then v else h.work.fpctl) &&& 7#64) })) ∧
    exec (.csrw 0x12 a q) s = .next (slotDone 4 s h (w fun x => { x with fpflags := v &&& 0x1F#64 })) ∧
    exec (.csrw 0x13 a q) s = .next (slotDone 4 s h (w fun x => { x with
      srseed := if v.extractLsb' 0 32 = 0 then 1 else v.extractLsb' 0 32 })) ∧
    exec (.csrw 0x17 a q) s = .next (slotDone 4 s h (w fun x => { x with dbgctl := v &&& ~~~0x1FE#64 })) ∧
    (v.getLsbD 9 = h.work.belayEn → exec (.csrw 0x03 a q) s = .next (slotDone 4 s h (w fun x => { x with
      belayMax := if max = 0 ∨ 384 < max.toNat then h.work.belayMax else max }))) ∧
    (v.getLsbD 9 ≠ h.work.belayEn → exec (.csrw 0x03 a q) s = .next (slotDone 4 s h priv)) ∧
    (∀ r : BitVec 6, r.toNat ∈ [0x00, 0x01, 0x02, 0x04, 0x05, 0x06, 0x07, 0x08, 0x09, 0x0C, 0x0D, 0x0E, 0x0F, 0x10, 0x14, 0x15,
        0x16] → exec (.csrw r a q) s = .next (slotDone 4 s h priv)) ∧
    exec (.csrx d 0x0A a q) s = .next (slotDone 4 s h (setS d h.work.fltvec (w fun x => { x with fltvec := v &&& ~~~7#64 })))

/-! ### Events of a seat -/

/-- 16 R269: WAITEV yields 1 with a record in the event queue or its ring, 0 once its deadline has passed, and otherwise
puts its seat in WAITING.

19 R346: EVPOP takes the oldest record of the queue, or reads all ones and 0; EVWAIT takes the oldest one of its tag and
waits while there is none; the record leaves the queue at commit. -/
def Obligations.EventsAndWaits : Prop :=
  (∀ (d a : Reg) (q : Sel) (s : State) (h : Hand), Issues s h q 8 → h.flt = none →
    (((cur s).evq ≠ [] ∨ (cur s).ring ≠ []) → exec (.waitev d a q) s = .next (slotDone 8 s h (setS d 1 h))) ∧
    ((cur s).evq = [] → (cur s).ring = [] → rdS h a ≠ BitVec.allOnes 64 → (rdS h a).toNat ≤ s.time →
      exec (.waitev d a q) s = .next (slotDone 8 s h (setS d 0 h))) ∧
    ((cur s).evq = [] → (cur s).ring = [] → s.time < (rdS h a).toNat → MayWait s →
      ∃ t, exec (.waitev d a q) s = .next t ∧ (cur t).st = .waiting ∧ t.mem = s.mem)) ∧
  (∀ (d b : Reg) (q : Sel) (s : State) (h : Hand), Issues s h q 8 → h.taken = [] →
    let recs := (cur s).evq ++ (cur s).ring
    let tag := (rdS h b).extractLsb' 0 16
    let took (t : Option (BitVec 16)) (i : Nat) (e : EvRec) : Hand :=
      queued (setS (d + 1) e.w1 (setS d e.w0 { h with taken := [i] })) (.evtake t)
    (∀ e rest, recs = e :: rest → exec (.evpop d q) s = .next (slotDone 8 s h (took none 0 e)) ∧
      (h.flt = none → exec (.evwait d b false q) s = .next (slotDone 8 s h (took none 0 e)))) ∧
    (recs = [] → exec (.evpop d q) s = .next (slotDone 8 s h (setS (d + 1) 0 (setS d (BitVec.allOnes 64) h)))) ∧
    (∀ l e rest, recs = l ++ e :: rest → (∀ x ∈ l, recTag x ≠ tag) → recTag e = tag → h.flt = none →
      exec (.evwait d b true q) s = .next (slotDone 8 s h (took (some tag) l.length e))) ∧
    ((∀ x ∈ recs, recTag x ≠ tag) → h.flt = none → MayWait s →
      ∃ t, exec (.evwait d b true q) s = .next t ∧ (cur t).st = .waiting ∧ (cur t).evq = (cur s).evq ∧ t.mem = s.mem))

/-! ### Memory -/

/-- 17 R288, 04 R57: LD and ST of the scratchpad. LD reads the hand's own earlier stores, else what its seat observes there, which
is memory where none of its seat's requests is still to act, extends with N, and ST is queued for the commit, seen by the
hand's own later loads; a misaligned access is ALIGN, one beyond 0x5_FFFF LOCAL_BOUNDS at the first byte out of bounds (09 R145).
An LD stalls behind an acquire of its seat, and an event of its seat at its bytes whose outcome is not known, that is still to
be performed (12 R184, R190). -/
def Obligations.LocalLoadAndStore : Prop :=
  ∀ (w : BitVec 2) (d a : Reg) (off : BitVec 16) (nz : Bool) (q : Sel) (s : State) (h : Hand),
    Issues s h q 8 → h.flt = none → Unwatched h →
    let ea := rdS h a + off.signExtend 64
    let n := 2 ^ w.toNat
    (a = 62 → ¬ ea.toInt < (cur s).spillbase.toNat + 0x200) →
    (ea.toNat % n ≠ 0 →
      exec (.ld w d a off nz q) s = .next (slotDone 8 s h (recorded h 0x14 0 ea)) ∧
      exec (.st w d a off q) s = .next (slotDone 8 s h (recorded h 0x14 0 ea))) ∧
    (ea.toNat % n = 0 → 0x60000 < ea.toNat + n →
      exec (.ld w d a off nz q) s = .next (slotDone 8 s h (recorded h 0x15 0 (BitVec.ofNat 64 (Nat.max ea.toNat 0x60000)))) ∧
      exec (.st w d a off q) s = .next (slotDone 8 s h (recorded h 0x15 0 (BitVec.ofNat 64 (Nat.max ea.toNat 0x60000))))) ∧
    (ea.toNat % n = 0 → ea.toNat + n ≤ 0x60000 →
      (ownBehind s s.curFe s.curSeat ea.toNat n = true → ∃ t, exec (.ld w d a off nz q) s = .next t ∧
        (cur t).hand = some { h with counted := true, stalled := true } ∧ t.mem = s.mem) ∧
      (ownBehind s s.curFe s.curSeat ea.toNat n = false → ∃ v : W64, exec (.ld w d a off nz q) s = .next (slotDone 8 s h (setS d v h)) ∧
        (∀ i < n, v.extractLsb' (8 * i) 8 = localByte s s.curFe h (ea.toNat + i)) ∧
        (Apart s ea.toNat n → ∀ i < n, v.extractLsb' (8 * i) 8 =
          (KV.find (ea.toNat + i) h.bytes).getD (memByte s.mem (spBase s.curFe + (ea.toNat + i)))) ∧
        ∀ i < 64, 8 * n ≤ i → v.getLsbD i = (!nz && v.getLsbD (8 * n - 1))) ∧
      ∃ m : KV Byte, exec (.st w d a off q) s = .next (slotDone 8 s h
          (queued { h with bytes := m } (.store ea.toNat n (BitVec.ofNat 64 ((rdS h d).toNat % 2 ^ (8 * n)))))) ∧
        ∀ x, localByte s s.curFe { h with bytes := m } x =
          if ea.toNat ≤ x ∧ x < ea.toNat + n then (rdS h d).extractLsb' (8 * (x - ea.toNat)) 8
          else localByte s s.curFe h x)

/-- 04 R71: an LD or ST based on sp below the floor goes to global memory instead: below OVFLIM it is SPILL_OVERFLOW,
with no other effect; a redirected LD weighs 160 (15 R244): it sends its request at once and stalls, and yields the answer
under the hand's own earlier redirected stores. -/
def Obligations.SpillRedirection : Prop :=
  ∀ (w : BitVec 2) (d : Reg) (off : BitVec 16) (nz : Bool) (q : Sel) (s : State) (h : Hand),
    h.flt = none → Unwatched h →
    let ea := rdS h 62 + off.signExtend 64
    let floor : W64 := (cur s).spillbase.setWidth 64 + 0x200
    let va := (cur s).ovfptr - (floor - ea)
    let n := 2 ^ w.toNat
    ea.toInt < floor.toInt →
    (va < (cur s).ovflim →
      (Issues s h q 160 → h.entered = false → h.grant = none → exec (.ld w d 62 off nz q) s = .next (slotDone 160 s h (recorded h 0x16 0 va))) ∧
      (Issues s h q 8 → exec (.st w d 62 off q) s = .next (slotDone 8 s h (recorded h 0x16 0 va)))) ∧
    (∀ pa new, (cur s).ovflim ≤ va → Issues s h q 8 → Reaches s va n { w := true } false pa new →
      ∃ m, exec (.st w d 62 off q) s = .next (slotDone 8 s h
        (queued { h with walked := h.walked ++ new, gbytes := m }
          (.gstore pa va n (BitVec.ofNat 64 ((rdS h d).toNat % 2 ^ (8 * n))) s.nextId)))) ∧
    (∀ pa new, (cur s).ovflim ≤ va → Issues s h q 160 → Reaches s va n { r := true } false pa new → h.entered = false →
      h.grant = none → h.gbytes = [] → (cur s).st = .running → (∀ e ∈ s.gus, e.2.ecc = []) →
      let r := { stamp s (request s h va pa (.read n true) none) with after := 0 }
      ∃ t, exec (.ld w d 62 off nz q) s = .next t ∧ t.reqs = s.reqs ++ [r] ∧ t.mem = s.mem ∧ (cur t).st = .running ∧
        (cur t).hand = some { h with counted := true, entered := true, asked := some r, stalled := true }) ∧
    (∀ v st, h.grant = some (v, st) → Issues s h q 160 →
      ∃ r : W64, exec (.ld w d 62 off nz q) s = .next (slotDone 160 s h (setS d r h)) ∧
        (∀ i < n, r.extractLsb' (8 * i) 8 = (KV.find (va.toNat + i) h.gbytes).getD (v.extractLsb' (8 * i) 8)) ∧
        ∀ i < 64, 8 * n ≤ i → r.getLsbD i = (!nz && r.getLsbD (8 * n - 1)))

/-- 17 R288, R286: LDG and STG check their address, and LDG its landing area, while the hand runs, and queue their request
for the commit; a misaligned address is ALIGN, one that does not translate is the fault that translation gives, one whose walk
a dead link or an uncorrectable entry ends is that code (10 R166; log 118), and one whose walk cannot be made yet stalls. -/
def Obligations.GlobalLoadAndStore : Prop :=
  ∀ (w : BitVec 2) (d a : Reg) (off : BitVec 16) (nz : Bool) (q : Sel) (s : State) (h : Hand) (pa : Nat) (new : List Tlb),
    Issues s h q 8 → Unwatched h →
    let ea := rdS h a + off.signExtend 64
    let n := 2 ^ w.toNat
    let m := if w = 3 then 8 else 4
    let l := rdS h d
    (Reaches s ea n { r := true } false pa new → Lands l m → exec (.ldg w d a off nz q) s = .next (slotDone 8 s h
      (queued { h with walked := h.walked ++ new } (.send (request s h ea pa (.read n nz) (some l.toNat)))))) ∧
    (Reaches s ea n { r := true } false pa new → l.toNat % m ≠ 0 → exec (.ldg w d a off nz q) s = .next (slotDone 8 s h
      (recorded { h with walked := h.walked ++ new } 0x14 0 l))) ∧
    (Reaches s ea n { w := true } false pa new → exec (.stg w d a off q) s = .next (slotDone 8 s h
      (queued { h with walked := h.walked ++ new } (.send (request s h ea pa
        (.write n (BitVec.ofNat 64 ((rdS h d).toNat % 2 ^ (8 * n)))) none))))) ∧
    (ea.toNat % n ≠ 0 → exec (.ldg w d a off nz q) s = .next (slotDone 8 s h (recorded h 0x14 0 ea)) ∧
      exec (.stg w d a off q) s = .next (slotDone 8 s h (recorded h 0x14 0 ea))) ∧
    (ea.toNat % n = 0 → walkOf s ea = .wait → ∀ i ∈ ([.ldg w d a off nz q, .stg w d a off q] : List Instr),
      ∃ t, exec i s = .next t ∧ (cur t).hand = some { h with counted := true, stalled := true } ∧ t.mem = s.mem) ∧
    (∀ c, ea.toNat % n = 0 → walkOf s ea = .refuse c →
      exec (.ldg w d a off nz q) s = .next (slotDone 8 s h (recorded h c 0 ea)) ∧
      exec (.stg w d a off q) s = .next (slotDone 8 s h (recorded h c 0 ea))) ∧
    (∀ c, ea.toNat % n = 0 → walkOf s ea = .go → dataXlat s (feAt s s.curFe).tlb (cur s).ctx ea.toNat { r := true } false = (.error c, new) →
      exec (.ldg w d a off nz q) s = .next (slotDone 8 s h (recorded { h with walked := h.walked ++ new } c 0 ea)))

/-- 14 R228: LIT reads a literal through the instruction cache: a byte that is not cached is read from memory, and the read then
weighs 160 in place of 8 (15 R244). It is zero-extended with N, sign-extended without, 8 bytes as they are, and its bytes are
then in the cache. A misaligned literal is ALIGN; one whose page does not translate is FETCH_PAGE, and one that its page does not
let execute FETCH_PERM, with its address. -/
def Obligations.Literals : Prop :=
  ∀ (ty : BitVec 2) (d : Reg) (off : BitVec 21) (q : Sel) (s : State) (h : Hand) (pa : Nat) (new : List Tlb),
    let l := h.addr + off.signExtend 64
    let n := if ty = 2 then 8 else 4
    let f := feAt s s.curFe
    let w := if ∀ i < n, (KV.find (l.toNat + i) f.icache).isSome then 8 else 160
    let at_ (i : Nat) : Byte := (KV.find (l.toNat + i) f.icache).getD (memByte s.mem (paKey pa + i))
    let xlat := dataXlat s f.tlb (cur s).ctx l.toNat { x := true } false
    (l.toNat % n = 0 → xlat = (.ok pa, new) → pa % n = 0 → ownModule s pa = true → paBad s pa = false →
      codeMeets s s.curFe (cur s).ctx l.toNat n = .go → (∀ e ∈ s.gus, e.2.ecc = []) → (cur s).st = .running → Issues s h q w →
      ∃ t v, exec (.lit ty d off q) s = .next t ∧
        (∃ h', (cur t).hand = some h' ∧ h'.slot = h.slot + 1 ∧ h'.work = (setS d v h).work ∧ h'.effects = h.effects ∧
          h'.flt = h.flt) ∧
        (∀ i < n, v.extractLsb' (8 * i) 8 = at_ i) ∧
        (∀ i < 64, 8 * n ≤ i → v.getLsbD i = (decide (ty ≠ 0) && v.getLsbD (8 * n - 1))) ∧
        (∀ i < n, KV.find (l.toNat + i) (feAt t s.curFe).icache = some (at_ i)) ∧ t.mem = s.mem ∧
        (cur t).belayCnt = counts s h w) ∧
    (Issues s h q 8 →
      (l.toNat % n ≠ 0 → exec (.lit ty d off q) s = .next (slotDone 8 s h (recorded h 0x14 0 l))) ∧
      (l.toNat % n = 0 → codeMeets s s.curFe (cur s).ctx l.toNat n = .go →
        (xlat = (.error 0x12, new) → exec (.lit ty d off q) s = .next (slotDone 8 s h (recorded h 0x10 0 l))) ∧
        (xlat = (.error 0x13, new) → exec (.lit ty d off q) s = .next (slotDone 8 s h (recorded h 0x11 0 l)))))

/-! ### Tags, atomics, piles and barriers -/

/-- 17 R289: SETF, CLRE and TAGRD of a local word, which must be aligned and inside the scratchpad: the writes are queued for
the commit, and TAGRD reads the tag as its seat observes it, which is as it stands where no event of the seat there is still to
be performed; it stalls behind one whose outcome is not known, and behind an acquire of its seat (12 R184, R190).

17 R291: the .G forms act on a word of class 01; SETF.G, CLRE.G and TAGRD.G queue their request for the commit, and any
other class is DATA_PERM. -/
def Obligations.TagInstructions : Prop :=
  (∀ (d a : Reg) (off : BitVec 16) (q : Sel) (s : State) (h : Hand), Unwatched h →
    let ea := rdS h a + off.signExtend 64
    let v := (rdS h d).extractLsb' 0 32
    let late := acqBehind s s.curFe s.curSeat || decide (seenTag s s.curFe s.curSeat ea.toNat = .later)
    (ea.toNat % 4 = 0 → ea.toNat + 4 ≤ 0x60000 →
      (Issues s h q 8 → ∃ m, exec (.setf d a off q) s =
          .next (slotDone 8 s h (queued { h with bytes := m } (.storeFull ea.toNat v))) ∧
        ∀ x, localByte s s.curFe { h with bytes := m } x =
          if ea.toNat ≤ x ∧ x < ea.toNat + 4 then (rdS h d).extractLsb' (8 * (x - ea.toNat)) 8
          else localByte s s.curFe h x) ∧
      (Issues s h q 8 → exec (.clre a off q) s = .next (slotDone 8 s h (queued h (.setEmpty ea.toNat false)))) ∧
      (Issues s h q 4 → late = true → ∃ t, exec (.tagrd d a off q) s = .next t ∧
        (cur t).hand = some { h with counted := true, stalled := true } ∧ t.mem = s.mem) ∧
      (Issues s h q 4 → late = false → exec (.tagrd d a off q) s =
        .next (slotDone 4 s h (setS d (if localTag s ea.toNat then 1 else 0) h))) ∧
      (Issues s h q 4 → Apart s ea.toNat 4 → exec (.tagrd d a off q) s =
        .next (slotDone 4 s h (setS d (if tagFull s (spBase s.curFe + ea.toNat) then 1 else 0) h)))) ∧
    (ea.toNat % 4 ≠ 0 →
      (Issues s h q 8 → exec (.setf d a off q) s = .next (slotDone 8 s h (recorded h 0x14 0 ea)) ∧
        exec (.clre a off q) s = .next (slotDone 8 s h (recorded h 0x14 0 ea))) ∧
      (Issues s h q 4 → late = false →
        exec (.tagrd d a off q) s = .next (slotDone 4 s h (recorded h 0x14 0 ea))))) ∧
  (∀ (d a : Reg) (off : BitVec 16) (q : Sel) (s : State) (h : Hand) (pa : Nat) (new : List Tlb), Issues s h q 8 → Unwatched h →
    let ea := rdS h a + off.signExtend 64
    let l := rdS h d
    let h' : Hand := { h with walked := h.walked ++ new }
    (Reaches s ea 4 { w := true } false pa new →
      (paClass pa = 1 →
        exec (.setfG d a off q) s = .next (slotDone 8 s h (queued h'
          (.send (request s h ea pa (.setf (l.extractLsb' 0 32)) none)))) ∧
        exec (.clreG a off q) s = .next (slotDone 8 s h (queued h' (.send (request s h ea pa .clre none))))) ∧
      (paClass pa ≠ 1 →
        exec (.setfG d a off q) s = .next (slotDone 8 s h (recorded h' 0x13 0 ea)) ∧
        exec (.clreG a off q) s = .next (slotDone 8 s h (recorded h' 0x13 0 ea)))) ∧
    (Reaches s ea 4 { r := true } false pa new →
      (paClass pa = 1 → Lands l 4 → exec (.tagrdG d a off q) s = .next (slotDone 8 s h (queued h'
        (.send (request s h ea pa .tagrd (some l.toNat)))))) ∧
      (paClass pa ≠ 1 → exec (.tagrdG d a off q) s = .next (slotDone 8 s h (recorded h' 0x13 0 ea)))))

/-- 17 R289, R290, 08 R130: LDF, LDX and STF of a word of the FE that no other request stands at and no event of the seat is still
to act on. A full word is read at once, and an LDX then holds it; an empty one is reserved at once for an STF; and otherwise the
seat waits in WAITING, in the bank's wait list, with nothing else changed in memory. Where an event of the seat at the word must
come first (12 R189, R190), an LDX or STF goes to its bank as a request, and the seat waits for the answer.

17 R291, R296: LDF.G, LDX.G, STF.G and POPW send their request when the seat reaches them and put the seat in WAITING;
the answer, once it is there, gives the value, with a hold, a reservation or the status, and the slot is over, with the
address of the request that was sent (09 R154). -/
def Obligations.TaggedWaits : Prop :=
  (∀ (d a : Reg) (off : BitVec 16) (nz : Bool) (q : Sel) (s : State) (h : Hand), Issues s h q 8 → Unwatched h → Fresh h →
    let ea := rdS h a + off.signExtend 64
    let pa := spBase s.curFe + ea.toNat
    let v := BitVec.ofNat 32 (rdBytes s.mem pa 4)
    let r : W64 := if nz then v.setWidth 64 else v.signExtend 64
    let w := (rdS h d).extractLsb' 0 32
    let hold (t : State) : State :=
      modFe s.curFe (fun f => { f with holds := f.holds ++ [{ pa := pa, fe := s.curFe, seat := s.curSeat }] }) t
    ea.toNat % 4 = 0 → ea.toNat + 4 ≤ 0x60000 → h.holds = [] → h.bytes = [] → (cur s).st = .running →
    (∀ i op, (i, op) ∈ ([(.ldx d a off nz q, .waitRead true), (.stf d a off q, .waitStf)] : List (Instr × ReqOp)) →
      (unperformed s).any (goesBefore (ownWait s ea.toNat op)) = true → MayWait s →
      ∃ t, exec i s = .next t ∧ (cur t).st = .waiting ∧ t.mem = s.mem ∧ t.reqs = s.reqs ++ [ownWait s ea.toNat op]) ∧
    (Uncontended s pa → Apart s ea.toNat 4 →
    (tagFull s pa = true →
      exec (.ldf d a off nz q) s = .next (slotDone 8 s h (setS d r h)) ∧
      exec (.ldx d a off nz q) s = .next (hold (slotDone 8 s h
        (queued (setS d r { h with holds := [{ pa := pa, val := v, remote := false }] }) (.setEmpty ea.toNat true)))) ∧
      (MayWait s → ∃ t, exec (.stf d a off q) s = .next t ∧ (cur t).st = .waiting ∧ t.mem = s.mem ∧
        (feAt t s.curFe).waits = (feAt s s.curFe).waits ++ [.stf s.curSeat pa] ∧
        (feAt t s.curFe).holds = (feAt s s.curFe).holds)) ∧
    (tagFull s pa = false →
      (∃ m, exec (.stf d a off q) s = .next (hold (slotDone 8 s h
        (queued { h with holds := [{ pa := pa, val := w, remote := false }], bytes := m } (.storeFull ea.toNat w))))) ∧
      (MayWait s → ∀ i ∈ ([.ldf d a off nz q, .ldx d a off nz q] : List Instr),
        ∃ t, exec i s = .next t ∧ (cur t).st = .waiting ∧ t.mem = s.mem ∧
          (feAt t s.curFe).holds = (feAt s s.curFe).holds ∧ ∃ x, (feAt t s.curFe).waits = (feAt s s.curFe).waits ++ [x])))) ∧
  (∀ (d a b : Reg) (off : BitVec 16) (o8 : BitVec 8) (nz g : Bool) (q : Sel) (s : State) (h : Hand) (pa : Nat) (new : List Tlb),
    Issues s h q 8 → Unwatched h → h.flt = none → h.holds = [] →
    let ea := rdS h a + off.signExtend 64
    let ep := rdS h a + o8.signExtend 64 * 32
    let v32 (v : W64) : W64 := if nz then (v.extractLsb' 0 32).setWidth 64 else (v.extractLsb' 0 32).signExtend 64
    let asks (i : Instr) (va : W64) (op : ReqOp) : Prop := MayWait s → h.entered = false → h.grant = none → h.asked = none →
      ∃ t, exec i s = .next t ∧ (cur t).st = .waiting ∧ t.reqs = s.reqs ++ [stampSlot s (request s h va pa op none)] ∧ t.mem = s.mem
    (Reaches s ea 4 { r := true } false pa new → paClass pa = 1 → asks (.ldfG d a off nz q) ea (.waitRead false)) ∧
    (Reaches s ea 4 { r := true, w := true } false pa new → paClass pa = 1 → asks (.ldxG d a off nz q) ea (.waitRead true)) ∧
    (Reaches s ea 4 { w := true } false pa new → paClass pa = 1 → asks (.stfG d a off q) ea .waitStf) ∧
    ((if g then Reaches s ep 32 { r := true, w := true } false pa new ∧ paClass pa ≤ 1
      else Lands ep 32 ∧ pa = ownPa s s.curFe ep.toNat) → asks (.popw d a b o8 g q) ep (.pile .popw)) ∧
    ∀ v st r, h.grant = some (v, st) → h.asked = some r →
      let held (x : W32) : Hand := { h with holds := [{ pa := wordId s r.pa, val := x, remote := true }] }
      exec (.ldfG d a off nz q) s = .next (slotDone 8 s h (setS d (v32 v) h)) ∧
      exec (.ldxG d a off nz q) s = .next (slotDone 8 s h (queued (setS d (v32 v) (held (v.extractLsb' 0 32)))
        (.send (request s h ea r.pa .take none)))) ∧
      (∃ m, (ownModule s r.pa = false ∨ feOfPa r.pa ≠ some s.curFe → m = h.bytes) ∧ exec (.stfG d a off q) s =
        .next (slotDone 8 s h (queued { held ((rdS h d).extractLsb' 0 32) with bytes := m }
          (.send (request s h ea r.pa (.stfWrite ((rdS h d).extractLsb' 0 32)) none))))) ∧
      exec (.popw d a b o8 g q) s = .next (slotDone 8 s h
        (setS b (BitVec.ofNat 64 st) (setS d v { h with popws := if st = 4 then h.popws else h.popws ++ [(r, v)] }))))

/-- 17 R292, 15 R251: an atomic checks its address, and a fetching one its landing area, while the hand runs; its request,
with the function and the operands, is queued for the commit. ASIG never lands. -/
def Obligations.Atomics : Prop :=
  ∀ (d a b : Reg) (off : BitVec 8) (g w64 : Bool) (q : Sel) (s : State) (h : Hand) (pa : Nat) (new : List Tlb),
    Issues s h q 8 → Unwatched h →
    let does (i : Instr) (fn : Nat) (wide : Bool) (land : Option Nat) : Prop :=
      let n := if wide then 8 else 4
      let ea := rdS h a + off.signExtend 64 * BitVec.ofNat 64 n
      let ok := if g then Reaches s ea n { r := true, w := true } false pa new ∧ paClass pa ≤ 1
        else Lands ea n ∧ pa = ownPa s s.curFe ea.toNat ∧ new = []
      ok → (∀ l ∈ land, Lands (rdS h d) n ∧ l = (rdS h d).toNat) →
      exec i s = .next (slotDone 8 s h (queued { h with walked := h.walked ++ new }
        (.send (request s h ea pa (.atomic fn wide (rdS h b) (rdS h (b + 1))) land))))
    let l := some (rdS h d).toNat
    does (.aadd d a b off false g w64 q) 0 w64 l ∧ does (.aadd d a b off true g w64 q) 0 w64 none ∧
    does (.amin d a b off false g w64 q) 1 w64 l ∧ does (.amin d a b off true g w64 q) 1 w64 none ∧
    does (.amax d a b off false g w64 q) 2 w64 l ∧ does (.amax d a b off true g w64 q) 2 w64 none ∧
    does (.aminn d a b off false g w64 q) 3 w64 l ∧ does (.aminn d a b off true g w64 q) 3 w64 none ∧
    does (.amaxn d a b off false g w64 q) 4 w64 l ∧ does (.amaxn d a b off true g w64 q) 4 w64 none ∧
    does (.aand d a b off false g w64 q) 5 w64 l ∧ does (.aand d a b off true g w64 q) 5 w64 none ∧
    does (.aor d a b off false g w64 q) 6 w64 l ∧ does (.aor d a b off true g w64 q) 6 w64 none ∧
    does (.axor d a b off false g w64 q) 7 w64 l ∧ does (.axor d a b off true g w64 q) 7 w64 none ∧
    does (.axchg d a b off false g w64 q) 8 w64 l ∧ does (.axchg d a b off true g w64 q) 8 w64 none ∧
    does (.acas d a b off false g w64 q) 9 w64 l ∧ does (.acas d a b off true g w64 q) 9 w64 none ∧
    does (.afadd d a b off false g q) 10 false l ∧ does (.afadd d a b off true g q) 10 false none ∧
    does (.asig a b off g w64 q) 11 w64 none

/-- 17 R294, R295, 08 R139: PINIT, PUSH and POP check the pile's header and their landing area while the hand runs, and queue
their request for the commit. -/
def Obligations.PileInstructions : Prop :=
  ∀ (d a b : Reg) (off : BitVec 8) (g : Bool) (q : Sel) (s : State) (h : Hand) (pa : Nat) (new : List Tlb),
    Issues s h q 8 → Unwatched h →
    let ea := rdS h a + off.signExtend 64 * 32
    let ok := if g then Reaches s ea 32 { r := true, w := true } false pa new ∧ paClass pa ≤ 1
      else Lands ea 32 ∧ pa = ownPa s s.curFe ea.toNat ∧ new = []
    let l := rdS h d
    let sent (op : PileOp) : Hand := queued { h with walked := h.walked ++ new }
      (.send (request s h ea pa (.pile op) (some l.toNat)))
    ok →
    (Lands l 4 →
      exec (.pinit d a b off g q) s = .next (slotDone 8 s h (sent
        (.pinit ((rdS h b).extractLsb' 0 32) ((rdS h b).extractLsb' 32 32)))) ∧
      exec (.push d a b off g q) s = .next (slotDone 8 s h (sent (.push (rdS h b))))) ∧
    (Lands l 16 → exec (.pop d a off g q) s = .next (slotDone 8 s h (sent .pop)))

/-- 17 R297, 08 R132, R133: the barrier instructions on an object of the FE, numbered below 2048 (any other number is
LOCAL_BOUNDS): BINIT, BARR and BRST are queued for the commit, BTEST reads word 1, and a BWAIT on a phase that has gone by
yields PHASE and LAST at once (RESET of a FREE object), or BARRIER_OVERRUN after an overrun with TRAP set. Behind an arrival of
its seat at the object that is still to be performed a BTEST stalls and a BWAIT waits as a request to the barrier unit (12 R189,
R190).

17 R297, R298: a remote BARR and BTEST queue their request; a fence is queued for the commit, where it waits for the
seat's earlier accesses (12 R187). -/
def Obligations.BarrierInstructionsAndFences : Prop :=
  (∀ (d a b : Reg) (trap byteMode : Bool) (q : Sel) (s : State) (h : Hand),
    let n := (rdS h a).toNat
    let x := barAt (feAt s s.curFe) n
    let late := acqBehind s s.curFe s.curSeat || (ownPend s s.curFe s.curSeat (0x60000 + 8 * n) 8).any (isWriteOp ·.op)
    let wait := ownWait s (0x60000 + 8 * n) (.bwait ((rdS h b).extractLsb' 0 8))
    let bad (w : Nat) (i : Instr) : Prop := Issues s h q w → exec i s = .next (slotDone w s h (recorded h 0x15 0 0))
    (n < 2048 →
      (Issues s h q 8 →
        exec (.binit a b trap byteMode q) s = .next (slotDone 8 s h (queued h (.binit n byteMode trap
          (if byteMode then (rdS h b).extractLsb' 0 48 else ((rdS h b).extractLsb' 0 32).setWidth 48)))) ∧
        exec (.barr a b false q) s = .next (slotDone 8 s h (queued h (.barr n (rdS h b).toNat))) ∧
        exec (.brst a q) s = .next (slotDone 8 s h (queued h (.brst n)))) ∧
      (late = true → Issues s h q 4 → ∃ t, exec (.btest d a false q) s = .next t ∧ t.mem = s.mem ∧
        (cur t).hand = some { h with counted := true, stalled := true }) ∧
      ((unperformed s).any (goesBefore wait) = true → Issues s h q 8 → Fresh h → MayWait s →
        ∃ t, exec (.bwait d a b false q) s = .next t ∧ (cur t).st = .waiting ∧ t.mem = s.mem ∧ t.reqs = s.reqs ++ [wait]) ∧
      (Issues s h q 4 → late = false → ∃ v : W64, exec (.btest d a false q) s = .next (slotDone 4 s h (setS d v h)) ∧
        v.extractLsb' 0 48 = x.arrived ∧ v.extractLsb' 56 8 = x.phase ∧ v.getLsbD 55 = x.byteMode ∧ v.getLsbD 54 = x.trap ∧
        v.extractLsb' 52 2 = (match x.st with | .free => 0 | .opened => 1 | .error => 2) ∧
        v.extractLsb' 50 2 = (if x.st = .free then 3 else match x.last with | .ok => 0 | .overrun => 1 | .error => 2 | .reset => 3)) ∧
      (Issues s h q 8 → Fresh h → Apart s (0x60000 + 8 * n) 8 → x.st ≠ .opened ∨ x.phase ≠ (rdS h b).extractLsb' 0 8 →
        let overrun := x.st ≠ .free ∧ x.last = .overrun ∧ x.trap = true
        (¬ overrun → ∃ v : W64, exec (.bwait d a b false q) s = .next (slotDone 8 s h (setS d v h)) ∧
          v.extractLsb' 8 8 = x.phase ∧ v.toNat % 256 = (if x.st = .free then 3
            else match x.last with | .ok => 0 | .overrun => 1 | .error => 2 | .reset => 3)) ∧
        (overrun → exec (.bwait d a b false q) s = .next (slotDone 8 s h (recorded h 0x38 (BitVec.ofNat 64 n) 0)))) ∧
      (Issues s h q 8 → Fresh h → Apart s (0x60000 + 8 * n) 8 → x.st = .opened →
        x.phase = (rdS h b).extractLsb' 0 8 → MayWait s →
        ∃ t, exec (.bwait d a b false q) s = .next t ∧ (cur t).st = .waiting ∧ t.mem = s.mem)) ∧
    (2048 ≤ n → h.flt = none →
      bad 8 (.binit a b trap byteMode q) ∧ bad 8 (.barr a b false q) ∧ bad 8 (.brst a q) ∧
      bad 4 (.btest d a false q) ∧ bad 8 (.bwait d a b false q))) ∧
  (∀ (d a b : Reg) (scope : BitVec 3) (q : Sel) (s : State) (h : Hand) (pa : Nat) (new : List Tlb),
    let l := rdS h d
    let object : Prop := paClass pa = 1 ∧ 0x60000 ≤ paOff pa ∧ paOff pa < 0x64000
    let h' : Hand := { h with walked := h.walked ++ new }
    (Issues s h q 8 → Reaches s (rdS h a) 8 { w := true } true pa new → object → exec (.barr a b true q) s =
      .next (slotDone 8 s h (queued h' (.send (request s h (rdS h a) pa (.barr (rdS h b).toNat) none))))) ∧
    (Issues s h q 4 → Reaches s (rdS h a) 8 { r := true } true pa new → object → Lands l 8 →
      exec (.btest d a true q) s = .next (slotDone 4 s h (queued h'
        (.send (request s h (rdS h a) pa .btest (some l.toNat)))))) ∧
    (Issues s h q 8 → Fresh h → MayWait s → Reaches s (rdS h a) 8 { r := true } true pa new → object →
      ∃ t, exec (.bwait d a b true q) s = .next t ∧ (cur t).st = .waiting ∧ t.mem = s.mem ∧
        t.reqs = s.reqs ++ [stampSlot s (request s h (rdS h a) pa (.bwait ((rdS h b).extractLsb' 0 8)) none)]) ∧
    (Issues s h q 4 → exec (.fenceLd scope q) s = .next (slotDone 4 s h (queued h (.fence true false false scope))) ∧
      exec (.fenceSt scope q) s = .next (slotDone 4 s h (queued h (.fence false true false scope))) ∧
      exec (.fenceAll scope q) s = .next (slotDone 4 s h (queued h (.fence true true true scope)))))

/-! ### Streams, planes and the configuration network -/

/-- 18 R311 to R314: a stream command whose bytes are aligned and in bounds is queued for the commit with the words of its
registers; a sparse SOUT with an odd port, a row of 0 or of more than 4,096 elements or 8,192 bytes, or a capacity of 0 or
above the row, is RESERVED_FIELD.

18 R317, R318: SPUSH and PORTRST are queued for the commit; SPULL of a sink port that is not in ERROR, has no reserved
element and carries a token without an error reads its first element with its flags, reserves it and is queued to remove
it; SPEEK reads the same with bit 63 set; both see nothing of an empty channel, where SPULL waits; PORTSTAT reads DONE,
ECODE and the depths. -/
def Obligations.StreamAndPortInstructions : Prop :=
  (∀ (port : Port) (a b : Reg) (pl : Plane) (esz : BitVec 2) (q : Sel) (s : State) (h : Hand), Issues s h q 8 → Unwatched h →
    let es := 4 / 2 ^ esz.toNat
    let x := rdS h a
    let n := (rdS h b).toNat % 2 ^ 32
    let cap := (rdS h b).toNat / 2 ^ 32
    let row (k : Nat) : Nat := 4 * (1 + (n + 31) / 32 + (k * es + 3) / 4)
    let cmd (sparse : Bool) : StreamCmd :=
      { seat := s.curSeat, hand := h.addr, addr := x, count := rdS h b, glob := false, esz := esz, sparse := sparse,
        ctx := (cur s).ctx }
    let sent (sink sparse : Bool) : Hand := queued h (.stream pl sink port (cmd sparse))
    let fits (al bytes : Nat) : Prop := x.toNat % al = 0 ∧ x.toNat + bytes ≤ 0x60000
    (fits es (n * es) →
      exec (.sinDense port a b pl false esz q) s = .next (slotDone 8 s h (sent false false)) ∧
      exec (.soutDense port a b pl false esz q) s = .next (slotDone 8 s h (sent true false))) ∧
    (fits 4 (row n) → exec (.sinExpand port a b pl false esz q) s = .next (slotDone 8 s h (sent false true))) ∧
    (port.toNat % 2 = 0 → 0 < n → n ≤ 4096 → n * es ≤ 8192 → 0 < cap → cap ≤ n → fits 4 (row cap) →
      exec (.soutSparse port a b pl false esz q) s = .next (slotDone 8 s h (sent true true))) ∧
    (port.toNat % 2 = 1 ∨ n = 0 ∨ 4096 < n ∨ 8192 < n * es ∨ cap = 0 ∨ n < cap →
      exec (.soutSparse port a b pl false esz q) s = .next (slotDone 8 s h (recorded h 0x02 0 0))) ∧
    (x.toNat % es ≠ 0 → exec (.sinDense port a b pl false esz q) s = .next (slotDone 8 s h (recorded h 0x14 0 x)))) ∧
  (∀ (d a : Reg) (port : Port) (pl : Plane) (eor last sink : Bool) (q : Sel) (s : State) (h : Hand),
    let f := feAt s s.curFe
    let p := portOf f pl.toNat (16 + port.toNat)
    let ch := sinkChan f pl.toNat port.toNat
    (Issues s h q 8 →
      exec (.spush port a pl eor last q) s =
        .next (slotDone 8 s h (queued h (.spush pl port ((rdS h a).extractLsb' 0 32) eor last))) ∧
      exec (.portrst port pl sink q) s = .next (slotDone 8 s h (queued h (.portrst pl sink port)))) ∧
    (Issues s h q 4 → ∃ v : W64, exec (.portstat d port pl sink q) s = .next (slotDone 4 s h (setS d v h)) ∧
      let x := portOf f pl.toNat (if sink then 16 + port.toNat else port.toNat)
      v.extractLsb' 32 16 = x.done ∧ v.extractLsb' 24 8 = x.ecode ∧ v.getLsbD 16 = decide (x.ecode ≠ 0) ∧
      (v.extractLsb' 20 4).toNat = Nat.min 8 x.queue.length) ∧
    (∀ t rest v vs, ch = t :: rest → t.elems = v :: vs → t.err = false → p.ecode = 0 → p.reserved = 0 →
      ∃ w : W64, w.extractLsb' 0 32 = v ∧ w.getLsbD 32 = t.empty.getLsbD 0 ∧ w.getLsbD 33 = (t.eor && vs.isEmpty) ∧
        w.getLsbD 34 = (t.last && vs.isEmpty) ∧ w.getLsbD 35 = t.abort ∧
        (Issues s h q 4 → exec (.speek d port pl q) s = .next (slotDone 4 s h (setS d (w ||| (1 <<< 63)) h))) ∧
        (Issues s h q 8 → h.flt = none → exec (.spull d port pl q) s = .next (modPort s.curFe pl.toNat (16 + port.toNat)
          (fun x => { x with reserved := 1, holder := some s.curSeat })
          (slotDone 8 s h (queued (setS d w h) (.spull pl port)))))) ∧
    (ch = [] → p.ecode = 0 →
      (Issues s h q 4 → exec (.speek d port pl q) s = .next (slotDone 4 s h (setS d 0 h))) ∧
      (Issues s h q 8 → h.flt = none → MayWait s →
        ∃ t, exec (.spull d port pl q) s = .next t ∧ (cur t).st = .waiting ∧ t.mem = s.mem)))

/-- 18 R306, R307, R309: PLANEON records FORMAT with the plane and the lowest field at fault, and is queued otherwise;
PLANEOFF, ARBW, CFG of a readable packet and CFGW are queued; and CFGSYNC, once the packets sent before its hand have been
applied without a failure, goes on, and waits before that. -/
def Obligations.PlaneAndConfiguration : Prop :=
  ∀ (a b : Reg) (pl : Plane) (wt : BitVec 8) (q : Sel) (s : State) (h : Hand) (pa : Nat) (new : List Tlb),
    (Issues s h q 8 →
      (planeBad s (feAt s s.curFe) pl.toNat = none →
        exec (.planeon pl q) s = .next (slotDone 8 s h (queued h (.planeon pl)))) ∧
      (∀ n, planeBad s (feAt s s.curFe) pl.toNat = some n → exec (.planeon pl q) s =
        .next (slotDone 8 s h (recorded h 0x24 (BitVec.ofNat 64 (pl.toNat * 256 + n)) 0))) ∧
      exec (.planeoff pl q) s = .next (slotDone 8 s h (queued h (.planeoff pl))) ∧
      (Reaches s (rdS h a) 8 { r := true } false pa new → exec (.cfg a pl q) s =
        .next (slotDone 8 s h (queued { h with walked := h.walked ++ new } (.cfg (rdS h a) pl)))) ∧
      exec (.cfgw a b q) s = .next (slotDone 8 s h (queued h
        (.cfgw ((rdS h a).extractLsb' 0 32) ((rdS h b).extractLsb' 0 32)))) ∧
      (h.flt = none → h.cfgMark ≤ (cur s).cfgDone → (∀ e ∈ (cur s).cfgFail, h.cfgMark ≤ e.1) →
        exec (.cfgsync q) s = .next (slotDone 8 s h h)) ∧
      (h.flt = none → (cur s).cfgDone < h.cfgMark → MayWait s →
        ∃ t, exec (.cfgsync q) s = .next t ∧ (cur t).st = .waiting ∧ t.mem = s.mem)) ∧
    (Issues s h q 4 → exec (.arbw wt pl q) s = .next (slotDone 4 s h (queued h (.arbw pl wt))))

/-! ### The matrix array -/

/-- 19 R331, R334, R335, R338, R340: MCLAIM claims a slot that no other seat claims, and MREL gives it back; the commands
that name slots need them claimed by the seat (SLOT_STATE with the slot's number otherwise); with aligned areas inside
the scratchpad they are queued for the array queue.

19 R336, R337, R339: MTILE checks its descriptor (FORMAT with the descriptor in FAULTINFO) and the extents of A and B;
ACCRD waits for the commands that entered before its hand, and then reads element S[sb][9:0] of its accumulator; ACCPEEK
reads it at once, with STEPS above it. -/
def Obligations.MatrixInstructions : Prop :=
  (∀ (a : Reg) (m m2 : Slot) (x : AccNo) (fmt : BitVec 3) (w : Bool) (q : Sel) (s : State) (h : Hand),
    let mine (k : Slot) : Prop := h.claims.getD k.toNat none = some s.curSeat
    let off := (rdS h a).toNat
    let arr (op : ArrOp) : Hand := queued h (.array op)
    (Issues s h q 4 →
      (h.claims.getD m.toNat none = none ∨ mine m → exec (.mclaim m q) s = .next (slotDone 4 s h
        (queued { h with claims := h.claims.set m.toNat (some s.curSeat) } (.mclaim m (BitVec.ofNat 7 h.slot))))) ∧
      (mine m → exec (.mrel m q) s = .next (slotDone 4 s h (queued { h with claims := h.claims.set m.toNat none } (.mrel m)))) ∧
      (¬ mine m → exec (.mrel m q) s = .next (slotDone 4 s h (recorded h 0x30 (m.setWidth 64) 0))) ∧
      exec (.accz x q) s = .next (slotDone 4 s h (arr (.accz x)))) ∧
    (Issues s h q 8 →
      (mine m → off % 64 = 0 → off + 2048 ≤ 0x60000 →
        exec (.mload a m q) s = .next (slotDone 8 s h (arr (.mload off m))) ∧
        exec (.mstore a m q) s = .next (slotDone 8 s h (arr (.mstore off m)))) ∧
      (¬ mine m → exec (.mload a m q) s = .next (slotDone 8 s h (recorded h 0x30 (m.setWidth 64) 0)) ∧
        exec (.mma x m m2 fmt q) s = .next (slotDone 8 s h (recorded h 0x30 (m.setWidth 64) 0))) ∧
      (mine m → mine m2 → exec (.mma x m m2 fmt q) s = .next (slotDone 8 s h (arr (.mma x m m2 fmt)))) ∧
      (mine m → mine m2 →
        let r := off % 64
        let c := off / 256 % 64
        (0 < r ∧ r ≤ 32 ∧ 0 < c ∧ c ≤ (if w then 16 else 32) →
          exec (.mtrans a m2 m w q) s = .next (slotDone 8 s h (arr (.mtrans m2 m w r c)))) ∧
        (r = 0 ∨ 32 < r ∨ c = 0 ∨ (if w then 16 else 32) < c →
          exec (.mtrans a m2 m w q) s = .next (slotDone 8 s h (recorded h 0x24 0 0)))) ∧
      (off % 64 = 0 → off + (if fmt = 2 then 4096 else 2048) ≤ 0x60000 → h.work.fpctl.extractLsb' 0 3 ≠ 4 →
        exec (.accst a x fmt q) s = .next (slotDone 8 s h (arr (.accst off x fmt h.work.fpctl h.work.srseed)))))) ∧
  (∀ (d a b : Reg) (m : Slot) (x : AccNo) (fmt : BitVec 3) (q : Sel) (s : State) (h : Hand),
    let mine (k : Nat) : Prop := h.claims.getD k none = some s.curSeat
    let dv := rdS h d
    let t := tileOf dv fmt.toNat
    let f := feAt s s.curFe
    let acc : Acc := f.accs[x.toNat]'(x.isLt)
    let e := KV.get 0 ((rdS h b).toNat % 1024) acc.elems
    (Issues s h q 16 → mine m.toNat → mine (m.toNat + 1) →
      (tileBad dv x.toNat fmt.toNat = true →
        exec (.mtile d a b x m fmt q) s = .next (slotDone 16 s h (recorded h 0x24 dv 0))) ∧
      (tileBad dv x.toNat fmt.toNat = false → (rdS h a).toNat % 64 = 0 → (rdS h b).toNat % 64 = 0 →
        (rdS h a).toNat + (31 * t.pa + t.ra) ≤ 0x60000 → (rdS h b).toNat + ((t.rowsB - 1) * t.pb + t.rb) ≤ 0x60000 →
        exec (.mtile d a b x m fmt q) s = .next (slotDone 16 s h
          (queued h (.array (.mtile dv (rdS h a).toNat (rdS h b).toNat x m fmt)))))) ∧
    (Issues s h q 8 →
      (h.flt = none → h.arrMark ≤ f.arrOut → exec (.accrd d b x q) s = .next (slotDone 8 s h (setS d (e.setWidth 64) h))) ∧
      (h.flt = none → f.arrOut < h.arrMark → MayWait s →
        ∃ t, exec (.accrd d b x q) s = .next t ∧ (cur t).st = .waiting ∧ t.mem = s.mem) ∧
      exec (.accpeek d b x q) s = .next (slotDone 8 s h (setS d (acc.steps.append e) h))))

/-! ### Cards, launches and cascades -/

/-- 14 R235, 19 R341, R349: a card is posted when its bytes are 64-byte aligned and inside the scratchpad, with as many receiver
entries as word 0 names where its KIND is that of a copy; the slot stalls while the seat cannot observe word 0 yet. LAUNCH is queued when its packet is readable;
CARDSTAT reads the progress of the oldest outstanding card of the tag, or 0. -/
def Obligations.CardsAndLaunch : Prop :=
  ∀ (d a b : Reg) (q : Sel) (s : State) (h : Hand) (pa : Nat) (new : List Tlb),
    let off := (rdS h a).toNat
    let w := localRead s s.curFe h off 8
    let bytes := 192 + if w / 2 ^ 44 % 16 = 1 ∨ w / 2 ^ 44 % 16 = 2 then 16 * (w / 2 ^ 36 % 16 + 1) else 0
    let post (kind : Nat) : Hand := queued h (.card off kind)
    let tag := (rdS h b).toNat % 2 ^ 16
    let mine (id : Nat) : Option Card := (KV.find id s.cards).filter fun c => (cardTag c.w).toNat == tag
    let posts : List Instr := [.cpy a q, .cpyx a q, .gstrm a q, .coll a q]
    let late := ownBehind s s.curFe s.curSeat off 8
    Issues s h q 8 →
    (late = false → off % 64 = 0 → off + bytes ≤ 0x60000 →
      exec (.cpy a q) s = .next (slotDone 8 s h (post 1)) ∧ exec (.cpyx a q) s = .next (slotDone 8 s h (post 2)) ∧
      exec (.gstrm a q) s = .next (slotDone 8 s h (post 3)) ∧ exec (.coll a q) s = .next (slotDone 8 s h (post 4))) ∧
    (late = false → off % 64 ≠ 0 → ∀ i ∈ posts, exec i s = .next (slotDone 8 s h (recorded h 0x14 0 (BitVec.ofNat 64 off)))) ∧
    (late = true → ∀ i ∈ posts, ∃ t, exec i s = .next t ∧ (cur t).hand = some { h with counted := true, stalled := true } ∧
      t.mem = s.mem) ∧
    (Reaches s (rdS h a) 256 { r := true } false pa new → exec (.launch a b q) s = .next (slotDone 8 s h
      (queued { h with walked := h.walked ++ new } (.launch (rdS h a) ((rdS h b).extractLsb' 0 16))))) ∧
    ((cur s).cards.findSome? mine = none → exec (.cardstat d b q) s = .next (slotDone 8 s h (setS d 0 h))) ∧
    (∀ c, (cur s).cards.findSome? mine = some c → ∃ v : W64,
      exec (.cardstat d b q) s = .next (slotDone 8 s h (setS d v h)) ∧ v.getLsbD 63 = true ∧
        v.extractLsb' 0 48 = BitVec.ofNat 48 (cardBytes c))

/-- 07 R115, 19 R351: BROW replays a row that is due again, yields all ones once N and its halo have been admitted or
the cascade is DONE, admits the next row that has been received, and waits for one that has not.

07 R116 to R122, 19 R351: the other row instructions of a stage at work, each with the condition under which it goes
on and CASCADE_BOUNDS where it does not; BREAD of a row and a column inside the lattice reads the bight row's word. -/
def Obligations.RowInstructions : Prop :=
  (∀ (d : Reg) (q : Sel) (s : State) (h : Hand) (b : Bight) (c : Cascade), Issues s h q 8 → h.flt = none → OnStage s h b c →
    let row (kind : Nat) (v : W64) : Hand := queued (setS d v h) (.brow kind)
    let ones := BitVec.allOnes 64
    (c.st = .done → exec (.brow d q) s = .next (slotDone 8 s h (row 2 ones))) ∧
    (c.st = .filling ∨ c.st = .streaming ∨ c.st = .draining →
      (b.redo ≠ 0 → exec (.brow d q) s = .next (slotDone 8 s h (row 0 (BitVec.ofNat 64 ((b.iss + c.h) % 2 ^ 32))))) ∧
      (b.redo = 0 → b.nknown = true → b.n + c.h ≤ b.adm → exec (.brow d q) s = .next (slotDone 8 s h (row 2 ones))) ∧
      (b.redo = 0 → (b.nknown = true → b.adm < b.n + c.h) → b.adm < b.rcv ∨ (b.nknown = true ∧ b.n ≤ b.adm) →
        exec (.brow d q) s = .next (slotDone 8 s h (row 1 (BitVec.ofNat 64 (b.adm % 2 ^ 32))))) ∧
      (b.redo = 0 → b.rcv ≤ b.adm → (b.nknown = true → b.adm < b.n) → b.rcv - b.ret < c.w → MayWait s →
        ∃ t, exec (.brow d q) s = .next t ∧ (cur t).st = .waiting ∧ t.mem = s.mem))) ∧
  (∀ (d a : Reg) (port : Port) (pl : Plane) (dr dc : BitVec 6) (sel : BitVec 3) (q : Sel) (s : State) (h : Hand)
    (b : Bight) (c : Cascade), OnStage s h b c → c.st ≠ .done →
    let does (i : Instr) (h' : Hand) : Prop := exec i s = .next (slotDone 8 s h h')
    let bad (i : Instr) : Prop := does i (recorded h 0x48 0 0)
    let near (x : BitVec 6) : Prop := -(c.h : Int) ≤ x.toInt ∧ x.toInt ≤ c.h
    let loads : Prop := ((c.stages.getD b.stage { hand := 0, const := 0, planes := 0, seat := 0 }).planes.getLsbD pl.toNat) = true
    (Issues s h q 8 →
      (b.pret < 63 → does (.bstep q) (queued h .bstep)) ∧
      (63 ≤ b.pret → bad (.bstep q)) ∧
      (loads → b.taps ≠ [] → b.iss + c.h + 1 ≤ b.adm → c.rpol ≠ 3 → does (.bemit port pl q) (queued h (.bemit pl port))) ∧
      (b.taps = [] ∨ b.adm < b.iss + c.h + 1 → bad (.bemit port pl q)) ∧
      (near dr → near dc → loads → b.taps.length < 16 →
        does (.btap port dr dc pl q) (queued h (.btap pl port dr.toInt dc.toInt))) ∧
      (¬ near dr ∨ ¬ near dc → bad (.btap port dr dc pl q) ∧ bad (.bread d dr dc q)) ∧
      (near dr → near dc → b.adm < b.iss + c.h + 1 → bad (.bread d dr dc q)) ∧
      (near dr → near dc → b.iss + c.h + 1 ≤ b.adm →
        let r := (b.iss : Int) + dr.toInt
        0 ≤ r → (b.nknown = true → r < b.n) → 0 ≤ dc.toInt → dc.toInt < c.lw →
        does (.bread d dr dc q) (setS d (BitVec.ofNat 64 (rdBytes s.mem (paKey (ownPa s s.curFe
          (c.base + 4 * ((c.lw + 2 * c.h) * (r.toNat % c.w)) + 4 * (dc.toInt + c.h).toNat))) 4)) h)) ∧
      (b.stage = 0 → does (.bend q) (queued h .bend)) ∧
      (b.stage ≠ 0 → bad (.bend q)) ∧
      does (.bendAbort q) (queued h .bendAbort) ∧
      does (.bseedC a q) (queued h (.bseedC ((rdS h a).extractLsb' 0 32))) ∧
      ((rdS h a).toNat % 4 = 0 → (rdS h a).toNat + 4 * c.lw ≤ 0x60000 → c.st = .placed → b.seeded < c.h →
        does (.bseedR a q) (queued h (.bseedR (rdS h a).toNat)))) ∧
    (Issues s h q 4 → ∃ v : W64, exec (.bstat d sel q) s = .next (slotDone 4 s h (setS d v h)) ∧
      (sel = 0 → v.getLsbD 8 = c.aborted ∧ v.getLsbD 7 = b.nknown ∧ v.getLsbD 6 = false) ∧
      (sel = 1 → v = BitVec.ofNat 64 (b.rcv % 2 ^ 32)) ∧ (sel = 2 → v = BitVec.ofNat 64 (b.adm % 2 ^ 32)) ∧ (sel = 3 → v = BitVec.ofNat 64 (b.iss % 2 ^ 32)) ∧
      (sel = 4 → v = BitVec.ofNat 64 (b.emt % 2 ^ 32)) ∧ (sel = 5 → v = BitVec.ofNat 64 (b.ret % 2 ^ 32)) ∧ (sel = 6 → v = BitVec.ofNat 64 (b.n % 2 ^ 32))))

/-! ### System instructions -/

/-- 19 R353 to R357: on an edge core each privileged instruction, with its landing area in order, queues its operation for
the commit, a MAPR or UNMAP once its seat observes the image it names (12 R190); off one it is PRIVILEGE; ICINV and HITCH are queued anywhere. -/
def Obligations.SystemInstructions : Prop :=
  ∀ (d a b : Reg) (dbg : Bool) (scope : BitVec 3) (q : Sel) (s : State) (h : Hand),
    let va := rdS h a
    let vb := rdS h b
    let l := (rdS h d).toNat
    let word (i : Nat) : W64 := BitVec.ofNat 64 (localRead s s.curFe h (vb.toNat + 8 * i) 8)
    let img : RangeImage := { base := word 0, limit := word 1, pa := word 2, perm := word 3 }
    let edge : Prop := 25600 ≤ s.curFe % 2 ^ 20
    let op (w n : Nat) (i : Instr) (x : SysOp) : Prop := Issues s h q w → Lands (rdS h d) n →
      exec i s = .next (slotDone w s h (queued h (.sys x l)))
    let off (w : Nat) (i : Instr) : Prop := Issues s h q w → exec i s = .next (slotDone w s h (recorded h 0x06 0 0))
    (edge →
      (Lands vb 8 → vb.toNat + 32 ≤ 0x60000 → ownBehind s s.curFe s.curSeat vb.toNat 32 = false →
        op 16 4 (.maprRange d a b q) (.mapr false va img) ∧ op 16 4 (.maprPage d a b q) (.mapr true va img) ∧
        op 16 4 (.unmap d a b q) (.unmap va img)) ∧
      op 8 4 (.dstep d a q) (.dstep va) ∧ op 8 4 (.dresume d a b q) (.dresume va vb) ∧
      op 8 4 (.preempt d a dbg q) (.preempt va dbg) ∧
      (Lands vb 32 → op 8 4 (.keyld d a b q) (.keyld va vb.toNat)) ∧
      op 8 8 (.lnkctlRead d a q) (.lnkctl 0 va 0) ∧ op 8 8 (.lnkctlEnable d a q) (.lnkctl 1 va 0) ∧
      op 8 8 (.lnkctlDisable d a q) (.lnkctl 2 va 0) ∧ op 8 8 (.lnkctlReset d a q) (.lnkctl 3 va 0) ∧
      op 8 8 (.lnkctlClear d a q) (.lnkctl 4 va 0) ∧ op 8 8 (.lnkctlLongReach d a b q) (.lnkctl 5 va vb) ∧
      op 8 8 (.lnkctlEncryption d a b q) (.lnkctl 6 va vb) ∧ op 8 8 (.lnkctlReplayTimeout d a b q) (.lnkctl 7 va vb)) ∧
    (¬ edge →
      off 16 (.maprRange d a b q) ∧ off 16 (.maprPage d a b q) ∧ off 16 (.unmap d a b q) ∧ off 8 (.dstep d a q) ∧
      off 8 (.dresume d a b q) ∧ off 8 (.preempt d a dbg q) ∧ off 8 (.keyld d a b q) ∧ off 8 (.lnkctlRead d a q) ∧
      off 8 (.lnkctlEnable d a q) ∧ off 8 (.lnkctlDisable d a q) ∧ off 8 (.lnkctlReset d a q) ∧ off 8 (.lnkctlClear d a q) ∧
      off 8 (.lnkctlLongReach d a b q) ∧ off 8 (.lnkctlEncryption d a b q) ∧ off 8 (.lnkctlReplayTimeout d a b q)) ∧
    (Issues s h q 8 → exec (.icinv a b scope q) s = .next (slotDone 8 s h (queued h (.icinv va vb scope))) ∧
      exec (.hitch q) s = .next (slotDone 8 s h (queued h .hitch)))

/-! ### Requests at their homes -/

/-- 17 R289, R291, 08 R130, R131: what the bank units do with a tag request when nothing waits in their lists: SETF.G and
the write of an STF.G store the word and set it full, CLRE.G and the take of an LDX.G empty it, TAGRD.G answers the tag,
and a release ends the requester's hold of the word, with the tag as it stands.

17 R291, 08 R130: a wait request for a full word is answered at once with its value, an LDX.G's with a hold; for an
empty one it is put in the wait list, and an STF.G's is granted a reservation. -/
def Obligations.TagAndWaitRequestsAtHome : Prop :=
  (∀ (s : State) (n : Nat) (r : Req) (fe : Nat), AtBank s n r fe → (feAt s fe).waits = [] →
    let pa := paKey r.pa
    let kept (t : State) : Prop := t.reqs = removeAt n s.reqs ∧ t.replies = s.replies
    (∀ v, r.op = .setf v ∨ r.op = .stfWrite v → ∃ t, exec (.bankPacket n) s = .next t ∧ Wrote s t pa 4 v.toNat ∧
      tagFull t r.pa = true ∧ kept t) ∧
    (r.op = .clre → ∃ t, exec (.bankPacket n) s = .next t ∧ t.mem = s.mem ∧ tagFull t r.pa = false ∧ kept t) ∧
    (r.op = .take → ∃ t, exec (.holdTake n) s = .next t ∧ t.mem = s.mem ∧ tagFull t r.pa = false ∧ kept t) ∧
    (∀ off, r.op = .tagrd → r.land = some off → exec (.bankPacket n) s = .next { s with
      reqs := removeAt n s.reqs, replies := s.replies ++ [replyTo r (.land [if tagFull s r.pa then 1 else 0])] }) ∧
    (r.op = .release → ∃ t, exec (.holdRelease n) s = .next t ∧ t.mem = s.mem ∧ t.tags = s.tags ∧ kept t ∧
      (feAt t fe).holds = (feAt s fe).holds.filter fun x => !(x.pa == pa && x.fe == r.fe && x.seat == r.seat))) ∧
  (∀ (s : State) (n : Nat) (r : Req) (fe : Nat), AtBank s n r fe → (feAt s fe).waits = [] → (feAt s fe).holds = [] →
    let pa := paKey r.pa
    let v := BitVec.ofNat 64 (rdBytes s.mem pa 4)
    let holding (t : State) (b : Bool) : Prop := (feAt t fe).holds = if b then [{ pa := pa, fe := r.fe, seat := r.seat }] else []
    let answered (t : State) (v : W64) (b : Bool) : Prop :=
      t.replies = s.replies ++ [replyTo r (.grant v 0)] ∧ (feAt t fe).waits = [] ∧ holding t b ∧ t.mem = s.mem ∧ t.tags = s.tags
    let waiting (t : State) : Prop :=
      t.replies = s.replies ∧ (feAt t fe).waits = [.remote r] ∧ holding t false ∧ t.mem = s.mem ∧ t.tags = s.tags
    (∀ take, r.op = .waitRead take → ∃ t, exec (.remoteWaitRequest n) s = .next t ∧
      if tagFull s pa then answered t v take else waiting t) ∧
    (r.op = .waitStf → ∃ t, exec (.remoteWaitRequest n) s = .next t ∧
      if tagFull s pa then waiting t else answered t 0 true))

/-- 17 R292: an atomic at its bank changes memory in one step and nothing but its own bytes, leaves every tag, and answers
the old value when it lands; AFADD adds in FP32 under RNE, an exact zero being +0. -/
def Obligations.AtomicsAtHome : Prop :=
  ∀ (s : State) (n : Nat) (r : Req) (fe fn : Nat) (wide : Bool) (v v2 : W64), AtBank s n r fe →
    r.op = .atomic fn wide v v2 → fn < 12 → (fn = 10 → wide = false) →
    let w := if wide then 64 else 32
    let old := rdBytes s.mem (paKey r.pa) (w / 8)
    let sum := (fAdd .fp32 (Rnd.of 0 1) old (v.toNat % 2 ^ 32)).1
    let new := if fn = 10 then (if sum = 2 ^ 31 then 0 else sum)
      else atomicResult fn w old (v.toNat % 2 ^ w) (v2.toNat % 2 ^ w)
    let words : List W32 := if wide then [BitVec.ofNat 32 old, BitVec.ofNat 32 (old / 2 ^ 32)] else [BitVec.ofNat 32 old]
    ∃ t, exec (.bankPacket n) s = .next t ∧ Wrote s t (paKey r.pa) (w / 8) new ∧ t.tags = s.tags ∧ t.fes = s.fes ∧
      t.replies = s.replies ++ (match r.land with | some _ => [replyTo r (.land words)] | none => [])

/-- 08 R138 to R140, 17 R295: a pile operation at the bank that holds its header, once it has passed its meld points and
with no POPW parked there: PINIT writes the header, a push appends its value below CAP (status 0) and is FULL (3) at CAP, a
pop takes the last value, an empty pile answers EMPTY (2) to POP and parks a POPW; a header that breaks R137 is BAD (4). -/
def Obligations.PilesAtHome : Prop :=
  ∀ (s : State) (n : Nat) (r : Req) (fe : Nat) (op : PileOp) (off : Nat), AtBank s n r fe →
    (feAt s fe).waits = [] → r.op = .pile op → (meldPath r.fe r.pa).drop r.hops = [] →
    (op ≠ .popw → r.land = some off) →
    let lands (t : State) (ws : List W32) : Prop := t.replies = s.replies ++ [replyTo r (.land ws)] ∧ t.tags = s.tags
    (∀ cap base, op = .pinit cap base → cap ≠ 0 → base.toNat % 8 = 0 → 32 ≤ base.toNat →
      r.pa % 2 ^ 19 + base.toNat + 8 * cap.toNat ≤ 0x60000 → ∃ t, exec (.pileOpAtHome n) s = .next t ∧ lands t [0] ∧
        rdPa t r.pa 8 = cap.toNat ∧ rdPa t (r.pa + 8) 8 = 0 ∧ rdPa t (r.pa + 16) 8 = base.toNat ∧ rdPa t (r.pa + 24) 8 = 0 ∧
        ∀ a, (a < paKey r.pa ∨ paKey r.pa + 32 ≤ a) → memByte t.mem a = memByte s.mem a) ∧
    ((∀ cap base, op ≠ .pinit cap base) → pileHeader s r.pa = none → op ≠ .popw →
      ∃ t, exec (.pileOpAtHome n) s = .next t ∧ lands t (if op = .pop then [0, 0, 4, 0] else [4]) ∧ t.mem = s.mem) ∧
    (∀ cap count base, pileHeader s r.pa = some (cap, count, base) →
      (∀ v, op = .push v → count < cap → ∃ t, exec (.pileOpAtHome n) s = .next t ∧ lands t [0] ∧
        rdPa t (r.pa + base + 8 * count) 8 = v.toNat ∧ rdPa t (r.pa + 8) 8 = count + 1) ∧
      (∀ v, op = .push v → count = cap → ∃ t, exec (.pileOpAtHome n) s = .next t ∧ lands t [3] ∧ t.mem = s.mem) ∧
      (op = .pop → 0 < count → ∃ t, exec (.pileOpAtHome n) s = .next t ∧
        (let v := rdPa s (r.pa + base + 8 * (count - 1)) 8
         lands t [BitVec.ofNat 32 v, BitVec.ofNat 32 (v / 2 ^ 32), 0, 0]) ∧ rdPa t (r.pa + 8) 8 = count - 1) ∧
      (op = .pop → count = 0 → ∃ t, exec (.pileOpAtHome n) s = .next t ∧ lands t [0, 0, 2, 0] ∧ t.mem = s.mem) ∧
      (op = .popw → count = 0 → ∃ t, exec (.pileOpAtHome n) s = .next t ∧ (feAt t fe).waits = [.remote r] ∧
        t.replies = s.replies ∧ t.mem = s.mem))

/-- 17 R286, 04 R59: a split-phase reply that its requester takes, over links that carry it, lands its words in ascending order in the scratchpad of
an FE that its context still holds, each tag set full, and is no longer outstanding; no other byte changes.

17 R291, 08 R140: the answer to a wait request, and that to a POPW, that its requester takes, over links that carry it,
wakes the seat that waits for it with the value and status that it carries. -/
def Obligations.RepliesLandAndWake : Prop :=
  (∀ (s : State) (n : Nat) (r : Req) (ws : List W32) (off : Nat), s.replies[n]? = some ⟨r, .land ws⟩ → r.land = some off →
    isWaitReq r = false → isPopw r = false → r.far = none → replyReady s ⟨r, .land ws⟩ = true → routeDead s (replyRoute s r) = false → (feAt s r.fe).holder = some r.ctx → r.seat < 4 →
    r.fe < 25600 → off % 4 = 0 → off + 4 * ws.length ≤ 0x60000 →
    let a := spBase r.fe + off
    ∃ t, exec (.splitPhaseReply n) s = .next t ∧ (∃ more, t.replies = removeAt n s.replies ++ more) ∧
      (∀ i v, ws[i]? = some v → rdBytes t.mem (a + 4 * i) 4 = v.toNat ∧ tagFull t (a + 4 * i) = true) ∧
      (∀ x, (x < a ∨ a + 4 * ws.length ≤ x) → memByte t.mem x = memByte s.mem x) ∧
      (seatAt t r.fe r.seat).splits = (seatAt s r.fe r.seat).splits.filter (· != r.id)) ∧
  (∀ (s : State) (n : Nat) (r : Req) (v : W64) (st : Nat) (h : Hand), s.replies[n]? = some ⟨r, .grant v st⟩ →
    r.far = none → replyReady s ⟨r, .grant v st⟩ = true → routeDead s (replyRoute s r) = false → r.seat < 4 → (seatAt s r.fe r.seat).hand = some h → h.asked.map (·.id) = some r.id →
    (seatAt s r.fe r.seat).st = .waiting →
    let woken (t : State) : Prop := (seatAt t r.fe r.seat).st = .running ∧ t.replies = removeAt n s.replies ∧
      (seatAt t r.fe r.seat).hand = some { h with grant := some (v, st), stalled := false } ∧ t.mem = s.mem
    (isWaitReq r = true → ∃ t, exec (.waitRequestReply n) s = .next t ∧ woken t) ∧
    (isPopw r = true → ∃ t, exec (.popwAnswer n) s = .next t ∧ woken t))

/-- 08 R129, R141, R142: a refused request is sent again over its whole way; a waiting pile operation whose window expires goes on;
a pile operation reaches the far end of its next meld point's links once they take its flits (10 R161), and there a push and a
pop of two seats of one context on one header answer each other, the answers having the way before them that lies beyond the
point; an operation that finds no partner waits at its first point, with room there and a window. -/
def Obligations.MeldsAndResends : Prop :=
  ∀ (s : State) (n : Nat),
    (∀ r, s.refused[n]? = some r → r.step = true ∨ jobFrozen s r.ctx = false → exec (.refusedResend n) s =
      .next { s with refused := removeAt n s.refused, reqs := s.reqs ++ [{ r with hops := 0, hop := 0, flit := none }] }) ∧
    (∀ m, s.melds[n]? = some m → recvFrozen s m.req.ctx = false → exec (.meldWindowExpiry n) s =
      .next { s with melds := removeAt n s.melds, reqs := s.reqs ++ [m.req] }) ∧
    (∀ r p, InFlight s n r → ownModule s r.pa = true → (meldLeft s r).head? = some p →
      let way := nextRoute s r
      let there : State := each way (crossLink r.ctx) { s with reqs := removeAt n s.reqs }
      let back (x : Req) (ws : List W32) : Reply := { req := { x with hop := beyondMeld s x p, flit := none }, body := .land ws }
      routeDead s (reqRoute s r) = false → takesReq s r way = true →
      (∀ m v, s.melds = [m] → m.point = p → r.op = .pile .pop → m.req.op = .pile (.push v) → m.req.ctx = r.ctx →
        m.req.pa = r.pa → (m.req.fe, m.req.seat) ≠ (r.fe, r.seat) → r.land ≠ none → m.req.land ≠ none → m.req.far = none →
        s.replies = [] → exec (.meldPointArrival n p) s = .next { there with
          melds := []
          replies := [back { r with hop := r.hop + way.length } [v.extractLsb' 0 32, v.extractLsb' 32 32, 1, 0], back m.req [1]] }) ∧
      ((∃ v, r.op = .pile (.push v)) ∨ r.op = .pile .pop ∨ r.op = .pile .popw →
        s.melds = [] → r.hops = 0 → (ctxAt s r.ctx).meldWin ≠ 0 → exec (.meldPointArrival n p) s = .next { there with
        melds := [⟨p, { r with hops := 1, hop := r.hop + way.length }, meldClock s r.ctx + (ctxAt s r.ctx).meldWin.toNat⟩] }))

/-- 13 R200, R201, 26 R397, 10 R166, R406: a request at its gather unit, nothing of its seat coming before it: on a closed
channel it waits; a hit is performed; a miss begins a fill, whose merge window closes early when the unit holds no other
request. A packet for a module that a route entry names goes over its links and asks nothing more of this module, a read
being answered and a write acknowledged; a pile operation is answered BAD; one for a module that no entry names is reported and
fails, as does one whose time runs out. -/
def Obligations.GatherUnitRequests : Prop :=
  ∀ (s : State) (n : Nat) (r : Req), InFlight s n r →
    let out : State := { s with reqs := removeAt n s.reqs }
    let ch := chanOfPa r.pa
    let tr := trainAt s ch
    let g := guAt s (guOfPa r.pa)
    (ownModule s r.pa = true → paClass r.pa = 0 → reqRoute s r = [] →
      (∀ b v, r.op = .write b v →
        (tr.opened = false → exec (.guRequest n) s =
          .next (modTrain ch (fun t => { t with waiting := t.waiting ++ [r] }) out)) ∧
        (tr.opened = true → tr.closing = false → tr.accepted = [] → g.copying = [] → g.fills = [] →
          (KV.find (segOf r.pa) g.cached ≠ none →
            ∃ t, exec (.guRequest n) s = .next t ∧ Wrote s t (paKey r.pa) b v.toNat ∧ t.tags = s.tags ∧
              KV.get false (segOf r.pa) (guAt t (guOfPa r.pa)).cached = true) ∧
          (KV.find (segOf r.pa) g.cached = none → g.rowWait = [] → ∃ t, exec (.guRequest n) s = .next t ∧ t.mem = s.mem ∧
            (guAt t (guOfPa r.pa)).fills = [(segOf r.pa, true, [r])]))) ∧
      (∀ b z off, r.op = .read b z → r.land = some off → b ∈ [1, 2, 4, 8] → tr.opened = true → tr.closing = false →
        tr.accepted = [] → g.copying = [] → g.fills = [] → KV.find (segOf r.pa) g.cached ≠ none →
        ∃ t ws, exec (.guRequest n) s = .next t ∧ t.mem = s.mem ∧ t.replies = s.replies ++ [replyTo r (.land ws)] ∧
          (b = 4 → ws = [BitVec.ofNat 32 (rdPa s r.pa 4)]))) ∧
    (ownModule s r.pa = false →
      (∀ p, routePort s (paModule r.pa) = some p → paBad s r.pa = false → (linkAt s (riggingKey p)).st ≠ .down →
        (linkAt s (riggingKey p)).st ≠ .failed → routeDead s (reqRoute s r) = false → takesReq s r (reqRoute s r) = true →
        let there := each (reqRoute s r) (crossLink r.ctx) s
        let sent (t : State) (l : List Reply) : Prop := t.reqs = removeAt n s.reqs ∧ t.replies = s.replies ++ l ∧
          t.mem = s.mem ∧ t.reports = there.reports ∧ t.links = there.links
        (∀ b v, r.op = .write b v → r.land = none → ∃ t, exec (.riggingRoute n) s = .next t ∧ sent t [replyTo r .ack]) ∧
        (∀ b z off, r.op = .read b z → r.land = some off → ∃ t ws, exec (.riggingRoute n) s = .next t ∧
          sent t [replyTo r (.land ws)])) ∧
      (∀ v off, r.op = .pile (.push v) → r.land = some off → reqReady s r = true →
        exec (.riggingRoute n) s = .next { out with replies := s.replies ++ [replyTo r (.land [4])] }) ∧
      (routePort s (paModule r.pa) = none → (∀ op, r.op ≠ .pile op) → asksNothing r = false → isSpillRead s r = false →
        (seatAt s r.fe r.seat).st = .running → (seatAt s r.fe r.seat).ctx = r.ctx → r.seat < 4 →
        let failed (t : State) (q : List Report) : Prop := t.reports = s.reports ++ q ∧
          (seatAt t r.fe r.seat).deferred = (seatAt s r.fe r.seat).deferred ++
            [{ flt := { code := 0x51, info := r.hand ||| 1, addr := r.va } }]
        (∃ t, exec (.riggingRoute n) s = .next t ∧ failed t [.discarded r.ctx r.pa] ∧ t.reqs = removeAt n s.reqs) ∧
        (recvFrozen s r.ctx = false → ∃ t, exec (.linkTimeout n) s = .next t ∧ failed t [] ∧
          t.reqs = s.reqs.filter fun x => !(x.id == r.id))))

/-! ### Hands: fetch, commit, faults and returns -/

/-- 09 R155, 14 R224, R225, 04 R60: at a hand boundary a RUNNING or LOADED seat whose code translates to `pa`, with an empty
instruction cache and with nothing in the way of the fetch, reads its hand from memory; with no decode fault and no pre-emption at
a belay hand it begins to issue,
with the seat's registers, from slot 0, its BELAYCNT being 0 at a belay hand; the fetch miss adds 160.

04 R63, R66: at a belay hand a seat of a context that is being pre-empted halts before it issues, with its registers. -/
def Obligations.HandFetchAndBelayHalt : Prop :=
  (∀ (s : State) (pa : Nat) (new : List Tlb),
    let f := feAt s s.curFe
    let t := cur s
    s.curSeat < 4 → t.hand = none → t.st = .running ∨ t.st = .loaded → t.hdrOnly = false → t.deferred = [] →
    t.loopCheck = [] → (ctxAt s t.ctx).st = .running → jobFrozen s t.ctx = false → f.icache = [] →
    (∀ e ∈ s.gus, e.2.ecc = []) → codeMeets s s.curFe t.ctx t.pc.toNat (fetchLen s s.curFe t) = .go → dataXlat s f.tlb t.ctx t.pc.toNat { x := true } false = (.ok pa, new) → ownModule s pa = true →
    t.pc.toNat % 4096 + 2048 ≤ 4096 → pa % 4096 = t.pc.toNat % 4096 →
    ∃ r, readHand s s.curFe t.ctx t.pc.toNat = .ok r ∧ r.hdr = BitVec.ofNat 64 (rdBytes s.mem (paKey pa) 8) ∧
      r.slots.length = r.hdr.toNat % 128 + 1 ∧ SlotsAt s.mem (paKey pa + if r.hdr.getLsbD 7 then 16 else 8) r.slots ∧
      (decodeFault r = none → t.arch.belayEn = false → ∃ u h, exec .handFetch s = .next u ∧ (cur u).hand = some h ∧
        (cur u).st = .running ∧ h.addr = t.pc ∧ h.belay = r.hdr.getLsbD 7 ∧ h.slots = r.slots ∧ h.slot = 0 ∧ h.work = t.arch ∧
        h.effects = [] ∧ h.flt = none ∧ h.cnt0 = (if h.belay then 0 else t.belayCnt) ∧ u.mem = s.mem ∧
        (cur u).belayCnt = BitVec.ofNat 16 (Nat.min ((if h.belay then 0 else t.belayCnt.toNat) + 160) 0xFFFF)) ∧
      (∀ x, decodeFault r = some x → Calm s t.arch x.code → t.arch.fltvec ≠ 0 → t.arch.hndl = false →
        NoClaims s → ∃ u, exec .handFetch s = .next u ∧ (cur u).hand = none ∧ (cur u).pc = t.arch.fltvec ∧
          (cur u).arch = { faulted x false t.pc t.pc t.arch with hndl := true, hin := t.arch.hin || t.arch.stub })) ∧
  (∀ (s : State) (r : RawHand),
    let t := cur s
    s.curSeat < 4 → isEdge s.curFe = false → t.hand = none → t.st = .running → t.hdrOnly = false → t.deferred = [] →
    t.loopCheck = [] → t.stepping = false → codeMeets s s.curFe t.ctx t.pc.toNat (fetchLen s s.curFe t) = .go →
    (ctxAt s t.ctx).st = .preempting → jobFrozen s t.ctx = false →
    t.arch.stub = false → t.orig = none → readHand s s.curFe t.ctx t.pc.toNat = .ok r → r.hdr.getLsbD 7 = true →
    ∃ u, exec .handFetch s = .next u ∧ (cur u).st = .belayed ∧ (cur u).arch = t.arch ∧ (cur u).pc = t.pc ∧
      (cur u).hdr = r.hdr ∧ (cur u).belayDw = r.belay ∧ u.mem = s.mem)

/-- 04 R57, 16 R256 to R262: the commit of a hand with no fault and no effect makes its registers visible and changes
nothing else; it goes on at the next hand, at the target of a taken transfer, or at its own LOOP's first hand; a loop of
count 0 and a LOOPBRK go past the span; at LASTH the innermost loop goes round again, or ends at count 1.

04 R57, R59, 17 R288, R289, 12 R189: the effects of a hand reach memory at its commit, when everything that its seat has
sent is performed: an ST writes its bytes and leaves every tag, an STF or SETF writes its word and sets it full, a CLRE empties it, and a request is
sent with a new identity, every word of its landing area being emptied; no other byte of memory changes. A BINIT opens a FREE object, a
BARR raises its count and a BRST completes its phase with RESET (08 R132, R133); a card gets an identity and stands among
its seat's (19 R341); an array command enters its array's queue, and behind an unfinished MTILE it and the hand wait (19 R333); the
record that the hand has taken leaves its queue (19 R346). -/
def Obligations.CommitMakesEffectsVisible : Prop :=
  (∀ (s : State) (h : Hand), AtCommit s h → h.flt = none → h.effects = [] →
    let goes (a : Arch) (pc : W64) : Prop := exec .handCommit s = .next (modCur (committed a pc) s)
    let a := h.work
    let loop (n : Fin 3) (l : Loop) : Arch := { a with lc := a.lc.set n l }
    (NoLoops h →
      (h.ctl = none → goes a h.next) ∧
      (∀ t, h.ctl = some (.jump t) ∨ h.ctl = some (.jumpRet t) ∨ h.ctl = some (.call t) → goes a t) ∧
      (∀ n : Fin 3, h.ctl = some (.loopbrk n.val) → goes a h.next) ∧
      (∀ (n : Fin 3) (c : Nat) (last : W64), h.ctl = some (.loop n.val c last) → 0 < c → ∃ u,
        exec .handCommit s = .next u ∧ (cur u).pc = h.next ∧ (cur u).loopCheck =
          (cur s).loopCheck.filter (fun m => m % 4 != n.val) ++ [n.val] ∧ (cur u).arch = loop n
          { count := BitVec.ofNat 32 c, active := true, first := h.next, last := last, order := 0 }) ∧
      (∀ (n : Fin 3) (last : W64), h.ctl = some (.loop n.val 0 last) → ∃ u,
        exec .handCommit s = .next u ∧ (cur u).pc = last ∧ (cur u).hdrOnly = true ∧ (cur u).arch = loop n {})) ∧
    (∀ n : Fin 3, h.ctl = none → a.lc[n].active = true → (∀ m : Fin 3, m ≠ n → a.lc[m].active = false) →
      (a.lc[n].last ≠ h.addr → goes a h.next) ∧
      (a.lc[n].last = h.addr → a.lc[n].count.toNat ≤ 1 → goes (loop n {}) h.next) ∧
      (a.lc[n].last = h.addr → 1 < a.lc[n].count.toNat →
        goes (loop n { a.lc[n] with count := a.lc[n].count - 1 }) a.lc[n].first))) ∧
  (∀ (s : State) (h : Hand) (e : Eff), AtCommit s h → h.flt = none → h.effects = [e] → h.ctl = none → NoLoops h →
    Performed s →
    let a := spBase s.curFe
    let seat (t : State) : Prop := (cur t).arch = h.work ∧ (cur t).pc = h.next ∧ (cur t).hand = none
    (∀ off n v, e = .store off n v → off + n ≤ 0x60000 → ∃ t, exec .handCommit s = .next t ∧ seat t ∧
      Wrote s t (a + off) n v.toNat ∧ t.tags = s.tags) ∧
    (∀ off v, e = .storeFull off v → off % 4 = 0 → off + 4 ≤ 0x60000 → ∃ t, exec .handCommit s = .next t ∧ seat t ∧
      Wrote s t (a + off) 4 v.toNat ∧ tagFull t (a + off) = true) ∧
    (∀ off take, e = .setEmpty off take → off % 4 = 0 → off + 4 ≤ 0x60000 → ∃ t, exec .handCommit s = .next t ∧ seat t ∧
      t.mem = s.mem ∧ tagFull t (a + off) = false) ∧
    (∀ r, e = .send r → r.land = none → ∃ t, exec .handCommit s = .next t ∧ seat t ∧
      t.mem = s.mem ∧ t.tags = s.tags ∧ t.reqs = s.reqs ++ [stamp s r]) ∧
    (∀ r off, e = .send r → r.land = some off → off % 4 = 0 → off + landBytesOf r.op ≤ 0x60000 →
      ∃ t, exec .handCommit s = .next t ∧ seat t ∧ t.mem = s.mem ∧ t.reqs = s.reqs ++ [stamp s r] ∧
        (∀ i < landBytesOf r.op / 4, tagFull t (a + off + 4 * i) = false) ∧ (cur t).splits = (cur s).splits ++ [s.nextId]) ∧
    (∀ n bm trap x, e = .binit n bm trap x → x ≠ 0 → (barAt (feAt s s.curFe) n).st = .free →
      ∃ t, exec .handCommit s = .next t ∧ seat t ∧ t.mem = s.mem ∧ barAt (feAt t s.curFe) n =
        { expect := x, byteMode := bm, trap := trap, st := .opened, initBy := s.curSeat }) ∧
    (∀ n amount, e = .barr n amount → (barAt (feAt s s.curFe) n).st = .opened →
      (barAt (feAt s s.curFe) n).arrived.toNat + amount < (barAt (feAt s s.curFe) n).expect.toNat →
      ∃ t, exec .handCommit s = .next t ∧ seat t ∧ t.mem = s.mem ∧ barAt (feAt t s.curFe) n =
        { barAt (feAt s s.curFe) n with arrived := BitVec.ofNat 48 ((barAt (feAt s s.curFe) n).arrived.toNat + amount) }) ∧
    (∀ n, e = .brst n → (barAt (feAt s s.curFe) n).st ≠ .free → (feAt s s.curFe).waits = [] →
      ∃ t, exec .handCommit s = .next t ∧ seat t ∧ t.mem = s.mem ∧ barAt (feAt t s.curFe) n =
        { barAt (feAt s s.curFe) n with
          phase := (barAt (feAt s s.curFe) n).phase + 1, arrived := 0, last := .reset, st := .opened }) ∧
    (∀ off kind, e = .card off kind → (cur s).cards.length < 64 → ∃ t id c, exec .handCommit s = .next t ∧ seat t ∧
      t.mem = s.mem ∧ (cur t).cards = (cur s).cards ++ [id] ∧ KV.find id t.cards = some c ∧ c.ctx = (cur s).ctx ∧
      c.poster = .seat s.curFe s.curSeat) ∧
    (∀ op, e = .array op → (mtileBusy (feAt s s.curFe) = false → ∃ t, exec .handCommit s = .next t ∧ seat t ∧ t.mem = s.mem ∧
        (feAt t s.curFe).arrQ = (feAt s s.curFe).arrQ ++ [{ seat := s.curSeat, hand := h.addr, op := op, mark := s.nextId }]) ∧
      (mtileBusy (feAt s s.curFe) = true → ∃ t h', exec .handCommit s = .next t ∧ (cur t).hand = some h' ∧ h'.effects = [e] ∧
        h'.committing = true ∧ (cur t).arch = h.work ∧ (feAt t s.curFe).arrQ = (feAt s s.curFe).arrQ ∧ t.mem = s.mem)) ∧
    (∀ x rest, e = .evtake none → (cur s).evq = x :: rest → (cur s).ring = [] → ∃ t, exec .handCommit s = .next t ∧ seat t ∧
      t.mem = s.mem ∧ (cur t).evq ++ (cur t).ring = rest))

/-- 04 R58, R73, R74, 00 R8: a hand with a recorded fault is abandoned at its end, none of its effects performed and none
of its registers visible, BELAYCNT being what it was at the hand's start (04 R57); the fault registers name it, and the seat goes on at FLTVEC in its handler; with no vector, or
in its handler already, it stays FAULTED and its context is STOPPED.

16 R266 to R268, 04 R73 to R75: SVC and TRAP commit their hand and enter the handler with bit 15 of FAULTCODE set and
the next hand in RETHAND; ERET leaves the handler for RETHAND, or the rebuild stub for the resume hand; HALT retires the
seat; BRK writes the fault registers, freezes the seat and starts a hitch wave for its job. -/
def Obligations.FaultsTrapsAndReturns : Prop :=
  (∀ (s : State) (h : Hand) (f : FaultRec), AtCommit s h → h.flt = some f → h.cfgHit = none → NoClaims s → Calm s (cur s).arch f.code →
    let a := (cur s).arch
    let a' := faulted f false h.addr h.addr a
    (a.fltvec ≠ 0 → a.hndl = false → exec .handCommit s = .next (modCur (fun t => { t with
      hand := none, st := .running, pc := a.fltvec, belayCnt := h.cnt0, arch := { a' with hndl := true, hin := a.hin || a.stub } }) s)) ∧
    (a.fltvec = 0 ∨ a.hndl = true → (ctxAt s (cur s).ctx).st = .running →
      (∀ e ∈ seatsOf s (cur s).ctx, (seatAt s e.1 e.2).st ≠ .waiting) →
      ∃ t, exec .handCommit s = .next t ∧ (cur t).st = .faulted ∧ (cur t).arch = a' ∧ (cur t).belayCnt = h.cnt0 ∧ (cur t).hand = none ∧
        (ctxAt t (cur s).ctx).st = .stopped ∧ t.reports = s.reports ++ [.contextStopped (cur s).ctx] ∧ t.mem = s.mem)) ∧
  (∀ (s : State) (h : Hand), AtCommit s h → h.flt = none → h.effects = [] → bightAt s s.curFe = none →
    let a := h.work
    (∀ code info slot, h.ctl = some (.trap code info slot) → Calm s a code → a.fltvec ≠ 0 → a.hndl = false →
      exec .handCommit s = .next (modCur (fun t => { committed
        { faulted { code := code, slot := slot, info := info } true h.addr h.next a with hndl := true, hin := a.hin || a.stub }
        a.fltvec t with st := .running }) s)) ∧
    (h.ctl = some .eret →
      (a.hndl = true → a.stub = false ∨ a.hin = true →
        exec .handCommit s = .next (modCur (committed { a with hndl := false, hin := false } a.rethand) s)) ∧
      (a.hndl = false → a.stub = true → exec .handCommit s = .next (modCur (fun t =>
        { committed { a with stub := false } (cur s).stubRet t with orig := none }) s)) ∧
      (a.hndl = false → a.stub = false → exec .handCommit s = .next (modCur (committed a a.rethand) s))) ∧
    (h.ctl = some .halt → exec .handCommit s = .next (modCur (fun t => { committed a h.next t with st := .retired }) s)) ∧
    (∀ slot, h.ctl = some (.brk slot) → isEdge s.curFe = false → ∃ t, exec .handCommit s = .next t ∧ (cur t).st = .frozen ∧
      (cur t).prev = .running ∧ (cur t).pc = h.next ∧
      (cur t).arch = faulted { code := 0x60, slot := slot } true h.addr h.next a ∧
      t.hitch.job = (ctxAt s (cur s).ctx).job ∧ t.mem = s.mem))

/-- 04 R60, 15 R253: with enforcement on, a slot whose weight takes BELAYCNT above MAX is BELAY_DISTANCE at once, with the
count in FAULTINFO, whatever its selector; the check of a count that stands above MAX does the same. -/
def Obligations.BelayDistance : Prop :=
  ∀ (d a b : Reg) (q : Sel) (s : State) (h : Hand), s.curSeat < 4 → (cur s).hand = some h → h.work.belayEn = true →
    h.holds = [] → h.popws = [] → h.asked = none → h.entered = false → h.committing = false → NoClaims s →
    Calm s (cur s).arch 0x05 → (cur s).arch.fltvec ≠ 0 → (cur s).arch.hndl = false →
    let taken (n : Nat) (t : State) : Prop := (cur t).hand = none ∧ (cur t).pc = (cur s).arch.fltvec ∧
      (cur t).st = .running ∧ (cur t).belayCnt = h.cnt0 ∧ t.mem = s.mem ∧ (cur t).arch = { faulted
        { code := 0x05, slot := BitVec.ofNat 7 h.slot, info := BitVec.ofNat 64 n } false h.addr h.addr (cur s).arch with
        hndl := true, hin := (cur s).arch.hin || (cur s).arch.stub }
    (h.work.belayMax.toNat < (cur s).belayCnt.toNat →
      ∃ t, exec .belayDistance s = .next t ∧ taken (cur s).belayCnt.toNat t) ∧
    (h.counted = false → h.work.belayMax.toNat < (cur s).belayCnt.toNat + 4 → (cur s).belayCnt.toNat + 4 ≤ 0xFFFF →
      (∃ t, exec (.nop q) s = .next t ∧ taken ((cur s).belayCnt.toNat + 4) t) ∧
      ∃ t, exec (.add d a b q) s = .next t ∧ taken ((cur s).belayCnt.toNat + 4) t)

/-- 17 R287, 16 R269: a WAITING seat takes its oldest deferred fault at once, its hand abandoned, and a RUNNING one at its
hand boundary; at a WAITEV's deadline pod time has reached it, and the slot then ends. -/
def Obligations.DeferredFaultsAndDeadlines : Prop :=
  ∀ (s : State) (fe k : Nat), k < 4 →
    let t := seatAt s fe k
    let f := feAt s fe
    (∀ d rest, t.deferred = d :: rest → d.casc = false → f.waits = [] → f.holds = [] → (∀ pl : Fin 4, f.planes[pl].ports = []) →
      t.arch.dbgctl.getLsbD 0 = false → d.flt.code ≠ 0x61 → t.stepping = false → (ctxAt s t.ctx).st ≠ .preempting →
      t.arch.fltvec ≠ 0 → t.arch.hndl = false →
      let taken (hand : W64) (u : State) : Prop := (seatAt u fe k).deferred = rest ∧ (seatAt u fe k).hand = none ∧
        (seatAt u fe k).st = .running ∧ (seatAt u fe k).pc = t.arch.fltvec ∧ u.mem = s.mem ∧
        (seatAt u fe k).arch = { faulted d.flt false hand hand t.arch with hndl := true, hin := t.arch.hin || t.arch.stub }
      (∀ h, t.st = .waiting → t.hand = some h → h.holds = [] → h.popws = [] → h.asked = none →
        ∃ u, exec (.deferredFault fe k) s = .next u ∧ taken h.addr u) ∧
      (t.st = .running → t.hand = none → t.hdrOnly = false → ∃ u, exec (.deferredFault fe k) s = .next u ∧ taken t.pc u)) ∧
    (∀ h d a q w, t.st = .waiting → t.hand = some h → h.slots[h.slot]? = some w → decode w.lo w.hi = .ok (.waitev d a q) →
      rdS h a ≠ BitVec.allOnes 64 →
      exec (.waitevDeadline fe k) s = .next { s with time := Nat.max s.time (rdS h a).toNat })

/-! ### Barrier objects and contexts -/

/-- 08 R133, R134, R136: an arrival at an OPEN object adds to ARRIVED below EXPECT; at EXPECT it completes the phase OK and
above it OVERRUN, ARRIVED being 0 and PHASE one more; a BWAIT on the phase that completes is answered; an error arrival
leaves the object in ERROR; and an object that is FREE or in ERROR stays. -/
def Obligations.BarrierArrivals : Prop :=
  ∀ (s : State) (fe n amount : Nat),
    let b := barAt (feAt s fe) n
    let set (b' : Barrier) : State := modFe fe (fun f => { f with barriers := KV.put {} n b' f.barriers }) s
    let done (last : BarLast) : Barrier := { b with last := last, phase := b.phase + 1, arrived := 0 }
    let sum := b.arrived.toNat + amount
    (b.st = .opened →
      (sum < b.expect.toNat →
        exec (.barrierArrival fe n amount) s = .next (set { b with arrived := BitVec.ofNat 48 sum })) ∧
      ((feAt s fe).waits = [] →
        (sum = b.expect.toNat → ∃ t, exec (.barrierArrival fe n amount) s = .next t ∧ barAt (feAt t fe) n = done .ok) ∧
        (b.expect.toNat < sum → ∃ t, exec (.barrierArrival fe n amount) s = .next t ∧ barAt (feAt t fe) n = done .overrun) ∧
        ∃ t, exec (.errorArrival fe n) s = .next t ∧ barAt (feAt t fe) n = { done .error with st := .error }) ∧
      (∀ k h, (feAt s fe).waits = [.bar k n b.phase] → k < 4 → (seatAt s fe k).st = .waiting →
        (seatAt s fe k).hand = some h → sum = b.expect.toNat → ∃ t v, exec (.barrierArrival fe n amount) s = .next t ∧
          (feAt t fe).waits = [] ∧ (seatAt t fe k).st = .running ∧
          (seatAt t fe k).hand = some { h with grant := some (v, 0) } ∧ v.toNat % 256 = 0 ∧
          v.extractLsb' 8 8 = b.phase + 1)) ∧
    (b.st ≠ .opened → exec (.barrierArrival fe n amount) s = .next s ∧ exec (.errorArrival fe n) s = .next s)

/-- 04 R54, R63, R64, R68: what Horlyn's operations and a pre-emption request make of a context: a FREE one becomes BOUND
with the image's registers, a BOUND one FREE, a RUNNING one PREEMPTING with its cause, at once or when its job is
released, a SAVED one RUNNING on the FEs of its blocks, and a SAVED one that is killed BOUND with nothing left; in any
other state a context error is reported and nothing else changes.

04 R54, R65, R69: a context whose seats are all halted, with their replies landed and their engines quiet, is saved in
one step: it becomes SAVED, and the FE that its seats stood on is held by none; before that SEAT_SAVE changes nothing. -/
def Obligations.ContextsChangeState : Prop :=
  (∀ (s : State) (c : Nat) (img : BindImage) (cause : BitVec 2), c < 64 →
    let x := ctxAt s c
    let error : State := { s with reports := s.reports ++ [.contextError c] }
    (x.st = .free → ∃ t, exec (.contextBind c img) s = .next t ∧ (ctxAt t c).st = .bound ∧ (ctxAt t c).job = img.job ∧
      (ctxAt t c).ptRoot = img.ptRoot ∧ (ctxAt t c).fltvec = img.fltvec ∧ t.mem = s.mem ∧ t.fes = s.fes) ∧
    (x.st ≠ .free → exec (.contextBind c img) s = .next error) ∧
    (x.st = .bound → x.unmaps = [] → ∃ t, exec (.contextUnbind c) s = .next t ∧ (ctxAt t c).st = .free ∧
      (ctxAt t c).ranges = [] ∧ (∀ e ∈ t.launches, e.2.ctx ≠ c) ∧ (∀ e ∈ t.cards, e.2.ctx ≠ c) ∧ t.mem = s.mem) ∧
    (x.st ≠ .bound → exec (.contextUnbind c) s = .next error) ∧
    (x.st = .running → x.pend = false →
      (hitched s c = true → exec (.preemptionRequest c cause) s =
        .next (modCtx c (fun x => { x with pend := true }) (modCtx c (fun x => { x with cause := cause }) s))) ∧
      (hitched s c = false → (∀ e ∈ seatsOf s c, (seatAt s e.1 e.2).st = .running ∧ (seatAt s e.1 e.2).hand = none) →
        ∃ t, exec (.preemptionRequest c cause) s = .next t ∧ (ctxAt t c).st = .preempting ∧ (ctxAt t c).cause = cause ∧
          t.fes = s.fes ∧ t.mem = s.mem)) ∧
    (x.st = .preempting → exec (.preemptionRequest c cause) s = .next s) ∧
    (x.st ≠ .running → x.st ≠ .preempting → exec (.preemptionRequest c cause) s = .next error) ∧
    (∀ b, x.st = .saved → x.blocks = [b] → b.held = [] → b.lands = [] → s.launches = [] → s.fused = [] → b.fe < 25600 → 2 ^ 20 ≤ b.key →
      (feAt s b.fe).idle = true → (∀ e ∈ seatsOf s c, e.1 = b.key) →
      (∀ k < 4, (seatOf (feAt s b.key) k).faulted = false) →
      (∀ k < 4, (seatOf (feAt s b.key) k).st = .saved ∧ hdrStub (seatOf (feAt s b.key) k).hdr = 0 ∧
        (seatOf (feAt s b.key) k).ctx = c) →
      ∃ t, exec (.contextResume c []) s = .next t ∧ (ctxAt t c).st = .running ∧ (ctxAt t c).blocks = [] ∧
        (feAt t b.fe).holder = some c ∧ ∀ k < 4, (seatAt t b.fe k).st = .loaded ∧
          (seatAt t b.fe k).pc = (seatOf (feAt s b.key) k).pc ∧ (seatAt t b.fe k).belayCnt = 0) ∧
    (x.st ≠ .saved → exec (.contextResume c []) s = .next error) ∧
    (x.st = .saved → x.owed = [] → (∀ fe ∈ ctxFes s c, isSaved fe = true) → (∀ n ∈ s.graph, n.ctx ≠ c) →
      ∃ t, exec (.contextKill c) s = .next t ∧ (ctxAt t c).st = .bound ∧ (ctxAt t c).blocks = [] ∧
        (∀ e ∈ t.launches, e.2.ctx ≠ c) ∧ (∀ e ∈ t.cards, e.2.ctx ≠ c) ∧ (∀ e ∈ t.cascades, e.2.ctx ≠ c) ∧ t.mem = s.mem) ∧
    (x.st ≠ .saved → x.st ≠ .stopped → exec (.contextKill c) s = .next error)) ∧
  (∀ (s : State) (fe k : Nat), k < 4 → isEdge fe = false → (seatAt s fe k).st ≠ .free →
    let c := (seatAt s fe k).ctx
    (saveReady s c = false → exec (.seatSave fe k) s = .next s) ∧
    (saveReady s c = true → (ctxAt s c).stopAfter = false → (ctxAt s c).owed = [] → ctxFes s c = [fe] → s.cascades = [] →
      fe < 2 ^ 20 → ∃ t, exec (.seatSave fe k) s = .next t ∧ (ctxAt t c).st = .saved ∧ (feAt t fe).holder = none ∧
        (feAt t fe).seats = Vector.replicate 4 {}))

/-- 04 R67, 09 R153, R154, 26 R392: a copy card of a context under pre-emption stops where each of its receivers has all its bytes or is at
a 4 KiB boundary; a re-latch token
that reaches a port drops the latch of its stream; once no token and no access of an UNMAP is left, the ranges that it made
RETIRING are INVALID, and its result 0 lands; and Horlyn starts an edge core that is stopped at the hand it names. -/
def Obligations.CheckpointsUnmapsAndEdgeCores : Prop :=
  ∀ (s : State),
    (∀ id c, KV.find id s.cards = some c → (ctxAt s c.ctx).st = .preempting → cardOver c = false → c.checkpointed = false →
      cardAwaited s c = false → (∀ r ∈ c.rcv, r.failed = true ∨ r.landed % 4096 = 0 ∨ r.landed = outLen c r) →
      cardKind c.w = 1 ∨ cardKind c.w = 2 → ∃ t, exec (.cardCheckpoint id) s = .next t ∧
        KV.find id t.cards = some { c with checkpointed := true, latch := none, lats := [] } ∧ t.mem = s.mem) ∧
    (∀ c u us fe pl ix rest x q, (ctxAt s c).unmaps = u :: us → u.tokens = (fe, pl, ix) :: rest → pl < 4 →
      (portOf (feAt s fe) pl ix).queue = x :: q → ∃ t, exec (.relatchToken c) s = .next t ∧
        (ctxAt t c).unmaps = { u with tokens := rest } :: us ∧
        (portOf (feAt t fe) pl ix).queue = { x with latch := none, dropped := true } :: q ∧ t.mem = s.mem) ∧
    (∀ c u, unmapReady s c = some u → ∃ t, exec (.unmapComplete c) s = .next t ∧
      (ctxAt t c).unmaps = (ctxAt s c).unmaps.erase u ∧
      (∀ e, e ∈ (ctxAt t c).ranges ↔ e ∈ (ctxAt s c).ranges ∧
        ¬(e.2.retiring = true ∧ u.base.toNat ≤ e.2.img.base.toNat ∧ e.2.img.limit.toNat ≤ u.limit.toNat)) ∧
      rdPa t (ownPa s u.edge u.off) 4 = 0 ∧ tagFull t (ownPa s u.edge u.off) = true) ∧
    (∀ d hand, d < 8 →
      let t := seatAt s (25600 + d) 0
      (t.st = .free ∨ t.st = .retired ∨ t.st = .faulted → ∃ u, exec (.edgeCoreStart d hand) s = .next u ∧
        (seatAt u (25600 + d) 0).st = .loaded ∧ (seatAt u (25600 + d) 0).pc = hand &&& ~~~7#64 ∧
        (seatAt u (25600 + d) 0).arch.belayEn = false ∧ u.mem = s.mem) ∧
      (t.st ≠ .free → t.st ≠ .retired → t.st ≠ .faulted → exec (.edgeCoreStart d hand) s = .next s))

/-! ### Queues, packets and nodes -/

/-- 05 R77 to R82, R87: a knock within the ring moves WPTR and makes an IDLE queue PENDING, and one beyond it, or a
malformed packet, puts the queue in ERROR with its code; EN, the reset of a queue in ERROR, a free slot, the end of a
quantum while another queue waits and ageing change its state as they say. -/
def Obligations.QueuesChangeState : Prop :=
  ∀ (s : State) (q : Nat) (w : W32),
    let x := queueAt s q
    let cap := 2 ^ x.log2u.toNat
    let set (x' : Queue) : State := { s with queues := KV.set q x' s.queues }
    let pended (x' : Queue) : State :=
      { set { x' with st := .pending, eff := x.prio, since := s.nextId } with nextId := s.nextId + 1 }
    let live := x.st ≠ .disabled ∧ x.st ≠ .error
    (live → w ≠ x.wptr → (w - x.rptr).toNat ≤ cap → (w - x.wptr).toNat ≤ cap → exec (.knock q w) s =
      .next (if x.st = .idle then pended { x with wptr := w } else set { x with wptr := w })) ∧
    (live → w ≠ x.wptr → cap < (w - x.rptr).toNat ∨ cap < (w - x.wptr).toNat → ∃ t, exec (.knock q w) s = .next t ∧
      (queueAt t q).st = .error ∧ (queueAt t q).errWord = BitVec.ofNat 64 (w.toNat * 2 ^ 16 + 5) ∧ q ∉ t.slots ∧
      t.graph = s.graph) ∧
    (¬ live ∨ w = x.wptr → exec (.knock q w) s = .next s) ∧
    (x.st = .disabled → exec (.queueEnable q) s = .next (set { x with en := true, st := .idle, rptr := x.wptr })) ∧
    (x.st ≠ .disabled → exec (.queueEnable q) s = .next (set x)) ∧
    (∃ t, exec (.queueDisable q) s = .next t ∧ (queueAt t q).st = .disabled ∧ (queueAt t q).en = false ∧ q ∉ t.slots ∧
      t.graph = s.graph) ∧
    (x.st = .error → exec (.queueReset q w) s = .next (if w = x.wptr then set { x with rptr := w, errWord := 0, st := .idle }
      else pended { x with rptr := w, errWord := 0 })) ∧
    (x.st ≠ .error → exec (.queueReset q w) s = .next s) ∧
    (x.st = .active → (∃ e ∈ s.queues, e.2.st = .pending) → ∃ t, exec (.quantumEnd q) s = .next t ∧
      (queueAt t q).st = .pending ∧ (queueAt t q).eff = x.prio ∧ t.slots = s.slots.filter (· != q)) ∧
    (x.st = .pending → exec (.priorityAging q) s = .next (set { x with eff := if x.eff = 3 then 3 else x.eff + 1 })) ∧
    (x.st ≠ .pending → exec (.priorityAging q) s = .next s) ∧
    (s.queues = [(q, x)] → x.st = .pending → s.slots.length < 32 →
      exec .mapperBind s = .next { s with queues := [(q, { x with st := .active, quantum := 0 })], slots := s.slots ++ [q] })

/-- 05 R79, R82 to R88: the front end takes the packet at RPTR: a LAUNCH, TRANSFORM, COPY or SIGNAL becomes one node of the
task graph, and RPTR moves past the packet; a NOP and a WAIT that is met only move it, a WAIT that is not met stalls the
queue and is read again; a malformed packet puts the queue in ERROR with the lowest code, and adds no node.

05 R86, R88, R89: a stalled WAIT that is met moves on; a ready node dispatches: a LAUNCH whose record is good starts a
launch, a COPY posts one card, a SIGNAL stores its value and leaves; a bad record fails the node; and a dispatched node
whose card is done leaves the graph, no node depending on it any more. -/
def Obligations.PacketsAndNodes : Prop :=
  (∀ (s : State) (q : Nat) (p : Packet), frontReady s q = true → packetAt s q = some p →
    (∀ e ∈ s.gus, e.2.ecc = []) →
    let x := queueAt s q
    let moved (n : Nat) (t : State) : Prop := (queueAt t q).rptr = x.rptr + BitVec.ofNat 32 n ∧ (queueAt t q).stalled = false
    let node (i : Instr) (n : Nat) (k : NodeKind) : Prop := ∃ t m, exec i s = .next t ∧ moved n t ∧ t.graph = s.graph ++ [m] ∧
      m.id = s.nextId ∧ m.queue = q ∧ m.ctx = x.ctx.toNat ∧ m.kind = k ∧ m.tag = BitVec.ofNat 16 p.tag ∧ m.dispatched = false
    let w (i : Nat) := nth p.w i
    (packetBad x p = 0 →
      (p.op = 0 → ∃ t, exec (.nopPacket q) s = .next t ∧ moved p.units t ∧ t.graph = s.graph) ∧
      (p.op = 1 → node (.launchPacket q) 3 (.launch (w 1))) ∧
      (p.op = 2 → node (.transformPacket q) 3 (.transform (p.w.take 8))) ∧
      (p.op = 3 → node (.copyPacket q) 3 (.copy (w 1) (w 2) (w 3))) ∧
      (p.op = 5 → node (.signalPacket q) 1 (.signal (w 1) (w 2) ((w 3).getLsbD 0))) ∧
      (p.op = 4 →
        let s' := readsGo cpDie x.ctx.toNat (packetReads s q).spans s
        (waitMet s' x.ctx.toNat p = true → ∃ t, exec (.waitPacket q) s = .next t ∧ moved p.units t ∧ t.graph = s.graph) ∧
        (waitMet s' x.ctx.toNat p = false → ∃ t, exec (.waitPacket q) s = .next t ∧
          queueAt t q = { x with stalled := true } ∧ t.graph = s.graph))) ∧
    (packetBad x p ≠ 0 → ∀ i, (p.op = 0 ∨ 5 < p.op → i = .nopPacket q) → (p.op = 1 → i = .launchPacket q) →
      (p.op = 2 → i = .transformPacket q) → (p.op = 3 → i = .copyPacket q) → (p.op = 4 → i = .waitPacket q) →
      (p.op = 5 → i = .signalPacket q) → ∃ t, exec i s = .next t ∧ (queueAt t q).st = .error ∧ t.graph = s.graph ∧
        (queueAt t q).errWord.toNat % 256 = packetBad x p % 256)) ∧
  (∀ (s : State) (id : Nat) (n : Node),
    (∀ q p, (queueAt s q).st = .active → (queueAt s q).stalled = true → packetAt s q = some p → p.op = 4 →
      waitMet s (queueAt s q).ctx.toNat p = true → overQuantum s q = false → (queueAt s q).owes = [] → ∃ t, exec (.waitReread q) s = .next t ∧
        (queueAt t q).rptr = (queueAt s q).rptr + BitVec.ofNat 32 p.units ∧ (queueAt t q).stalled = false) ∧
    (s.graph = [n] → n.id = id → nodeReady s n = true →
      (∀ va l, n.kind = .launch va → (checkLaunch s n.ctx (.node id) (queueAt s n.queue).prio va.toNat).out = .ok (some l) →
        l.remote = [] → ∃ t, exec (.nodeDispatch id) s = .next t ∧ t.graph = [{ n with dispatched := true }] ∧
          KV.find l.id t.launches = some l ∧ t.mem = s.mem) ∧
      (∀ va, n.kind = .launch va → (checkLaunch s n.ctx (.node id) (queueAt s n.queue).prio va.toNat).out = .ok none →
        (queueAt s n.queue).st = .active → ∃ t, exec (.nodeDispatch id) s = .next t ∧ t.graph = [] ∧
          (queueAt t n.queue).st = .error ∧ (queueAt t n.queue).errWord.toNat % 256 = 8) ∧
      (∀ src dst len, n.kind = .copy src dst len → ∃ t c, exec (.nodeDispatch id) s = .next t ∧
        t.graph = [{ n with dispatched := true }] ∧ KV.find s.nextId t.cards = some c ∧ c.poster = .node id ∧
        c.ctx = n.ctx ∧ nth c.w 1 = src ∧ nth c.w 2 = len ∧ c.rcv.map (·.dest) = [dst] ∧
        t.mem = s.mem) ∧
      (∀ va v a, n.kind = .signal va v false → (signalSpan s n.ctx va false).stop = .go →
        (signalSpan s n.ctx va false).parts = [a] → ownModule s a.pa = true → paClass a.pa = 0 →
        ∃ t, exec (.nodeDispatch id) s = .next t ∧ Wrote s t (paKey a.pa) 8 v.toNat ∧ t.graph = [])) ∧
    (∀ c src dst len, s.graph = [n] → n.id = id → n.kind = .copy src dst len → n.dispatched = true →
      s.cards = [(c.id, c)] → c.poster = .node id → c.done = true → c.status = 0 →
      exec (.nodeComplete id true) s = .next { s with
        graph := [], cards := [], launches := s.launches.filter (fun e => e.2.origin != .node id)
        cascades := s.cascades.filter (fun e =>
          !((s.launches.filter fun e => e.2.origin == .node id).map (·.1)).contains e.2.launch) }))

/-! ### Launches, cascades and planes at work -/

/-- 06 R93 to R98, R104, 08 R128: a region with a free base is placed there, its FEs given to the launch's context and its
seats LOADED with their first registers; a dealt group goes to a free FE; and an FE whose seats have all retired returns
to the placer with its seats FREE. -/
def Obligations.GroupsArePlacedAndRetire : Prop :=
  ∀ (s : State) (id : Nat) (l : Launch),
    let n := (l.levels.getLast?.map (·.count)).getD 0
    let seated (t : State) (fe g : Nat) : Prop := (feAt t fe).holder = some l.ctx ∧ (feAt t fe).idle = false ∧
      ∀ k < n, (seatAt t fe k).st = .loaded ∧ (seatAt t fe k).pc = l.entry ∧ (seatAt t fe k).index = g * n + k ∧
        rdS { addr := 0, next := 0, slots := [], work := (seatAt t fe k).arch } 62 = BitVec.ofNat 64 (0x60000 - k * l.spillSz)
    s.launches = [(id, l)] → l.id = id → l.unread = none → l.cascs = [] → n ≤ 4 → l.levels.length ≤ 8 → mayPlace s l = true →
    (∀ u d x y p, l.dealMode = false → l.waiting = [u] → l.pos = [p] → findBase s l false u = some (d, x, y) →
      ∃ t, exec (.regionPlace id) s = .next t ∧ seated t (feAtXY d (x + p.1) (y + p.2)) u ∧
        ∃ l', KV.find id t.launches = some l' ∧ l'.waiting = [] ∧ l'.regions = l.regions ++ [(u, d, x, y)]) ∧
    (∀ u, l.dealMode = false → l.waiting = [u] → findBase s l false u = none → exec (.regionPlace id) s = .next s) ∧
    (∀ u d fe, l.dealMode = true → l.waiting = [u] → dealPlace s l none u = some (d, fe) →
      ∃ t, exec (.deal id) s = .next t ∧ seated t fe u ∧
        ∃ l', KV.find id t.launches = some l' ∧ l'.waiting = [] ∧ l'.placed = l.placed ++ [(u, fe)]) ∧
    (∀ fe k, k < 4 → fe < 25600 → (seatAt s fe k).st = .retired → (seatAt s fe k).launch = id →
      (∀ j < 4, seatOf (feAt s fe) j = seatAt s fe k ∨ (seatAt s fe j).st = .free) → (seatAt s fe k).cards = [] →
      (seatAt s fe k).splits = [] → (∀ x ∈ unperformed s, x.fe ≠ fe) → (feAt s fe).bight = none → jobFrozen s (seatAt s fe k).ctx = false →
      (∀ pl : Fin 4, (feAt s fe).planes[pl].owner = none) → (feAt s fe).barriers = [] →
      l.regions = [] → l.placed ≠ [] → (∃ p ∈ l.placed, p.2 ≠ fe) → ∃ t, exec (.groupRetire fe) s = .next t ∧
        (feAt t fe).seats = Vector.replicate 4 {} ∧ (feAt t fe).idle = true ∧ (∀ r ∈ t.recs, r.fe ≠ fe) ∧ t.mem = s.mem ∧
        ∃ l', KV.find id t.launches = some l' ∧ l'.placed = l.placed.filter (fun p => p.2 != fe))

/-- 07 R114, R116, R117, R121, R123, 23 R381: what the bight unit of a stage of a live cascade does with rows: stage 0 reads
its next row from the lattice as far as its accesses go, a slice that arrives whole is stored, an element of a 16-bit format in bits
15 to 0 of its word (07 R112), and counts in RCV, a retirement frees the oldest row,
a fault that is recorded stops the cascade, and a cascade of a resumed context goes on as it was. -/
def Obligations.RowsMoveThroughCascades : Prop :=
  (∀ (s : State) (fe : Nat) (b : Bight) (c : Cascade), liveBight s fe = some (b, c) → s.cascades = [(b.casc, c)] →
    c.id = b.casc → b.rank = 0 → c.rank = 1 → c.rpol ≠ 3 → b.haloLo = [] → b.haloHi = [] →
    let row (r : Nat) (ws : List W32) (t : State) : Prop := ∀ i v, ws[i]? = some v →
      rdPa t (ownPa s fe (c.base + 4 * ((c.lw + 2 * c.h) * (r % c.w)) + 4 * (i + c.h))) 4 = v.toNat % 2 ^ (8 * cascEsize c)
    let counts (n : Nat) (t : State) : Prop := ∃ b', bightAt t fe = some b' ∧ b'.rcv = n ∧ b'.row = [] ∧ b'.rowEor = false
    (stage0Ready s fe = true → b.parked = none → (rowSpan s fe c b false b.rcv).stop = .go → c.cpol ≠ 3 → c.h = 0 → 0 < c.lw → (b.nknown = true ∨ b.rowLast = false) →
      c.base + 4 * c.lw * c.w ≤ 0x60000 → 0 < c.w → ∃ t, exec (.stage0RowRead fe) s = .next t ∧ counts (b.rcv + 1) t ∧
        row b.rcv ((elemsOf (cascEsize c) (spanBytes s (rowSpan s fe c b false b.rcv))).map w32) t) ∧
    (∀ tok rest, 0 < b.stage → b.rowChan = tok :: rest → tok.abort = false → tok.eor = true → tok.last = false →
      b.rowEor = false → b.row = [] → b.rowLast = false → (b.nknown = true → b.rcv < b.n) → b.rcv - b.ret < c.w →
      tok.elems.length = c.lw → c.cpol ≠ 3 → c.h = 0 → 0 < c.lw → c.base + 4 * c.lw * c.w ≤ 0x60000 → 0 < c.w →
      ∃ t, exec (.rowSliceArrival fe 0) s = .next t ∧ counts (b.rcv + 1) t ∧ row b.rcv tok.elems t) ∧
    (∀ e rest tok toks, b.emis = e :: rest → b.stage + 1 < c.d → e.got = 0 → c.st ≠ .stopped →
      (∃ d, bightAt s (rankFe c (b.stage + 1) 0) = some d ∧ d.rowChan = []) → rankFe c (b.stage + 1) 0 ≠ fe →
      sinkChan (feAt s fe) e.pl.toNat e.port.toNat = tok :: toks → tok.abort = false → tok.err = false → tok.eor = true →
      tok.elems.length = c.lw → ∃ t, exec (.emissionComplete fe) s = .next t ∧
        (∃ b', bightAt t fe = some b' ∧ b'.emis = rest ∧ b'.emt = b.emt + 1) ∧
        ∃ d', bightAt t (rankFe c (b.stage + 1) 0) = some d' ∧ d'.rowChan.map (·.elems) = [tok.elems]) ∧
    (0 < b.pret → (b.nknown = true → b.ret < b.n) → c.st ≠ .draining →
      (if b.nknown then Nat.min (b.ret + c.h + 1) b.n else b.ret + c.h + 1) ≤ b.emt →
      exec (.rowRetire fe) s =
        .next (modFe fe (fun f => { f with bight := some { b with ret := b.ret + 1, pret := b.pret - 1 } }) s)) ∧
    (∀ code row col addr, code ≠ 0x48 → exec (.stageFaultRecord fe code 2 row col addr) s = .next s) ∧
    (∀ row col addr, b.flt = none → c.st = .filling → ∃ t, exec (.stageFaultRecord fe 0x48 2 row col addr) s = .next t ∧
      (∃ b' f, bightAt t fe = some b' ∧ b'.flt = some f ∧ f.code = 0x48 ∧ f.addr = addr ∧ f.info.toNat % 2 ^ 32 = row.toNat) ∧
      ∃ c', KV.find b.casc t.cascades = some c' ∧ c'.st = .stopped ∧ c'.prev = .filling)) ∧
  (∀ (s : State) (c0 : Cascade), KV.find c0.id s.cascades = some c0 → releaseReady s c0 = true →
      exec (.cascadeRelease c0.id) s = .next { s with cascades := s.cascades.map (fun e =>
        if e.1 == c0.id then (e.1, { e.2 with st := e.2.held }) else e) })

/-- 18 R302, R303, 06 R102, R103, 02 R23: a cycle of the arbiter in which one plane is runnable, by one node alone, makes
the firing of that node: its row state and generator, and its token at the end of its output channel when that feeds
something; an epoch ends with the unpinned weights from the mean occupancy and the credits at 0.

18 R304, R307, R308, 14 R232, R233: a packet of one write, whose position and value are admitted, sets its field at its
target and counts as applied for its seat; one that is not admitted is recorded for CFGSYNC as FORMAT with bit 63 of
FAULTINFO, and writes nothing; a packet behind an earlier one of its seat waits. -/
def Obligations.PlanesFireAndPacketsApply : Prop :=
  (∀ (s : State) (fe : Nat),
    let f := feAt s fe
    let a := f.arb
    (∀ pl n x tok, feLive s fe = true → a.cycle < 1024 → pl < 4 → n < 16 → (planeAt f pl).on = true →
      (∀ q < 4, q ≠ pl → (planeAt f q).on = false) → (∀ m < 16, m ≠ n → fieldN (planeAt f pl) (8 * m) % 64 = 63) →
      (∀ i < 8, fieldN (planeAt f pl) (0x90 + i) = 0x3F) → fireAt f pl n = some x → x.fl = 0 → x.out0 = some tok →
      x.out1 = none → (∀ i < 3, (nodeCfg (planeAt f pl) n).src.getD i 0x3F ≠ 0x10 + n) →
      consumed (planeAt f pl) (0x10 + n) = true → ∃ t, exec (.planeFire fe) s = .next t ∧ t.mem = s.mem ∧
        (feAt t fe).arb.cycle = a.cycle + 1 ∧ KV.get {} n (planeAt (feAt t fe) pl).nodes = x.st ∧
        vget 1 (planeAt (feAt t fe) pl).gens n = x.gen ∧ chanOf (feAt t fe) pl (0x10 + n) = chanOf f pl (0x10 + n) ++ [tok]) ∧
    (feLive s fe = false → exec (.planeFire fe) s = .next s) ∧
    (∃ t, exec (.arbiterEpoch fe) s = .next t ∧ (feAt t fe).arb.credits = Vector.replicate 4 0 ∧ (feAt t fe).arb.cycle = 0 ∧
      t.pwrNow = s.pwrMode ∧ ∀ p : Fin 4, (feAt t fe).arb.weights[p] = if a.pins.getLsbD p.val then a.weights[p]
        else BitVec.ofNat 8 (1 + Nat.min 254 (4 * a.occ[p] / 1024))) ∧
    exec (.injectionStarvation fe) s = .next (modFe fe (fun f => { f with starved := true }) s)) ∧
  ((∀ (s : State) (n : Nat) (p x : CfgPacket), s.cfgs[n]? = some p → x ∈ s.cfgs.take n → x.fe = p.fe → x.seat = p.seat →
    exec (.configPacketApply n) s = .next s) ∧
  ∀ (s : State) (p : CfgPacket) (w v : W32) (n : Nat), s.cfgs = [p] → p.serial = some n → p.single = some (w, v) →
    p.readFault = none → p.seat < 4 → p.fe < 25600 →
    let t0 := seatAt s p.fe p.seat
    let c : CfgScope := { ox := p.ox, oy := p.oy, region := p.region }
    (∀ x, checkSingle c w v = some x → x.field ≠ 0xFE → feAtXY p.die x.x x.y ∉ s.fused →
      ∃ t, exec (.configPacketApply 0) s = .next t ∧ t.cfgs = [] ∧ t.mem = s.mem ∧
        fieldAt (planeAt (feAt t (feAtXY p.die x.x x.y)) x.pl) x.field = v ∧
        (seatAt t p.fe p.seat).cfgDone = t0.cfgDone + 1 ∧ (seatAt t p.fe p.seat).cfgFail = t0.cfgFail) ∧
    (checkSingle c w v = none → ∃ t, exec (.configPacketApply 0) s = .next t ∧ t.cfgs = [] ∧ t.mem = s.mem ∧
      (seatAt t p.fe p.seat).cfgDone = t0.cfgDone + 1 ∧
      (seatAt t p.fe p.seat).cfgFail = t0.cfgFail ++ [(n, { code := 0x24, info := BitVec.ofNat 64 (2 ^ 63) })]))

/-- 18 R310 to R313, R316, 09 R152, 13 R203: a command at the head of a port that needs a translation latches it; a dense
local SIN of at most eight elements delivers one token with the bytes of the scratchpad and completes; a sparse row that
is staged whole is written with its count first, and one whose mask is bad puts both ports in ERROR; and a token of a
gather unit is delivered in sequence and held out of it. -/
def Obligations.PortsAdvance : Prop :=
  ∀ (s : State) (fe pl ix : Nat), pl < 4 →
    let f := feAt s fe
    let p := portOf f pl ix
    (∀ c q l, p.queue = c :: q → needsLatch c = true → feLive s fe = true → c.parked = none → headRuns f pl ix c = true →
      latchNew s fe (feDie fe) c.ctx (cmdVa c) (if ix < 16 then { r := true } else { w := true }) = .ok l →
      ∃ t, exec (.streamRelatch fe pl ix) s = .next t ∧ t.mem = s.mem ∧
        (portOf (feAt t fe) pl ix).queue = { c with latch := some l, dropped := false } :: q) ∧
    (∀ c, ix < 16 → fe < 25600 → feLive s fe = true → p = { queue := [c] } → chanOf f pl ix = [] → c.glob = false →
      (∀ x ∈ unperformed s, sameSeat x fe c.seat = false) → c.sparse = false → c.pos = 0 → cmdHigh c = 0 → 0 < cmdCount c → cmdCount c ≤ 8 →
      c.addr.toNat + cmdCount c * esize c.esz ≤ 0x60000 →
      ∃ t tok, exec (.portCommandComplete fe pl ix) s = .next t ∧ t.mem = s.mem ∧ chanOf (feAt t fe) pl ix = [tok] ∧
        portOf (feAt t fe) pl ix = { done := 1 } ∧ tok.eor = true ∧ tok.last = true ∧ tok.empty = 0 ∧
        tok.elems = (List.range (cmdCount c)).map fun i =>
          BitVec.ofNat 32 (rdPa s (ownPa s fe (c.addr.toNat + i * esize c.esz)) (esize c.esz))) ∧
    (∀ port c q, port < 15 → f.staging.port = some (pl, port) → (portOf f pl (16 + port)).queue = c :: q →
      f.staging.eorV = true → f.staging.eorM = true → feLive s fe = true → c.sparse = true →
      (f.staging.bad = true → c.seat < 4 → (seatAt s fe c.seat).st = .running → c.dirty = none →
        ∃ t, exec (.sparseRowCheck fe) s = .next t ∧ (portOf (feAt t fe) pl (16 + port)).ecode = 0x24 ∧
          (portOf (feAt t fe) pl (16 + port)).queue = [] ∧ (portOf (feAt t fe) pl (17 + port)).ecode = 0x24 ∧
          (feAt t fe).staging.port = none ∧ t.mem = s.mem) ∧
      (f.staging.bad = false → f.staging.masks = [0] → f.staging.vals = [] → 0 < cmdCount c → cmdCount c ≤ 32 →
        c.glob = false → fe < 25600 → f.waits = [] → c.addr.toNat % 4 = 0 → c.addr.toNat + 8 ≤ 0x60000 →
        ∃ t, exec (.sparseRowCheck fe) s = .next t ∧ (feAt t fe).staging.port = none ∧
          (portOf (feAt t fe) pl (16 + port)).queue = q ∧
          (portOf (feAt t fe) pl (16 + port)).done = (portOf f pl (16 + port)).done + 1 ∧
          Wrote s t (spBase fe + c.addr.toNat) 8 (cmdCount c))) ∧
    (∀ (seq : BitVec 16) (ws : List W32) (eor last : Bool), ix < 16 → ws ≠ [] → ws.length ≤ 8 → p.window = [] →
      (chanOf f pl ix).length < 4 →
      (seq = p.seq → ∃ t tok, exec (.dataTokenArrival fe pl ix seq ws eor last) s = .next t ∧
        chanOf (feAt t fe) pl ix = chanOf f pl ix ++ [tok] ∧ tok.elems = ws ∧ tok.eor = eor ∧ tok.last = last ∧
        (portOf (feAt t fe) pl ix).seq = p.seq + 1) ∧
      (seq ≠ p.seq → (seq - p.seq).toNat < 64 → ∃ t tok, exec (.dataTokenArrival fe pl ix seq ws eor last) s = .next t ∧
        chanOf (feAt t fe) pl ix = chanOf f pl ix ∧ tok.elems = ws ∧
        (portOf (feAt t fe) pl ix).window = [(seq.toNat, tok)] ∧ (portOf (feAt t fe) pl ix).seq = p.seq))

/-! ### The matrix array, the engines and their records -/

/-- 19 R333 to R336, R344: the command at the head of a live FE's array queue is performed and leaves it: ACCZ clears its
accumulator and its step count, MLOAD fills its slot from the scratchpad; an MTILE of an unscaled format goes on by one
step, and leaves with its last; and a card whose bytes have all landed enters its MMA behind the commands that are there. -/
def Obligations.ArrayCommandsArePerformed : Prop :=
  ∀ (s : State) (fe : Nat) (c : ArrCmd) (rest : List ArrCmd),
    let f := feAt s fe
    (f.arrQ = c :: rest → feLive s fe = true → (∀ x ∈ unperformed s, sameSeat x fe c.seat = false) →
      let left (t : State) : Prop := (feAt t fe).arrQ = rest ∧ (feAt t fe).arrOut = f.arrOut + 1
      (∀ x : AccNo, c.op = .accz x → ∃ t, exec (.arrayCommandPerform fe) s = .next t ∧ left t ∧ t.mem = s.mem ∧
        vget {} (feAt t fe).accs x.toNat = {}) ∧
      (∀ off (m : Slot), c.op = .mload off m → off + 2048 ≤ 0x60000 → ∃ t, exec (.arrayCommandPerform fe) s = .next t ∧
        left t ∧ t.mem = s.mem ∧ ∀ i < 2048, slotByte (feAt t fe) m.toNat i = memByte s.mem (paKey (ownPa s fe off) + i)) ∧
      (∀ d a b (x : AccNo) (m : Slot) (fmt : BitVec 3), c.op = .mtile d a b x m fmt → fmt.toNat < 3 →
        let t0 := tileOf d fmt.toNat
        0 < t0.nt → x.toNat + c.step % t0.nt < 8 → ∃ t, exec (.mtileStep fe) s = .next t ∧ t.mem = s.mem ∧
          (if t0.chunks * t0.nt ≤ c.step + 1 then left t
           else (feAt t fe).arrQ = { c with step := c.step + 1 } :: rest ∧ (feAt t fe).arrOut = f.arrOut) ∧
          (accAt (feAt t fe) (x.toNat + c.step % t0.nt)).steps =
            (accAt f (x.toNat + c.step % t0.nt)).steps + (if fmt.toNat = 2 then 2 else 1))) ∧
    (∀ id k r x ma mb fmt, KV.find id s.cards = some k → k.rcv = [r] → k.checked = true → k.done = false → k.want = 2 →
      k.checkpointed = false → r.failed = false → r.fired = false → r.whole = true → r.bv = false → jobFrozen s k.ctx = false →
      rcvFe s k r = some fe → followOn (nth k.w 4) = some (x, ma, mb, fmt) → mtileBusy f = false →
      (vget {} f.opm ma.toNat).claim.isSome = true → (vget {} f.opm mb.toNat).claim.isSome = true →
      ∃ t, exec (.followOnMma id 0) s = .next t ∧ t.mem = s.mem ∧ (feAt t fe).arrIn = f.arrIn + 1 ∧
        (feAt t fe).arrQ = f.arrQ ++ [{ seat := 0, hand := 0, op := .mma x ma mb fmt, card := some (id, 0) }] ∧
        ∃ k', KV.find id t.cards = some k' ∧ k'.rcv = [{ r with fired := true, owed := 0 }])

/-- 14 R235 to R238, R407, 08 R136, 13 R215: an engine checks a card before it moves a byte: a bad one ends with FORMAT, and
a plain copy reads its source; a packet of it lands at its receiver up to the next 64-byte boundary, or the next 4 KiB of the transfer, and nothing else in
memory changes; and the first step of a reducing collective reads its source into the working values.

14 R239, R240, 19 R347, 06 R105: a card that is over sends its record, with its tag, status and engine, to the seat that
posted it and is no longer outstanding; a record that arrives enters the seat's queue of 32, then its ring; with both full
it is held and EVENT_OVERFLOW is deferred once; and a held one enters when there is room. -/
def Obligations.EnginesAndTheirRecords : Prop :=
  (∀ (s : State) (id : Nat) (c : Card), KV.find id s.cards = some c → c.done = false → c.checkpointed = false →
    jobFrozen s c.ctx = false → c.again = false → (∀ e ∈ s.gus, e.2.ecc = []) →
    let card (t : State) (c' : Card) : Prop := KV.find id t.cards = some c'
    (c.checked = false → cardWaits s id c = false →
      (cardBad c = true → ∃ t, exec (.cardCheck id) s = .next t ∧ card t { c with status := 0x24, done := true } ∧
        t.mem = s.mem ∧ t.fes = s.fes) ∧
      (cardBad c = false → cardKind c.w = 1 → cardXform c.w = 0 → ∀ l, cardLen c.w = l.length → l ≠ [] →
        readFrom s (cardDie c) c.ctx (nth c.w 1).toNat (cardLen c.w) = (l, 0) →
        ∃ t, exec (.cardCheck id) s = .next t ∧ card t { c with checked := true, out := [(0, l)], broken := 0 } ∧
          t.mem = s.mem ∧ t.fes = s.fes)) ∧
    (∀ r l pa x fresh, c.checked = true → cardKind c.w = 1 → c.want = 1 → c.rcv = [r] → c.out = [(0, l)] → r.out = none →
      c.broken = 0 → r.failed = false → r.opm = false → r.bv = false → r.landed < l.length → rcvBad s c r pa = false →
      latching s c 0 (r.dest.toNat + r.landed) { w := true } = .go pa x fresh → ownModule s pa = true → paClass pa = 0 →
      meets s (cardDie c) c.ctx pa = .go →
      let n := Nat.min (l.length - r.landed) (Nat.min (64 - (r.dest.toNat + r.landed) % 64) (4096 - r.landed % 4096))
      pa % 2 ^ 44 + n ≤ 2 ^ 44 →
      ∃ t, exec (.enginePacketLanding id 0) s = .next t ∧ t.tags = s.tags ∧ t.fes = s.fes ∧
        (∃ c' r', card t c' ∧ c'.rcv = [r'] ∧ r'.landed = r.landed + n ∧ r'.failed = false ∧ (r'.whole = true ↔ r'.landed = l.length)) ∧
        ∀ x, memByte t.mem x =
          if paKey pa ≤ x ∧ x < paKey pa + n then l.getD (r.landed + (x - paKey pa)) 0 else memByte s.mem x) ∧
    (∀ l, c.checked = true → cardKind c.w = 4 → c.prog = 0 → collOp c = 0 → fld (nth c.w 3) 1 0 = 0 →
      ringState s c = 1 →
      cardRead s c 0 (nth c.w 1).toNat (4 * cardLen c.w) = (l, 0) → l.length = 4 * cardLen c.w →
      ∃ t c', exec (.collRingStep id) s = .next t ∧ card t c' ∧ c'.prog = 1 ∧ t.mem = s.mem ∧
        c'.work = (List.range (cardLen c.w)).map fun i => (i, BitVec.ofNat 32 (leNat ((l.drop (4 * i)).take 4))))) ∧
  (∀ (s : State),
    (∀ id c fe k, KV.find id s.cards = some c → c.poster = .seat fe k → c.done = true → jobFrozen s c.ctx = false → k < 4 →
      (seatAt s fe k).st = .running → ∃ t ev, exec (.completionRecordPost id) s = .next t ∧ KV.find id t.cards = none ∧
        (seatAt t fe k).cards = (seatAt s fe k).cards.filter (· != id) ∧ t.mem = s.mem ∧
        t.recs = s.recs ++ [{ fe := fe, seat := k, ev := ev }] ∧ ev.w0.extractLsb' 48 16 = cardTag c.w ∧
        ev.w0.extractLsb' 40 8 = cardStatus c ∧ ev.w0.extractLsb' 32 8 = c.source ∧ ev.w0.getLsbD 31 = false) ∧
    (∀ m, s.recs = [m] → m.seat < 4 → (seatAt s m.fe m.seat).st = .running →
      let t0 := seatAt s m.fe m.seat
      (t0.evq.length < 32 → t0.ring = [] → ∃ t, exec (.eventRecordArrival 0) s = .next t ∧ t.recs = [] ∧
        (seatAt t m.fe m.seat).evq = t0.evq ++ [m.ev] ∧ (seatAt t m.fe m.seat).ring = []) ∧
      (t0.evq.length = 32 → t0.ring.length < 32 → ∃ t, exec (.eventRecordArrival 0) s = .next t ∧ t.recs = [] ∧
        (seatAt t m.fe m.seat).evq = t0.evq ∧ (seatAt t m.fe m.seat).ring = t0.ring ++ [m.ev]) ∧
      (32 ≤ t0.evq.length → 32 ≤ t0.ring.length → t0.evOver = false → ∃ t, exec (.eventRecordArrival 0) s = .next t ∧
        t.recs = [{ m with held := true }] ∧ (seatAt t m.fe m.seat).evOver = true ∧
        (seatAt t m.fe m.seat).deferred = t0.deferred ++ [{ flt := { code := 0x39, info := 64 } }]) ∧
      (m.held = true → t0.evq.length < 32 → t0.ring = [] → ∃ t, exec (.eventRecordRetry 0) s = .next t ∧ t.recs = [] ∧
        (seatAt t m.fe m.seat).evq = t0.evq ++ [m.ev] ∧ (seatAt t m.fe m.seat).evOver = false)))

/-! ### Links, the hitch wave and the module -/

/-- 10 R158, R160 to R162, 25 R389, R390: training brings a link up, degraded with a half-width module, or into a replay of
what it holds, and measures the round trip, of which a long-reach port's replay timeout is the double; the third failed attempt fails it with CAUSE 1; a loss of signal trains it again; a NAK, or a replay
timeout, begins a replay of every held flit from ACKSEQ + 1, and the eighth without progress trains the link; the
acknowledgement of the last flit ends the replay. A marker owed to the link goes first when it is up. -/
def Obligations.LinksTrainAndReplay : Prop :=
  ∀ (s : State) (id : BitVec 32),
    let k := linkKey s id
    let l := linkAt s k
    let m := if isRigging k then 2 ^ 24 else 1024
    let set (l' : Link) : State := { s with links := KV.set k l' s.links }
    let turned (i : Instr) (p : Link → Prop) : Prop := ∃ t, exec i s = .next t ∧ p (linkAt t k) ∧ t.mem = s.mem
    (∀ (d : BitVec 4) rtt, l.st = .training → l.owesMarks = [] → turned (.linkTrained id ⟨d, rtt⟩) fun l' =>
      let half := if isRigging k = true then l.half else l.half ||| d
      let up := if half ≠ 0 ∨ (isRigging k = true ∧ d ≠ 0) then LinkState.upDegraded else LinkState.upFull
      l'.trainFails = 0 ∧ l'.half = half ∧ l'.rtt = rtt ∧ l'.timeoutUs = (if l.lr = true then 2 * rtt else l.timeoutUs) ∧
      if l.buf = [] then l'.st = up else l'.st = .replay ∧ l'.held = up ∧ l'.mark = l.seq) ∧
    (∀ (d : BitVec 4) rtt, l.st ≠ .training → l.owesMarks = [] →
      exec (.linkTrained id ⟨d, rtt⟩) s = .next (set { l with dir := some (id.getLsbD 0) })) ∧
    (∀ rtt job, l.st = .training → l.owesMarks = [job] → l.buf = [] → l.lr = false → l.keyWait = false → l.retrain ≠ 15 → s.reqs = [] →
      job ∉ l.frozenJobs → turned (.linkTrained id ⟨0, rtt⟩) fun l' => l'.st = .frozen ∧ l'.owesMarks = [] ∧
        l'.held = (if l.half ≠ 0 then .upDegraded else .upFull) ∧ l'.frozenJobs = job :: l.frozenJobs ∧ l'.buf = [l.seq]) ∧
    (l.st = .training →
      (l.trainFails < 2 → exec (.trainingAttemptFail id) s = .next (set { l with trainFails := l.trainFails + 1 })) ∧
      (2 ≤ l.trainFails → unperformed s = [] → waitingReqs s = [] → s.replies = [] → s.fes = [] → exec (.trainingAttemptFail id) s =
        .next { set { l with st := .failed, cause := 1 } with reports := s.reports ++ [.link (linkId s k) 1] })) ∧
    (isUp l = true → exec (.lossOfSignal id) s = .next (set { l with st := .training, trainFails := 0 }) ∧
      (l.replays < 7 → turned (.replayTimeout id) fun l' =>
        l'.st = .replay ∧ l'.held = l.st ∧ l'.replays = l.replays + 1 ∧ l'.buf = l.buf ∧ l'.mark = l.seq)) ∧
    (l.st = .replay → l.replays = 7 → l.runs < 2 →
      turned (.replayTimeout id) fun l' => l'.st = .training ∧ l'.replays = 0 ∧ l'.runs = l.runs + 1) ∧
    (∀ a, isUp l = true → l.owesMarks = [] → l.replays < 7 → turned (.nakReceive id a) fun l' => l'.st = .replay ∧
      l'.buf = l.buf.filter (fun q => decide (m / 2 ≤ (a + m - q) % m))) ∧
    (∀ a, l.st = .replay → l.owesMarks = [] → l.wasFrozen = false → l.buf.all (fun q => decide ((a + m - q) % m < m / 2)) = true →
      turned (.ackReceive id a) fun l' => l'.st = l.held ∧ l'.buf = []) ∧
    (∀ a, isUp l = true → l.owesMarks = [] → turned (.ackReceive id a) fun l' => l'.st = l.st ∧
      l'.buf = l.buf.filter (fun q => decide (m / 2 ≤ (a + m - q) % m)))

/-- 10 R161, R162, R164, R168, R406, 04 R69, 25 R389, R390: a receiver accepts the flit of the sequence number that it expects,
acknowledges a duplicate again, and asks for a replay on a bad CRC, which it counts, and on a jump ahead; at the 128th flit
and at the interval it acknowledges; a request in an accepted flit of a splice has crossed it, and one that another module sends arrives
with the context of its job, goes on to a third module, or is discarded and reported; an ACK flit from another module frees the flits sent to it; a packet whose header is bad is reported and
dropped, and its requester takes LINK_TIMEOUT; a frame with a bad tag is asked for again; PAD flits complete a frame; the next key is taken
at its switch, at a frame boundary; a failed lane takes a spare or halves its module, whose flits on their way are lost. -/
def Obligations.LinksCarryFlits : Prop :=
  ∀ (s : State) (id : BitVec 32),
    let k := linkKey s id
    let l := linkAt s k
    let m := if isRigging k then 2 ^ 24 else 1024
    let set (l' : Link) : State := { s with links := KV.set k l' s.links }
    let turned (i : Instr) (p : Link → Prop) : Prop := ∃ t, exec i s = .next t ∧ p (linkAt t k) ∧ t.mem = s.mem
    let bad (l' : Link) : Prop := l'.expect = l.expect ∧ l'.discard = true ∧ l'.owesNak = some ((l.expect + m - 1) % m) ∧
      l'.crcErr = if l.crcErr = 255 then 255 else l.crcErr + 1
    let took (l' : Link) : Prop := l'.expect = (l.expect + 1) % m ∧ l'.discard = false ∧ l'.st = l.st ∧
      (l.sinceAck = 127 → l'.sinceAck = 0 ∧ l'.owesAck = some l.expect)
    let again (l' : Link) : Prop := l'.expect = l.expect ∧ l'.sinceAck = 0 ∧ l'.owesAck = some ((l.expect + m - 1) % m) ∧
      l'.owesNak = l.owesNak
    let ahead (l' : Link) : Prop := l'.expect = l.expect ∧ l'.discard = true ∧ l'.owesNak = some ((l.expect + m - 1) % m)
    let behind (q : Nat) : Prop := q ≠ l.expect ∧ (((l.expect + m - 1) % m) + m - q) % m < m / 2
    (carries l = true → isRigging k = false → l.sinceAck < 128 → l.expect < m →
      (∀ q < m, q ≠ l.seq → (behind q → turned (.spliceFlitReceive id q true true) again) ∧
        (q ≠ l.expect → ¬ behind q → l.discard = false → turned (.spliceFlitReceive id q true true) ahead)) ∧
      (l.expect ≠ l.seq ∨ sends k l = true → turned (.spliceFlitReceive id l.expect false true) bad ∧
        turned (.spliceFlitReceive id l.expect true true) took) ∧
      (l.expect ≠ l.seq →
        (∀ r, s.reqs = [r] → r.flit = some (k, l.expect) → ∃ t, exec (.spliceFlitReceive id l.expect true true) s = .next t ∧
          t.reqs = [{ r with hop := r.hop + 1, flit := none }] ∧ t.mem = s.mem) ∧
        ((∀ r ∈ s.reqs, r.flit ≠ some (k, l.expect)) → (∀ x ∈ s.replies, x.req.flit ≠ some (k, l.expect)) →
          ∃ t, exec (.spliceFlitReceive id l.expect true false) s = .next t ∧
            t.reports = s.reports ++ [.headerDrop (linkId s k) l.expect]) ∧
        (∀ r b v, s.reqs = [r] → r.flit = some (k, l.expect) → r.far = none → r.op = .write b v → r.seat < 4 →
          (seatAt s r.fe r.seat).st = .running → (seatAt s r.fe r.seat).ctx = r.ctx → ∃ t, exec (.spliceFlitReceive id l.expect true false) s = .next t ∧
          t.reports = s.reports ++ [.headerDrop (linkId s k) l.expect] ∧ t.reqs = [] ∧ t.mem = s.mem ∧
          (seatAt t r.fe r.seat).deferred = (seatAt s r.fe r.seat).deferred ++
            [{ flt := { code := 0x51, info := r.hand ||| 1, addr := r.va } }]))) ∧
    (∀ f : Flit, carries l = true → isRigging k = true → l.sinceAck < 128 → l.expect < m → f.seq < m → f.kind.toNat ≤ 2 →
      (∀ b, reverseOf s k = some b → (linkAt s b).owesMarks = []) →
      (turned (.riggingFlitReceive id f false true true) bad) ∧
      (behind f.seq → turned (.riggingFlitReceive id f true true true) again) ∧
      (f.seq ≠ l.expect → ¬ behind f.seq → l.discard = false → turned (.riggingFlitReceive id f true true true) ahead) ∧
      (f.seq = l.expect → l.enc = false → turned (.riggingFlitReceive id f true true true) took ∧
        (∀ p, f.body = [p] → f.ackV = false → ∃ t, exec (.riggingFlitReceive id f true true true) s = .next t ∧
          (p.dst ≠ s.moduleId.toNat → ∃ r, t.reqs = s.reqs ++ [r] ∧ r.op = .pass ∧ r.pa = p.dst * 2 ^ 46) ∧
          (p.dst = s.moduleId.toNat →
            (jobCtx s p.job = none → t.reqs = s.reqs ∧ t.reports = s.reports ++ [.strayPacket p.src p.job]) ∧
            ∀ c op fe j pa va lands, jobCtx s p.job = some c → p.body = .request op fe j pa va lands →
              ∃ r, t.reqs = s.reqs ++ [r] ∧ r.ctx = c ∧ r.op = op ∧ r.seat = j ∧ r.far = some p.src ∧
                r.pa = s.moduleId.toNat * 2 ^ 46 + paKey pa))) ∧
      (f.seq = l.expect → l.enc = true → l.expect % 16 = 15 → l.frameFails < 3 →
        turned (.riggingFlitReceive id f true false true) fun l' => l'.expect = l.expect - 15 ∧ l'.discard = true ∧
          l'.frameFails = l.frameFails + 1)) ∧
    (∀ (f : Flit) b, carries l = true → isRigging k = true → f.kind = 4 → reverseOf s k = some b → isUp (linkAt s b) = true →
      (linkAt s b).owesMarks = [] → ∃ t, exec (.riggingFlitReceive id f true true true) s = .next t ∧ t.mem = s.mem ∧
        linkAt t k = l ∧ (linkAt t b).buf = (linkAt s b).buf.filter
          (fun q => decide (2 ^ 23 ≤ (f.ackSeq + 2 ^ 24 - q) % 2 ^ 24))) ∧
    (carries l = true → exec (.ackInterval id) s =
      .next (set { l with sinceAck := 0, owesAck := some ((l.expect + m - 1) % m) })) ∧
    (isRigging k = true → isUp l = true ∨ l.st = .frozen → l.enc = true → 0 < l.inFrame → l.inFrame < 16 →
      l.keyWait = false → l.lr = false → l.buf.length + 16 ≤ 1024 → l.seq < m → l.seq % 16 = l.inFrame → l.frames + 1 < 2 ^ 28 → turned (.framePad id) fun l' => l'.st = l.st ∧ l'.inFrame = 0 ∧ l'.frames = l.frames + 1 ∧ l'.buf.length = l.buf.length + (16 - l.inFrame)) ∧
    (l.enc = true → (∃ t, exec (.keySoon id) s = .next t ∧ t.reports = s.reports ++ [.keySoon id] ∧ t.mem = s.mem) ∧
      (0 < l.inFrame → l.owesMarks = [] → exec (.keySwitch id) s = .next (set { l with frames := Nat.max l.frames (2 ^ 28) })) ∧
      (l.inFrame = 0 → l.keyPh = false → l.owesMarks = [] → l.key1 ≠ none → exec (.keySwitch id) s =
        .next (set { l with keyPh := true, key0 := none, frames := 0, keyWait := false })) ∧
      (l.inFrame = 0 → l.keyPh = false → l.owesMarks = [] → l.key1 = none → exec (.keySwitch id) s = .next (set { l with keyWait := true }))) ∧
    (∀ u : BitVec 2, carries l = true → isRigging k = false →
      (0 < vget 0 l.spares u.toNat →
        turned (.laneFailure id u) fun l' => vget 0 l'.spares u.toNat = vget 0 l.spares u.toNat - 1 ∧ l'.st = l.st) ∧
      (vget 0 l.spares u.toNat = 0 → l.st = .upFull → turned (.laneFailure id u) fun l' =>
        l'.st = .upDegraded ∧ l'.half.getLsbD u.toNat = true ∧ l'.retrain.getLsbD u.toNat = true ∧
          ∀ x ∈ l'.flying, x.2 ≠ u.toNat)) ∧
    (∀ u : BitVec 2, turned (.ucieRetrainDone id u) fun l' => l'.retrain.getLsbD u.toNat = false ∧ l'.half = l.half) ∧
    (isRigging k = true → l.st = .upFull → exec (.fecMarginLow id) s = .next (set { l with st := .upDegraded })) ∧
    exec .hostLinkDown s = .next (if s.hostUp = true then { s with hostUp := false, hostCause := 4 } else s)

/-- 11 R172 to R178: a marker of a job that the module holds and that is not frozen freezes its seats that wait or stand at
a hand boundary, and of an unknown job does nothing; the debugger's request starts a wave whose cause carries code 0x62
and the debugger's mark; a release whose time has come ends in two halves, 100 ns apart, after which the seats are as they
were. -/
def Obligations.HitchFreezesAndReleases : Prop :=
  ∀ (s : State) (job : BitVec 16) (epoch : BitVec 8) (cause : CauseWords),
    let h := s.hitch
    (ctxsOf s job = [] → h.markers = [] → exec (.hitchMarker job epoch cause) s = .next s ∧
      exec (.debuggerHitchRequest job) s = .next s) ∧
    (∀ c fe k, ctxsOf s job = [c] → seatsOf s c = [(fe, k)] → k < 4 → job ∉ h.frozen → s.links = [] → h.markers = [] →
      h.rels = [] → s.launches = [] →
      ((seatAt s fe k).st = .waiting ∨ ((seatAt s fe k).st = .running ∧ (seatAt s fe k).hand = none) →
        ∃ t, exec (.hitchMarker job epoch cause) s = .next t ∧ (seatAt t fe k).st = .frozen ∧
          (seatAt t fe k).prev = (seatAt s fe k).st ∧ t.hitch.frozen = job :: h.frozen ∧ t.hitch.epoch = epoch ∧
          t.hitch.first = cause ∧ t.hitch.st = 1 ∧ t.mem = s.mem) ∧
      ∃ t c1, exec (.debuggerHitchRequest job) s = .next t ∧ t.hitch.markers = [(job, h.epoch + 1, c1)] ∧
        t.hitch.epoch = h.epoch + 1 ∧ c1.valid = true ∧ c1.who.extractLsb' 56 8 = 0x62 ∧ c1.who.getLsbD 28 = true ∧
        c1.who.extractLsb' 0 16 = job ∧ t.fes = s.fes) ∧
    (∀ x, h.rels = [x] → x.half = false → s.replies = [] → s.recs = [] → s.melds = [] → exec .receiverRelease s =
      .next { s with time := Nat.max s.time x.time.toNat, hitch := { h with rels := [{ x with half := true }] } }) ∧
    ((∀ x ∈ h.rels, x.half = true) → exec .receiverRelease s = .next s) ∧
    ((∀ x ∈ h.rels, x.half = false) → exec .senderRelease s = .next s) ∧
    (∀ c fe k x, h.rels = [x] → x.half = true → x.job = job → h.frozen = [job] → ctxsOf s job = [c] → seatsOf s c = [(fe, k)] → k < 4 →
      (seatAt s fe k).st = .frozen → (seatAt s fe k).prev = .running → (seatAt s fe k).stepping = false →
      (ctxAt s c).st = .running → (ctxAt s c).pend = false → s.links = [] → ∃ t, exec .senderRelease s = .next t ∧
        (seatAt t fe k).st = .running ∧ t.hitch.frozen = [] ∧ t.hitch.st = 0 ∧
        t.time = Nat.max s.time (x.time.toNat + 100) ∧ t.mem = s.mem)

/-- 13 R201, R205, R206, R208, R209: a fill that ends installs its segment and performs its requests in order, and one that
cannot be corrected installs nothing, is reported, and stops the requesters' contexts, a PREEMPTING one after its save; a hot row is remapped to a spare and its waiting requests go on when the copy ends;
and a GU takes refresh over at the second missed heartbeat in a row and gives it back at the next one after HANDBACK. -/
def Obligations.GatherUnitsFillSwapAndRefresh : Prop :=
  ∀ (s : State) (n seg : Nat),
    let g := guAt s n
    let set (g' : Gu) : State := { s with gus := KV.set n g' s.gus }
    let quiet := ∀ e ∈ s.trains, e.2.accepted = []
    (∀ r b v, quiet → g.fills = [(seg, false, [r])] → g.cached = [] → r.op = .write b v → guOfPa r.pa = n → segOf r.pa = seg → r.far = none →
      (∀ ecc, ecc ≠ .uncorrectable → ∃ t, exec (.fillComplete n seg false ecc) s = .next t ∧
        Wrote s t (paKey r.pa) b v.toNat ∧ (guAt t n).fills = [] ∧ (guAt t n).cached = [(seg, true)] ∧
        (guAt t n).corrected = g.corrected + (if ecc = .corrected then 1 else 0)) ∧
      (r.seat < 4 → (seatAt s r.fe r.seat).st = .running → (seatAt s r.fe r.seat).ctx = r.ctx →
        (ctxAt s r.ctx).st = .preempting ∨ (ctxAt s r.ctx).st = .running → ∃ t, exec (.fillComplete n seg false .uncorrectable) s = .next t ∧ t.mem = s.mem ∧ (guAt t n).fills = [] ∧
          (guAt t n).cached = [] ∧ (seatAt t r.fe r.seat).deferred = (seatAt s r.fe r.seat).deferred ++
            [{ flt := { code := 0x50, info := r.hand ||| 1, addr := r.va } }] ∧ .fault r.ctx 0x50 ∈ t.reports ∧
            (if (ctxAt s r.ctx).st = .running then (ctxAt t r.ctx).st = .stopped ∧ .contextStopped r.ctx ∈ t.reports
             else (ctxAt t r.ctx).stopAfter = true))) ∧
    (∀ r1 r2 b v1 v2, quiet → g.fills = [(seg, false, [r1, r2])] → g.cached = [] → r1.op = .write b v1 → r2.op = .write b v2 → r2.pa = r1.pa →
      guOfPa r1.pa = n → segOf r1.pa = seg → ∃ t, exec (.fillComplete n seg false .clean) s = .next t ∧ (guAt t n).fills = [] ∧
        Wrote s t (paKey r1.pa) b v2.toNat) ∧
    (g.fills = [(seg, false, [])] → exec (.fillMergeWindow n seg) s = .next (set { g with fills := [(seg, true, [])] })) ∧
    (∀ ch bank row,
      let key := rowKey ch bank row
      (g.swapen = true → rowHot g key = true → key ∉ g.copying → freeSpares g ch bank ≠ [] →
        ∃ t sp, exec (.rowSwap n ch bank row) s = .next t ∧ sp ∈ freeSpares g ch bank ∧
          KV.find key (guAt t n).indir = some sp ∧ (guAt t n).copying = key :: g.copying ∧ t.mem = s.mem) ∧
      (g.swapen = false → exec (.rowSwap n ch bank row) s = .next s) ∧
      (quiet → key ∈ g.copying → g.rowWait = [] → g.fills = [] → exec (.rowCopyComplete n ch bank row) s =
        .next (set { g with copying := g.copying.filter (· != key) })) ∧
      (∀ r, quiet → key ∈ g.copying → g.rowWait = [r] → g.fills = [] → g.cached = [] → keyOf r.pa = key → guOfPa r.pa = n →
        ∃ t, exec (.rowCopyComplete n ch bank row) s = .next t ∧ t.mem = s.mem ∧ key ∉ (guAt t n).copying ∧
          (guAt t n).rowWait = [] ∧ (guAt t n).fills.map (fun f => (f.1, f.2.2)) = [(segOf r.pa, [r])])) ∧
    exec (.swapWindowEnd n) s = .next (set { g with hot := [] }) ∧
    (g.rfown = false → g.missed = 1 → ∃ t, exec (.heartbeatMissed n) s = .next t ∧ (guAt t n).rfown = g.takeen ∧
      (guAt t n).missed = 2 ∧ t.reports.length = s.reports.length + 1) ∧
    (g.missed = 0 → exec (.heartbeatMissed n) s = .next (set { g with missed := 1 })) ∧
    (g.rfown = true → g.missed = 0 → exec (.handback n) s = .next (set { g with handback := true })) ∧
    (g.missed ≠ 0 → exec (.handback n) s = .next (set g)) ∧
    (g.rfown = true → g.handback = true → ∃ t, exec (.heartbeatReceived n) s = .next t ∧ (guAt t n).rfown = false ∧
      (guAt t n).handback = false ∧ (guAt t n).missed = 0 ∧ t.reports.length = s.reports.length + 1) ∧
    (g.handback = false → exec (.heartbeatReceived n) s = .next (set { g with missed := 0 })) ∧
    exec (.refresh n) s = .next (set g)

/-- 26 R393 to R397: a command to the training block of an open channel is refused with REJ; on a closed one a test leaves
in its result register the lanes that pass, by what the PHY answers for each lane's wires and the delays that the test is of; a broadcast
writes one delay of all 64 lanes, and a repair is stored; opening serves the requests that wait, and a channel that is closing is closed
when its drain ends, its dirty lines having been written back.

27 R399 to R404: the registers of the module: a MODE of 3 is not stored, above the envelope the clock
falls by 50 MHz to 1,000 at least, MODULEID, CTXCTL and the route table take their fields, a write of fewer than eight
bytes is discarded; and POWER_GOOD, or the standby MSC, boots a module that has not booted: with every splice and port
up, every channel open or reported, and memory outside the HBM stacks cleared, or up to the step that fails, whose number PWRSTAT.BOOT
reports. -/
def Obligations.ChannelsAndDeviceRegisters : Prop :=
  (∀ (s : State) (ch : Nat) (v : W64),
    let c := trainAt s ch
    let set (c' : Train) : State := { s with trains := KV.set ch c' s.trains }
    (c.opened = true → ∀ i ∈ ([.trcmdReadTest ch, .trcmdWriteTest ch, .trcmdPatternTest ch, .trbcast ch v, .trrepair ch v] :
      List Instr), exec i s = .next (set { c with rej := true })) ∧
    (c.opened = false →
      (∀ i ∈ ([.trcmdReadTest ch, .trcmdWriteTest ch, .trcmdPatternTest ch] : List Instr), ∃ t, exec i s = .next t ∧
        (trainAt t ch).rej = false ∧ (trainAt t ch).opened = false ∧ (trainAt t ch).trdly = c.trdly ∧ t.mem = s.mem) ∧
      (let rd (l : Nat) : Nat := (trdly c l).toNat % 64
       let wr (l : Nat) : Nat := (trdly c l).toNat / 256 % 64
       let result (i : Instr) (pass : Nat → Bool) : Prop := ∃ t, exec i s = .next t ∧
         ∀ l < 64, (trainRead (trainAt t ch) 0x008).getLsbD l = pass l
       result (.trcmdReadTest ch) (fun l => Config.phyRead ch (wireOf c l) (rd l)) ∧
       result (.trcmdWriteTest ch) (fun l => Config.phyWrite ch (wireOf c l) (wr l)) ∧
       result (.trcmdPatternTest ch) (fun l => Config.phyPattern ch (wireOf c l) (rd l) (wr l))) ∧
      (∃ t, exec (.trbcast ch v) s = .next t ∧ (trainAt t ch).rej = false ∧ t.mem = s.mem ∧ ∀ l < 64, ∃ old new,
        trainRead c (0x100 + 8 * l) = old ∧ trainRead (trainAt t ch) (0x100 + 8 * l) = new ∧
        (if v.getLsbD 8 then new.extractLsb' 8 6 = v.extractLsb' 0 6 ∧ new.extractLsb' 0 6 = old.extractLsb' 0 6
         else new.extractLsb' 0 6 = v.extractLsb' 0 6 ∧ new.extractLsb' 8 6 = old.extractLsb' 8 6)) ∧
      (v &&& ~~~0xBFBF#64 = 0 → v.getLsbD 7 = false ∨ v.getLsbD 15 = false → exec (.trrepair ch v) s =
        .next (set { c with rej := false, trrepair := v }))) ∧
    (c.waiting = [] → c.accepted = [] → exec (.trctlOpen ch) s = .next (set { c with opened := true, closing := false, rej := false })) ∧
    (∀ r, c.waiting = [r] → c.accepted = [] → guOfPa r.pa = guOfChan ch → (guAt s (guOfChan ch)).fills = [] →
      (guAt s (guOfChan ch)).rowWait = [] → (guAt s (guOfChan ch)).cached = [] → (guAt s (guOfChan ch)).copying = [] →
      ∃ t, exec (.trctlOpen ch) s = .next t ∧ (trainAt t ch).opened = true ∧ (trainAt t ch).waiting = [] ∧
        (trainAt t ch).accepted = [] ∧ (guAt t (guOfChan ch)).fills.map (fun f => (f.1, f.2.2)) = [(segOf r.pa, [r])] ∧ t.mem = s.mem) ∧
    exec (.trctlClose ch) s = .next (set { c with closing := c.opened, rej := false }) ∧
    (c.closing = true → c.accepted = [] → (guAt s (guOfChan ch)).fills = [] → (guAt s (guOfChan ch)).rowWait = [] →
      ∃ t, exec (.channelClosed ch) s = .next t ∧ trainAt t ch = { c with opened := false, closing := false } ∧ t.mem = s.mem ∧
        ∀ e ∈ (guAt t (guOfChan ch)).cached, chanOfPa (segPa e.1) = ch → e.2 = false) ∧
    (c.closing = false → exec (.channelClosed ch) s = .next s)) ∧
  (∀ (s : State) (v : W64),
    (v.toNat % 4 ≠ 3 → exec (.pwrctlWrite v) s = .next { s with pwrMode := v.extractLsb' 0 2 }) ∧
    (v.toNat % 4 = 3 → exec (.pwrctlWrite v) s = .next s) ∧
    (∀ p temp, exec (.clockThrottle p temp) s = .next { s with
      power := p, temp := temp
      clock := if (match s.pwrNow.toNat with | 0 => 4800 | 1 => 4000 | _ => 3200) < p.toNat then
        BitVec.ofNat 12 (Nat.max 1000 (s.clock.toNat - 50)) else s.clock }) ∧
    exec (.moduleidWrite v) s = .next { s with moduleId := v.extractLsb' 0 10 } ∧
    (∀ c < 64, ∃ t, exec (.ctxctlWrite c v) s = .next t ∧ (ctxAt t c).belayEn = v.getLsbD 8 ∧
      (ctxAt t c).meldWin = v.extractLsb' 0 8 ∧ (ctxAt t c).st = (ctxAt s c).st ∧ t.mem = s.mem) ∧
    (∀ n < 1024, ∃ t, exec (.routeTableWrite n v) s = .next t ∧ KV.get 0 n t.routes = v &&& 0x9F#64 ∧ t.mem = s.mem) ∧
    (∀ reg n, n ≠ 8 → exec (.registerWrite reg v n) s = .next s) ∧
    (v.toNat % 4 ≠ 3 → exec (.registerWrite 0x04000000 v 8) s = .next { s with pwrMode := v.extractLsb' 0 2 }) ∧
    exec (.registerWrite 0x04000010 v 8) s = .next { s with moduleId := v.extractLsb' 0 10 } ∧
    (s.boot ≠ 0 → exec .powerGood s = .next s ∧ exec .mscFailover s = .next s) ∧
    (s.boot = 0 → s.trains = [] → ∀ e : Bool, ∃ t, exec (if e then .mscFailover else .powerGood) s = .next t ∧
      t.standby = (e || s.standby) ∧ (t.boot ≠ 7 → 8 < t.boot.toNat ∧ t.hostUp = s.hostUp) ∧
      (t.boot = 7 → t.hostUp = true ∧ t.tags = [] ∧ (∀ ch < 512, (trainAt t ch).opened = true ∨ .channelDark ch ∈ t.reports) ∧
        (∀ k ∈ spliceKeys, (linkAt t k).st = .upFull) ∧ (∀ p < 24, (linkAt t (riggingKey p)).st = .upFull) ∧
        ∀ x, memByte t.mem x = if x < 2 ^ 44 then memByte s.mem x else 0)))
end

