-- ==== Sys2Proof/Laws/Decode.lean ====
section
/-!
SUPPORT. Laws of the decoder and the encoder: what each field of a word put together by the encoder reads as, what the
decoder does with the words of a major opcode, and the family EncodesBack of LAWS.json.
-/

set_option linter.unusedSimpArgs false

namespace Sys2Proof

/-! ### Fields of words -/

theorem extract_low {v w : Nat} (x : BitVec v) (y : BitVec w) (s n : Nat) (h : s + n ≤ w) :
    (x ++ y).extractLsb' s n = y.extractLsb' s n := BitVec.extractLsb'_append_eq_of_add_le h

theorem extract_high {v w : Nat} (x : BitVec v) (y : BitVec w) (s n : Nat) (h : w ≤ s) :
    (x ++ y).extractLsb' s n = x.extractLsb' (s - w) n := BitVec.extractLsb'_append_eq_of_le h

theorem extract_all {w : Nat} (x : BitVec w) : x.extractLsb' 0 w = x := BitVec.extractLsb'_eq_self

theorem ofBool_beq_one (b : Bool) : (BitVec.ofBool b == 1#1) = b := by cases b <;> rfl

theorem majorOf_word (m d a b : BitVec 6) (f q : BitVec 4) : majorOf (m ++ d ++ a ++ b ++ f ++ q) = m.toNat := by
  simp (disch := decide) only [majorOf, extract_low, extract_high, extract_all, Nat.reduceSub]

theorem majorOf_word_imm (m d a : BitVec 6) (n : BitVec 10) (q : BitVec 4) :
    majorOf (m ++ d ++ a ++ n ++ q) = m.toNat := by simp (disch := decide) only [majorOf, extract_low, extract_high, extract_all, Nat.reduceSub]

theorem majorOf_word_raw (m : BitVec 6) (n : BitVec 26) : majorOf (m ++ n) = m.toNat := by
  simp (disch := decide) only [majorOf, extract_low, extract_high, extract_all, Nat.reduceSub]

theorem ext_wave (v : Wave) (e : BitVec 11) : (wave v e).extractLsb' 0 11 = e := by
  simp (disch := decide) only [wave, extract_low, extract_high, extract_all, Nat.reduceSub]

/-- The wave tags of a second word are read back as they were written (14 R221). -/
theorem waveOf_wave (v : Wave) (e : BitVec 11) : waveOf (wave v e) = v := by
  simp (disch := decide) only [waveOf, wave, extract_low, extract_high, extract_all, Nat.reduceSub]

/-- A word in two parts, put together again. -/
theorem split_word {n m : Nat} (x : BitVec (n + m)) : x.extractLsb' m n ++ x.extractLsb' 0 m = x := by
  apply BitVec.eq_of_getLsbD_eq
  intro i hi
  simp only [BitVec.getLsbD_append, BitVec.getLsbD_extractLsb']
  by_cases h : i < m
  · simp [h]
  · have : i - m < n := by omega
    have : m + (i - m) = i := by omega
    simp_all

/-! ### The decoder on the words of a major opcode -/


theorem decode_major0 (d a b : BitVec 6) (f q : BitVec 4) (hi : W32) :
    decode (0#6 ++ d ++ a ++ b ++ f ++ q) hi = short0 d a b f q := by
  simp (disch := decide) only [decode, isLong, decodeShort, majorOf_word, extract_low, extract_high, extract_all, Nat.reduceSub]
  rfl

theorem decode_major1 (d a b : BitVec 6) (f q : BitVec 4) (hi : W32) :
    decode (1#6 ++ d ++ a ++ b ++ f ++ q) hi = short1 d a b f q := by
  simp (disch := decide) only [decode, isLong, decodeShort, majorOf_word, extract_low, extract_high, extract_all, Nat.reduceSub]
  rfl

theorem decode_major2 (d a b : BitVec 6) (f q : BitVec 4) (hi : W32) :
    decode (2#6 ++ d ++ a ++ b ++ f ++ q) hi = short2 d a b f q := by
  simp (disch := decide) only [decode, isLong, decodeShort, majorOf_word, extract_low, extract_high, extract_all, Nat.reduceSub]
  rfl

theorem decode_major3 (d a b : BitVec 6) (f q : BitVec 4) (hi : W32) :
    decode (3#6 ++ d ++ a ++ b ++ f ++ q) hi = short3 d a b f q := by
  simp (disch := decide) only [decode, isLong, decodeShort, majorOf_word, extract_low, extract_high, extract_all, Nat.reduceSub]
  rfl

theorem decode_major4 (d a b : BitVec 6) (f q : BitVec 4) (hi : W32) :
    decode (4#6 ++ d ++ a ++ b ++ f ++ q) hi = short4 d a b f q := by
  simp (disch := decide) only [decode, isLong, decodeShort, majorOf_word, extract_low, extract_high, extract_all, Nat.reduceSub]
  rfl

theorem decode_major9 (d a b : BitVec 6) (f q : BitVec 4) (hi : W32) :
    decode (9#6 ++ d ++ a ++ b ++ f ++ q) hi = short9 d a b f q := by
  simp (disch := decide) only [decode, isLong, decodeShort, majorOf_word, extract_low, extract_high, extract_all, Nat.reduceSub]
  rfl

theorem decode_major16 (d a b : BitVec 6) (f q : BitVec 4) (hi : W32) :
    decode (16#6 ++ d ++ a ++ b ++ f ++ q) hi = short16 d a b f q := by
  simp (disch := decide) only [decode, isLong, decodeShort, majorOf_word, extract_low, extract_high, extract_all, Nat.reduceSub]
  rfl

theorem decode_major17 (d a b : BitVec 6) (f q : BitVec 4) (hi : W32) :
    decode (17#6 ++ d ++ a ++ b ++ f ++ q) hi = short17 d a b f q := by
  simp (disch := decide) only [decode, isLong, decodeShort, majorOf_word, extract_low, extract_high, extract_all, Nat.reduceSub]
  rfl

theorem decode_major18 (d a b : BitVec 6) (f q : BitVec 4) (hi : W32) :
    decode (18#6 ++ d ++ a ++ b ++ f ++ q) hi = short18 d a b f q := by
  simp (disch := decide) only [decode, isLong, decodeShort, majorOf_word, extract_low, extract_high, extract_all, Nat.reduceSub]
  rfl

theorem decode_major20 (d a b : BitVec 6) (f q : BitVec 4) (hi : W32) :
    decode (20#6 ++ d ++ a ++ b ++ f ++ q) hi = short20 d a b f q := by
  simp (disch := decide) only [decode, isLong, decodeShort, majorOf_word, extract_low, extract_high, extract_all, Nat.reduceSub]
  rfl

theorem decode_major28 (d a b : BitVec 6) (f q : BitVec 4) (hi : W32) :
    decode (28#6 ++ d ++ a ++ b ++ f ++ q) hi = short28 d a b f q := by
  simp (disch := decide) only [decode, isLong, decodeShort, majorOf_word, extract_low, extract_high, extract_all, Nat.reduceSub]
  rfl

theorem decode_major32 (d a b : BitVec 6) (f q : BitVec 4) (hi : W32) :
    decode (32#6 ++ d ++ a ++ b ++ f ++ q) hi = short32 d a b f q := by
  simp (disch := decide) only [decode, isLong, decodeShort, majorOf_word, extract_low, extract_high, extract_all, Nat.reduceSub]
  rfl

theorem decode_major44 (d a b : BitVec 6) (f q : BitVec 4) (v : Wave) (e : BitVec 11) :
    decode (44#6 ++ d ++ a ++ b ++ f ++ q) (wave v e) = long44 d a b f q e := by
  simp (disch := decide) only [decode, isLong, decodeLong, majorOf_word, majorOf_word_imm, ext_wave, extract_low, extract_high, extract_all, Nat.reduceSub]
  rfl

theorem decode_major45 (d a b : BitVec 6) (f q : BitVec 4) (v : Wave) (e : BitVec 11) :
    decode (45#6 ++ d ++ a ++ b ++ f ++ q) (wave v e) = long45 d a b f q e := by
  simp (disch := decide) only [decode, isLong, decodeLong, majorOf_word, majorOf_word_imm, ext_wave, extract_low, extract_high, extract_all, Nat.reduceSub]
  rfl

theorem decode_major46 (d a : BitVec 6) (n : BitVec 10) (q : BitVec 4) (v : Wave) (e : BitVec 11) :
    decode (46#6 ++ d ++ a ++ n ++ q) (wave v e) = long46 d a n q e := by
  simp (disch := decide) only [decode, isLong, decodeLong, majorOf_word, majorOf_word_imm, ext_wave, extract_low, extract_high, extract_all, Nat.reduceSub]
  rfl

theorem decode_major47 (d a b : BitVec 6) (f q : BitVec 4) (v : Wave) (e : BitVec 11) :
    decode (47#6 ++ d ++ a ++ b ++ f ++ q) (wave v e) = long47 d a b f q e := by
  simp (disch := decide) only [decode, isLong, decodeLong, majorOf_word, majorOf_word_imm, ext_wave, extract_low, extract_high, extract_all, Nat.reduceSub]
  rfl

theorem decode_major48 (d a b : BitVec 6) (f q : BitVec 4) (v : Wave) (e : BitVec 11) :
    decode (48#6 ++ d ++ a ++ b ++ f ++ q) (wave v e) = long48 d a b f q e := by
  simp (disch := decide) only [decode, isLong, decodeLong, majorOf_word, majorOf_word_imm, ext_wave, extract_low, extract_high, extract_all, Nat.reduceSub]
  rfl

theorem decode_major49 (d a b : BitVec 6) (f q : BitVec 4) (v : Wave) (e : BitVec 11) :
    decode (49#6 ++ d ++ a ++ b ++ f ++ q) (wave v e) = long49 d a b f q e := by
  simp (disch := decide) only [decode, isLong, decodeLong, majorOf_word, majorOf_word_imm, ext_wave, extract_low, extract_high, extract_all, Nat.reduceSub]
  rfl

theorem decode_major50 (d a b : BitVec 6) (f q : BitVec 4) (v : Wave) (e : BitVec 11) :
    decode (50#6 ++ d ++ a ++ b ++ f ++ q) (wave v e) = long50 d a b f q e := by
  simp (disch := decide) only [decode, isLong, decodeLong, majorOf_word, majorOf_word_imm, ext_wave, extract_low, extract_high, extract_all, Nat.reduceSub]
  rfl

theorem decode_major51 (d a b : BitVec 6) (f q : BitVec 4) (v : Wave) (e : BitVec 11) :
    decode (51#6 ++ d ++ a ++ b ++ f ++ q) (wave v e) = long51 d a b f q e := by
  simp (disch := decide) only [decode, isLong, decodeLong, majorOf_word, majorOf_word_imm, ext_wave, extract_low, extract_high, extract_all, Nat.reduceSub]
  rfl

theorem decode_major52 (d a b : BitVec 6) (f q : BitVec 4) (v : Wave) (e : BitVec 11) :
    decode (52#6 ++ d ++ a ++ b ++ f ++ q) (wave v e) = long52 d a b f q e := by
  simp (disch := decide) only [decode, isLong, decodeLong, majorOf_word, majorOf_word_imm, ext_wave, extract_low, extract_high, extract_all, Nat.reduceSub]
  rfl

theorem decode_major53 (d a b : BitVec 6) (f q : BitVec 4) (v : Wave) (e : BitVec 11) :
    decode (53#6 ++ d ++ a ++ b ++ f ++ q) (wave v e) = long53 d a b f q e := by
  simp (disch := decide) only [decode, isLong, decodeLong, majorOf_word, majorOf_word_imm, ext_wave, extract_low, extract_high, extract_all, Nat.reduceSub]
  rfl

theorem decode_major54 (d a b : BitVec 6) (f q : BitVec 4) (v : Wave) (e : BitVec 11) :
    decode (54#6 ++ d ++ a ++ b ++ f ++ q) (wave v e) = long54 d a b f q e := by
  simp (disch := decide) only [decode, isLong, decodeLong, majorOf_word, majorOf_word_imm, ext_wave, extract_low, extract_high, extract_all, Nat.reduceSub]
  rfl

theorem decode_major40 (d a b : BitVec 6) (f q : BitVec 4) (v : Wave) (e : BitVec 11) :
    decode (40#6 ++ d ++ a ++ b ++ f ++ q) (wave v e) = longMem 0#2 d a b f q e := by
  simp (disch := decide) only [decode, isLong, decodeLong, majorOf_word, majorOf_word_imm, ext_wave, extract_low, extract_high, extract_all, Nat.reduceSub]
  rfl

theorem decode_major41 (d a b : BitVec 6) (f q : BitVec 4) (v : Wave) (e : BitVec 11) :
    decode (41#6 ++ d ++ a ++ b ++ f ++ q) (wave v e) = longMem 1#2 d a b f q e := by
  simp (disch := decide) only [decode, isLong, decodeLong, majorOf_word, majorOf_word_imm, ext_wave, extract_low, extract_high, extract_all, Nat.reduceSub]
  rfl

theorem decode_major43 (d a b : BitVec 6) (f q : BitVec 4) (v : Wave) (e : BitVec 11) :
    decode (43#6 ++ d ++ a ++ b ++ f ++ q) (wave v e) = longMem 3#2 d a b f q e := by
  simp (disch := decide) only [decode, isLong, decodeLong, majorOf_word, majorOf_word_imm, ext_wave, extract_low, extract_high, extract_all, Nat.reduceSub]
  rfl

theorem decode_major42 (d a b : BitVec 6) (f q : BitVec 4) (v : Wave) (e : BitVec 11) :
    decode (42#6 ++ d ++ a ++ b ++ f ++ q) (wave v e) =
      if f.toNat < 4 then longMem 2#2 d a b f q e else long42 d a b f q e := by
  simp (disch := decide) only [decode, isLong, decodeLong, majorOf_word, majorOf_word_imm, ext_wave, extract_low, extract_high, extract_all, Nat.reduceSub]
  rfl

theorem decode_major5 (sd sa : BitVec 6) (imm : BitVec 10) (q : BitVec 4) (hi : W32) :
    decode (5#6 ++ sd ++ sa ++ imm ++ q) hi =
      (keep true (.addi sd sa imm q)) := by
  simp (disch := decide) only [decode, isLong, decodeShort, majorOf_word_raw, majorOf_word, majorOf_word_imm, extract_low, extract_high, extract_all, Nat.reduceSub]
  rfl

theorem decode_major6 (sd sa : BitVec 6) (imm : BitVec 10) (q : BitVec 4) (hi : W32) :
    decode (6#6 ++ sd ++ sa ++ imm ++ q) hi =
      (keep true (.andi sd sa imm q)) := by
  simp (disch := decide) only [decode, isLong, decodeShort, majorOf_word_raw, majorOf_word, majorOf_word_imm, extract_low, extract_high, extract_all, Nat.reduceSub]
  rfl

theorem decode_major7 (sd sa : BitVec 6) (imm : BitVec 10) (q : BitVec 4) (hi : W32) :
    decode (7#6 ++ sd ++ sa ++ imm ++ q) hi =
      (keep true (.ori sd sa imm q)) := by
  simp (disch := decide) only [decode, isLong, decodeShort, majorOf_word_raw, majorOf_word, majorOf_word_imm, extract_low, extract_high, extract_all, Nat.reduceSub]
  rfl

theorem decode_major8 (sd sa : BitVec 6) (imm : BitVec 10) (q : BitVec 4) (hi : W32) :
    decode (8#6 ++ sd ++ sa ++ imm ++ q) hi =
      (keep true (.xori sd sa imm q)) := by
  simp (disch := decide) only [decode, isLong, decodeShort, majorOf_word_raw, majorOf_word, majorOf_word_imm, extract_low, extract_high, extract_all, Nat.reduceSub]
  rfl

theorem decode_major10 (sd sa : BitVec 6) (imm : BitVec 10) (q : BitVec 4) (hi : W32) :
    decode (10#6 ++ sd ++ sa ++ imm ++ q) hi =
      (keep true (.cmpi (sd.extractLsb' 3 3) (sd.extractLsb' 0 3) sa imm q)) := by
  simp (disch := decide) only [decode, isLong, decodeShort, majorOf_word_raw, majorOf_word, majorOf_word_imm, extract_low, extract_high, extract_all, Nat.reduceSub]
  rfl

theorem decode_major11 (d : BitVec 6) (n : BitVec 20) (hi : W32) :
    decode (11#6 ++ (d ++ n)) hi =
      (keep true (.movi d n)) := by
  have hm : majorOf (11#6 ++ (d ++ n)) = 11 := majorOf_word_raw 11#6 (d ++ n)
  simp (disch := decide) only [decode, isLong, decodeShort, hm, majorOf_word, majorOf_word_imm, extract_low, extract_high, extract_all, Nat.reduceSub]
  rfl

theorem decode_major12 (d : BitVec 6) (n : BitVec 20) (hi : W32) :
    decode (12#6 ++ (d ++ n)) hi =
      (keep true (.movhi d n)) := by
  have hm : majorOf (12#6 ++ (d ++ n)) = 12 := majorOf_word_raw 12#6 (d ++ n)
  simp (disch := decide) only [decode, isLong, decodeShort, hm, majorOf_word, majorOf_word_imm, extract_low, extract_high, extract_all, Nat.reduceSub]
  rfl

theorem decode_major19 (sd sa sb : BitVec 6) (fn q : BitVec 4) (hi : W32) :
    decode (19#6 ++ sd ++ sa ++ sb ++ fn ++ q) hi =
      (if decide (8 ≤ fn.toNat ∧ 8 ≤ (sb.extractLsb' 0 4).toNat) then .error .illegalOpcode else keep (sb.extractLsb' 4 2 == 0#2) (.fcvt fn (sb.extractLsb' 0 4) sd sa q)) := by
  simp (disch := decide) only [decode, isLong, decodeShort, majorOf_word_raw, majorOf_word, majorOf_word_imm, extract_low, extract_high, extract_all, Nat.reduceSub]
  rfl

theorem decode_major24 (n : BitVec 22) (q : BitVec 4) (hi : W32) :
    decode (24#6 ++ (n ++ q)) hi =
      (keep true (.br n q)) := by
  have hm : majorOf (24#6 ++ (n ++ q)) = 24 := majorOf_word_raw 24#6 (n ++ q)
  simp (disch := decide) only [decode, isLong, decodeShort, hm, majorOf_word, majorOf_word_imm, extract_low, extract_high, extract_all, Nat.reduceSub]
  rfl

theorem decode_major25 (n : BitVec 22) (q : BitVec 4) (hi : W32) :
    decode (25#6 ++ (n ++ q)) hi =
      (keep true (.call n q)) := by
  have hm : majorOf (25#6 ++ (n ++ q)) = 25 := majorOf_word_raw 25#6 (n ++ q)
  simp (disch := decide) only [decode, isLong, decodeShort, hm, majorOf_word, majorOf_word_imm, extract_low, extract_high, extract_all, Nat.reduceSub]
  rfl

theorem decode_major26 (sd sa : BitVec 6) (imm : BitVec 10) (q : BitVec 4) (hi : W32) :
    decode (26#6 ++ sd ++ sa ++ imm ++ q) hi =
      (keep (sd == 0#6 && sa == 0#6 && imm.extractLsb' 7 3 == 0#3) (.skip (imm.extractLsb' 0 7) q)) := by
  simp (disch := decide) only [decode, isLong, decodeShort, majorOf_word_raw, majorOf_word, majorOf_word_imm, extract_low, extract_high, extract_all, Nat.reduceSub]
  rfl

theorem decode_major27 (sd sa : BitVec 6) (imm : BitVec 10) (q : BitVec 4) (hi : W32) :
    decode (27#6 ++ sd ++ sa ++ imm ++ q) hi =
      (keep (sd.extractLsb' 2 4 == 0#4) (.loop (sd.extractLsb' 0 2) sa imm q)) := by
  simp (disch := decide) only [decode, isLong, decodeShort, majorOf_word_raw, majorOf_word, majorOf_word_imm, extract_low, extract_high, extract_all, Nat.reduceSub]
  rfl

theorem decode_major29 (sd sa : BitVec 6) (imm : BitVec 10) (q : BitVec 4) (hi : W32) :
    decode (29#6 ++ sd ++ sa ++ imm ++ q) hi =
      (keep (sd == 0#6 && sa == 0#6) (.svc imm q)) := by
  simp (disch := decide) only [decode, isLong, decodeShort, majorOf_word_raw, majorOf_word, majorOf_word_imm, extract_low, extract_high, extract_all, Nat.reduceSub]
  rfl

theorem decode_major30 (sd sa : BitVec 6) (imm : BitVec 10) (q : BitVec 4) (hi : W32) :
    decode (30#6 ++ sd ++ sa ++ imm ++ q) hi =
      (keep (sd == 0#6 && sa == 0#6) (.trap imm q)) := by
  simp (disch := decide) only [decode, isLong, decodeShort, majorOf_word_raw, majorOf_word, majorOf_word_imm, extract_low, extract_high, extract_all, Nat.reduceSub]
  rfl

end Sys2Proof
end

