-- ==== Sys2Proof/Laws/Map.lean ====
section
/-!
SUPPORT. Laws of the sparse maps: a read after a write, two writes to one key, and that every writing operation keeps
the canonical form.
-/

namespace Sys2Proof.Machine

variable {α : Type}

/-! ### Reads after writes -/

theorem KV.find_insert_same (k : Nat) (v : α) (m : KV α) (h : ∀ e ∈ m, e.1 ≠ k) : KV.find k (KV.insert k v m) = some v := by
  induction m with
  | nil => simp [KV.insert, KV.find]
  | cons e rest ih =>
    obtain ⟨j, u⟩ := e
    simp only [KV.insert]
    split
    · simp [KV.find]
    · have hj : j ≠ k := h (j, u) (by simp)
      simp [KV.find, hj, ih fun e he => h e (by simp [he])]

theorem KV.find_insert_other (j k : Nat) (v : α) (m : KV α) (h : j ≠ k) : KV.find j (KV.insert k v m) = KV.find j m := by
  induction m with
  | nil => simp [KV.insert, KV.find, Ne.symm h]
  | cons e rest ih =>
    obtain ⟨i, u⟩ := e
    simp only [KV.insert]
    split
    · simp [KV.find, Ne.symm h]
    · simp [KV.find, ih]

theorem KV.drop_fresh (k : Nat) (m : KV α) : ∀ e ∈ KV.drop k m, e.1 ≠ k := by
  intro e he
  simpa using (List.mem_filter.1 he).2

theorem KV.find_drop_same (k : Nat) (m : KV α) : KV.find k (KV.drop k m) = none := by
  induction m with
  | nil => rfl
  | cons e rest ih =>
    obtain ⟨i, u⟩ := e
    by_cases hi : i = k <;> simp_all [KV.drop, KV.find]

theorem KV.find_drop_other (j k : Nat) (m : KV α) (h : j ≠ k) : KV.find j (KV.drop k m) = KV.find j m := by
  induction m with
  | nil => rfl
  | cons e rest ih =>
    obtain ⟨i, u⟩ := e
    by_cases hi : i = k
    · subst hi
      simp_all [KV.drop, KV.find, Ne.symm h]
    · by_cases hj : i = j <;> simp_all [KV.drop, KV.find]

theorem KV.find_set_same (k : Nat) (v : α) (m : KV α) : KV.find k (KV.set k v m) = some v :=
  KV.find_insert_same k v _ (KV.drop_fresh k m)

theorem KV.find_set_other (j k : Nat) (v : α) (m : KV α) (h : j ≠ k) : KV.find j (KV.set k v m) = KV.find j m :=
  (KV.find_insert_other j k v _ h).trans (KV.find_drop_other j k m h)

theorem KV.get_eq_find (d : α) (k : Nat) (m : KV α) : KV.get d k m = (KV.find k m).getD d := by
  induction m with
  | nil => rfl
  | cons e rest ih =>
    obtain ⟨i, u⟩ := e
    by_cases hi : i = k <;> simp_all [KV.get, KV.find]

@[simp] theorem KV.get_set_same (d : α) (k : Nat) (v : α) (m : KV α) : KV.get d k (KV.set k v m) = v := by
  simp [KV.get_eq_find, KV.find_set_same]

theorem KV.get_set_other (d : α) (j k : Nat) (v : α) (m : KV α) (h : j ≠ k) :
    KV.get d j (KV.set k v m) = KV.get d j m := by
  simp [KV.get_eq_find, KV.find_set_other j k v m h]

@[simp] theorem KV.get_put_same [DecidableEq α] (d : α) (k : Nat) (v : α) (m : KV α) : KV.get d k (KV.put d k v m) = v := by
  by_cases h : v = d <;> simp [KV.put, h, KV.get_eq_find, KV.find_drop_same, KV.find_set_same]

theorem KV.get_put_other [DecidableEq α] (d : α) (j k : Nat) (v : α) (m : KV α) (h : j ≠ k) :
    KV.get d j (KV.put d k v m) = KV.get d j m := by
  by_cases hv : v = d <;> simp [KV.put, hv, KV.get_eq_find, KV.find_drop_other j k m h, KV.find_set_other j k v m h]

/-! ### Two writes to one key -/

theorem KV.drop_insert (k : Nat) (v : α) (m : KV α) : KV.drop k (KV.insert k v m) = KV.drop k m := by
  induction m with
  | nil => simp [KV.insert, KV.drop]
  | cons e rest ih =>
    obtain ⟨i, u⟩ := e
    simp only [KV.insert]
    split
    · simp [KV.drop]
    · by_cases hi : i = k <;> simp_all [KV.drop]

theorem KV.drop_drop (k : Nat) (m : KV α) : KV.drop k (KV.drop k m) = KV.drop k m := by simp [KV.drop]

theorem KV.set_set (k : Nat) (u v : α) (m : KV α) : KV.set k v (KV.set k u m) = KV.set k v m := by
  simp [KV.set, KV.drop_insert, KV.drop_drop]

theorem KV.upd_upd (d : α) (k : Nat) (f g : α → α) (m : KV α) :
    KV.upd d k g (KV.upd d k f m) = KV.upd d k (fun x => g (f x)) m := by
  simp [KV.upd, KV.set_set]

@[simp] theorem KV.get_upd_same (d : α) (k : Nat) (f : α → α) (m : KV α) : KV.get d k (KV.upd d k f m) = f (KV.get d k m) := by
  simp [KV.upd]

theorem KV.get_upd_other (d : α) (j k : Nat) (f : α → α) (m : KV α) (h : j ≠ k) :
    KV.get d j (KV.upd d k f m) = KV.get d j m := KV.get_set_other d j k _ m h

/-! ### The canonical form -/

/-- Keys strictly rising. -/
def KV.Rising (m : KV α) : Prop := m.Pairwise fun a b => a.1 < b.1

theorem KV.wf_iff [DecidableEq α] (d : α) (m : KV α) : KV.wf d m = true ↔ KV.Rising m ∧ ∀ e ∈ m, e.2 ≠ d := by
  unfold KV.Rising
  induction m with
  | nil => simp [KV.wf]
  | cons e rest ih =>
    obtain ⟨i, u⟩ := e
    cases rest with
    | nil => simp [KV.wf]
    | cons e' rest' =>
      obtain ⟨j, w⟩ := e'
      simp only [KV.wf, Bool.and_eq_true, ih, List.pairwise_cons, decide_eq_true_eq, List.mem_cons, forall_eq_or_imp, bne_iff_ne,
        ne_eq]
      constructor
      · rintro ⟨⟨h1, h2⟩, ⟨h3, h4⟩, h5, h6⟩
        exact ⟨⟨⟨h2, fun a ha => Nat.lt_trans h2 (h3 a ha)⟩, h3, h4⟩, h1, h5, h6⟩
      · rintro ⟨⟨⟨h2, _⟩, h3, h4⟩, h1, h5, h6⟩
        exact ⟨⟨h1, h2⟩, ⟨h3, h4⟩, h5, h6⟩

theorem KV.mem_insert {k : Nat} {v : α} {m : KV α} {e : Nat × α} (h : e ∈ KV.insert k v m) : e = (k, v) ∨ e ∈ m := by
  induction m with
  | nil => simpa [KV.insert] using h
  | cons x rest ih =>
    obtain ⟨i, u⟩ := x
    simp only [KV.insert] at h
    split at h
    · simpa using h
    · simp only [List.mem_cons] at h ⊢
      rcases h with h | h
      · exact .inr (.inl h)
      · exact (ih h).imp id .inr

theorem KV.rising_insert (k : Nat) (v : α) (m : KV α) (hm : KV.Rising m) (hk : ∀ e ∈ m, e.1 ≠ k) : KV.Rising (KV.insert k v m) := by
  unfold KV.Rising at *
  induction m with
  | nil => simp [KV.insert]
  | cons x rest ih =>
    obtain ⟨i, u⟩ := x
    simp only [List.pairwise_cons] at hm
    have hi : i ≠ k := hk (i, u) (by simp)
    simp only [KV.insert]
    split
    · rename_i hlt
      simp only [List.pairwise_cons, List.mem_cons, forall_eq_or_imp]
      exact ⟨⟨hlt, fun e he => Nat.lt_trans hlt (hm.1 e he)⟩, hm⟩
    · simp only [List.pairwise_cons]
      refine ⟨fun e he => ?_, ih hm.2 fun e he => hk e (by simp [he])⟩
      rcases KV.mem_insert he with rfl | he
      · simp only
        omega
      · exact hm.1 e he

theorem KV.wf_filter [DecidableEq α] (d : α) (p : Nat × α → Bool) (m : KV α) (h : KV.wf d m = true) : KV.wf d (m.filter p) = true := by
  rw [KV.wf_iff] at h ⊢
  exact ⟨List.Pairwise.filter _ h.1, fun e he => h.2 e (List.mem_filter.1 he).1⟩

theorem KV.wf_drop [DecidableEq α] (d : α) (k : Nat) (m : KV α) (h : KV.wf d m = true) : KV.wf d (KV.drop k m) = true :=
  KV.wf_filter d _ m h

theorem KV.wf_set [DecidableEq α] (d : α) (k : Nat) (v : α) (m : KV α) (hv : v ≠ d) (h : KV.wf d m = true) :
    KV.wf d (KV.set k v m) = true := by
  have hd := (KV.wf_iff d _).1 (KV.wf_drop d k m h)
  rw [KV.wf_iff]
  refine ⟨KV.rising_insert k v _ hd.1 (KV.drop_fresh k m), fun e he => ?_⟩
  rcases KV.mem_insert he with rfl | he
  · exact hv
  · exact hd.2 e he

/-- A write keeps the canonical form, whatever the value. -/
theorem KV.wf_put [DecidableEq α] (d : α) (k : Nat) (v : α) (m : KV α) (h : KV.wf d m = true) : KV.wf d (KV.put d k v m) = true := by
  by_cases hv : v = d
  · simpa [KV.put, hv] using KV.wf_drop d k m h
  · simpa [KV.put, hv] using KV.wf_set d k v m hv h

end Sys2Proof.Machine
end

