-- ==== Sys2Proof/Laws/State.lean ====
section
/-!
SUPPORT. What each named update of State leaves alone, field by field, and what it gives the field it writes.
-/

namespace Sys2Proof.Machine

/-! ### modFe -/

@[simp] theorem modFe_mem (fe : Nat) (g : FE → FE) (s : State) : (modFe fe g s).mem = s.mem := rfl
@[simp] theorem modFe_tags (fe : Nat) (g : FE → FE) (s : State) : (modFe fe g s).tags = s.tags := rfl
@[simp] theorem modFe_ctxs (fe : Nat) (g : FE → FE) (s : State) : (modFe fe g s).ctxs = s.ctxs := rfl
@[simp] theorem modFe_launches (fe : Nat) (g : FE → FE) (s : State) : (modFe fe g s).launches = s.launches := rfl
@[simp] theorem modFe_cascades (fe : Nat) (g : FE → FE) (s : State) : (modFe fe g s).cascades = s.cascades := rfl
@[simp] theorem modFe_queues (fe : Nat) (g : FE → FE) (s : State) : (modFe fe g s).queues = s.queues := rfl
@[simp] theorem modFe_slots (fe : Nat) (g : FE → FE) (s : State) : (modFe fe g s).slots = s.slots := rfl
@[simp] theorem modFe_graph (fe : Nat) (g : FE → FE) (s : State) : (modFe fe g s).graph = s.graph := rfl
@[simp] theorem modFe_cards (fe : Nat) (g : FE → FE) (s : State) : (modFe fe g s).cards = s.cards := rfl
@[simp] theorem modFe_reqs (fe : Nat) (g : FE → FE) (s : State) : (modFe fe g s).reqs = s.reqs := rfl
@[simp] theorem modFe_replies (fe : Nat) (g : FE → FE) (s : State) : (modFe fe g s).replies = s.replies := rfl
@[simp] theorem modFe_refused (fe : Nat) (g : FE → FE) (s : State) : (modFe fe g s).refused = s.refused := rfl
@[simp] theorem modFe_melds (fe : Nat) (g : FE → FE) (s : State) : (modFe fe g s).melds = s.melds := rfl
@[simp] theorem modFe_cfgs (fe : Nat) (g : FE → FE) (s : State) : (modFe fe g s).cfgs = s.cfgs := rfl
@[simp] theorem modFe_recs (fe : Nat) (g : FE → FE) (s : State) : (modFe fe g s).recs = s.recs := rfl
@[simp] theorem modFe_links (fe : Nat) (g : FE → FE) (s : State) : (modFe fe g s).links = s.links := rfl
@[simp] theorem modFe_routes (fe : Nat) (g : FE → FE) (s : State) : (modFe fe g s).routes = s.routes := rfl
@[simp] theorem modFe_gus (fe : Nat) (g : FE → FE) (s : State) : (modFe fe g s).gus = s.gus := rfl
@[simp] theorem modFe_trains (fe : Nat) (g : FE → FE) (s : State) : (modFe fe g s).trains = s.trains := rfl
@[simp] theorem modFe_fused (fe : Nat) (g : FE → FE) (s : State) : (modFe fe g s).fused = s.fused := rfl
@[simp] theorem modFe_moduleId (fe : Nat) (g : FE → FE) (s : State) : (modFe fe g s).moduleId = s.moduleId := rfl
@[simp] theorem modFe_pwrMode (fe : Nat) (g : FE → FE) (s : State) : (modFe fe g s).pwrMode = s.pwrMode := rfl
@[simp] theorem modFe_pwrNow (fe : Nat) (g : FE → FE) (s : State) : (modFe fe g s).pwrNow = s.pwrNow := rfl
@[simp] theorem modFe_power (fe : Nat) (g : FE → FE) (s : State) : (modFe fe g s).power = s.power := rfl
@[simp] theorem modFe_temp (fe : Nat) (g : FE → FE) (s : State) : (modFe fe g s).temp = s.temp := rfl
@[simp] theorem modFe_clock (fe : Nat) (g : FE → FE) (s : State) : (modFe fe g s).clock = s.clock := rfl
@[simp] theorem modFe_boot (fe : Nat) (g : FE → FE) (s : State) : (modFe fe g s).boot = s.boot := rfl
@[simp] theorem modFe_standby (fe : Nat) (g : FE → FE) (s : State) : (modFe fe g s).standby = s.standby := rfl
@[simp] theorem modFe_hostUp (fe : Nat) (g : FE → FE) (s : State) : (modFe fe g s).hostUp = s.hostUp := rfl
@[simp] theorem modFe_hostCause (fe : Nat) (g : FE → FE) (s : State) : (modFe fe g s).hostCause = s.hostCause := rfl
@[simp] theorem modFe_hitch (fe : Nat) (g : FE → FE) (s : State) : (modFe fe g s).hitch = s.hitch := rfl
@[simp] theorem modFe_reports (fe : Nat) (g : FE → FE) (s : State) : (modFe fe g s).reports = s.reports := rfl
@[simp] theorem modFe_time (fe : Nat) (g : FE → FE) (s : State) : (modFe fe g s).time = s.time := rfl
@[simp] theorem modFe_curFe (fe : Nat) (g : FE → FE) (s : State) : (modFe fe g s).curFe = s.curFe := rfl
@[simp] theorem modFe_curSeat (fe : Nat) (g : FE → FE) (s : State) : (modFe fe g s).curSeat = s.curSeat := rfl
@[simp] theorem modFe_given (fe : Nat) (g : FE → FE) (s : State) : (modFe fe g s).given = s.given := rfl
@[simp] theorem modFe_turns (fe : Nat) (g : FE → FE) (s : State) : (modFe fe g s).turns = s.turns := rfl
@[simp] theorem modFe_agenda (fe : Nat) (g : FE → FE) (s : State) : (modFe fe g s).agenda = s.agenda := rfl
@[simp] theorem modFe_nextId (fe : Nat) (g : FE → FE) (s : State) : (modFe fe g s).nextId = s.nextId := rfl
@[simp] theorem modFe_fresh (fe : Nat) (g : FE → FE) (s : State) : (modFe fe g s).fresh = s.fresh := rfl

/-! ### modSeat -/

@[simp] theorem modSeat_mem (fe k : Nat) (g : Seat → Seat) (s : State) : (modSeat fe k g s).mem = s.mem := rfl
@[simp] theorem modSeat_tags (fe k : Nat) (g : Seat → Seat) (s : State) : (modSeat fe k g s).tags = s.tags := rfl
@[simp] theorem modSeat_ctxs (fe k : Nat) (g : Seat → Seat) (s : State) : (modSeat fe k g s).ctxs = s.ctxs := rfl
@[simp] theorem modSeat_launches (fe k : Nat) (g : Seat → Seat) (s : State) : (modSeat fe k g s).launches = s.launches := rfl
@[simp] theorem modSeat_cascades (fe k : Nat) (g : Seat → Seat) (s : State) : (modSeat fe k g s).cascades = s.cascades := rfl
@[simp] theorem modSeat_queues (fe k : Nat) (g : Seat → Seat) (s : State) : (modSeat fe k g s).queues = s.queues := rfl
@[simp] theorem modSeat_slots (fe k : Nat) (g : Seat → Seat) (s : State) : (modSeat fe k g s).slots = s.slots := rfl
@[simp] theorem modSeat_graph (fe k : Nat) (g : Seat → Seat) (s : State) : (modSeat fe k g s).graph = s.graph := rfl
@[simp] theorem modSeat_cards (fe k : Nat) (g : Seat → Seat) (s : State) : (modSeat fe k g s).cards = s.cards := rfl
@[simp] theorem modSeat_reqs (fe k : Nat) (g : Seat → Seat) (s : State) : (modSeat fe k g s).reqs = s.reqs := rfl
@[simp] theorem modSeat_replies (fe k : Nat) (g : Seat → Seat) (s : State) : (modSeat fe k g s).replies = s.replies := rfl
@[simp] theorem modSeat_refused (fe k : Nat) (g : Seat → Seat) (s : State) : (modSeat fe k g s).refused = s.refused := rfl
@[simp] theorem modSeat_melds (fe k : Nat) (g : Seat → Seat) (s : State) : (modSeat fe k g s).melds = s.melds := rfl
@[simp] theorem modSeat_cfgs (fe k : Nat) (g : Seat → Seat) (s : State) : (modSeat fe k g s).cfgs = s.cfgs := rfl
@[simp] theorem modSeat_recs (fe k : Nat) (g : Seat → Seat) (s : State) : (modSeat fe k g s).recs = s.recs := rfl
@[simp] theorem modSeat_links (fe k : Nat) (g : Seat → Seat) (s : State) : (modSeat fe k g s).links = s.links := rfl
@[simp] theorem modSeat_routes (fe k : Nat) (g : Seat → Seat) (s : State) : (modSeat fe k g s).routes = s.routes := rfl
@[simp] theorem modSeat_gus (fe k : Nat) (g : Seat → Seat) (s : State) : (modSeat fe k g s).gus = s.gus := rfl
@[simp] theorem modSeat_trains (fe k : Nat) (g : Seat → Seat) (s : State) : (modSeat fe k g s).trains = s.trains := rfl
@[simp] theorem modSeat_fused (fe k : Nat) (g : Seat → Seat) (s : State) : (modSeat fe k g s).fused = s.fused := rfl
@[simp] theorem modSeat_moduleId (fe k : Nat) (g : Seat → Seat) (s : State) : (modSeat fe k g s).moduleId = s.moduleId := rfl
@[simp] theorem modSeat_pwrMode (fe k : Nat) (g : Seat → Seat) (s : State) : (modSeat fe k g s).pwrMode = s.pwrMode := rfl
@[simp] theorem modSeat_pwrNow (fe k : Nat) (g : Seat → Seat) (s : State) : (modSeat fe k g s).pwrNow = s.pwrNow := rfl
@[simp] theorem modSeat_power (fe k : Nat) (g : Seat → Seat) (s : State) : (modSeat fe k g s).power = s.power := rfl
@[simp] theorem modSeat_temp (fe k : Nat) (g : Seat → Seat) (s : State) : (modSeat fe k g s).temp = s.temp := rfl
@[simp] theorem modSeat_clock (fe k : Nat) (g : Seat → Seat) (s : State) : (modSeat fe k g s).clock = s.clock := rfl
@[simp] theorem modSeat_boot (fe k : Nat) (g : Seat → Seat) (s : State) : (modSeat fe k g s).boot = s.boot := rfl
@[simp] theorem modSeat_standby (fe k : Nat) (g : Seat → Seat) (s : State) : (modSeat fe k g s).standby = s.standby := rfl
@[simp] theorem modSeat_hostUp (fe k : Nat) (g : Seat → Seat) (s : State) : (modSeat fe k g s).hostUp = s.hostUp := rfl
@[simp] theorem modSeat_hostCause (fe k : Nat) (g : Seat → Seat) (s : State) : (modSeat fe k g s).hostCause = s.hostCause := rfl
@[simp] theorem modSeat_hitch (fe k : Nat) (g : Seat → Seat) (s : State) : (modSeat fe k g s).hitch = s.hitch := rfl
@[simp] theorem modSeat_reports (fe k : Nat) (g : Seat → Seat) (s : State) : (modSeat fe k g s).reports = s.reports := rfl
@[simp] theorem modSeat_time (fe k : Nat) (g : Seat → Seat) (s : State) : (modSeat fe k g s).time = s.time := rfl
@[simp] theorem modSeat_curFe (fe k : Nat) (g : Seat → Seat) (s : State) : (modSeat fe k g s).curFe = s.curFe := rfl
@[simp] theorem modSeat_curSeat (fe k : Nat) (g : Seat → Seat) (s : State) : (modSeat fe k g s).curSeat = s.curSeat := rfl
@[simp] theorem modSeat_given (fe k : Nat) (g : Seat → Seat) (s : State) : (modSeat fe k g s).given = s.given := rfl
@[simp] theorem modSeat_turns (fe k : Nat) (g : Seat → Seat) (s : State) : (modSeat fe k g s).turns = s.turns := rfl
@[simp] theorem modSeat_agenda (fe k : Nat) (g : Seat → Seat) (s : State) : (modSeat fe k g s).agenda = s.agenda := rfl
@[simp] theorem modSeat_nextId (fe k : Nat) (g : Seat → Seat) (s : State) : (modSeat fe k g s).nextId = s.nextId := rfl
@[simp] theorem modSeat_fresh (fe k : Nat) (g : Seat → Seat) (s : State) : (modSeat fe k g s).fresh = s.fresh := rfl

/-! ### modCur -/

@[simp] theorem modCur_mem (g : Seat → Seat) (s : State) : (modCur g s).mem = s.mem := rfl
@[simp] theorem modCur_tags (g : Seat → Seat) (s : State) : (modCur g s).tags = s.tags := rfl
@[simp] theorem modCur_ctxs (g : Seat → Seat) (s : State) : (modCur g s).ctxs = s.ctxs := rfl
@[simp] theorem modCur_launches (g : Seat → Seat) (s : State) : (modCur g s).launches = s.launches := rfl
@[simp] theorem modCur_cascades (g : Seat → Seat) (s : State) : (modCur g s).cascades = s.cascades := rfl
@[simp] theorem modCur_queues (g : Seat → Seat) (s : State) : (modCur g s).queues = s.queues := rfl
@[simp] theorem modCur_slots (g : Seat → Seat) (s : State) : (modCur g s).slots = s.slots := rfl
@[simp] theorem modCur_graph (g : Seat → Seat) (s : State) : (modCur g s).graph = s.graph := rfl
@[simp] theorem modCur_cards (g : Seat → Seat) (s : State) : (modCur g s).cards = s.cards := rfl
@[simp] theorem modCur_reqs (g : Seat → Seat) (s : State) : (modCur g s).reqs = s.reqs := rfl
@[simp] theorem modCur_replies (g : Seat → Seat) (s : State) : (modCur g s).replies = s.replies := rfl
@[simp] theorem modCur_refused (g : Seat → Seat) (s : State) : (modCur g s).refused = s.refused := rfl
@[simp] theorem modCur_melds (g : Seat → Seat) (s : State) : (modCur g s).melds = s.melds := rfl
@[simp] theorem modCur_cfgs (g : Seat → Seat) (s : State) : (modCur g s).cfgs = s.cfgs := rfl
@[simp] theorem modCur_recs (g : Seat → Seat) (s : State) : (modCur g s).recs = s.recs := rfl
@[simp] theorem modCur_links (g : Seat → Seat) (s : State) : (modCur g s).links = s.links := rfl
@[simp] theorem modCur_routes (g : Seat → Seat) (s : State) : (modCur g s).routes = s.routes := rfl
@[simp] theorem modCur_gus (g : Seat → Seat) (s : State) : (modCur g s).gus = s.gus := rfl
@[simp] theorem modCur_trains (g : Seat → Seat) (s : State) : (modCur g s).trains = s.trains := rfl
@[simp] theorem modCur_fused (g : Seat → Seat) (s : State) : (modCur g s).fused = s.fused := rfl
@[simp] theorem modCur_moduleId (g : Seat → Seat) (s : State) : (modCur g s).moduleId = s.moduleId := rfl
@[simp] theorem modCur_pwrMode (g : Seat → Seat) (s : State) : (modCur g s).pwrMode = s.pwrMode := rfl
@[simp] theorem modCur_pwrNow (g : Seat → Seat) (s : State) : (modCur g s).pwrNow = s.pwrNow := rfl
@[simp] theorem modCur_power (g : Seat → Seat) (s : State) : (modCur g s).power = s.power := rfl
@[simp] theorem modCur_temp (g : Seat → Seat) (s : State) : (modCur g s).temp = s.temp := rfl
@[simp] theorem modCur_clock (g : Seat → Seat) (s : State) : (modCur g s).clock = s.clock := rfl
@[simp] theorem modCur_boot (g : Seat → Seat) (s : State) : (modCur g s).boot = s.boot := rfl
@[simp] theorem modCur_standby (g : Seat → Seat) (s : State) : (modCur g s).standby = s.standby := rfl
@[simp] theorem modCur_hostUp (g : Seat → Seat) (s : State) : (modCur g s).hostUp = s.hostUp := rfl
@[simp] theorem modCur_hostCause (g : Seat → Seat) (s : State) : (modCur g s).hostCause = s.hostCause := rfl
@[simp] theorem modCur_hitch (g : Seat → Seat) (s : State) : (modCur g s).hitch = s.hitch := rfl
@[simp] theorem modCur_reports (g : Seat → Seat) (s : State) : (modCur g s).reports = s.reports := rfl
@[simp] theorem modCur_time (g : Seat → Seat) (s : State) : (modCur g s).time = s.time := rfl
@[simp] theorem modCur_curFe (g : Seat → Seat) (s : State) : (modCur g s).curFe = s.curFe := rfl
@[simp] theorem modCur_curSeat (g : Seat → Seat) (s : State) : (modCur g s).curSeat = s.curSeat := rfl
@[simp] theorem modCur_given (g : Seat → Seat) (s : State) : (modCur g s).given = s.given := rfl
@[simp] theorem modCur_turns (g : Seat → Seat) (s : State) : (modCur g s).turns = s.turns := rfl
@[simp] theorem modCur_agenda (g : Seat → Seat) (s : State) : (modCur g s).agenda = s.agenda := rfl
@[simp] theorem modCur_nextId (g : Seat → Seat) (s : State) : (modCur g s).nextId = s.nextId := rfl
@[simp] theorem modCur_fresh (g : Seat → Seat) (s : State) : (modCur g s).fresh = s.fresh := rfl

/-! ### modHand -/

@[simp] theorem modHand_mem (g : Hand → Hand) (s : State) : (modHand g s).mem = s.mem := rfl
@[simp] theorem modHand_tags (g : Hand → Hand) (s : State) : (modHand g s).tags = s.tags := rfl
@[simp] theorem modHand_ctxs (g : Hand → Hand) (s : State) : (modHand g s).ctxs = s.ctxs := rfl
@[simp] theorem modHand_launches (g : Hand → Hand) (s : State) : (modHand g s).launches = s.launches := rfl
@[simp] theorem modHand_cascades (g : Hand → Hand) (s : State) : (modHand g s).cascades = s.cascades := rfl
@[simp] theorem modHand_queues (g : Hand → Hand) (s : State) : (modHand g s).queues = s.queues := rfl
@[simp] theorem modHand_slots (g : Hand → Hand) (s : State) : (modHand g s).slots = s.slots := rfl
@[simp] theorem modHand_graph (g : Hand → Hand) (s : State) : (modHand g s).graph = s.graph := rfl
@[simp] theorem modHand_cards (g : Hand → Hand) (s : State) : (modHand g s).cards = s.cards := rfl
@[simp] theorem modHand_reqs (g : Hand → Hand) (s : State) : (modHand g s).reqs = s.reqs := rfl
@[simp] theorem modHand_replies (g : Hand → Hand) (s : State) : (modHand g s).replies = s.replies := rfl
@[simp] theorem modHand_refused (g : Hand → Hand) (s : State) : (modHand g s).refused = s.refused := rfl
@[simp] theorem modHand_melds (g : Hand → Hand) (s : State) : (modHand g s).melds = s.melds := rfl
@[simp] theorem modHand_cfgs (g : Hand → Hand) (s : State) : (modHand g s).cfgs = s.cfgs := rfl
@[simp] theorem modHand_recs (g : Hand → Hand) (s : State) : (modHand g s).recs = s.recs := rfl
@[simp] theorem modHand_links (g : Hand → Hand) (s : State) : (modHand g s).links = s.links := rfl
@[simp] theorem modHand_routes (g : Hand → Hand) (s : State) : (modHand g s).routes = s.routes := rfl
@[simp] theorem modHand_gus (g : Hand → Hand) (s : State) : (modHand g s).gus = s.gus := rfl
@[simp] theorem modHand_trains (g : Hand → Hand) (s : State) : (modHand g s).trains = s.trains := rfl
@[simp] theorem modHand_fused (g : Hand → Hand) (s : State) : (modHand g s).fused = s.fused := rfl
@[simp] theorem modHand_moduleId (g : Hand → Hand) (s : State) : (modHand g s).moduleId = s.moduleId := rfl
@[simp] theorem modHand_pwrMode (g : Hand → Hand) (s : State) : (modHand g s).pwrMode = s.pwrMode := rfl
@[simp] theorem modHand_pwrNow (g : Hand → Hand) (s : State) : (modHand g s).pwrNow = s.pwrNow := rfl
@[simp] theorem modHand_power (g : Hand → Hand) (s : State) : (modHand g s).power = s.power := rfl
@[simp] theorem modHand_temp (g : Hand → Hand) (s : State) : (modHand g s).temp = s.temp := rfl
@[simp] theorem modHand_clock (g : Hand → Hand) (s : State) : (modHand g s).clock = s.clock := rfl
@[simp] theorem modHand_boot (g : Hand → Hand) (s : State) : (modHand g s).boot = s.boot := rfl
@[simp] theorem modHand_standby (g : Hand → Hand) (s : State) : (modHand g s).standby = s.standby := rfl
@[simp] theorem modHand_hostUp (g : Hand → Hand) (s : State) : (modHand g s).hostUp = s.hostUp := rfl
@[simp] theorem modHand_hostCause (g : Hand → Hand) (s : State) : (modHand g s).hostCause = s.hostCause := rfl
@[simp] theorem modHand_hitch (g : Hand → Hand) (s : State) : (modHand g s).hitch = s.hitch := rfl
@[simp] theorem modHand_reports (g : Hand → Hand) (s : State) : (modHand g s).reports = s.reports := rfl
@[simp] theorem modHand_time (g : Hand → Hand) (s : State) : (modHand g s).time = s.time := rfl
@[simp] theorem modHand_curFe (g : Hand → Hand) (s : State) : (modHand g s).curFe = s.curFe := rfl
@[simp] theorem modHand_curSeat (g : Hand → Hand) (s : State) : (modHand g s).curSeat = s.curSeat := rfl
@[simp] theorem modHand_given (g : Hand → Hand) (s : State) : (modHand g s).given = s.given := rfl
@[simp] theorem modHand_turns (g : Hand → Hand) (s : State) : (modHand g s).turns = s.turns := rfl
@[simp] theorem modHand_agenda (g : Hand → Hand) (s : State) : (modHand g s).agenda = s.agenda := rfl
@[simp] theorem modHand_nextId (g : Hand → Hand) (s : State) : (modHand g s).nextId = s.nextId := rfl
@[simp] theorem modHand_fresh (g : Hand → Hand) (s : State) : (modHand g s).fresh = s.fresh := rfl

/-! ### modCtx -/

@[simp] theorem modCtx_mem (c : Nat) (g : Ctx → Ctx) (s : State) : (modCtx c g s).mem = s.mem := rfl
@[simp] theorem modCtx_tags (c : Nat) (g : Ctx → Ctx) (s : State) : (modCtx c g s).tags = s.tags := rfl
@[simp] theorem modCtx_fes (c : Nat) (g : Ctx → Ctx) (s : State) : (modCtx c g s).fes = s.fes := rfl
@[simp] theorem modCtx_launches (c : Nat) (g : Ctx → Ctx) (s : State) : (modCtx c g s).launches = s.launches := rfl
@[simp] theorem modCtx_cascades (c : Nat) (g : Ctx → Ctx) (s : State) : (modCtx c g s).cascades = s.cascades := rfl
@[simp] theorem modCtx_queues (c : Nat) (g : Ctx → Ctx) (s : State) : (modCtx c g s).queues = s.queues := rfl
@[simp] theorem modCtx_slots (c : Nat) (g : Ctx → Ctx) (s : State) : (modCtx c g s).slots = s.slots := rfl
@[simp] theorem modCtx_graph (c : Nat) (g : Ctx → Ctx) (s : State) : (modCtx c g s).graph = s.graph := rfl
@[simp] theorem modCtx_cards (c : Nat) (g : Ctx → Ctx) (s : State) : (modCtx c g s).cards = s.cards := rfl
@[simp] theorem modCtx_reqs (c : Nat) (g : Ctx → Ctx) (s : State) : (modCtx c g s).reqs = s.reqs := rfl
@[simp] theorem modCtx_replies (c : Nat) (g : Ctx → Ctx) (s : State) : (modCtx c g s).replies = s.replies := rfl
@[simp] theorem modCtx_refused (c : Nat) (g : Ctx → Ctx) (s : State) : (modCtx c g s).refused = s.refused := rfl
@[simp] theorem modCtx_melds (c : Nat) (g : Ctx → Ctx) (s : State) : (modCtx c g s).melds = s.melds := rfl
@[simp] theorem modCtx_cfgs (c : Nat) (g : Ctx → Ctx) (s : State) : (modCtx c g s).cfgs = s.cfgs := rfl
@[simp] theorem modCtx_recs (c : Nat) (g : Ctx → Ctx) (s : State) : (modCtx c g s).recs = s.recs := rfl
@[simp] theorem modCtx_links (c : Nat) (g : Ctx → Ctx) (s : State) : (modCtx c g s).links = s.links := rfl
@[simp] theorem modCtx_routes (c : Nat) (g : Ctx → Ctx) (s : State) : (modCtx c g s).routes = s.routes := rfl
@[simp] theorem modCtx_gus (c : Nat) (g : Ctx → Ctx) (s : State) : (modCtx c g s).gus = s.gus := rfl
@[simp] theorem modCtx_trains (c : Nat) (g : Ctx → Ctx) (s : State) : (modCtx c g s).trains = s.trains := rfl
@[simp] theorem modCtx_fused (c : Nat) (g : Ctx → Ctx) (s : State) : (modCtx c g s).fused = s.fused := rfl
@[simp] theorem modCtx_moduleId (c : Nat) (g : Ctx → Ctx) (s : State) : (modCtx c g s).moduleId = s.moduleId := rfl
@[simp] theorem modCtx_pwrMode (c : Nat) (g : Ctx → Ctx) (s : State) : (modCtx c g s).pwrMode = s.pwrMode := rfl
@[simp] theorem modCtx_pwrNow (c : Nat) (g : Ctx → Ctx) (s : State) : (modCtx c g s).pwrNow = s.pwrNow := rfl
@[simp] theorem modCtx_power (c : Nat) (g : Ctx → Ctx) (s : State) : (modCtx c g s).power = s.power := rfl
@[simp] theorem modCtx_temp (c : Nat) (g : Ctx → Ctx) (s : State) : (modCtx c g s).temp = s.temp := rfl
@[simp] theorem modCtx_clock (c : Nat) (g : Ctx → Ctx) (s : State) : (modCtx c g s).clock = s.clock := rfl
@[simp] theorem modCtx_boot (c : Nat) (g : Ctx → Ctx) (s : State) : (modCtx c g s).boot = s.boot := rfl
@[simp] theorem modCtx_standby (c : Nat) (g : Ctx → Ctx) (s : State) : (modCtx c g s).standby = s.standby := rfl
@[simp] theorem modCtx_hostUp (c : Nat) (g : Ctx → Ctx) (s : State) : (modCtx c g s).hostUp = s.hostUp := rfl
@[simp] theorem modCtx_hostCause (c : Nat) (g : Ctx → Ctx) (s : State) : (modCtx c g s).hostCause = s.hostCause := rfl
@[simp] theorem modCtx_hitch (c : Nat) (g : Ctx → Ctx) (s : State) : (modCtx c g s).hitch = s.hitch := rfl
@[simp] theorem modCtx_reports (c : Nat) (g : Ctx → Ctx) (s : State) : (modCtx c g s).reports = s.reports := rfl
@[simp] theorem modCtx_time (c : Nat) (g : Ctx → Ctx) (s : State) : (modCtx c g s).time = s.time := rfl
@[simp] theorem modCtx_curFe (c : Nat) (g : Ctx → Ctx) (s : State) : (modCtx c g s).curFe = s.curFe := rfl
@[simp] theorem modCtx_curSeat (c : Nat) (g : Ctx → Ctx) (s : State) : (modCtx c g s).curSeat = s.curSeat := rfl
@[simp] theorem modCtx_given (c : Nat) (g : Ctx → Ctx) (s : State) : (modCtx c g s).given = s.given := rfl
@[simp] theorem modCtx_turns (c : Nat) (g : Ctx → Ctx) (s : State) : (modCtx c g s).turns = s.turns := rfl
@[simp] theorem modCtx_agenda (c : Nat) (g : Ctx → Ctx) (s : State) : (modCtx c g s).agenda = s.agenda := rfl
@[simp] theorem modCtx_nextId (c : Nat) (g : Ctx → Ctx) (s : State) : (modCtx c g s).nextId = s.nextId := rfl
@[simp] theorem modCtx_fresh (c : Nat) (g : Ctx → Ctx) (s : State) : (modCtx c g s).fresh = s.fresh := rfl

/-! ### report -/

@[simp] theorem report_mem (r : Report) (s : State) : (report r s).mem = s.mem := rfl
@[simp] theorem report_tags (r : Report) (s : State) : (report r s).tags = s.tags := rfl
@[simp] theorem report_fes (r : Report) (s : State) : (report r s).fes = s.fes := rfl
@[simp] theorem report_ctxs (r : Report) (s : State) : (report r s).ctxs = s.ctxs := rfl
@[simp] theorem report_launches (r : Report) (s : State) : (report r s).launches = s.launches := rfl
@[simp] theorem report_cascades (r : Report) (s : State) : (report r s).cascades = s.cascades := rfl
@[simp] theorem report_queues (r : Report) (s : State) : (report r s).queues = s.queues := rfl
@[simp] theorem report_slots (r : Report) (s : State) : (report r s).slots = s.slots := rfl
@[simp] theorem report_graph (r : Report) (s : State) : (report r s).graph = s.graph := rfl
@[simp] theorem report_cards (r : Report) (s : State) : (report r s).cards = s.cards := rfl
@[simp] theorem report_reqs (r : Report) (s : State) : (report r s).reqs = s.reqs := rfl
@[simp] theorem report_replies (r : Report) (s : State) : (report r s).replies = s.replies := rfl
@[simp] theorem report_refused (r : Report) (s : State) : (report r s).refused = s.refused := rfl
@[simp] theorem report_melds (r : Report) (s : State) : (report r s).melds = s.melds := rfl
@[simp] theorem report_cfgs (r : Report) (s : State) : (report r s).cfgs = s.cfgs := rfl
@[simp] theorem report_recs (r : Report) (s : State) : (report r s).recs = s.recs := rfl
@[simp] theorem report_links (r : Report) (s : State) : (report r s).links = s.links := rfl
@[simp] theorem report_routes (r : Report) (s : State) : (report r s).routes = s.routes := rfl
@[simp] theorem report_gus (r : Report) (s : State) : (report r s).gus = s.gus := rfl
@[simp] theorem report_trains (r : Report) (s : State) : (report r s).trains = s.trains := rfl
@[simp] theorem report_fused (r : Report) (s : State) : (report r s).fused = s.fused := rfl
@[simp] theorem report_moduleId (r : Report) (s : State) : (report r s).moduleId = s.moduleId := rfl
@[simp] theorem report_pwrMode (r : Report) (s : State) : (report r s).pwrMode = s.pwrMode := rfl
@[simp] theorem report_pwrNow (r : Report) (s : State) : (report r s).pwrNow = s.pwrNow := rfl
@[simp] theorem report_power (r : Report) (s : State) : (report r s).power = s.power := rfl
@[simp] theorem report_temp (r : Report) (s : State) : (report r s).temp = s.temp := rfl
@[simp] theorem report_clock (r : Report) (s : State) : (report r s).clock = s.clock := rfl
@[simp] theorem report_boot (r : Report) (s : State) : (report r s).boot = s.boot := rfl
@[simp] theorem report_standby (r : Report) (s : State) : (report r s).standby = s.standby := rfl
@[simp] theorem report_hostUp (r : Report) (s : State) : (report r s).hostUp = s.hostUp := rfl
@[simp] theorem report_hostCause (r : Report) (s : State) : (report r s).hostCause = s.hostCause := rfl
@[simp] theorem report_hitch (r : Report) (s : State) : (report r s).hitch = s.hitch := rfl
@[simp] theorem report_time (r : Report) (s : State) : (report r s).time = s.time := rfl
@[simp] theorem report_curFe (r : Report) (s : State) : (report r s).curFe = s.curFe := rfl
@[simp] theorem report_curSeat (r : Report) (s : State) : (report r s).curSeat = s.curSeat := rfl
@[simp] theorem report_given (r : Report) (s : State) : (report r s).given = s.given := rfl
@[simp] theorem report_turns (r : Report) (s : State) : (report r s).turns = s.turns := rfl
@[simp] theorem report_agenda (r : Report) (s : State) : (report r s).agenda = s.agenda := rfl
@[simp] theorem report_nextId (r : Report) (s : State) : (report r s).nextId = s.nextId := rfl
@[simp] theorem report_fresh (r : Report) (s : State) : (report r s).fresh = s.fresh := rfl

/-! ### wrPa -/

@[simp] theorem wrPa_tags (pa n v : Nat) (s : State) : (wrPa pa n v s).tags = s.tags := rfl
@[simp] theorem wrPa_fes (pa n v : Nat) (s : State) : (wrPa pa n v s).fes = s.fes := rfl
@[simp] theorem wrPa_ctxs (pa n v : Nat) (s : State) : (wrPa pa n v s).ctxs = s.ctxs := rfl
@[simp] theorem wrPa_launches (pa n v : Nat) (s : State) : (wrPa pa n v s).launches = s.launches := rfl
@[simp] theorem wrPa_cascades (pa n v : Nat) (s : State) : (wrPa pa n v s).cascades = s.cascades := rfl
@[simp] theorem wrPa_queues (pa n v : Nat) (s : State) : (wrPa pa n v s).queues = s.queues := rfl
@[simp] theorem wrPa_slots (pa n v : Nat) (s : State) : (wrPa pa n v s).slots = s.slots := rfl
@[simp] theorem wrPa_graph (pa n v : Nat) (s : State) : (wrPa pa n v s).graph = s.graph := rfl
@[simp] theorem wrPa_cards (pa n v : Nat) (s : State) : (wrPa pa n v s).cards = s.cards := rfl
@[simp] theorem wrPa_reqs (pa n v : Nat) (s : State) : (wrPa pa n v s).reqs = s.reqs := rfl
@[simp] theorem wrPa_replies (pa n v : Nat) (s : State) : (wrPa pa n v s).replies = s.replies := rfl
@[simp] theorem wrPa_refused (pa n v : Nat) (s : State) : (wrPa pa n v s).refused = s.refused := rfl
@[simp] theorem wrPa_melds (pa n v : Nat) (s : State) : (wrPa pa n v s).melds = s.melds := rfl
@[simp] theorem wrPa_cfgs (pa n v : Nat) (s : State) : (wrPa pa n v s).cfgs = s.cfgs := rfl
@[simp] theorem wrPa_recs (pa n v : Nat) (s : State) : (wrPa pa n v s).recs = s.recs := rfl
@[simp] theorem wrPa_links (pa n v : Nat) (s : State) : (wrPa pa n v s).links = s.links := rfl
@[simp] theorem wrPa_routes (pa n v : Nat) (s : State) : (wrPa pa n v s).routes = s.routes := rfl
@[simp] theorem wrPa_gus (pa n v : Nat) (s : State) : (wrPa pa n v s).gus = s.gus := rfl
@[simp] theorem wrPa_trains (pa n v : Nat) (s : State) : (wrPa pa n v s).trains = s.trains := rfl
@[simp] theorem wrPa_fused (pa n v : Nat) (s : State) : (wrPa pa n v s).fused = s.fused := rfl
@[simp] theorem wrPa_moduleId (pa n v : Nat) (s : State) : (wrPa pa n v s).moduleId = s.moduleId := rfl
@[simp] theorem wrPa_pwrMode (pa n v : Nat) (s : State) : (wrPa pa n v s).pwrMode = s.pwrMode := rfl
@[simp] theorem wrPa_pwrNow (pa n v : Nat) (s : State) : (wrPa pa n v s).pwrNow = s.pwrNow := rfl
@[simp] theorem wrPa_power (pa n v : Nat) (s : State) : (wrPa pa n v s).power = s.power := rfl
@[simp] theorem wrPa_temp (pa n v : Nat) (s : State) : (wrPa pa n v s).temp = s.temp := rfl
@[simp] theorem wrPa_clock (pa n v : Nat) (s : State) : (wrPa pa n v s).clock = s.clock := rfl
@[simp] theorem wrPa_boot (pa n v : Nat) (s : State) : (wrPa pa n v s).boot = s.boot := rfl
@[simp] theorem wrPa_standby (pa n v : Nat) (s : State) : (wrPa pa n v s).standby = s.standby := rfl
@[simp] theorem wrPa_hostUp (pa n v : Nat) (s : State) : (wrPa pa n v s).hostUp = s.hostUp := rfl
@[simp] theorem wrPa_hostCause (pa n v : Nat) (s : State) : (wrPa pa n v s).hostCause = s.hostCause := rfl
@[simp] theorem wrPa_hitch (pa n v : Nat) (s : State) : (wrPa pa n v s).hitch = s.hitch := rfl
@[simp] theorem wrPa_reports (pa n v : Nat) (s : State) : (wrPa pa n v s).reports = s.reports := rfl
@[simp] theorem wrPa_time (pa n v : Nat) (s : State) : (wrPa pa n v s).time = s.time := rfl
@[simp] theorem wrPa_curFe (pa n v : Nat) (s : State) : (wrPa pa n v s).curFe = s.curFe := rfl
@[simp] theorem wrPa_curSeat (pa n v : Nat) (s : State) : (wrPa pa n v s).curSeat = s.curSeat := rfl
@[simp] theorem wrPa_given (pa n v : Nat) (s : State) : (wrPa pa n v s).given = s.given := rfl
@[simp] theorem wrPa_turns (pa n v : Nat) (s : State) : (wrPa pa n v s).turns = s.turns := rfl
@[simp] theorem wrPa_agenda (pa n v : Nat) (s : State) : (wrPa pa n v s).agenda = s.agenda := rfl
@[simp] theorem wrPa_nextId (pa n v : Nat) (s : State) : (wrPa pa n v s).nextId = s.nextId := rfl
@[simp] theorem wrPa_fresh (pa n v : Nat) (s : State) : (wrPa pa n v s).fresh = s.fresh := rfl

/-! ### putTag -/

@[simp] theorem putTag_mem (pa : Nat) (full : Bool) (s : State) : (putTag pa full s).mem = s.mem := rfl
@[simp] theorem putTag_fes (pa : Nat) (full : Bool) (s : State) : (putTag pa full s).fes = s.fes := rfl
@[simp] theorem putTag_ctxs (pa : Nat) (full : Bool) (s : State) : (putTag pa full s).ctxs = s.ctxs := rfl
@[simp] theorem putTag_launches (pa : Nat) (full : Bool) (s : State) : (putTag pa full s).launches = s.launches := rfl
@[simp] theorem putTag_cascades (pa : Nat) (full : Bool) (s : State) : (putTag pa full s).cascades = s.cascades := rfl
@[simp] theorem putTag_queues (pa : Nat) (full : Bool) (s : State) : (putTag pa full s).queues = s.queues := rfl
@[simp] theorem putTag_slots (pa : Nat) (full : Bool) (s : State) : (putTag pa full s).slots = s.slots := rfl
@[simp] theorem putTag_graph (pa : Nat) (full : Bool) (s : State) : (putTag pa full s).graph = s.graph := rfl
@[simp] theorem putTag_cards (pa : Nat) (full : Bool) (s : State) : (putTag pa full s).cards = s.cards := rfl
@[simp] theorem putTag_reqs (pa : Nat) (full : Bool) (s : State) : (putTag pa full s).reqs = s.reqs := rfl
@[simp] theorem putTag_replies (pa : Nat) (full : Bool) (s : State) : (putTag pa full s).replies = s.replies := rfl
@[simp] theorem putTag_refused (pa : Nat) (full : Bool) (s : State) : (putTag pa full s).refused = s.refused := rfl
@[simp] theorem putTag_melds (pa : Nat) (full : Bool) (s : State) : (putTag pa full s).melds = s.melds := rfl
@[simp] theorem putTag_cfgs (pa : Nat) (full : Bool) (s : State) : (putTag pa full s).cfgs = s.cfgs := rfl
@[simp] theorem putTag_recs (pa : Nat) (full : Bool) (s : State) : (putTag pa full s).recs = s.recs := rfl
@[simp] theorem putTag_links (pa : Nat) (full : Bool) (s : State) : (putTag pa full s).links = s.links := rfl
@[simp] theorem putTag_routes (pa : Nat) (full : Bool) (s : State) : (putTag pa full s).routes = s.routes := rfl
@[simp] theorem putTag_gus (pa : Nat) (full : Bool) (s : State) : (putTag pa full s).gus = s.gus := rfl
@[simp] theorem putTag_trains (pa : Nat) (full : Bool) (s : State) : (putTag pa full s).trains = s.trains := rfl
@[simp] theorem putTag_fused (pa : Nat) (full : Bool) (s : State) : (putTag pa full s).fused = s.fused := rfl
@[simp] theorem putTag_moduleId (pa : Nat) (full : Bool) (s : State) : (putTag pa full s).moduleId = s.moduleId := rfl
@[simp] theorem putTag_pwrMode (pa : Nat) (full : Bool) (s : State) : (putTag pa full s).pwrMode = s.pwrMode := rfl
@[simp] theorem putTag_pwrNow (pa : Nat) (full : Bool) (s : State) : (putTag pa full s).pwrNow = s.pwrNow := rfl
@[simp] theorem putTag_power (pa : Nat) (full : Bool) (s : State) : (putTag pa full s).power = s.power := rfl
@[simp] theorem putTag_temp (pa : Nat) (full : Bool) (s : State) : (putTag pa full s).temp = s.temp := rfl
@[simp] theorem putTag_clock (pa : Nat) (full : Bool) (s : State) : (putTag pa full s).clock = s.clock := rfl
@[simp] theorem putTag_boot (pa : Nat) (full : Bool) (s : State) : (putTag pa full s).boot = s.boot := rfl
@[simp] theorem putTag_standby (pa : Nat) (full : Bool) (s : State) : (putTag pa full s).standby = s.standby := rfl
@[simp] theorem putTag_hostUp (pa : Nat) (full : Bool) (s : State) : (putTag pa full s).hostUp = s.hostUp := rfl
@[simp] theorem putTag_hostCause (pa : Nat) (full : Bool) (s : State) : (putTag pa full s).hostCause = s.hostCause := rfl
@[simp] theorem putTag_hitch (pa : Nat) (full : Bool) (s : State) : (putTag pa full s).hitch = s.hitch := rfl
@[simp] theorem putTag_reports (pa : Nat) (full : Bool) (s : State) : (putTag pa full s).reports = s.reports := rfl
@[simp] theorem putTag_time (pa : Nat) (full : Bool) (s : State) : (putTag pa full s).time = s.time := rfl
@[simp] theorem putTag_curFe (pa : Nat) (full : Bool) (s : State) : (putTag pa full s).curFe = s.curFe := rfl
@[simp] theorem putTag_curSeat (pa : Nat) (full : Bool) (s : State) : (putTag pa full s).curSeat = s.curSeat := rfl
@[simp] theorem putTag_given (pa : Nat) (full : Bool) (s : State) : (putTag pa full s).given = s.given := rfl
@[simp] theorem putTag_turns (pa : Nat) (full : Bool) (s : State) : (putTag pa full s).turns = s.turns := rfl
@[simp] theorem putTag_agenda (pa : Nat) (full : Bool) (s : State) : (putTag pa full s).agenda = s.agenda := rfl
@[simp] theorem putTag_nextId (pa : Nat) (full : Bool) (s : State) : (putTag pa full s).nextId = s.nextId := rfl
@[simp] theorem putTag_fresh (pa : Nat) (full : Bool) (s : State) : (putTag pa full s).fresh = s.fresh := rfl

/-! ### sendReq -/

@[simp] theorem sendReq_mem (r : Req) (s : State) : (sendReq r s).mem = s.mem := rfl
@[simp] theorem sendReq_tags (r : Req) (s : State) : (sendReq r s).tags = s.tags := rfl
@[simp] theorem sendReq_fes (r : Req) (s : State) : (sendReq r s).fes = s.fes := rfl
@[simp] theorem sendReq_ctxs (r : Req) (s : State) : (sendReq r s).ctxs = s.ctxs := rfl
@[simp] theorem sendReq_launches (r : Req) (s : State) : (sendReq r s).launches = s.launches := rfl
@[simp] theorem sendReq_cascades (r : Req) (s : State) : (sendReq r s).cascades = s.cascades := rfl
@[simp] theorem sendReq_queues (r : Req) (s : State) : (sendReq r s).queues = s.queues := rfl
@[simp] theorem sendReq_slots (r : Req) (s : State) : (sendReq r s).slots = s.slots := rfl
@[simp] theorem sendReq_graph (r : Req) (s : State) : (sendReq r s).graph = s.graph := rfl
@[simp] theorem sendReq_cards (r : Req) (s : State) : (sendReq r s).cards = s.cards := rfl
@[simp] theorem sendReq_replies (r : Req) (s : State) : (sendReq r s).replies = s.replies := rfl
@[simp] theorem sendReq_refused (r : Req) (s : State) : (sendReq r s).refused = s.refused := rfl
@[simp] theorem sendReq_melds (r : Req) (s : State) : (sendReq r s).melds = s.melds := rfl
@[simp] theorem sendReq_cfgs (r : Req) (s : State) : (sendReq r s).cfgs = s.cfgs := rfl
@[simp] theorem sendReq_recs (r : Req) (s : State) : (sendReq r s).recs = s.recs := rfl
@[simp] theorem sendReq_links (r : Req) (s : State) : (sendReq r s).links = s.links := rfl
@[simp] theorem sendReq_routes (r : Req) (s : State) : (sendReq r s).routes = s.routes := rfl
@[simp] theorem sendReq_gus (r : Req) (s : State) : (sendReq r s).gus = s.gus := rfl
@[simp] theorem sendReq_trains (r : Req) (s : State) : (sendReq r s).trains = s.trains := rfl
@[simp] theorem sendReq_fused (r : Req) (s : State) : (sendReq r s).fused = s.fused := rfl
@[simp] theorem sendReq_moduleId (r : Req) (s : State) : (sendReq r s).moduleId = s.moduleId := rfl
@[simp] theorem sendReq_pwrMode (r : Req) (s : State) : (sendReq r s).pwrMode = s.pwrMode := rfl
@[simp] theorem sendReq_pwrNow (r : Req) (s : State) : (sendReq r s).pwrNow = s.pwrNow := rfl
@[simp] theorem sendReq_power (r : Req) (s : State) : (sendReq r s).power = s.power := rfl
@[simp] theorem sendReq_temp (r : Req) (s : State) : (sendReq r s).temp = s.temp := rfl
@[simp] theorem sendReq_clock (r : Req) (s : State) : (sendReq r s).clock = s.clock := rfl
@[simp] theorem sendReq_boot (r : Req) (s : State) : (sendReq r s).boot = s.boot := rfl
@[simp] theorem sendReq_standby (r : Req) (s : State) : (sendReq r s).standby = s.standby := rfl
@[simp] theorem sendReq_hostUp (r : Req) (s : State) : (sendReq r s).hostUp = s.hostUp := rfl
@[simp] theorem sendReq_hostCause (r : Req) (s : State) : (sendReq r s).hostCause = s.hostCause := rfl
@[simp] theorem sendReq_hitch (r : Req) (s : State) : (sendReq r s).hitch = s.hitch := rfl
@[simp] theorem sendReq_reports (r : Req) (s : State) : (sendReq r s).reports = s.reports := rfl
@[simp] theorem sendReq_time (r : Req) (s : State) : (sendReq r s).time = s.time := rfl
@[simp] theorem sendReq_curFe (r : Req) (s : State) : (sendReq r s).curFe = s.curFe := rfl
@[simp] theorem sendReq_curSeat (r : Req) (s : State) : (sendReq r s).curSeat = s.curSeat := rfl
@[simp] theorem sendReq_given (r : Req) (s : State) : (sendReq r s).given = s.given := rfl
@[simp] theorem sendReq_turns (r : Req) (s : State) : (sendReq r s).turns = s.turns := rfl
@[simp] theorem sendReq_agenda (r : Req) (s : State) : (sendReq r s).agenda = s.agenda := rfl
@[simp] theorem sendReq_nextId (r : Req) (s : State) : (sendReq r s).nextId = s.nextId := rfl
@[simp] theorem sendReq_fresh (r : Req) (s : State) : (sendReq r s).fresh = s.fresh := rfl

/-! ### sendReply -/

@[simp] theorem sendReply_mem (r : Req) (b : ReplyBody) (s : State) : (sendReply r b s).mem = s.mem := rfl
@[simp] theorem sendReply_tags (r : Req) (b : ReplyBody) (s : State) : (sendReply r b s).tags = s.tags := rfl
@[simp] theorem sendReply_fes (r : Req) (b : ReplyBody) (s : State) : (sendReply r b s).fes = s.fes := rfl
@[simp] theorem sendReply_ctxs (r : Req) (b : ReplyBody) (s : State) : (sendReply r b s).ctxs = s.ctxs := rfl
@[simp] theorem sendReply_launches (r : Req) (b : ReplyBody) (s : State) : (sendReply r b s).launches = s.launches := rfl
@[simp] theorem sendReply_cascades (r : Req) (b : ReplyBody) (s : State) : (sendReply r b s).cascades = s.cascades := rfl
@[simp] theorem sendReply_queues (r : Req) (b : ReplyBody) (s : State) : (sendReply r b s).queues = s.queues := rfl
@[simp] theorem sendReply_slots (r : Req) (b : ReplyBody) (s : State) : (sendReply r b s).slots = s.slots := rfl
@[simp] theorem sendReply_graph (r : Req) (b : ReplyBody) (s : State) : (sendReply r b s).graph = s.graph := rfl
@[simp] theorem sendReply_cards (r : Req) (b : ReplyBody) (s : State) : (sendReply r b s).cards = s.cards := rfl
@[simp] theorem sendReply_reqs (r : Req) (b : ReplyBody) (s : State) : (sendReply r b s).reqs = s.reqs := rfl
@[simp] theorem sendReply_refused (r : Req) (b : ReplyBody) (s : State) : (sendReply r b s).refused = s.refused := rfl
@[simp] theorem sendReply_melds (r : Req) (b : ReplyBody) (s : State) : (sendReply r b s).melds = s.melds := rfl
@[simp] theorem sendReply_cfgs (r : Req) (b : ReplyBody) (s : State) : (sendReply r b s).cfgs = s.cfgs := rfl
@[simp] theorem sendReply_recs (r : Req) (b : ReplyBody) (s : State) : (sendReply r b s).recs = s.recs := rfl
@[simp] theorem sendReply_links (r : Req) (b : ReplyBody) (s : State) : (sendReply r b s).links = s.links := rfl
@[simp] theorem sendReply_routes (r : Req) (b : ReplyBody) (s : State) : (sendReply r b s).routes = s.routes := rfl
@[simp] theorem sendReply_gus (r : Req) (b : ReplyBody) (s : State) : (sendReply r b s).gus = s.gus := rfl
@[simp] theorem sendReply_trains (r : Req) (b : ReplyBody) (s : State) : (sendReply r b s).trains = s.trains := rfl
@[simp] theorem sendReply_fused (r : Req) (b : ReplyBody) (s : State) : (sendReply r b s).fused = s.fused := rfl
@[simp] theorem sendReply_moduleId (r : Req) (b : ReplyBody) (s : State) : (sendReply r b s).moduleId = s.moduleId := rfl
@[simp] theorem sendReply_pwrMode (r : Req) (b : ReplyBody) (s : State) : (sendReply r b s).pwrMode = s.pwrMode := rfl
@[simp] theorem sendReply_pwrNow (r : Req) (b : ReplyBody) (s : State) : (sendReply r b s).pwrNow = s.pwrNow := rfl
@[simp] theorem sendReply_power (r : Req) (b : ReplyBody) (s : State) : (sendReply r b s).power = s.power := rfl
@[simp] theorem sendReply_temp (r : Req) (b : ReplyBody) (s : State) : (sendReply r b s).temp = s.temp := rfl
@[simp] theorem sendReply_clock (r : Req) (b : ReplyBody) (s : State) : (sendReply r b s).clock = s.clock := rfl
@[simp] theorem sendReply_boot (r : Req) (b : ReplyBody) (s : State) : (sendReply r b s).boot = s.boot := rfl
@[simp] theorem sendReply_standby (r : Req) (b : ReplyBody) (s : State) : (sendReply r b s).standby = s.standby := rfl
@[simp] theorem sendReply_hostUp (r : Req) (b : ReplyBody) (s : State) : (sendReply r b s).hostUp = s.hostUp := rfl
@[simp] theorem sendReply_hostCause (r : Req) (b : ReplyBody) (s : State) : (sendReply r b s).hostCause = s.hostCause := rfl
@[simp] theorem sendReply_hitch (r : Req) (b : ReplyBody) (s : State) : (sendReply r b s).hitch = s.hitch := rfl
@[simp] theorem sendReply_reports (r : Req) (b : ReplyBody) (s : State) : (sendReply r b s).reports = s.reports := rfl
@[simp] theorem sendReply_time (r : Req) (b : ReplyBody) (s : State) : (sendReply r b s).time = s.time := rfl
@[simp] theorem sendReply_curFe (r : Req) (b : ReplyBody) (s : State) : (sendReply r b s).curFe = s.curFe := rfl
@[simp] theorem sendReply_curSeat (r : Req) (b : ReplyBody) (s : State) : (sendReply r b s).curSeat = s.curSeat := rfl
@[simp] theorem sendReply_given (r : Req) (b : ReplyBody) (s : State) : (sendReply r b s).given = s.given := rfl
@[simp] theorem sendReply_turns (r : Req) (b : ReplyBody) (s : State) : (sendReply r b s).turns = s.turns := rfl
@[simp] theorem sendReply_agenda (r : Req) (b : ReplyBody) (s : State) : (sendReply r b s).agenda = s.agenda := rfl
@[simp] theorem sendReply_nextId (r : Req) (b : ReplyBody) (s : State) : (sendReply r b s).nextId = s.nextId := rfl
@[simp] theorem sendReply_fresh (r : Req) (b : ReplyBody) (s : State) : (sendReply r b s).fresh = s.fresh := rfl

/-! ### postRec -/

@[simp] theorem postRec_mem (fe k : Nat) (e : EvRec) (s : State) : (postRec fe k e s).mem = s.mem := rfl
@[simp] theorem postRec_tags (fe k : Nat) (e : EvRec) (s : State) : (postRec fe k e s).tags = s.tags := rfl
@[simp] theorem postRec_fes (fe k : Nat) (e : EvRec) (s : State) : (postRec fe k e s).fes = s.fes := rfl
@[simp] theorem postRec_ctxs (fe k : Nat) (e : EvRec) (s : State) : (postRec fe k e s).ctxs = s.ctxs := rfl
@[simp] theorem postRec_launches (fe k : Nat) (e : EvRec) (s : State) : (postRec fe k e s).launches = s.launches := rfl
@[simp] theorem postRec_cascades (fe k : Nat) (e : EvRec) (s : State) : (postRec fe k e s).cascades = s.cascades := rfl
@[simp] theorem postRec_queues (fe k : Nat) (e : EvRec) (s : State) : (postRec fe k e s).queues = s.queues := rfl
@[simp] theorem postRec_slots (fe k : Nat) (e : EvRec) (s : State) : (postRec fe k e s).slots = s.slots := rfl
@[simp] theorem postRec_graph (fe k : Nat) (e : EvRec) (s : State) : (postRec fe k e s).graph = s.graph := rfl
@[simp] theorem postRec_cards (fe k : Nat) (e : EvRec) (s : State) : (postRec fe k e s).cards = s.cards := rfl
@[simp] theorem postRec_reqs (fe k : Nat) (e : EvRec) (s : State) : (postRec fe k e s).reqs = s.reqs := rfl
@[simp] theorem postRec_replies (fe k : Nat) (e : EvRec) (s : State) : (postRec fe k e s).replies = s.replies := rfl
@[simp] theorem postRec_refused (fe k : Nat) (e : EvRec) (s : State) : (postRec fe k e s).refused = s.refused := rfl
@[simp] theorem postRec_melds (fe k : Nat) (e : EvRec) (s : State) : (postRec fe k e s).melds = s.melds := rfl
@[simp] theorem postRec_cfgs (fe k : Nat) (e : EvRec) (s : State) : (postRec fe k e s).cfgs = s.cfgs := rfl
@[simp] theorem postRec_links (fe k : Nat) (e : EvRec) (s : State) : (postRec fe k e s).links = s.links := rfl
@[simp] theorem postRec_routes (fe k : Nat) (e : EvRec) (s : State) : (postRec fe k e s).routes = s.routes := rfl
@[simp] theorem postRec_gus (fe k : Nat) (e : EvRec) (s : State) : (postRec fe k e s).gus = s.gus := rfl
@[simp] theorem postRec_trains (fe k : Nat) (e : EvRec) (s : State) : (postRec fe k e s).trains = s.trains := rfl
@[simp] theorem postRec_fused (fe k : Nat) (e : EvRec) (s : State) : (postRec fe k e s).fused = s.fused := rfl
@[simp] theorem postRec_moduleId (fe k : Nat) (e : EvRec) (s : State) : (postRec fe k e s).moduleId = s.moduleId := rfl
@[simp] theorem postRec_pwrMode (fe k : Nat) (e : EvRec) (s : State) : (postRec fe k e s).pwrMode = s.pwrMode := rfl
@[simp] theorem postRec_pwrNow (fe k : Nat) (e : EvRec) (s : State) : (postRec fe k e s).pwrNow = s.pwrNow := rfl
@[simp] theorem postRec_power (fe k : Nat) (e : EvRec) (s : State) : (postRec fe k e s).power = s.power := rfl
@[simp] theorem postRec_temp (fe k : Nat) (e : EvRec) (s : State) : (postRec fe k e s).temp = s.temp := rfl
@[simp] theorem postRec_clock (fe k : Nat) (e : EvRec) (s : State) : (postRec fe k e s).clock = s.clock := rfl
@[simp] theorem postRec_boot (fe k : Nat) (e : EvRec) (s : State) : (postRec fe k e s).boot = s.boot := rfl
@[simp] theorem postRec_standby (fe k : Nat) (e : EvRec) (s : State) : (postRec fe k e s).standby = s.standby := rfl
@[simp] theorem postRec_hostUp (fe k : Nat) (e : EvRec) (s : State) : (postRec fe k e s).hostUp = s.hostUp := rfl
@[simp] theorem postRec_hostCause (fe k : Nat) (e : EvRec) (s : State) : (postRec fe k e s).hostCause = s.hostCause := rfl
@[simp] theorem postRec_hitch (fe k : Nat) (e : EvRec) (s : State) : (postRec fe k e s).hitch = s.hitch := rfl
@[simp] theorem postRec_reports (fe k : Nat) (e : EvRec) (s : State) : (postRec fe k e s).reports = s.reports := rfl
@[simp] theorem postRec_time (fe k : Nat) (e : EvRec) (s : State) : (postRec fe k e s).time = s.time := rfl
@[simp] theorem postRec_curFe (fe k : Nat) (e : EvRec) (s : State) : (postRec fe k e s).curFe = s.curFe := rfl
@[simp] theorem postRec_curSeat (fe k : Nat) (e : EvRec) (s : State) : (postRec fe k e s).curSeat = s.curSeat := rfl
@[simp] theorem postRec_given (fe k : Nat) (e : EvRec) (s : State) : (postRec fe k e s).given = s.given := rfl
@[simp] theorem postRec_turns (fe k : Nat) (e : EvRec) (s : State) : (postRec fe k e s).turns = s.turns := rfl
@[simp] theorem postRec_agenda (fe k : Nat) (e : EvRec) (s : State) : (postRec fe k e s).agenda = s.agenda := rfl
@[simp] theorem postRec_nextId (fe k : Nat) (e : EvRec) (s : State) : (postRec fe k e s).nextId = s.nextId := rfl
@[simp] theorem postRec_fresh (fe k : Nat) (e : EvRec) (s : State) : (postRec fe k e s).fresh = s.fresh := rfl

/-! ### Objects after an update -/

@[simp] theorem feAt_modFe (fe : Nat) (g : FE → FE) (s : State) : feAt (modFe fe g s) fe = g (feAt s fe) := by
  simp [feAt, modFe]

theorem feAt_modFe_other (e fe : Nat) (g : FE → FE) (s : State) (h : e ≠ fe) : feAt (modFe fe g s) e = feAt s e :=
  KV.get_upd_other _ e fe g s.fes h

theorem modFe_modFe (fe : Nat) (f g : FE → FE) (s : State) : modFe fe g (modFe fe f s) = modFe fe (fun x => g (f x)) s := by
  simp [modFe, KV.upd_upd]

theorem vget_vset_same {α : Type} {n : Nat} (d : α) (v : Vector α n) (k : Nat) (x : α) (h : k < n) : vget d (vset v k x) k = x := by
  simp [vget, vset, h]

theorem vget_vset_other {α : Type} {n : Nat} (d : α) (v : Vector α n) (j k : Nat) (x : α) (h : j ≠ k) :
    vget d (vset v k x) j = vget d v j := by
  simp [vget, vset, Vector.getElem?_setIfInBounds_ne (Ne.symm h)]

theorem vset_vset {α : Type} {n : Nat} (v : Vector α n) (k : Nat) (x y : α) : vset (vset v k x) k y = vset v k y := by
  ext i hi
  by_cases h : k = i
  · subst h
    simp [vset]
  · simp [vset, h]

theorem seatAt_modSeat (fe k : Nat) (g : Seat → Seat) (s : State) (h : k < 4) : seatAt (modSeat fe k g s) fe k = g (seatAt s fe k) := by
  simp [seatAt, modSeat, seatOf, vget_vset_same _ _ _ _ h]

theorem seatAt_modSeat_seat (fe j k : Nat) (g : Seat → Seat) (s : State) (h : j ≠ k) :
    seatAt (modSeat fe k g s) fe j = seatAt s fe j := by
  simp [seatAt, modSeat, seatOf, vget_vset_other _ _ _ _ _ h]

theorem seatAt_modSeat_fe (e fe j k : Nat) (g : Seat → Seat) (s : State) (h : e ≠ fe) :
    seatAt (modSeat fe k g s) e j = seatAt s e j := by
  simp [seatAt, modSeat, feAt_modFe_other e fe _ s h]

theorem modSeat_modSeat (fe k : Nat) (f g : Seat → Seat) (s : State) (h : k < 4) :
    modSeat fe k g (modSeat fe k f s) = modSeat fe k (fun t => g (f t)) s := by
  simp [modSeat, modFe_modFe, seatOf, vget_vset_same _ _ _ _ h, vset_vset]

theorem cur_modCur (g : Seat → Seat) (s : State) (h : s.curSeat < 4) : cur (modCur g s) = g (cur s) :=
  seatAt_modSeat s.curFe s.curSeat g s h

theorem modCur_modCur (f g : Seat → Seat) (s : State) (h : s.curSeat < 4) : modCur g (modCur f s) = modCur (fun t => g (f t)) s :=
  modSeat_modSeat s.curFe s.curSeat f g s h

theorem cur_modHand (g : Hand → Hand) (s : State) (h : s.curSeat < 4) :
    cur (modHand g s) = { cur s with hand := (cur s).hand.map g } := cur_modCur _ s h

/-! ### Registers of a hand -/

theorem rdS_wrS_same (r : Reg) (v : W64) (h : Hand) : rdS (wrS r v h) r = v := by
  simp [rdS, wrS, vget_vset_same _ _ _ _ r.isLt]

theorem rdS_wrS_other (p r : Reg) (v : W64) (h : Hand) (hp : p ≠ r) : rdS (wrS r v h) p = rdS h p := by
  have : p.toNat ≠ r.toNat := fun e => hp (BitVec.eq_of_toNat_eq e)
  simp [rdS, wrS, vget_vset_other _ _ _ _ _ this]

@[simp] theorem rdP_wrS (p : Pred) (r : Reg) (v : W64) (h : Hand) : rdP (wrS r v h) p = rdP h p := rfl

/-- A read of p0 is 1, and a write to it changes nothing (00 R6). -/
@[simp] theorem rdP_zero (h : Hand) : rdP h 0 = true := rfl
@[simp] theorem wrP_zero (v : Bool) (h : Hand) : wrP 0 v h = h := rfl

theorem rdP_wrP_same (p : Pred) (v : Bool) (h : Hand) (hp : p ≠ 0) : rdP (wrP p v h) p = v := by
  have hall : ∀ p : Pred, ∀ k : Fin 8, (BitVec.ofNat 8 (2 ^ p.toNat)).getLsbD k = decide (k.val = p.toNat) := by decide
  have hlt : p.toNat < 8 := p.isLt
  have hk := hall p ⟨p.toNat, hlt⟩
  simp only [decide_true] at hk
  rw [rdP, wrP, if_neg hp, if_neg hp]
  cases v <;> simp only [Bool.false_eq_true, if_false, if_true, BitVec.getLsbD_and, BitVec.getLsbD_or, BitVec.getLsbD_not, hk,
    Bool.not_true, Bool.and_false, Bool.or_true, hlt, decide_true]

theorem rdP_wrP_other (p r : Pred) (v : Bool) (h : Hand) (hp : p ≠ r) : rdP (wrP r v h) p = rdP h p := by
  have hall : ∀ p : Pred, ∀ k : Fin 8, (BitVec.ofNat 8 (2 ^ p.toNat)).getLsbD k = decide (k.val = p.toNat) := by decide
  have hne : p.toNat ≠ r.toNat := fun e => hp (BitVec.eq_of_toNat_eq e)
  have hlt : p.toNat < 8 := p.isLt
  have hk := hall r ⟨p.toNat, hlt⟩
  simp only [hne, decide_false] at hk
  by_cases h0 : r = 0
  · rw [wrP, if_pos h0]
  · by_cases hp0 : p = 0
    · rw [hp0]
      rfl
    · rw [rdP, rdP, wrP, if_neg h0, if_neg hp0, if_neg hp0]
      cases v <;> simp only [Bool.false_eq_true, if_false, if_true, BitVec.getLsbD_and, BitVec.getLsbD_or, BitVec.getLsbD_not,
        hk, Bool.or_false, Bool.not_false, Bool.and_true, decide_eq_true hlt]

theorem rdS_wrP (p : Pred) (r : Reg) (v : Bool) (h : Hand) : rdS (wrP p v h) r = rdS h r := by
  unfold wrP
  split <;> rfl

/-! ### Memory -/

/-- A write of bytes keeps the memory's canonical form. -/
theorem wf_wrBytes (m : List Host.Cell) (a n v : Nat) (h : Memory.wf m = true) : Memory.wf (wrBytes m a n v) = true := by
  induction n generalizing m a v with
  | zero => exact h
  | succ n ih => exact ih _ _ _ (KV.wf_put _ _ _ _ h)

/-- A byte outside those written reads as before. -/
theorem memByte_wrBytes_other (m : List Host.Cell) (a n v b : Nat) (h : b < a ∨ a + n ≤ b) :
    memByte (wrBytes m a n v) b = memByte m b := by
  induction n generalizing m a v with
  | zero => rfl
  | succ n ih =>
    rw [wrBytes, ih _ _ _ (by omega)]
    exact KV.get_put_other _ _ _ _ _ (by omega)

theorem memByte_wrBytes_first (m : List Host.Cell) (a n v : Nat) :
    memByte (wrBytes m a (n + 1) v) a = BitVec.ofNat 8 v := by
  rw [wrBytes, memByte_wrBytes_other _ _ _ _ _ (by omega)]
  exact KV.get_put_same _ _ _ _

/-- Bytes written are read back. -/
theorem rdBytes_wrBytes_same (m : List Host.Cell) (a n v : Nat) : rdBytes (wrBytes m a n v) a n = v % 256 ^ n := by
  induction n generalizing m a v with
  | zero => simp [rdBytes, Nat.mod_one]
  | succ n ih =>
    have h1 := memByte_wrBytes_first m a n v
    have h2 : v % 256 ^ (n + 1) = v % 256 + 256 * (v / 256 % 256 ^ n) := by
      rw [show 256 ^ (n + 1) = 256 * 256 ^ n from Nat.pow_succ', Nat.mod_mul]
    rw [rdBytes, h1, wrBytes, ih, BitVec.toNat_ofNat, h2]

/-- Bytes apart from those written read as before. -/
theorem rdBytes_wrBytes_other (m : List Host.Cell) (a n v b k : Nat) (h : b + k ≤ a ∨ a + n ≤ b) :
    rdBytes (wrBytes m a n v) b k = rdBytes m b k := by
  induction k generalizing b with
  | zero => rfl
  | succ k ih => rw [rdBytes, rdBytes, memByte_wrBytes_other _ _ _ _ _ (by omega), ih _ (by omega)]

/-- The empty memory is in canonical form. -/
theorem wf_reset : Memory.wf State.reset.mem = true := rfl

end Sys2Proof.Machine
end

