-- ==== Sys2Proof/Laws/Issue.lean ====
section
/-!
SUPPORT. What the issue of a slot does: one lemma per way in which it ends.
-/

namespace Sys2Proof

open Machine

theorem modCur_congr (f g : Seat → Seat) (s : State) (h : f (cur s) = g (cur s)) : modCur f s = modCur g s := by
  simp only [modCur, modSeat, modFe, KV.upd]
  have hs : seatOf (KV.get {} s.curFe s.fes) s.curSeat = cur s := rfl
  simp only [hs, h]

theorem seen_curFe (w : Nat) (s : State) (h : Hand) : (seen w s h).curFe = s.curFe := by
  unfold seen
  split <;> rfl

theorem seen_curSeat (w : Nat) (s : State) (h : Hand) : (seen w s h).curSeat = s.curSeat := by
  unfold seen
  split <;> rfl

theorem seen_mem (w : Nat) (s : State) (h : Hand) : (seen w s h).mem = s.mem := by
  unfold seen
  split <;> rfl

theorem seen_tags (w : Nat) (s : State) (h : Hand) : (seen w s h).tags = s.tags := by
  unfold seen
  split <;> rfl

theorem cur_seen (w : Nat) (s : State) (h : Hand) (hs : s.curSeat < 4) (hh : (cur s).hand = some h) :
    cur (seen w s h) = { cur s with belayCnt := counts s h w, hand := some { h with counted := true } } := by
  unfold seen
  split
  · rename_i hc
    have e : ({ h with counted := true } : Hand) = h := by rw [← hc]
    have e2 : counts s h w = (cur s).belayCnt := by simp [counts, hc]
    rw [e, e2, ← hh]
  · exact cur_modCur _ _ hs

/-- Whether a hand has been counted does not matter once its slot is over. -/
@[simp] theorem slotDone_counted (w : Nat) (s : State) (h h' : Hand) (c : Bool) :
    slotDone w s h { h' with counted := c } = slotDone w s h h' := rfl

/-- The weight of a slot is counted and the hand goes on (04 R60). -/
theorem addWeight_ok (w : Nat) (s : State) (h : Hand) (hs : s.curSeat < 4) (hh : (cur s).hand = some h) (hc : h.counted = false)
    (hr : h.work.belayEn = false ∨ (cur s).belayCnt.toNat + w ≤ h.work.belayMax.toNat) :
    addWeight w s = (seen w s h, true) := by
  have hn : ¬ (h.work.belayEn && decide (h.work.belayMax.toNat < Nat.min ((cur s).belayCnt.toNat + w) 0xFFFF)) = true := by
    rcases hr with hr | hr
    · simp [hr]
    · have : ¬ h.work.belayMax.toNat < Nat.min ((cur s).belayCnt.toNat + w) 0xFFFF :=
        Nat.not_lt.2 (Nat.le_trans (Nat.min_le_left _ _) hr)
      simp [this]
  simp only [addWeight, hh]
  rw [if_neg hn]
  simp only [seen, hc, Bool.false_eq_true, if_false, modHand, modCur_modCur _ _ _ hs, Prod.mk.injEq, and_true]
  apply modCur_congr
  simp [hh, counts, hc]

theorem counted_eta (x : Hand) (h : x.counted = true) : ({ x with counted := true } : Hand) = x := by
  cases x
  cases h
  rfl

/-- Two updates of the seat in turn, whatever its number. -/
theorem modCur_twice (f g : Seat → Seat) (s : State) : modCur g (modCur f s) = modCur (fun t => g (f t)) s := by
  by_cases hs : s.curSeat < 4
  · exact modCur_modCur f g s hs
  · show modFe s.curFe _ (modFe s.curFe _ s) = modFe s.curFe _ s
    rw [modFe_modFe]
    congr 1
    funext x
    have hv : ∀ (v : Vector Seat 4) (y : Seat), vset v s.curSeat y = v := fun v y => by
      ext i hi
      simp [vset, show s.curSeat ≠ i by omega]
    simp only [modCur_curSeat, hv]

/-- The end of a slot on a seat whose hand is `h'`: its walks are done, and it is at its next slot. -/
theorem nextSlot_walks (s : State) (h' : Hand) (hs : s.curSeat < 4) (hh : (cur s).hand = some h') :
    nextSlot s = modCur (fun t => { t with hand := t.hand.map advance, st := if t.st == .waiting then .running else t.st })
      (walksDone h'.walked (modHand (fun h => { h with walked := [] }) s)) := by
  have fin : ∀ u : State,
      modCur (fun t => { t with st := if t.st == .waiting then .running else t.st }) (modHand advance u) =
        modCur (fun t => { t with hand := t.hand.map advance, st := if t.st == .waiting then .running else t.st }) u := by
    intro u
    unfold modHand
    rw [modCur_twice]
  unfold nextSlot cacheWalked walksDone
  simp only [hh]
  by_cases hw : h'.walked = []
  · have hid : modHand (fun h => { h with walked := [] }) s = modHand (fun h => h) s :=
      modCur_congr _ _ _ (by
        have : ({ h' with walked := [] } : Hand) = h' := by rw [← hw]
        simp [hh, this])
    simp only [hw, List.isEmpty_nil, if_true, each, List.foldl_nil, cacheXlat, hid]
    refine (fin s).trans ?_
    show modFe s.curFe _ s = modFe s.curFe _ (modFe s.curFe _ (modFe s.curFe _ s))
    rw [modFe_modFe, modFe_modFe]
    congr 1
    funext f
    simp [seatOf, vget_vset_same _ _ _ _ hs, vset_vset]
  · rw [if_neg (by simpa using hw)]
    exact fin _

/-- The slot is over (15 R244). -/
theorem nextSlot_eq (w : Nat) (s : State) (h h' : Hand) (hs : s.curSeat < 4) (hh : (cur s).hand = some h) :
    nextSlot (modHand (fun _ => { h' with counted := true }) (seen w s h)) = slotDone w s h h' := by
  have hs' : (seen w s h).curSeat < 4 := by rw [seen_curSeat]; exact hs
  have hw : (cur (modHand (fun _ => { h' with counted := true }) (seen w s h))).hand = some { h' with counted := true } := by
    rw [cur_modHand _ _ hs', cur_seen w s h hs hh]
    rfl
  rw [nextSlot_walks _ _ (by simpa using hs') hw]
  unfold slotDone
  congr 2
  unfold modHand
  rw [modCur_modCur _ _ _ hs']
  unfold seen
  split
  · rename_i hc
    apply modCur_congr
    simp [hh, counts, hc]
  · rw [modCur_modCur _ _ _ hs]
    rfl

/-- Naming the hand that the seat has changes nothing. -/
theorem modHand_const (s : State) (h : Hand) (hh : (cur s).hand = some h) :
    modHand (fun _ => h) s = modHand (fun h => h) s := by
  apply modCur_congr
  simp [hh]

/-- A slot whose instruction works on its hand and the state alone (the spec lemma of `issueGen`): a done answer. -/
theorem issueGen_done (wt : State → Hand → Nat) (base : Nat) (q : Sel) (bl : Bool) (f : State → State × Ans) (s : State) (h : Hand)
    (hi : Issues s h q (wt s h)) (hb : bl = true → h.flt = none) (s' : State)
    (hf : f (seen (wt s h) s h) = (s', .done)) : issueGen wt base q bl f s = nextSlot s' := by
  have hon := hi.on
  have hx : (if h.counted = true then (s, true) else addWeight (wt s h) s) = (seen (wt s h) s h, true) := by
    by_cases hc : h.counted = true
    · simp [hc, seen]
    · have hc' : h.counted = false := by simpa using hc
      rw [if_neg hc]
      exact addWeight_ok _ s h hi.seat hi.hand hc' (hi.room.resolve_left hc)
  have hb' : (bl && h.flt.isSome) = false := by
    cases hbl : bl
    · rfl
    · simp [hb hbl]
  simp only [issueGen, hi.hand, hon, if_true, hx, Bool.not_true, Bool.false_eq_true, if_false, hb', Bool.or_self, hf]

/-- An instruction that only works on its hand, and keeps its mark of having been counted. -/
theorem issue_next (w : Nat) (q : Sel) (g : State → Hand → Hand) (s : State) (h : Hand) (hi : Issues s h q w)
    (hc : (g (seen w s h) { h with counted := true }).counted = true) :
    issue w q g s = slotDone w s h (g (seen w s h) { h with counted := true }) := by
  unfold issue
  rw [issueGen_done (fun _ _ => w) w q false _ s h hi (by simp) _ rfl, ← nextSlot_eq w s h _ hi.seat hi.hand]
  congr 1
  apply modCur_congr
  rw [cur_seen w s h hi.seat hi.hand]
  rw [counted_eta _ hc]
  rfl

/-- A slot that is predicated off counts its base weight and does nothing else (14 R220). -/
theorem issueGen_off (wt : State → Hand → Nat) (base : Nat) (q : Sel) (bl : Bool) (f : State → State × Ans) (s : State) (h : Hand)
    (hs : s.curSeat < 4) (hh : (cur s).hand = some h) (hq : selOn h q = false)
    (hr : h.counted = true ∨ h.work.belayEn = false ∨ (cur s).belayCnt.toNat + base ≤ h.work.belayMax.toNat) :
    issueGen wt base q bl f s = slotDone base s h { h with counted := true } := by
  have hx : (if h.counted = true then (s, true) else addWeight base s) = (seen base s h, true) := by
    by_cases hc : h.counted = true
    · simp [hc, seen]
    · have hc' : h.counted = false := by simpa using hc
      rw [if_neg hc]
      exact addWeight_ok _ s h hs hh hc' (hr.resolve_left hc)
  have hs' : (seen base s h).curSeat < 4 := by rw [seen_curSeat]; exact hs
  have hw : (cur (seen base s h)).hand = some { h with counted := true } := by rw [cur_seen base s h hs hh]
  simp only [issueGen, hh, hq, Bool.false_eq_true, if_false, hx, Bool.not_true, Bool.not_false, Bool.true_or, if_true]
  rw [← nextSlot_eq base s h _ hs hh, modHand_const _ _ hw, nextSlot_walks _ _ hs' hw,
    nextSlot_walks _ { h with counted := true } (by simpa using hs') (by rw [cur_modHand _ _ hs', hw]; rfl)]
  unfold modHand
  rw [modCur_modCur _ _ _ hs']
  congr 3
  funext t
  cases t
  simp

end Sys2Proof
end

