-- ==== Sys2Proof/Laws/Keep.lean ====
section
/-!
SUPPORT. What the shared operations keep: memory and tags in canonical form and the seat in turn among the four of an FE
(Inv of Safety). One lemma for each operation of Machine/Ops.lean that changes the state; an operation that is handed a
function keeps the invariant when the function does.
-/

namespace Sys2Proof
open Machine

/-- A state that differs neither in memory, nor in tags, nor in the seat in turn. -/
theorem Inv.of_eq {s t : State} (h : Inv s) (hm : t.mem = s.mem) (ht : t.tags = s.tags) (hc : t.curSeat = s.curSeat) : Inv t := by
  obtain ⟨a, b, c⟩ := h
  exact ⟨hm ▸ a, ht ▸ b, hc ▸ c⟩

/-! ### The objects of the module -/

theorem Inv.modFe {s : State} (h : Inv s) (fe : Nat) (g : FE → FE) : Inv (modFe fe g s) := h.of_eq rfl rfl rfl
theorem Inv.modSeat {s : State} (h : Inv s) (fe k : Nat) (g : Seat → Seat) : Inv (modSeat fe k g s) := h.of_eq rfl rfl rfl
theorem Inv.modCur {s : State} (h : Inv s) (g : Seat → Seat) : Inv (modCur g s) := h.of_eq rfl rfl rfl
theorem Inv.modHand {s : State} (h : Inv s) (g : Hand → Hand) : Inv (modHand g s) := h.of_eq rfl rfl rfl
theorem Inv.modCtx {s : State} (h : Inv s) (c : Nat) (g : Ctx → Ctx) : Inv (modCtx c g s) := h.of_eq rfl rfl rfl
theorem Inv.report {s : State} (h : Inv s) (r : Report) : Inv (report r s) := h.of_eq rfl rfl rfl
theorem Inv.sendReq {s : State} (h : Inv s) (r : Req) : Inv (sendReq r s) := h.of_eq rfl rfl rfl
theorem Inv.sendReply {s : State} (h : Inv s) (r : Req) (b : ReplyBody) : Inv (sendReply r b s) := h.of_eq rfl rfl rfl
theorem Inv.freshId {s : State} (h : Inv s) : Inv (freshId s).2 := h.of_eq rfl rfl rfl
theorem Inv.postRec {s : State} (h : Inv s) (fe k : Nat) (e : EvRec) : Inv (postRec fe k e s) := h.of_eq rfl rfl rfl
theorem Inv.raiseHitch {s : State} (h : Inv s) (job : BitVec 16) (hand : W64) (code : BitVec 8) (fe k : Nat) (dbg : Bool) :
    Inv (raiseHitch job hand code fe k dbg s) := h.of_eq rfl rfl rfl

/-- What every step of a fold keeps, the fold keeps. -/
theorem Inv.each {α : Type} {f : α → State → State} (hf : ∀ x s, Inv s → Inv (f x s)) (l : List α) {s : State} (h : Inv s) :
    Inv (each l f s) := by
  unfold Machine.each
  induction l generalizing s with
  | nil => exact h
  | cons x r ih => exact ih (hf x s h)

/-! ### Memory and tags -/

theorem Inv.wrPa {s : State} (h : Inv s) (pa n v : Nat) : Inv (wrPa pa n v s) := ⟨wf_wrBytes _ _ _ _ h.1, h.2.1, h.2.2⟩
theorem Inv.putTag {s : State} (h : Inv s) (pa : Nat) (full : Bool) : Inv (putTag pa full s) :=
  ⟨h.1, KV.wf_put _ _ _ _ h.2.1, h.2.2⟩

/-! ### Bank service -/

theorem Inv.grantSeat {s : State} (h : Inv s) (fe k : Nat) (v : W64) (st : Nat) : Inv (grantSeat fe k v st s) := h.modSeat _ _ _

theorem Inv.serveOne {s : State} (h : Inv s) (fe pa : Nat) (w : Waiter) : Inv (serveOne fe pa w s).1 := by
  cases w with
  | remote r => cases r with | mk _ _ _ _ _ _ _ op _ _ => unfold Machine.serveOne; dsimp only; split <;> (try split) <;> exact h.of_eq rfl rfl rfl
  | _ => unfold Machine.serveOne; dsimp only; (try split) <;> exact h.of_eq rfl rfl rfl

theorem Inv.serveList (fe pa : Nat) (l : List Waiter) {s : State} (h : Inv s) : Inv (serveList fe pa l s).1 := by
  induction l generalizing s with
  | nil => exact h
  | cons w r ih =>
    unfold Machine.serveList
    split
    · exact ih (h.serveOne fe pa w)
    · exact ih h

theorem Inv.serveWord {s : State} (h : Inv s) (fe pa : Nat) : Inv (serveWord fe pa s) := (h.serveList fe pa _).modFe _ _

theorem Inv.setTag {s : State} (h : Inv s) (pa : Nat) (full : Bool) : Inv (setTag pa full s) := by
  unfold Machine.setTag
  dsimp only
  split
  · exact (h.putTag pa full).serveWord _ _
  · exact h.putTag pa full

theorem Inv.landWords (l : List W32) (base : Nat) {s : State} (h : Inv s) : Inv (landWords base l s) := by
  induction l generalizing s base with
  | nil => exact h
  | cons w r ih => exact ih _ ((h.wrPa _ _ _).setTag _ _)

theorem Inv.landBytes (l : List Byte) (base : Nat) {s : State} (h : Inv s) : Inv (landBytes base l s) := by
  induction l generalizing s base with
  | nil => exact h
  | cons b r ih =>
    refine ih _ ?_
    split
    · exact h.wrPa _ _ _
    · split
      · exact (h.wrPa _ _ _).setTag _ _
      · exact h.wrPa _ _ _

theorem Inv.emptyWords (n base : Nat) {s : State} (h : Inv s) : Inv (emptyWords base n s) := by
  induction n generalizing s base with
  | zero => exact h
  | succ n ih => exact ih _ (h.setTag _ _)

theorem Inv.dropHold {s : State} (h : Inv s) (home pa fe k : Nat) : Inv (dropHold home pa fe k s) := (h.modFe _ _).serveWord _ _

/-! ### The abandonment of a hand -/

theorem Inv.sendNew {s : State} (h : Inv s) (r : Req) : Inv (sendNew r s) := h.of_eq rfl rfl rfl

theorem Inv.restoreReq {s : State} (h : Inv s) (r : Req) (v : W64) : Inv (restoreReq r v s) := h.sendNew _

theorem Inv.ownOp {s : State} (h : Inv s) (fe k : Nat) (hand : W64) (off : Nat) (op : ReqOp) {go : State → State}
    (hg : Inv (go s)) : Inv (ownOp fe k hand off op go s) := by
  unfold Machine.ownOp
  split
  · exact hg
  · exact h.sendNew _

theorem Inv.takeBack {s : State} (h : Inv s) (r : Req) : Inv (takeBack r s) := by
  unfold Machine.takeBack
  dsimp only
  split <;> exact h.of_eq rfl rfl rfl

theorem Inv.withdraw {s : State} (h : Inv s) (r : Req) (g : Option (W64 × Nat)) : Inv (withdraw r g s) := by
  have h0 : Inv { s with replies := s.replies.filter (fun x => !isReq r x.req) } := h.of_eq rfl rfl rfl
  have h1 := h0.takeBack r
  unfold Machine.withdraw
  dsimp only
  generalize Machine.takeBack r { s with replies := s.replies.filter (fun x => !isReq r x.req) } = u at h1 ⊢
  repeat' split
  all_goals exact h1

/-- The hold or reservation of a hand that is dropped ends. -/
theorem Inv.endHold {s : State} (h : Inv s) (fe k : Nat) (hand : W64) (x : Hold) :
    Inv (match feOfPa x.pa with
      | some home =>
        if x.remote then Machine.sendNew (mkReq s fe k hand 0 (wordPa s x.pa) .release none) s else Machine.dropHold home x.pa fe k s
      | none => s) := by
  split
  · split
    · exact h.sendNew _
    · exact h.dropHold _ _ _ _
  · exact h

theorem Inv.abandon {s : State} (h : Inv s) (fe k : Nat) : Inv (abandon fe k s) := by
  unfold Machine.abandon
  split
  · exact h
  · rename_i hd _
    dsimp only
    have h1 := Inv.each (f := fun x s => Machine.restoreReq x.1 x.2 s) (fun x s h => h.restoreReq _ _) hd.popws
      (Inv.each (fun x s h => h.endHold fe k hd.addr x) hd.holds
        (Inv.modFe (h.modSeat fe k fun t => { t with hand := none, belayCnt := hd.cnt0 }) fe fun f => { f with
          waits := f.waits.filter (fun w => match w with
            | .ldf j _ => j != k
            | .ldx j _ => j != k
            | .stf j _ => j != k
            | .bar j _ _ => j != k
            | .remote _ => true)
          planes := f.planes.map (fun p => { p with ports := p.ports.map (fun e =>
            (e.1, if e.2.holder == some k then { e.2 with reserved := 0, holder := none } else e.2)) }) }))
    split
    · exact h1.withdraw _ _
    · exact Inv.each (fun x s h => h.dropHold _ _ _ _) _ h1

/-! ### Faults -/

theorem Inv.freezeSeat {s : State} (h : Inv s) (fe k : Nat) : Inv (freezeSeat fe k s) := h.modSeat _ _ _

theorem Inv.stopWaiting {s : State} (h : Inv s) (fe k : Nat) : Inv (stopWaiting fe k s) :=
  ((h.abandon _ _).modSeat _ _ _).freezeSeat _ _

theorem Inv.stopCtx {s : State} (h : Inv s) (c : Nat) : Inv (stopCtx c s) := by
  unfold Machine.stopCtx
  split
  · refine Inv.each (fun e s h => ?_) _ ((h.modCtx _ _).report _)
    split
    · exact h.stopWaiting _ _
    · exact h
  · exact h.modCtx _ _
  · split
    · exact h.report _
    · exact h

theorem Inv.haltAt {s : State} (h : Inv s) (fe k : Nat) (hdr belay : W64) : Inv (haltAt fe k hdr belay s) := h.modSeat _ _ _

theorem Inv.stepDone {s : State} (h : Inv s) (fe k : Nat) (v : W32) : Inv (stepDone fe k v s) := by
  unfold Machine.stepDone
  dsimp only
  split
  · exact Inv.landWords _ _ (h.modSeat _ _ _)
  · exact h.modSeat _ _ _

theorem Inv.proceedFaulted {s : State} (h : Inv s) (fe k : Nat) : Inv (proceedFaulted fe k s) := by
  unfold Machine.proceedFaulted
  dsimp only
  split
  · exact h
  · split
    · exact h
    · split
      · exact h.modSeat _ _ _
      · exact h.stopCtx _

theorem Inv.takeFault {s : State} (h : Inv s) (fe k : Nat) (f : FaultRec) (trap : Bool) (hand ret : W64) :
    Inv (takeFault fe k f trap hand ret s) := by
  have h1 := h.abandon fe k
  unfold Machine.takeFault
  dsimp only
  split
  · exact (((h1.modSeat _ _ _).raiseHitch _ _ _ _ _ _).freezeSeat _ _).stepDone _ _ _
  · split
    · exact ((h1.modSeat _ _ _).freezeSeat _ _).stepDone _ _ _
    · exact (h1.modSeat _ _ _).proceedFaulted _ _

theorem Inv.faultHere {s : State} (h : Inv s) (fe k : Nat) (f : FaultRec) : Inv (faultHere fe k f s) := h.takeFault _ _ _ _ _ _

theorem Inv.deferFault {s : State} (h : Inv s) (fe k c : Nat) (f : FaultRec) (casc : Bool) : Inv (deferFault fe k c f casc s) := by
  unfold Machine.deferFault
  dsimp only
  split
  · exact (h.report _).stopCtx _
  · split
    · exact h.takeFault _ _ _ _ _ _
    · exact h.modSeat _ _ _

theorem Inv.refuseReq {s : State} (h : Inv s) (r : Req) (code : BitVec 8) : Inv (refuseReq r code s) := by
  unfold Machine.refuseReq
  dsimp only
  split
  · exact (h.modSeat _ _ _).deferFault _ _ _ _ _
  · refine Inv.stopCtx (Inv.report ?_ _) _
    split
    · exact h.modSeat _ _ _
    · exact (h.modSeat _ _ _).deferFault _ _ _ _ _

theorem Inv.orFlags {s : State} (h : Inv s) (fe k : Nat) (fl : W64) : Inv (orFlags fe k fl s) := h.modSeat _ _ _

/-! ### The memory-side cache -/

theorem Inv.modGu {s : State} (h : Inv s) (n : Nat) (g : Gu → Gu) : Inv (modGu n g s) := h.of_eq rfl rfl rfl

theorem Inv.guEvent {s : State} (h : Inv s) (kind gu ch bank row spare : Nat) : Inv (guEvent kind gu ch bank row spare s) :=
  h.of_eq rfl rfl rfl

theorem Inv.edgeTouch {s : State} (h : Inv s) (c pa : Nat) (w : Bool) : Inv (edgeTouch c pa w s) := by
  unfold Machine.edgeTouch
  dsimp only
  split
  · exact h
  · split
    · exact h.modGu _ _
    · split
      · exact (((h.modGu _ _).guEvent _ _ _ _ _ _).report _).stopCtx _
      · exact h.modGu _ _

theorem Inv.edgeSpan {s : State} (h : Inv s) (c pa n : Nat) (w : Bool) : Inv (edgeSpan c pa n w s) := by
  unfold Machine.edgeSpan
  split
  · exact h
  · exact Inv.each (fun _ _ h => h.edgeTouch _ _ _) _ h

theorem Inv.walkTouch {s : State} (h : Inv s) (c va : Nat) : Inv (walkTouch c va s) :=
  Inv.each (fun _ _ h => h.edgeTouch _ _ _) _ h

theorem Inv.xlateTouch {s : State} (h : Inv s) (c va : Nat) : Inv (xlateTouch c va s) := by
  unfold Machine.xlateTouch
  split
  · exact h
  · exact h.walkTouch _ _

/-! ### The issue of a slot -/

theorem Inv.addWeight {s : State} (h : Inv s) (w : Nat) : Inv (addWeight w s).1 := by
  unfold Machine.addWeight
  dsimp only
  split
  · exact h
  · split
    · exact (h.modCur _).faultHere _ _ _
    · exact (h.modCur _).modHand _

theorem Inv.cacheWalked {s : State} (h : Inv s) : Inv (cacheWalked s) := by
  have key : ∀ l : List Tlb, Inv (if l.isEmpty then s else Machine.each l (fun t => Machine.walkTouch t.ctx t.base.toNat)
      (Machine.modFe s.curFe (fun f => { f with tlb := cacheXlat l f.tlb })
        (Machine.modHand (fun h => { h with walked := [] }) s))) := fun l => by
    split
    · exact h
    · exact Inv.each (fun _ _ h => h.walkTouch _ _) _ ((h.modHand _).modFe _ _)
  exact key _

theorem Inv.nextSlot {s : State} (h : Inv s) : Inv (nextSlot s) := (h.cacheWalked.modHand _).modCur _

theorem Inv.enterWaiting {s : State} (h : Inv s) : Inv (enterWaiting s) := by
  have h1 := h.cacheWalked.modCur fun t => { t with st := .waiting }
  unfold Machine.enterWaiting
  dsimp only
  generalize Machine.modCur (fun t => { t with st := .waiting }) (Machine.cacheWalked s) = u at h1 ⊢
  repeat' split
  all_goals first
    | exact h1
    | exact (h1.freezeSeat _ _).stepDone _ _ _
    | exact (h1.abandon _ _).haltAt _ _ _ _
    | exact h1.stopWaiting _ _

/-- A slot keeps the invariant when what it does in executing keeps it. -/
theorem Inv.issueGen {s : State} (h : Inv s) (w : State → Hand → Nat) (base : Nat) (q : Sel) (bl : Bool) (f : State → State × Ans)
    (hf : ∀ s, Inv s → Inv (f s).1) : Inv (issueGen w base q bl f s) := by
  unfold Machine.issueGen
  split
  · exact h
  · rename_i hd _
    dsimp only
    have h1 : Inv (if hd.counted = true then (s, true) else Machine.addWeight (if selOn hd q = true then w s hd else base) s).1 := by
      split
      · exact h
      · exact h.addWeight _
    generalize (if hd.counted = true then (s, true) else Machine.addWeight (if selOn hd q = true then w s hd else base) s) = x at h1
    obtain ⟨t, go⟩ := x
    dsimp only at h1 ⊢
    split
    · exact h1
    · split
      · exact h1.nextSlot
      · have h2 := hf t h1
        generalize f t = y at h2
        obtain ⟨u, a⟩ := y
        cases a with
        | done => exact h2.nextSlot
        | stall => exact h2.cacheWalked.modHand _
        | wait => exact h2.enterWaiting

theorem Inv.issue {s : State} (h : Inv s) (w : Nat) (q : Sel) (g : State → Hand → Hand) : Inv (issue w q g s) :=
  h.issueGen _ _ _ _ _ fun _ h => h.modHand _

theorem Inv.issueB {s : State} (h : Inv s) (w : Nat) (q : Sel) (f : State → State × Ans) (hf : ∀ s, Inv s → Inv (f s).1) :
    Inv (issueB w q f s) := h.issueGen _ _ _ _ _ hf

end Sys2Proof
end

