-- ==== Sys2Proof/Laws/PerInstr.lean ====
section
/-!
SUPPORT. The family EncodesBack of LAWS.json: the words that the encoder gives a well-formed instruction decode to that
instruction, with every operand at every value, and a second word carries the wave tags it was given.
-/

set_option linter.unusedSimpArgs false

namespace Sys2Proof.Laws.EncodesBack

/-- What encoding and decoding an instruction gives back. -/
def Statement (i : Instr) : Prop :=
  i.wf = true → ∀ v : Wave, match encode i v with
    | [] => i.event = true
    | [lo] => isLong lo = false ∧ ∀ hi, decode lo hi = .ok i
    | [lo, hi] => isLong lo = true ∧ decode lo hi = .ok i ∧ waveOf hi = v
    | _ => False


theorem nop (q : Sel) : Statement (.nop q) := by
  intro h v
  refine ⟨(congrArg (fun n => decide (40 ≤ n)) (majorOf_word _ _ _ _ _ _)).trans rfl, fun hi => (decode_major0 _ _ _ _ _ hi).trans ?_⟩
  simp (disch := decide) only [short0, extract_low, extract_high, extract_all, Nat.reduceSub, keep, ofBool_beq_one, split_word]
  simp [h]

theorem halt (q : Sel) : Statement (.halt q) := by
  intro h v
  refine ⟨(congrArg (fun n => decide (40 ≤ n)) (majorOf_word _ _ _ _ _ _)).trans rfl, fun hi => (decode_major0 _ _ _ _ _ hi).trans ?_⟩
  simp (disch := decide) only [short0, extract_low, extract_high, extract_all, Nat.reduceSub, keep, ofBool_beq_one, split_word]
  simp [h]

theorem yield (q : Sel) : Statement (.yield q) := by
  intro h v
  refine ⟨(congrArg (fun n => decide (40 ≤ n)) (majorOf_word _ _ _ _ _ _)).trans rfl, fun hi => (decode_major0 _ _ _ _ _ hi).trans ?_⟩
  simp (disch := decide) only [short0, extract_low, extract_high, extract_all, Nat.reduceSub, keep, ofBool_beq_one, split_word]
  simp [h]

theorem brk (q : Sel) : Statement (.brk q) := by
  intro h v
  refine ⟨(congrArg (fun n => decide (40 ≤ n)) (majorOf_word _ _ _ _ _ _)).trans rfl, fun hi => (decode_major0 _ _ _ _ _ hi).trans ?_⟩
  simp (disch := decide) only [short0, extract_low, extract_high, extract_all, Nat.reduceSub, keep, ofBool_beq_one, split_word]
  simp [h]

theorem eret (q : Sel) : Statement (.eret q) := by
  intro h v
  refine ⟨(congrArg (fun n => decide (40 ≤ n)) (majorOf_word _ _ _ _ _ _)).trans rfl, fun hi => (decode_major0 _ _ _ _ _ hi).trans ?_⟩
  simp (disch := decide) only [short0, extract_low, extract_high, extract_all, Nat.reduceSub, keep, ofBool_beq_one, split_word]
  simp [h]

theorem waitev (d : Reg) (a : Reg) (q : Sel) : Statement (.waitev d a q) := by
  intro h v
  refine ⟨(congrArg (fun n => decide (40 ≤ n)) (majorOf_word _ _ _ _ _ _)).trans rfl, fun hi => (decode_major0 _ _ _ _ _ hi).trans ?_⟩
  simp (disch := decide) only [short0, extract_low, extract_high, extract_all, Nat.reduceSub, keep, ofBool_beq_one, split_word]
  simp [h]

theorem add (d : Reg) (a : Reg) (b : Reg) (q : Sel) : Statement (.add d a b q) := by
  intro h v
  refine ⟨(congrArg (fun n => decide (40 ≤ n)) (majorOf_word _ _ _ _ _ _)).trans rfl, fun hi => (decode_major1 _ _ _ _ _ hi).trans ?_⟩
  simp (disch := decide) only [short1, extract_low, extract_high, extract_all, Nat.reduceSub, keep, ofBool_beq_one, split_word]
  simp [h]

theorem sub (d : Reg) (a : Reg) (b : Reg) (q : Sel) : Statement (.sub d a b q) := by
  intro h v
  refine ⟨(congrArg (fun n => decide (40 ≤ n)) (majorOf_word _ _ _ _ _ _)).trans rfl, fun hi => (decode_major1 _ _ _ _ _ hi).trans ?_⟩
  simp (disch := decide) only [short1, extract_low, extract_high, extract_all, Nat.reduceSub, keep, ofBool_beq_one, split_word]
  simp [h]

theorem mul (d : Reg) (a : Reg) (b : Reg) (q : Sel) : Statement (.mul d a b q) := by
  intro h v
  refine ⟨(congrArg (fun n => decide (40 ≤ n)) (majorOf_word _ _ _ _ _ _)).trans rfl, fun hi => (decode_major1 _ _ _ _ _ hi).trans ?_⟩
  simp (disch := decide) only [short1, extract_low, extract_high, extract_all, Nat.reduceSub, keep, ofBool_beq_one, split_word]
  simp [h]

theorem mulh (d : Reg) (a : Reg) (b : Reg) (q : Sel) : Statement (.mulh d a b q) := by
  intro h v
  refine ⟨(congrArg (fun n => decide (40 ≤ n)) (majorOf_word _ _ _ _ _ _)).trans rfl, fun hi => (decode_major1 _ _ _ _ _ hi).trans ?_⟩
  simp (disch := decide) only [short1, extract_low, extract_high, extract_all, Nat.reduceSub, keep, ofBool_beq_one, split_word]
  simp [h]

theorem mulhn (d : Reg) (a : Reg) (b : Reg) (q : Sel) : Statement (.mulhn d a b q) := by
  intro h v
  refine ⟨(congrArg (fun n => decide (40 ≤ n)) (majorOf_word _ _ _ _ _ _)).trans rfl, fun hi => (decode_major1 _ _ _ _ _ hi).trans ?_⟩
  simp (disch := decide) only [short1, extract_low, extract_high, extract_all, Nat.reduceSub, keep, ofBool_beq_one, split_word]
  simp [h]

theorem div (d : Reg) (a : Reg) (b : Reg) (q : Sel) : Statement (.div d a b q) := by
  intro h v
  refine ⟨(congrArg (fun n => decide (40 ≤ n)) (majorOf_word _ _ _ _ _ _)).trans rfl, fun hi => (decode_major1 _ _ _ _ _ hi).trans ?_⟩
  simp (disch := decide) only [short1, extract_low, extract_high, extract_all, Nat.reduceSub, keep, ofBool_beq_one, split_word]
  simp [h]

theorem divn (d : Reg) (a : Reg) (b : Reg) (q : Sel) : Statement (.divn d a b q) := by
  intro h v
  refine ⟨(congrArg (fun n => decide (40 ≤ n)) (majorOf_word _ _ _ _ _ _)).trans rfl, fun hi => (decode_major1 _ _ _ _ _ hi).trans ?_⟩
  simp (disch := decide) only [short1, extract_low, extract_high, extract_all, Nat.reduceSub, keep, ofBool_beq_one, split_word]
  simp [h]

theorem rem (d : Reg) (a : Reg) (b : Reg) (q : Sel) : Statement (.rem d a b q) := by
  intro h v
  refine ⟨(congrArg (fun n => decide (40 ≤ n)) (majorOf_word _ _ _ _ _ _)).trans rfl, fun hi => (decode_major1 _ _ _ _ _ hi).trans ?_⟩
  simp (disch := decide) only [short1, extract_low, extract_high, extract_all, Nat.reduceSub, keep, ofBool_beq_one, split_word]
  simp [h]

theorem remn (d : Reg) (a : Reg) (b : Reg) (q : Sel) : Statement (.remn d a b q) := by
  intro h v
  refine ⟨(congrArg (fun n => decide (40 ≤ n)) (majorOf_word _ _ _ _ _ _)).trans rfl, fun hi => (decode_major1 _ _ _ _ _ hi).trans ?_⟩
  simp (disch := decide) only [short1, extract_low, extract_high, extract_all, Nat.reduceSub, keep, ofBool_beq_one, split_word]
  simp [h]

theorem and (d : Reg) (a : Reg) (b : Reg) (q : Sel) : Statement (.and d a b q) := by
  intro h v
  refine ⟨(congrArg (fun n => decide (40 ≤ n)) (majorOf_word _ _ _ _ _ _)).trans rfl, fun hi => (decode_major1 _ _ _ _ _ hi).trans ?_⟩
  simp (disch := decide) only [short1, extract_low, extract_high, extract_all, Nat.reduceSub, keep, ofBool_beq_one, split_word]
  simp [h]

theorem or (d : Reg) (a : Reg) (b : Reg) (q : Sel) : Statement (.or d a b q) := by
  intro h v
  refine ⟨(congrArg (fun n => decide (40 ≤ n)) (majorOf_word _ _ _ _ _ _)).trans rfl, fun hi => (decode_major1 _ _ _ _ _ hi).trans ?_⟩
  simp (disch := decide) only [short1, extract_low, extract_high, extract_all, Nat.reduceSub, keep, ofBool_beq_one, split_word]
  simp [h]

theorem xor (d : Reg) (a : Reg) (b : Reg) (q : Sel) : Statement (.xor d a b q) := by
  intro h v
  refine ⟨(congrArg (fun n => decide (40 ≤ n)) (majorOf_word _ _ _ _ _ _)).trans rfl, fun hi => (decode_major1 _ _ _ _ _ hi).trans ?_⟩
  simp (disch := decide) only [short1, extract_low, extract_high, extract_all, Nat.reduceSub, keep, ofBool_beq_one, split_word]
  simp [h]

theorem andn (d : Reg) (a : Reg) (b : Reg) (q : Sel) : Statement (.andn d a b q) := by
  intro h v
  refine ⟨(congrArg (fun n => decide (40 ≤ n)) (majorOf_word _ _ _ _ _ _)).trans rfl, fun hi => (decode_major1 _ _ _ _ _ hi).trans ?_⟩
  simp (disch := decide) only [short1, extract_low, extract_high, extract_all, Nat.reduceSub, keep, ofBool_beq_one, split_word]
  simp [h]

theorem shl (d : Reg) (a : Reg) (b : Reg) (q : Sel) : Statement (.shl d a b q) := by
  intro h v
  refine ⟨(congrArg (fun n => decide (40 ≤ n)) (majorOf_word _ _ _ _ _ _)).trans rfl, fun hi => (decode_major1 _ _ _ _ _ hi).trans ?_⟩
  simp (disch := decide) only [short1, extract_low, extract_high, extract_all, Nat.reduceSub, keep, ofBool_beq_one, split_word]
  simp [h]

theorem shr (d : Reg) (a : Reg) (b : Reg) (q : Sel) : Statement (.shr d a b q) := by
  intro h v
  refine ⟨(congrArg (fun n => decide (40 ≤ n)) (majorOf_word _ _ _ _ _ _)).trans rfl, fun hi => (decode_major1 _ _ _ _ _ hi).trans ?_⟩
  simp (disch := decide) only [short1, extract_low, extract_high, extract_all, Nat.reduceSub, keep, ofBool_beq_one, split_word]
  simp [h]

theorem sra (d : Reg) (a : Reg) (b : Reg) (q : Sel) : Statement (.sra d a b q) := by
  intro h v
  refine ⟨(congrArg (fun n => decide (40 ≤ n)) (majorOf_word _ _ _ _ _ _)).trans rfl, fun hi => (decode_major1 _ _ _ _ _ hi).trans ?_⟩
  simp (disch := decide) only [short1, extract_low, extract_high, extract_all, Nat.reduceSub, keep, ofBool_beq_one, split_word]
  simp [h]

theorem rotl (d : Reg) (a : Reg) (b : Reg) (q : Sel) : Statement (.rotl d a b q) := by
  intro h v
  refine ⟨(congrArg (fun n => decide (40 ≤ n)) (majorOf_word _ _ _ _ _ _)).trans rfl, fun hi => (decode_major2 _ _ _ _ _ hi).trans ?_⟩
  simp (disch := decide) only [short2, extract_low, extract_high, extract_all, Nat.reduceSub, keep, ofBool_beq_one, split_word]
  simp [h]

theorem clz (d : Reg) (a : Reg) (q : Sel) : Statement (.clz d a q) := by
  intro h v
  refine ⟨(congrArg (fun n => decide (40 ≤ n)) (majorOf_word _ _ _ _ _ _)).trans rfl, fun hi => (decode_major2 _ _ _ _ _ hi).trans ?_⟩
  simp (disch := decide) only [short2, extract_low, extract_high, extract_all, Nat.reduceSub, keep, ofBool_beq_one, split_word]
  simp [h]

theorem ctz (d : Reg) (a : Reg) (q : Sel) : Statement (.ctz d a q) := by
  intro h v
  refine ⟨(congrArg (fun n => decide (40 ≤ n)) (majorOf_word _ _ _ _ _ _)).trans rfl, fun hi => (decode_major2 _ _ _ _ _ hi).trans ?_⟩
  simp (disch := decide) only [short2, extract_low, extract_high, extract_all, Nat.reduceSub, keep, ofBool_beq_one, split_word]
  simp [h]

theorem popc (d : Reg) (a : Reg) (q : Sel) : Statement (.popc d a q) := by
  intro h v
  refine ⟨(congrArg (fun n => decide (40 ≤ n)) (majorOf_word _ _ _ _ _ _)).trans rfl, fun hi => (decode_major2 _ _ _ _ _ hi).trans ?_⟩
  simp (disch := decide) only [short2, extract_low, extract_high, extract_all, Nat.reduceSub, keep, ofBool_beq_one, split_word]
  simp [h]

theorem min (d : Reg) (a : Reg) (b : Reg) (q : Sel) : Statement (.min d a b q) := by
  intro h v
  refine ⟨(congrArg (fun n => decide (40 ≤ n)) (majorOf_word _ _ _ _ _ _)).trans rfl, fun hi => (decode_major2 _ _ _ _ _ hi).trans ?_⟩
  simp (disch := decide) only [short2, extract_low, extract_high, extract_all, Nat.reduceSub, keep, ofBool_beq_one, split_word]
  simp [h]

theorem max (d : Reg) (a : Reg) (b : Reg) (q : Sel) : Statement (.max d a b q) := by
  intro h v
  refine ⟨(congrArg (fun n => decide (40 ≤ n)) (majorOf_word _ _ _ _ _ _)).trans rfl, fun hi => (decode_major2 _ _ _ _ _ hi).trans ?_⟩
  simp (disch := decide) only [short2, extract_low, extract_high, extract_all, Nat.reduceSub, keep, ofBool_beq_one, split_word]
  simp [h]

theorem minn (d : Reg) (a : Reg) (b : Reg) (q : Sel) : Statement (.minn d a b q) := by
  intro h v
  refine ⟨(congrArg (fun n => decide (40 ≤ n)) (majorOf_word _ _ _ _ _ _)).trans rfl, fun hi => (decode_major2 _ _ _ _ _ hi).trans ?_⟩
  simp (disch := decide) only [short2, extract_low, extract_high, extract_all, Nat.reduceSub, keep, ofBool_beq_one, split_word]
  simp [h]

theorem maxn (d : Reg) (a : Reg) (b : Reg) (q : Sel) : Statement (.maxn d a b q) := by
  intro h v
  refine ⟨(congrArg (fun n => decide (40 ≤ n)) (majorOf_word _ _ _ _ _ _)).trans rfl, fun hi => (decode_major2 _ _ _ _ _ hi).trans ?_⟩
  simp (disch := decide) only [short2, extract_low, extract_high, extract_all, Nat.reduceSub, keep, ofBool_beq_one, split_word]
  simp [h]

theorem sel (d : Reg) (a : Reg) (b : Reg) (q : Sel) : Statement (.sel d a b q) := by
  intro h v
  refine ⟨(congrArg (fun n => decide (40 ≤ n)) (majorOf_word _ _ _ _ _ _)).trans rfl, fun hi => (decode_major2 _ _ _ _ _ hi).trans ?_⟩
  simp (disch := decide) only [short2, extract_low, extract_high, extract_all, Nat.reduceSub, keep, ofBool_beq_one, split_word]
  simp [h]

theorem mov (d : Reg) (a : Reg) (q : Sel) : Statement (.mov d a q) := by
  intro h v
  refine ⟨(congrArg (fun n => decide (40 ≤ n)) (majorOf_word _ _ _ _ _ _)).trans rfl, fun hi => (decode_major2 _ _ _ _ _ hi).trans ?_⟩
  simp (disch := decide) only [short2, extract_low, extract_high, extract_all, Nat.reduceSub, keep, ofBool_beq_one, split_word]
  simp [h]

theorem cmp (ty : BitVec 3) (cc : BitVec 3) (pd : Pred) (a : Reg) (b : Reg) (q : Sel) : Statement (.cmp ty cc pd a b q) := by
  intro h v
  refine ⟨(congrArg (fun n => decide (40 ≤ n)) (majorOf_word _ _ _ _ _ _)).trans rfl, fun hi => (decode_major3 _ _ _ _ _ hi).trans ?_⟩
  simp (disch := decide) only [short3, extract_low, extract_high, extract_all, Nat.reduceSub, keep, ofBool_beq_one, split_word]
  have hty : ∀ x : BitVec 3, (0#1 ++ x).toNat = 0 ∨ (0#1 ++ x).toNat = 1 ∨ (0#1 ++ x).toNat = 2 ∨ (0#1 ++ x).toNat = 3 ∨
      (0#1 ++ x).toNat = 4 ∨ (0#1 ++ x).toNat = 5 ∨ (0#1 ++ x).toNat = 6 ∨ (0#1 ++ x).toNat = 7 := by decide
  rcases hty ty with e | e | e | e | e | e | e | e <;> simp only [e] <;> simp [h]

theorem fcmp (cc : BitVec 3) (pd : Pred) (a : Reg) (b : Reg) (q : Sel) : Statement (.fcmp cc pd a b q) := by
  intro h v
  refine ⟨(congrArg (fun n => decide (40 ≤ n)) (majorOf_word _ _ _ _ _ _)).trans rfl, fun hi => (decode_major3 _ _ _ _ _ hi).trans ?_⟩
  simp (disch := decide) only [short3, extract_low, extract_high, extract_all, Nat.reduceSub, keep, ofBool_beq_one, split_word]
  simp [h]

theorem pand (pd : Pred) (pa : Pred) (pb : Pred) (q : Sel) : Statement (.pand pd pa pb q) := by
  intro h v
  refine ⟨(congrArg (fun n => decide (40 ≤ n)) (majorOf_word _ _ _ _ _ _)).trans rfl, fun hi => (decode_major4 _ _ _ _ _ hi).trans ?_⟩
  simp (disch := decide) only [short4, extract_low, extract_high, extract_all, Nat.reduceSub, keep, ofBool_beq_one, split_word]
  simp [h]

theorem por (pd : Pred) (pa : Pred) (pb : Pred) (q : Sel) : Statement (.por pd pa pb q) := by
  intro h v
  refine ⟨(congrArg (fun n => decide (40 ≤ n)) (majorOf_word _ _ _ _ _ _)).trans rfl, fun hi => (decode_major4 _ _ _ _ _ hi).trans ?_⟩
  simp (disch := decide) only [short4, extract_low, extract_high, extract_all, Nat.reduceSub, keep, ofBool_beq_one, split_word]
  simp [h]

theorem pxor (pd : Pred) (pa : Pred) (pb : Pred) (q : Sel) : Statement (.pxor pd pa pb q) := by
  intro h v
  refine ⟨(congrArg (fun n => decide (40 ≤ n)) (majorOf_word _ _ _ _ _ _)).trans rfl, fun hi => (decode_major4 _ _ _ _ _ hi).trans ?_⟩
  simp (disch := decide) only [short4, extract_low, extract_high, extract_all, Nat.reduceSub, keep, ofBool_beq_one, split_word]
  simp [h]

theorem pnot (pd : Pred) (pa : Pred) (q : Sel) : Statement (.pnot pd pa q) := by
  intro h v
  refine ⟨(congrArg (fun n => decide (40 ≤ n)) (majorOf_word _ _ _ _ _ _)).trans rfl, fun hi => (decode_major4 _ _ _ _ _ hi).trans ?_⟩
  simp (disch := decide) only [short4, extract_low, extract_high, extract_all, Nat.reduceSub, keep, ofBool_beq_one, split_word]
  simp [h]

theorem addi (d : Reg) (a : Reg) (imm : BitVec 10) (q : Sel) : Statement (.addi d a imm q) := by
  intro h v
  refine ⟨(congrArg (fun n => decide (40 ≤ n)) (majorOf_word_imm _ _ _ _ _)).trans rfl, fun hi => (decode_major5 _ _ _ _ hi).trans ?_⟩
  simp (disch := decide) only [extract_low, extract_high, extract_all, Nat.reduceSub, keep, ofBool_beq_one, split_word]
  simp [h]

theorem andi (d : Reg) (a : Reg) (imm : BitVec 10) (q : Sel) : Statement (.andi d a imm q) := by
  intro h v
  refine ⟨(congrArg (fun n => decide (40 ≤ n)) (majorOf_word_imm _ _ _ _ _)).trans rfl, fun hi => (decode_major6 _ _ _ _ hi).trans ?_⟩
  simp (disch := decide) only [extract_low, extract_high, extract_all, Nat.reduceSub, keep, ofBool_beq_one, split_word]
  simp [h]

theorem ori (d : Reg) (a : Reg) (imm : BitVec 10) (q : Sel) : Statement (.ori d a imm q) := by
  intro h v
  refine ⟨(congrArg (fun n => decide (40 ≤ n)) (majorOf_word_imm _ _ _ _ _)).trans rfl, fun hi => (decode_major7 _ _ _ _ hi).trans ?_⟩
  simp (disch := decide) only [extract_low, extract_high, extract_all, Nat.reduceSub, keep, ofBool_beq_one, split_word]
  simp [h]

theorem xori (d : Reg) (a : Reg) (imm : BitVec 10) (q : Sel) : Statement (.xori d a imm q) := by
  intro h v
  refine ⟨(congrArg (fun n => decide (40 ≤ n)) (majorOf_word_imm _ _ _ _ _)).trans rfl, fun hi => (decode_major8 _ _ _ _ hi).trans ?_⟩
  simp (disch := decide) only [extract_low, extract_high, extract_all, Nat.reduceSub, keep, ofBool_beq_one, split_word]
  simp [h]

theorem shli (d : Reg) (a : Reg) (amt : BitVec 6) (q : Sel) : Statement (.shli d a amt q) := by
  intro h v
  refine ⟨(congrArg (fun n => decide (40 ≤ n)) (majorOf_word _ _ _ _ _ _)).trans rfl, fun hi => (decode_major9 _ _ _ _ _ hi).trans ?_⟩
  simp (disch := decide) only [short9, extract_low, extract_high, extract_all, Nat.reduceSub, keep, ofBool_beq_one, split_word]
  simp [h]

theorem shri (d : Reg) (a : Reg) (amt : BitVec 6) (q : Sel) : Statement (.shri d a amt q) := by
  intro h v
  refine ⟨(congrArg (fun n => decide (40 ≤ n)) (majorOf_word _ _ _ _ _ _)).trans rfl, fun hi => (decode_major9 _ _ _ _ _ hi).trans ?_⟩
  simp (disch := decide) only [short9, extract_low, extract_high, extract_all, Nat.reduceSub, keep, ofBool_beq_one, split_word]
  simp [h]

theorem srai (d : Reg) (a : Reg) (amt : BitVec 6) (q : Sel) : Statement (.srai d a amt q) := by
  intro h v
  refine ⟨(congrArg (fun n => decide (40 ≤ n)) (majorOf_word _ _ _ _ _ _)).trans rfl, fun hi => (decode_major9 _ _ _ _ _ hi).trans ?_⟩
  simp (disch := decide) only [short9, extract_low, extract_high, extract_all, Nat.reduceSub, keep, ofBool_beq_one, split_word]
  simp [h]

theorem cmpi (cc : BitVec 3) (pd : Pred) (a : Reg) (imm : BitVec 10) (q : Sel) : Statement (.cmpi cc pd a imm q) := by
  intro h v
  refine ⟨(congrArg (fun n => decide (40 ≤ n)) (majorOf_word_imm _ _ _ _ _)).trans rfl, fun hi => (decode_major10 _ _ _ _ hi).trans ?_⟩
  simp (disch := decide) only [extract_low, extract_high, extract_all, Nat.reduceSub, keep, ofBool_beq_one, split_word]
  simp [h]

theorem movi (d : Reg) (imm : BitVec 20) : Statement (.movi d imm) := by
  intro h v
  refine ⟨(congrArg (fun n => decide (40 ≤ n)) (majorOf_word_raw _ _)).trans rfl, fun hi => (decode_major11 _ _ hi).trans ?_⟩
  simp (disch := decide) only [extract_low, extract_high, extract_all, Nat.reduceSub, keep, ofBool_beq_one, split_word]
  simp [h]

theorem movhi (d : Reg) (imm : BitVec 20) : Statement (.movhi d imm) := by
  intro h v
  refine ⟨(congrArg (fun n => decide (40 ≤ n)) (majorOf_word_raw _ _)).trans rfl, fun hi => (decode_major12 _ _ hi).trans ?_⟩
  simp (disch := decide) only [extract_low, extract_high, extract_all, Nat.reduceSub, keep, ofBool_beq_one, split_word]
  simp [h]

theorem fadd (d : Reg) (a : Reg) (b : Reg) (q : Sel) : Statement (.fadd d a b q) := by
  intro h v
  refine ⟨(congrArg (fun n => decide (40 ≤ n)) (majorOf_word _ _ _ _ _ _)).trans rfl, fun hi => (decode_major16 _ _ _ _ _ hi).trans ?_⟩
  simp (disch := decide) only [short16, extract_low, extract_high, extract_all, Nat.reduceSub, keep, ofBool_beq_one, split_word]
  simp [h]

theorem fsub (d : Reg) (a : Reg) (b : Reg) (q : Sel) : Statement (.fsub d a b q) := by
  intro h v
  refine ⟨(congrArg (fun n => decide (40 ≤ n)) (majorOf_word _ _ _ _ _ _)).trans rfl, fun hi => (decode_major16 _ _ _ _ _ hi).trans ?_⟩
  simp (disch := decide) only [short16, extract_low, extract_high, extract_all, Nat.reduceSub, keep, ofBool_beq_one, split_word]
  simp [h]

theorem fmul (d : Reg) (a : Reg) (b : Reg) (q : Sel) : Statement (.fmul d a b q) := by
  intro h v
  refine ⟨(congrArg (fun n => decide (40 ≤ n)) (majorOf_word _ _ _ _ _ _)).trans rfl, fun hi => (decode_major16 _ _ _ _ _ hi).trans ?_⟩
  simp (disch := decide) only [short16, extract_low, extract_high, extract_all, Nat.reduceSub, keep, ofBool_beq_one, split_word]
  simp [h]

theorem fdiv (d : Reg) (a : Reg) (b : Reg) (q : Sel) : Statement (.fdiv d a b q) := by
  intro h v
  refine ⟨(congrArg (fun n => decide (40 ≤ n)) (majorOf_word _ _ _ _ _ _)).trans rfl, fun hi => (decode_major16 _ _ _ _ _ hi).trans ?_⟩
  simp (disch := decide) only [short16, extract_low, extract_high, extract_all, Nat.reduceSub, keep, ofBool_beq_one, split_word]
  simp [h]

theorem fmin (d : Reg) (a : Reg) (b : Reg) (q : Sel) : Statement (.fmin d a b q) := by
  intro h v
  refine ⟨(congrArg (fun n => decide (40 ≤ n)) (majorOf_word _ _ _ _ _ _)).trans rfl, fun hi => (decode_major16 _ _ _ _ _ hi).trans ?_⟩
  simp (disch := decide) only [short16, extract_low, extract_high, extract_all, Nat.reduceSub, keep, ofBool_beq_one, split_word]
  simp [h]

theorem fmax (d : Reg) (a : Reg) (b : Reg) (q : Sel) : Statement (.fmax d a b q) := by
  intro h v
  refine ⟨(congrArg (fun n => decide (40 ≤ n)) (majorOf_word _ _ _ _ _ _)).trans rfl, fun hi => (decode_major16 _ _ _ _ _ hi).trans ?_⟩
  simp (disch := decide) only [short16, extract_low, extract_high, extract_all, Nat.reduceSub, keep, ofBool_beq_one, split_word]
  simp [h]

theorem fabs (d : Reg) (a : Reg) (q : Sel) : Statement (.fabs d a q) := by
  intro h v
  refine ⟨(congrArg (fun n => decide (40 ≤ n)) (majorOf_word _ _ _ _ _ _)).trans rfl, fun hi => (decode_major16 _ _ _ _ _ hi).trans ?_⟩
  simp (disch := decide) only [short16, extract_low, extract_high, extract_all, Nat.reduceSub, keep, ofBool_beq_one, split_word]
  simp [h]

theorem fneg (d : Reg) (a : Reg) (q : Sel) : Statement (.fneg d a q) := by
  intro h v
  refine ⟨(congrArg (fun n => decide (40 ≤ n)) (majorOf_word _ _ _ _ _ _)).trans rfl, fun hi => (decode_major16 _ _ _ _ _ hi).trans ?_⟩
  simp (disch := decide) only [short16, extract_low, extract_high, extract_all, Nat.reduceSub, keep, ofBool_beq_one, split_word]
  simp [h]

theorem ffma (d : Reg) (a : Reg) (b : Reg) (q : Sel) : Statement (.ffma d a b q) := by
  intro h v
  refine ⟨(congrArg (fun n => decide (40 ≤ n)) (majorOf_word _ _ _ _ _ _)).trans rfl, fun hi => (decode_major17 _ _ _ _ _ hi).trans ?_⟩
  simp (disch := decide) only [short17, extract_low, extract_high, extract_all, Nat.reduceSub, keep, ofBool_beq_one, split_word]
  simp [h]

theorem frcp (d : Reg) (a : Reg) (q : Sel) : Statement (.frcp d a q) := by
  intro h v
  refine ⟨(congrArg (fun n => decide (40 ≤ n)) (majorOf_word _ _ _ _ _ _)).trans rfl, fun hi => (decode_major18 _ _ _ _ _ hi).trans ?_⟩
  simp (disch := decide) only [short18, extract_low, extract_high, extract_all, Nat.reduceSub, keep, ofBool_beq_one, split_word]
  simp [h]

theorem frsq (d : Reg) (a : Reg) (q : Sel) : Statement (.frsq d a q) := by
  intro h v
  refine ⟨(congrArg (fun n => decide (40 ≤ n)) (majorOf_word _ _ _ _ _ _)).trans rfl, fun hi => (decode_major18 _ _ _ _ _ hi).trans ?_⟩
  simp (disch := decide) only [short18, extract_low, extract_high, extract_all, Nat.reduceSub, keep, ofBool_beq_one, split_word]
  simp [h]

theorem fsqrt (d : Reg) (a : Reg) (q : Sel) : Statement (.fsqrt d a q) := by
  intro h v
  refine ⟨(congrArg (fun n => decide (40 ≤ n)) (majorOf_word _ _ _ _ _ _)).trans rfl, fun hi => (decode_major18 _ _ _ _ _ hi).trans ?_⟩
  simp (disch := decide) only [short18, extract_low, extract_high, extract_all, Nat.reduceSub, keep, ofBool_beq_one, split_word]
  simp [h]

theorem fexp2 (d : Reg) (a : Reg) (q : Sel) : Statement (.fexp2 d a q) := by
  intro h v
  refine ⟨(congrArg (fun n => decide (40 ≤ n)) (majorOf_word _ _ _ _ _ _)).trans rfl, fun hi => (decode_major18 _ _ _ _ _ hi).trans ?_⟩
  simp (disch := decide) only [short18, extract_low, extract_high, extract_all, Nat.reduceSub, keep, ofBool_beq_one, split_word]
  simp [h]

theorem flog2 (d : Reg) (a : Reg) (q : Sel) : Statement (.flog2 d a q) := by
  intro h v
  refine ⟨(congrArg (fun n => decide (40 ≤ n)) (majorOf_word _ _ _ _ _ _)).trans rfl, fun hi => (decode_major18 _ _ _ _ _ hi).trans ?_⟩
  simp (disch := decide) only [short18, extract_low, extract_high, extract_all, Nat.reduceSub, keep, ofBool_beq_one, split_word]
  simp [h]

theorem fcvt (dst : BitVec 4) (src : BitVec 4) (d : Reg) (a : Reg) (q : Sel) : Statement (.fcvt dst src d a q) := by
  intro h v
  refine ⟨(congrArg (fun n => decide (40 ≤ n)) (majorOf_word _ _ _ _ _ _)).trans rfl, fun hi => (decode_major19 _ _ _ _ _ hi).trans ?_⟩
  simp (disch := decide) only [extract_low, extract_high, extract_all, Nat.reduceSub, keep, ofBool_beq_one, split_word]
  simp [h]
  simp only [Instr.wf, Bool.and_eq_true, Bool.not_eq_true', Bool.and_eq_false_iff, decide_eq_false_iff_not] at h
  omega

theorem extN (d : Reg) (a : Reg) (b : Reg) (q : Sel) : Statement (.extN d a b q) := by
  intro h v
  refine ⟨(congrArg (fun n => decide (40 ≤ n)) (majorOf_word _ _ _ _ _ _)).trans rfl, fun hi => (decode_major20 _ _ _ _ _ hi).trans ?_⟩
  simp (disch := decide) only [short20, extract_low, extract_high, extract_all, Nat.reduceSub, keep, ofBool_beq_one, split_word]
  simp [h]

theorem extI (d : Reg) (a : Reg) (b : Reg) (q : Sel) : Statement (.extI d a b q) := by
  intro h v
  refine ⟨(congrArg (fun n => decide (40 ≤ n)) (majorOf_word _ _ _ _ _ _)).trans rfl, fun hi => (decode_major20 _ _ _ _ _ hi).trans ?_⟩
  simp (disch := decide) only [short20, extract_low, extract_high, extract_all, Nat.reduceSub, keep, ofBool_beq_one, split_word]
  simp [h]

theorem ins (d : Reg) (a : Reg) (b : Reg) (q : Sel) : Statement (.ins d a b q) := by
  intro h v
  refine ⟨(congrArg (fun n => decide (40 ≤ n)) (majorOf_word _ _ _ _ _ _)).trans rfl, fun hi => (decode_major20 _ _ _ _ _ hi).trans ?_⟩
  simp (disch := decide) only [short20, extract_low, extract_high, extract_all, Nat.reduceSub, keep, ofBool_beq_one, split_word]
  simp [h]

theorem br (disp : BitVec 22) (q : Sel) : Statement (.br disp q) := by
  intro h v
  refine ⟨(congrArg (fun n => decide (40 ≤ n)) (majorOf_word_raw _ _)).trans rfl, fun hi => (decode_major24 _ _ hi).trans ?_⟩
  simp (disch := decide) only [extract_low, extract_high, extract_all, Nat.reduceSub, keep, ofBool_beq_one, split_word]
  simp [h]

theorem call (disp : BitVec 22) (q : Sel) : Statement (.call disp q) := by
  intro h v
  refine ⟨(congrArg (fun n => decide (40 ≤ n)) (majorOf_word_raw _ _)).trans rfl, fun hi => (decode_major25 _ _ hi).trans ?_⟩
  simp (disch := decide) only [extract_low, extract_high, extract_all, Nat.reduceSub, keep, ofBool_beq_one, split_word]
  simp [h]

theorem skip (dist : BitVec 7) (q : Sel) : Statement (.skip dist q) := by
  intro h v
  refine ⟨(congrArg (fun n => decide (40 ≤ n)) (majorOf_word_imm _ _ _ _ _)).trans rfl, fun hi => (decode_major26 _ _ _ _ hi).trans ?_⟩
  simp (disch := decide) only [extract_low, extract_high, extract_all, Nat.reduceSub, keep, ofBool_beq_one, split_word]
  simp [h]

theorem loop (n : BitVec 2) (a : Reg) (last : BitVec 10) (q : Sel) : Statement (.loop n a last q) := by
  intro h v
  refine ⟨(congrArg (fun n => decide (40 ≤ n)) (majorOf_word_imm _ _ _ _ _)).trans rfl, fun hi => (decode_major27 _ _ _ _ hi).trans ?_⟩
  simp (disch := decide) only [extract_low, extract_high, extract_all, Nat.reduceSub, keep, ofBool_beq_one, split_word]
  simp [h]

theorem calli (a : Reg) (q : Sel) : Statement (.calli a q) := by
  intro h v
  refine ⟨(congrArg (fun n => decide (40 ≤ n)) (majorOf_word _ _ _ _ _ _)).trans rfl, fun hi => (decode_major28 _ _ _ _ _ hi).trans ?_⟩
  simp (disch := decide) only [short28, extract_low, extract_high, extract_all, Nat.reduceSub, keep, ofBool_beq_one, split_word]
  simp [h]

theorem jmpi (a : Reg) (q : Sel) : Statement (.jmpi a q) := by
  intro h v
  refine ⟨(congrArg (fun n => decide (40 ≤ n)) (majorOf_word _ _ _ _ _ _)).trans rfl, fun hi => (decode_major28 _ _ _ _ _ hi).trans ?_⟩
  simp (disch := decide) only [short28, extract_low, extract_high, extract_all, Nat.reduceSub, keep, ofBool_beq_one, split_word]
  simp [h]

theorem ret (q : Sel) : Statement (.ret q) := by
  intro h v
  refine ⟨(congrArg (fun n => decide (40 ≤ n)) (majorOf_word _ _ _ _ _ _)).trans rfl, fun hi => (decode_major28 _ _ _ _ _ hi).trans ?_⟩
  simp (disch := decide) only [short28, extract_low, extract_high, extract_all, Nat.reduceSub, keep, ofBool_beq_one, split_word]
  simp [h]

theorem loopbrk (n : BitVec 2) (q : Sel) : Statement (.loopbrk n q) := by
  intro h v
  refine ⟨(congrArg (fun n => decide (40 ≤ n)) (majorOf_word _ _ _ _ _ _)).trans rfl, fun hi => (decode_major28 _ _ _ _ _ hi).trans ?_⟩
  simp (disch := decide) only [short28, extract_low, extract_high, extract_all, Nat.reduceSub, keep, ofBool_beq_one, split_word]
  simp [h]

theorem svc (imm : BitVec 10) (q : Sel) : Statement (.svc imm q) := by
  intro h v
  refine ⟨(congrArg (fun n => decide (40 ≤ n)) (majorOf_word_imm _ _ _ _ _)).trans rfl, fun hi => (decode_major29 _ _ _ _ hi).trans ?_⟩
  simp (disch := decide) only [extract_low, extract_high, extract_all, Nat.reduceSub, keep, ofBool_beq_one, split_word]
  simp [h]

theorem trap (imm : BitVec 10) (q : Sel) : Statement (.trap imm q) := by
  intro h v
  refine ⟨(congrArg (fun n => decide (40 ≤ n)) (majorOf_word_imm _ _ _ _ _)).trans rfl, fun hi => (decode_major30 _ _ _ _ hi).trans ?_⟩
  simp (disch := decide) only [extract_low, extract_high, extract_all, Nat.reduceSub, keep, ofBool_beq_one, split_word]
  simp [h]

theorem csrr (d : Reg) (n : BitVec 6) (q : Sel) : Statement (.csrr d n q) := by
  intro h v
  refine ⟨(congrArg (fun n => decide (40 ≤ n)) (majorOf_word _ _ _ _ _ _)).trans rfl, fun hi => (decode_major32 _ _ _ _ _ hi).trans ?_⟩
  simp (disch := decide) only [short32, extract_low, extract_high, extract_all, Nat.reduceSub, keep, ofBool_beq_one, split_word]
  simp [h]

theorem csrw (n : BitVec 6) (a : Reg) (q : Sel) : Statement (.csrw n a q) := by
  intro h v
  refine ⟨(congrArg (fun n => decide (40 ≤ n)) (majorOf_word _ _ _ _ _ _)).trans rfl, fun hi => (decode_major32 _ _ _ _ _ hi).trans ?_⟩
  simp (disch := decide) only [short32, extract_low, extract_high, extract_all, Nat.reduceSub, keep, ofBool_beq_one, split_word]
  simp [h]

theorem csrx (d : Reg) (n : BitVec 6) (a : Reg) (q : Sel) : Statement (.csrx d n a q) := by
  intro h v
  refine ⟨(congrArg (fun n => decide (40 ≤ n)) (majorOf_word _ _ _ _ _ _)).trans rfl, fun hi => (decode_major32 _ _ _ _ _ hi).trans ?_⟩
  simp (disch := decide) only [short32, extract_low, extract_high, extract_all, Nat.reduceSub, keep, ofBool_beq_one, split_word]
  simp [h]

theorem ld (w : BitVec 2) (d : Reg) (a : Reg) (off : BitVec 16) (nz : Bool) (q : Sel) : Statement (.ld w d a off nz q) := by
  intro h v
  have hw : ∀ x : BitVec 2, x = 0#2 ∨ x = 1#2 ∨ x = 2#2 ∨ x = 3#2 := by decide
  rcases hw w with rfl | rfl | rfl | rfl
  · refine ⟨(congrArg (fun n => decide (40 ≤ n)) (majorOf_word _ _ _ _ _ _)).trans rfl, (decode_major40 _ _ _ _ _ v _).trans ?_, waveOf_wave _ _⟩
    simp (disch := decide) only [longMem, extract_low, extract_high, extract_all, Nat.reduceSub, keep, ofBool_beq_one, split_word]
    simp [h, split_word (n := 5) (m := 11)]
  · refine ⟨(congrArg (fun n => decide (40 ≤ n)) (majorOf_word _ _ _ _ _ _)).trans rfl, (decode_major41 _ _ _ _ _ v _).trans ?_, waveOf_wave _ _⟩
    simp (disch := decide) only [longMem, extract_low, extract_high, extract_all, Nat.reduceSub, keep, ofBool_beq_one, split_word]
    simp [h, split_word (n := 5) (m := 11)]
  · refine ⟨(congrArg (fun n => decide (40 ≤ n)) (majorOf_word _ _ _ _ _ _)).trans rfl, (decode_major42 _ _ _ _ _ v _).trans ?_, waveOf_wave _ _⟩
    simp (disch := decide) only [longMem, extract_low, extract_high, extract_all, Nat.reduceSub, keep, ofBool_beq_one, split_word]
    simp [h, split_word (n := 5) (m := 11)]
  · refine ⟨(congrArg (fun n => decide (40 ≤ n)) (majorOf_word _ _ _ _ _ _)).trans rfl, (decode_major43 _ _ _ _ _ v _).trans ?_, waveOf_wave _ _⟩
    simp (disch := decide) only [longMem, extract_low, extract_high, extract_all, Nat.reduceSub, keep, ofBool_beq_one, split_word]
    simp [h, split_word (n := 5) (m := 11)]

theorem st (w : BitVec 2) (d : Reg) (a : Reg) (off : BitVec 16) (q : Sel) : Statement (.st w d a off q) := by
  intro h v
  have hw : ∀ x : BitVec 2, x = 0#2 ∨ x = 1#2 ∨ x = 2#2 ∨ x = 3#2 := by decide
  rcases hw w with rfl | rfl | rfl | rfl
  · refine ⟨(congrArg (fun n => decide (40 ≤ n)) (majorOf_word _ _ _ _ _ _)).trans rfl, (decode_major40 _ _ _ _ _ v _).trans ?_, waveOf_wave _ _⟩
    simp (disch := decide) only [longMem, extract_low, extract_high, extract_all, Nat.reduceSub, keep, ofBool_beq_one, split_word]
    simp [h, split_word (n := 5) (m := 11)]
  · refine ⟨(congrArg (fun n => decide (40 ≤ n)) (majorOf_word _ _ _ _ _ _)).trans rfl, (decode_major41 _ _ _ _ _ v _).trans ?_, waveOf_wave _ _⟩
    simp (disch := decide) only [longMem, extract_low, extract_high, extract_all, Nat.reduceSub, keep, ofBool_beq_one, split_word]
    simp [h, split_word (n := 5) (m := 11)]
  · refine ⟨(congrArg (fun n => decide (40 ≤ n)) (majorOf_word _ _ _ _ _ _)).trans rfl, (decode_major42 _ _ _ _ _ v _).trans ?_, waveOf_wave _ _⟩
    simp (disch := decide) only [longMem, extract_low, extract_high, extract_all, Nat.reduceSub, keep, ofBool_beq_one, split_word]
    simp [h, split_word (n := 5) (m := 11)]
  · refine ⟨(congrArg (fun n => decide (40 ≤ n)) (majorOf_word _ _ _ _ _ _)).trans rfl, (decode_major43 _ _ _ _ _ v _).trans ?_, waveOf_wave _ _⟩
    simp (disch := decide) only [longMem, extract_low, extract_high, extract_all, Nat.reduceSub, keep, ofBool_beq_one, split_word]
    simp [h, split_word (n := 5) (m := 11)]

theorem ldg (w : BitVec 2) (d : Reg) (a : Reg) (off : BitVec 16) (nz : Bool) (q : Sel) : Statement (.ldg w d a off nz q) := by
  intro h v
  have hw : ∀ x : BitVec 2, x = 0#2 ∨ x = 1#2 ∨ x = 2#2 ∨ x = 3#2 := by decide
  rcases hw w with rfl | rfl | rfl | rfl
  · refine ⟨(congrArg (fun n => decide (40 ≤ n)) (majorOf_word _ _ _ _ _ _)).trans rfl, (decode_major40 _ _ _ _ _ v _).trans ?_, waveOf_wave _ _⟩
    simp (disch := decide) only [longMem, extract_low, extract_high, extract_all, Nat.reduceSub, keep, ofBool_beq_one, split_word]
    simp [h, split_word (n := 5) (m := 11)]
  · refine ⟨(congrArg (fun n => decide (40 ≤ n)) (majorOf_word _ _ _ _ _ _)).trans rfl, (decode_major41 _ _ _ _ _ v _).trans ?_, waveOf_wave _ _⟩
    simp (disch := decide) only [longMem, extract_low, extract_high, extract_all, Nat.reduceSub, keep, ofBool_beq_one, split_word]
    simp [h, split_word (n := 5) (m := 11)]
  · refine ⟨(congrArg (fun n => decide (40 ≤ n)) (majorOf_word _ _ _ _ _ _)).trans rfl, (decode_major42 _ _ _ _ _ v _).trans ?_, waveOf_wave _ _⟩
    simp (disch := decide) only [longMem, extract_low, extract_high, extract_all, Nat.reduceSub, keep, ofBool_beq_one, split_word]
    simp [h, split_word (n := 5) (m := 11)]
  · refine ⟨(congrArg (fun n => decide (40 ≤ n)) (majorOf_word _ _ _ _ _ _)).trans rfl, (decode_major43 _ _ _ _ _ v _).trans ?_, waveOf_wave _ _⟩
    simp (disch := decide) only [longMem, extract_low, extract_high, extract_all, Nat.reduceSub, keep, ofBool_beq_one, split_word]
    simp [h, split_word (n := 5) (m := 11)]

theorem stg (w : BitVec 2) (d : Reg) (a : Reg) (off : BitVec 16) (q : Sel) : Statement (.stg w d a off q) := by
  intro h v
  have hw : ∀ x : BitVec 2, x = 0#2 ∨ x = 1#2 ∨ x = 2#2 ∨ x = 3#2 := by decide
  rcases hw w with rfl | rfl | rfl | rfl
  · refine ⟨(congrArg (fun n => decide (40 ≤ n)) (majorOf_word _ _ _ _ _ _)).trans rfl, (decode_major40 _ _ _ _ _ v _).trans ?_, waveOf_wave _ _⟩
    simp (disch := decide) only [longMem, extract_low, extract_high, extract_all, Nat.reduceSub, keep, ofBool_beq_one, split_word]
    simp [h, split_word (n := 5) (m := 11)]
  · refine ⟨(congrArg (fun n => decide (40 ≤ n)) (majorOf_word _ _ _ _ _ _)).trans rfl, (decode_major41 _ _ _ _ _ v _).trans ?_, waveOf_wave _ _⟩
    simp (disch := decide) only [longMem, extract_low, extract_high, extract_all, Nat.reduceSub, keep, ofBool_beq_one, split_word]
    simp [h, split_word (n := 5) (m := 11)]
  · refine ⟨(congrArg (fun n => decide (40 ≤ n)) (majorOf_word _ _ _ _ _ _)).trans rfl, (decode_major42 _ _ _ _ _ v _).trans ?_, waveOf_wave _ _⟩
    simp (disch := decide) only [longMem, extract_low, extract_high, extract_all, Nat.reduceSub, keep, ofBool_beq_one, split_word]
    simp [h, split_word (n := 5) (m := 11)]
  · refine ⟨(congrArg (fun n => decide (40 ≤ n)) (majorOf_word _ _ _ _ _ _)).trans rfl, (decode_major43 _ _ _ _ _ v _).trans ?_, waveOf_wave _ _⟩
    simp (disch := decide) only [longMem, extract_low, extract_high, extract_all, Nat.reduceSub, keep, ofBool_beq_one, split_word]
    simp [h, split_word (n := 5) (m := 11)]

theorem ldf (d : Reg) (a : Reg) (off : BitVec 16) (nz : Bool) (q : Sel) : Statement (.ldf d a off nz q) := by
  intro h v
  refine ⟨(congrArg (fun n => decide (40 ≤ n)) (majorOf_word _ _ _ _ _ _)).trans rfl, (decode_major42 _ _ _ _ _ v _).trans ?_, waveOf_wave _ _⟩
  simp (disch := decide) only [long42, extract_low, extract_high, extract_all, Nat.reduceSub, keep, ofBool_beq_one, split_word]
  simp [h, split_word (n := 5) (m := 11)]

theorem ldx (d : Reg) (a : Reg) (off : BitVec 16) (nz : Bool) (q : Sel) : Statement (.ldx d a off nz q) := by
  intro h v
  refine ⟨(congrArg (fun n => decide (40 ≤ n)) (majorOf_word _ _ _ _ _ _)).trans rfl, (decode_major42 _ _ _ _ _ v _).trans ?_, waveOf_wave _ _⟩
  simp (disch := decide) only [long42, extract_low, extract_high, extract_all, Nat.reduceSub, keep, ofBool_beq_one, split_word]
  simp [h, split_word (n := 5) (m := 11)]

theorem stf (d : Reg) (a : Reg) (off : BitVec 16) (q : Sel) : Statement (.stf d a off q) := by
  intro h v
  refine ⟨(congrArg (fun n => decide (40 ≤ n)) (majorOf_word _ _ _ _ _ _)).trans rfl, (decode_major42 _ _ _ _ _ v _).trans ?_, waveOf_wave _ _⟩
  simp (disch := decide) only [long42, extract_low, extract_high, extract_all, Nat.reduceSub, keep, ofBool_beq_one, split_word]
  simp [h, split_word (n := 5) (m := 11)]

theorem setf (d : Reg) (a : Reg) (off : BitVec 16) (q : Sel) : Statement (.setf d a off q) := by
  intro h v
  refine ⟨(congrArg (fun n => decide (40 ≤ n)) (majorOf_word _ _ _ _ _ _)).trans rfl, (decode_major42 _ _ _ _ _ v _).trans ?_, waveOf_wave _ _⟩
  simp (disch := decide) only [long42, extract_low, extract_high, extract_all, Nat.reduceSub, keep, ofBool_beq_one, split_word]
  simp [h, split_word (n := 5) (m := 11)]

theorem clre (a : Reg) (off : BitVec 16) (q : Sel) : Statement (.clre a off q) := by
  intro h v
  refine ⟨(congrArg (fun n => decide (40 ≤ n)) (majorOf_word _ _ _ _ _ _)).trans rfl, (decode_major42 _ _ _ _ _ v _).trans ?_, waveOf_wave _ _⟩
  simp (disch := decide) only [long42, extract_low, extract_high, extract_all, Nat.reduceSub, keep, ofBool_beq_one, split_word]
  simp [h, split_word (n := 5) (m := 11)]

theorem tagrd (d : Reg) (a : Reg) (off : BitVec 16) (q : Sel) : Statement (.tagrd d a off q) := by
  intro h v
  refine ⟨(congrArg (fun n => decide (40 ≤ n)) (majorOf_word _ _ _ _ _ _)).trans rfl, (decode_major42 _ _ _ _ _ v _).trans ?_, waveOf_wave _ _⟩
  simp (disch := decide) only [long42, extract_low, extract_high, extract_all, Nat.reduceSub, keep, ofBool_beq_one, split_word]
  simp [h, split_word (n := 5) (m := 11)]

theorem ldfG (d : Reg) (a : Reg) (off : BitVec 16) (nz : Bool) (q : Sel) : Statement (.ldfG d a off nz q) := by
  intro h v
  refine ⟨(congrArg (fun n => decide (40 ≤ n)) (majorOf_word _ _ _ _ _ _)).trans rfl, (decode_major42 _ _ _ _ _ v _).trans ?_, waveOf_wave _ _⟩
  simp (disch := decide) only [long42, extract_low, extract_high, extract_all, Nat.reduceSub, keep, ofBool_beq_one, split_word]
  simp [h, split_word (n := 5) (m := 11)]

theorem ldxG (d : Reg) (a : Reg) (off : BitVec 16) (nz : Bool) (q : Sel) : Statement (.ldxG d a off nz q) := by
  intro h v
  refine ⟨(congrArg (fun n => decide (40 ≤ n)) (majorOf_word _ _ _ _ _ _)).trans rfl, (decode_major42 _ _ _ _ _ v _).trans ?_, waveOf_wave _ _⟩
  simp (disch := decide) only [long42, extract_low, extract_high, extract_all, Nat.reduceSub, keep, ofBool_beq_one, split_word]
  simp [h, split_word (n := 5) (m := 11)]

theorem stfG (d : Reg) (a : Reg) (off : BitVec 16) (q : Sel) : Statement (.stfG d a off q) := by
  intro h v
  refine ⟨(congrArg (fun n => decide (40 ≤ n)) (majorOf_word _ _ _ _ _ _)).trans rfl, (decode_major42 _ _ _ _ _ v _).trans ?_, waveOf_wave _ _⟩
  simp (disch := decide) only [long42, extract_low, extract_high, extract_all, Nat.reduceSub, keep, ofBool_beq_one, split_word]
  simp [h, split_word (n := 5) (m := 11)]

theorem setfG (d : Reg) (a : Reg) (off : BitVec 16) (q : Sel) : Statement (.setfG d a off q) := by
  intro h v
  refine ⟨(congrArg (fun n => decide (40 ≤ n)) (majorOf_word _ _ _ _ _ _)).trans rfl, (decode_major42 _ _ _ _ _ v _).trans ?_, waveOf_wave _ _⟩
  simp (disch := decide) only [long42, extract_low, extract_high, extract_all, Nat.reduceSub, keep, ofBool_beq_one, split_word]
  simp [h, split_word (n := 5) (m := 11)]

theorem clreG (a : Reg) (off : BitVec 16) (q : Sel) : Statement (.clreG a off q) := by
  intro h v
  refine ⟨(congrArg (fun n => decide (40 ≤ n)) (majorOf_word _ _ _ _ _ _)).trans rfl, (decode_major42 _ _ _ _ _ v _).trans ?_, waveOf_wave _ _⟩
  simp (disch := decide) only [long42, extract_low, extract_high, extract_all, Nat.reduceSub, keep, ofBool_beq_one, split_word]
  simp [h, split_word (n := 5) (m := 11)]

theorem tagrdG (d : Reg) (a : Reg) (off : BitVec 16) (q : Sel) : Statement (.tagrdG d a off q) := by
  intro h v
  refine ⟨(congrArg (fun n => decide (40 ≤ n)) (majorOf_word _ _ _ _ _ _)).trans rfl, (decode_major42 _ _ _ _ _ v _).trans ?_, waveOf_wave _ _⟩
  simp (disch := decide) only [long42, extract_low, extract_high, extract_all, Nat.reduceSub, keep, ofBool_beq_one, split_word]
  simp [h, split_word (n := 5) (m := 11)]

theorem aadd (d : Reg) (a : Reg) (b : Reg) (off : BitVec 8) (nr : Bool) (g : Bool) (w64 : Bool) (q : Sel) : Statement (.aadd d a b off nr g w64 q) := by
  intro h v
  refine ⟨(congrArg (fun n => decide (40 ≤ n)) (majorOf_word _ _ _ _ _ _)).trans rfl, (decode_major44 _ _ _ _ _ v _).trans ?_, waveOf_wave _ _⟩
  simp (disch := decide) only [long44, extract_low, extract_high, extract_all, Nat.reduceSub, keep, ofBool_beq_one, split_word]
  simp [h]

theorem amin (d : Reg) (a : Reg) (b : Reg) (off : BitVec 8) (nr : Bool) (g : Bool) (w64 : Bool) (q : Sel) : Statement (.amin d a b off nr g w64 q) := by
  intro h v
  refine ⟨(congrArg (fun n => decide (40 ≤ n)) (majorOf_word _ _ _ _ _ _)).trans rfl, (decode_major44 _ _ _ _ _ v _).trans ?_, waveOf_wave _ _⟩
  simp (disch := decide) only [long44, extract_low, extract_high, extract_all, Nat.reduceSub, keep, ofBool_beq_one, split_word]
  simp [h]

theorem amax (d : Reg) (a : Reg) (b : Reg) (off : BitVec 8) (nr : Bool) (g : Bool) (w64 : Bool) (q : Sel) : Statement (.amax d a b off nr g w64 q) := by
  intro h v
  refine ⟨(congrArg (fun n => decide (40 ≤ n)) (majorOf_word _ _ _ _ _ _)).trans rfl, (decode_major44 _ _ _ _ _ v _).trans ?_, waveOf_wave _ _⟩
  simp (disch := decide) only [long44, extract_low, extract_high, extract_all, Nat.reduceSub, keep, ofBool_beq_one, split_word]
  simp [h]

theorem aminn (d : Reg) (a : Reg) (b : Reg) (off : BitVec 8) (nr : Bool) (g : Bool) (w64 : Bool) (q : Sel) : Statement (.aminn d a b off nr g w64 q) := by
  intro h v
  refine ⟨(congrArg (fun n => decide (40 ≤ n)) (majorOf_word _ _ _ _ _ _)).trans rfl, (decode_major44 _ _ _ _ _ v _).trans ?_, waveOf_wave _ _⟩
  simp (disch := decide) only [long44, extract_low, extract_high, extract_all, Nat.reduceSub, keep, ofBool_beq_one, split_word]
  simp [h]

theorem amaxn (d : Reg) (a : Reg) (b : Reg) (off : BitVec 8) (nr : Bool) (g : Bool) (w64 : Bool) (q : Sel) : Statement (.amaxn d a b off nr g w64 q) := by
  intro h v
  refine ⟨(congrArg (fun n => decide (40 ≤ n)) (majorOf_word _ _ _ _ _ _)).trans rfl, (decode_major44 _ _ _ _ _ v _).trans ?_, waveOf_wave _ _⟩
  simp (disch := decide) only [long44, extract_low, extract_high, extract_all, Nat.reduceSub, keep, ofBool_beq_one, split_word]
  simp [h]

theorem aand (d : Reg) (a : Reg) (b : Reg) (off : BitVec 8) (nr : Bool) (g : Bool) (w64 : Bool) (q : Sel) : Statement (.aand d a b off nr g w64 q) := by
  intro h v
  refine ⟨(congrArg (fun n => decide (40 ≤ n)) (majorOf_word _ _ _ _ _ _)).trans rfl, (decode_major44 _ _ _ _ _ v _).trans ?_, waveOf_wave _ _⟩
  simp (disch := decide) only [long44, extract_low, extract_high, extract_all, Nat.reduceSub, keep, ofBool_beq_one, split_word]
  simp [h]

theorem aor (d : Reg) (a : Reg) (b : Reg) (off : BitVec 8) (nr : Bool) (g : Bool) (w64 : Bool) (q : Sel) : Statement (.aor d a b off nr g w64 q) := by
  intro h v
  refine ⟨(congrArg (fun n => decide (40 ≤ n)) (majorOf_word _ _ _ _ _ _)).trans rfl, (decode_major44 _ _ _ _ _ v _).trans ?_, waveOf_wave _ _⟩
  simp (disch := decide) only [long44, extract_low, extract_high, extract_all, Nat.reduceSub, keep, ofBool_beq_one, split_word]
  simp [h]

theorem axor (d : Reg) (a : Reg) (b : Reg) (off : BitVec 8) (nr : Bool) (g : Bool) (w64 : Bool) (q : Sel) : Statement (.axor d a b off nr g w64 q) := by
  intro h v
  refine ⟨(congrArg (fun n => decide (40 ≤ n)) (majorOf_word _ _ _ _ _ _)).trans rfl, (decode_major44 _ _ _ _ _ v _).trans ?_, waveOf_wave _ _⟩
  simp (disch := decide) only [long44, extract_low, extract_high, extract_all, Nat.reduceSub, keep, ofBool_beq_one, split_word]
  simp [h]

theorem axchg (d : Reg) (a : Reg) (b : Reg) (off : BitVec 8) (nr : Bool) (g : Bool) (w64 : Bool) (q : Sel) : Statement (.axchg d a b off nr g w64 q) := by
  intro h v
  refine ⟨(congrArg (fun n => decide (40 ≤ n)) (majorOf_word _ _ _ _ _ _)).trans rfl, (decode_major44 _ _ _ _ _ v _).trans ?_, waveOf_wave _ _⟩
  simp (disch := decide) only [long44, extract_low, extract_high, extract_all, Nat.reduceSub, keep, ofBool_beq_one, split_word]
  simp [h]

theorem acas (d : Reg) (a : Reg) (b : Reg) (off : BitVec 8) (nr : Bool) (g : Bool) (w64 : Bool) (q : Sel) : Statement (.acas d a b off nr g w64 q) := by
  intro h v
  refine ⟨(congrArg (fun n => decide (40 ≤ n)) (majorOf_word _ _ _ _ _ _)).trans rfl, (decode_major44 _ _ _ _ _ v _).trans ?_, waveOf_wave _ _⟩
  simp (disch := decide) only [long44, extract_low, extract_high, extract_all, Nat.reduceSub, keep, ofBool_beq_one, split_word]
  simp [h]

theorem afadd (d : Reg) (a : Reg) (b : Reg) (off : BitVec 8) (nr : Bool) (g : Bool) (q : Sel) : Statement (.afadd d a b off nr g q) := by
  intro h v
  refine ⟨(congrArg (fun n => decide (40 ≤ n)) (majorOf_word _ _ _ _ _ _)).trans rfl, (decode_major44 _ _ _ _ _ v _).trans ?_, waveOf_wave _ _⟩
  simp (disch := decide) only [long44, extract_low, extract_high, extract_all, Nat.reduceSub, keep, ofBool_beq_one, split_word]
  simp [h]

theorem asig (a : Reg) (b : Reg) (off : BitVec 8) (g : Bool) (w64 : Bool) (q : Sel) : Statement (.asig a b off g w64 q) := by
  intro h v
  refine ⟨(congrArg (fun n => decide (40 ≤ n)) (majorOf_word _ _ _ _ _ _)).trans rfl, (decode_major44 _ _ _ _ _ v _).trans ?_, waveOf_wave _ _⟩
  simp (disch := decide) only [long44, extract_low, extract_high, extract_all, Nat.reduceSub, keep, ofBool_beq_one, split_word]
  simp [h]

theorem pinit (d : Reg) (a : Reg) (b : Reg) (off : BitVec 8) (g : Bool) (q : Sel) : Statement (.pinit d a b off g q) := by
  intro h v
  refine ⟨(congrArg (fun n => decide (40 ≤ n)) (majorOf_word _ _ _ _ _ _)).trans rfl, (decode_major45 _ _ _ _ _ v _).trans ?_, waveOf_wave _ _⟩
  simp (disch := decide) only [long45, extract_low, extract_high, extract_all, Nat.reduceSub, keep, ofBool_beq_one, split_word]
  simp [h]

theorem push (d : Reg) (a : Reg) (b : Reg) (off : BitVec 8) (g : Bool) (q : Sel) : Statement (.push d a b off g q) := by
  intro h v
  refine ⟨(congrArg (fun n => decide (40 ≤ n)) (majorOf_word _ _ _ _ _ _)).trans rfl, (decode_major45 _ _ _ _ _ v _).trans ?_, waveOf_wave _ _⟩
  simp (disch := decide) only [long45, extract_low, extract_high, extract_all, Nat.reduceSub, keep, ofBool_beq_one, split_word]
  simp [h]

theorem pop (d : Reg) (a : Reg) (off : BitVec 8) (g : Bool) (q : Sel) : Statement (.pop d a off g q) := by
  intro h v
  refine ⟨(congrArg (fun n => decide (40 ≤ n)) (majorOf_word _ _ _ _ _ _)).trans rfl, (decode_major45 _ _ _ _ _ v _).trans ?_, waveOf_wave _ _⟩
  simp (disch := decide) only [long45, extract_low, extract_high, extract_all, Nat.reduceSub, keep, ofBool_beq_one, split_word]
  simp [h]

theorem popw (d : Reg) (a : Reg) (b : Reg) (off : BitVec 8) (g : Bool) (q : Sel) : Statement (.popw d a b off g q) := by
  intro h v
  refine ⟨(congrArg (fun n => decide (40 ≤ n)) (majorOf_word _ _ _ _ _ _)).trans rfl, (decode_major45 _ _ _ _ _ v _).trans ?_, waveOf_wave _ _⟩
  simp (disch := decide) only [long45, extract_low, extract_high, extract_all, Nat.reduceSub, keep, ofBool_beq_one, split_word]
  simp [h]

theorem lit (ty : BitVec 2) (d : Reg) (off : BitVec 21) (q : Sel) : Statement (.lit ty d off q) := by
  intro h v
  refine ⟨(congrArg (fun n => decide (40 ≤ n)) (majorOf_word_imm _ _ _ _ _)).trans rfl, (decode_major46 _ _ _ _ v _).trans ?_, waveOf_wave _ _⟩
  simp (disch := decide) only [long46, extract_low, extract_high, extract_all, Nat.reduceSub, keep, ofBool_beq_one, split_word]
  have hty : ∀ x : BitVec 2, (0#4 ++ x).toNat = 0 ∨ (0#4 ++ x).toNat = 1 ∨ (0#4 ++ x).toNat = 2 ∨ x = 3#2 := by decide
  rcases hty ty with e | e | e | rfl
  · simp only [e]
    simp [h, split_word (n := 11) (m := 10)]
  · simp only [e]
    simp [h, split_word (n := 11) (m := 10)]
  · simp only [e]
    simp [h, split_word (n := 11) (m := 10)]
  · exact absurd h (by simp [Instr.wf])

theorem lea (d : Reg) (off : BitVec 21) (q : Sel) : Statement (.lea d off q) := by
  intro h v
  refine ⟨(congrArg (fun n => decide (40 ≤ n)) (majorOf_word_imm _ _ _ _ _)).trans rfl, (decode_major46 _ _ _ _ v _).trans ?_, waveOf_wave _ _⟩
  simp (disch := decide) only [long46, extract_low, extract_high, extract_all, Nat.reduceSub, keep, ofBool_beq_one, split_word]
  simp [h, split_word (n := 11) (m := 10)]

theorem binit (a : Reg) (b : Reg) (trap : Bool) (byteMode : Bool) (q : Sel) : Statement (.binit a b trap byteMode q) := by
  intro h v
  refine ⟨(congrArg (fun n => decide (40 ≤ n)) (majorOf_word _ _ _ _ _ _)).trans rfl, (decode_major47 _ _ _ _ _ v _).trans ?_, waveOf_wave _ _⟩
  simp (disch := decide) only [long47, extract_low, extract_high, extract_all, Nat.reduceSub, keep, ofBool_beq_one, split_word]
  simp [h]

theorem barr (a : Reg) (b : Reg) (rem : Bool) (q : Sel) : Statement (.barr a b rem q) := by
  intro h v
  refine ⟨(congrArg (fun n => decide (40 ≤ n)) (majorOf_word _ _ _ _ _ _)).trans rfl, (decode_major47 _ _ _ _ _ v _).trans ?_, waveOf_wave _ _⟩
  simp (disch := decide) only [long47, extract_low, extract_high, extract_all, Nat.reduceSub, keep, ofBool_beq_one, split_word]
  simp [h]

theorem bwait (d : Reg) (a : Reg) (b : Reg) (rem : Bool) (q : Sel) : Statement (.bwait d a b rem q) := by
  intro h v
  refine ⟨(congrArg (fun n => decide (40 ≤ n)) (majorOf_word _ _ _ _ _ _)).trans rfl, (decode_major47 _ _ _ _ _ v _).trans ?_, waveOf_wave _ _⟩
  simp (disch := decide) only [long47, extract_low, extract_high, extract_all, Nat.reduceSub, keep, ofBool_beq_one, split_word]
  simp [h]

theorem btest (d : Reg) (a : Reg) (rem : Bool) (q : Sel) : Statement (.btest d a rem q) := by
  intro h v
  refine ⟨(congrArg (fun n => decide (40 ≤ n)) (majorOf_word _ _ _ _ _ _)).trans rfl, (decode_major47 _ _ _ _ _ v _).trans ?_, waveOf_wave _ _⟩
  simp (disch := decide) only [long47, extract_low, extract_high, extract_all, Nat.reduceSub, keep, ofBool_beq_one, split_word]
  simp [h]

theorem brst (a : Reg) (q : Sel) : Statement (.brst a q) := by
  intro h v
  refine ⟨(congrArg (fun n => decide (40 ≤ n)) (majorOf_word _ _ _ _ _ _)).trans rfl, (decode_major47 _ _ _ _ _ v _).trans ?_, waveOf_wave _ _⟩
  simp (disch := decide) only [long47, extract_low, extract_high, extract_all, Nat.reduceSub, keep, ofBool_beq_one, split_word]
  simp [h]

theorem fenceLd (scope : BitVec 3) (q : Sel) : Statement (.fenceLd scope q) := by
  intro h v
  refine ⟨(congrArg (fun n => decide (40 ≤ n)) (majorOf_word _ _ _ _ _ _)).trans rfl, (decode_major47 _ _ _ _ _ v _).trans ?_, waveOf_wave _ _⟩
  simp (disch := decide) only [long47, extract_low, extract_high, extract_all, Nat.reduceSub, keep, ofBool_beq_one, split_word]
  simp [h]

theorem fenceSt (scope : BitVec 3) (q : Sel) : Statement (.fenceSt scope q) := by
  intro h v
  refine ⟨(congrArg (fun n => decide (40 ≤ n)) (majorOf_word _ _ _ _ _ _)).trans rfl, (decode_major47 _ _ _ _ _ v _).trans ?_, waveOf_wave _ _⟩
  simp (disch := decide) only [long47, extract_low, extract_high, extract_all, Nat.reduceSub, keep, ofBool_beq_one, split_word]
  simp [h]

theorem fenceAll (scope : BitVec 3) (q : Sel) : Statement (.fenceAll scope q) := by
  intro h v
  refine ⟨(congrArg (fun n => decide (40 ≤ n)) (majorOf_word _ _ _ _ _ _)).trans rfl, (decode_major47 _ _ _ _ _ v _).trans ?_, waveOf_wave _ _⟩
  simp (disch := decide) only [long47, extract_low, extract_high, extract_all, Nat.reduceSub, keep, ofBool_beq_one, split_word]
  simp [h]

theorem sinDense (port : Port) (a : Reg) (b : Reg) (pl : Plane) (g : Bool) (esz : BitVec 2) (q : Sel) : Statement (.sinDense port a b pl g esz q) := by
  intro h v
  refine ⟨(congrArg (fun n => decide (40 ≤ n)) (majorOf_word _ _ _ _ _ _)).trans rfl, (decode_major48 _ _ _ _ _ v _).trans ?_, waveOf_wave _ _⟩
  simp (disch := decide) only [long48, extract_low, extract_high, extract_all, Nat.reduceSub, keep, ofBool_beq_one, split_word]
  simp [h]

theorem sinExpand (port : Port) (a : Reg) (b : Reg) (pl : Plane) (g : Bool) (esz : BitVec 2) (q : Sel) : Statement (.sinExpand port a b pl g esz q) := by
  intro h v
  refine ⟨(congrArg (fun n => decide (40 ≤ n)) (majorOf_word _ _ _ _ _ _)).trans rfl, (decode_major48 _ _ _ _ _ v _).trans ?_, waveOf_wave _ _⟩
  simp (disch := decide) only [long48, extract_low, extract_high, extract_all, Nat.reduceSub, keep, ofBool_beq_one, split_word]
  simp [h]

theorem soutDense (port : Port) (a : Reg) (b : Reg) (pl : Plane) (g : Bool) (esz : BitVec 2) (q : Sel) : Statement (.soutDense port a b pl g esz q) := by
  intro h v
  refine ⟨(congrArg (fun n => decide (40 ≤ n)) (majorOf_word _ _ _ _ _ _)).trans rfl, (decode_major48 _ _ _ _ _ v _).trans ?_, waveOf_wave _ _⟩
  simp (disch := decide) only [long48, extract_low, extract_high, extract_all, Nat.reduceSub, keep, ofBool_beq_one, split_word]
  simp [h]

theorem soutSparse (port : Port) (a : Reg) (b : Reg) (pl : Plane) (g : Bool) (esz : BitVec 2) (q : Sel) : Statement (.soutSparse port a b pl g esz q) := by
  intro h v
  refine ⟨(congrArg (fun n => decide (40 ≤ n)) (majorOf_word _ _ _ _ _ _)).trans rfl, (decode_major48 _ _ _ _ _ v _).trans ?_, waveOf_wave _ _⟩
  simp (disch := decide) only [long48, extract_low, extract_high, extract_all, Nat.reduceSub, keep, ofBool_beq_one, split_word]
  simp [h]

theorem spush (port : Port) (a : Reg) (pl : Plane) (eor : Bool) (last : Bool) (q : Sel) : Statement (.spush port a pl eor last q) := by
  intro h v
  refine ⟨(congrArg (fun n => decide (40 ≤ n)) (majorOf_word _ _ _ _ _ _)).trans rfl, (decode_major48 _ _ _ _ _ v _).trans ?_, waveOf_wave _ _⟩
  simp (disch := decide) only [long48, extract_low, extract_high, extract_all, Nat.reduceSub, keep, ofBool_beq_one, split_word]
  simp [h]

theorem spull (d : Reg) (port : Port) (pl : Plane) (q : Sel) : Statement (.spull d port pl q) := by
  intro h v
  refine ⟨(congrArg (fun n => decide (40 ≤ n)) (majorOf_word _ _ _ _ _ _)).trans rfl, (decode_major48 _ _ _ _ _ v _).trans ?_, waveOf_wave _ _⟩
  simp (disch := decide) only [long48, extract_low, extract_high, extract_all, Nat.reduceSub, keep, ofBool_beq_one, split_word]
  simp [h]

theorem speek (d : Reg) (port : Port) (pl : Plane) (q : Sel) : Statement (.speek d port pl q) := by
  intro h v
  refine ⟨(congrArg (fun n => decide (40 ≤ n)) (majorOf_word _ _ _ _ _ _)).trans rfl, (decode_major48 _ _ _ _ _ v _).trans ?_, waveOf_wave _ _⟩
  simp (disch := decide) only [long48, extract_low, extract_high, extract_all, Nat.reduceSub, keep, ofBool_beq_one, split_word]
  simp [h]

theorem portrst (port : Port) (pl : Plane) (sink : Bool) (q : Sel) : Statement (.portrst port pl sink q) := by
  intro h v
  refine ⟨(congrArg (fun n => decide (40 ≤ n)) (majorOf_word _ _ _ _ _ _)).trans rfl, (decode_major49 _ _ _ _ _ v _).trans ?_, waveOf_wave _ _⟩
  simp (disch := decide) only [long49, extract_low, extract_high, extract_all, Nat.reduceSub, keep, ofBool_beq_one, split_word]
  simp [h]

theorem portstat (d : Reg) (port : Port) (pl : Plane) (sink : Bool) (q : Sel) : Statement (.portstat d port pl sink q) := by
  intro h v
  refine ⟨(congrArg (fun n => decide (40 ≤ n)) (majorOf_word _ _ _ _ _ _)).trans rfl, (decode_major49 _ _ _ _ _ v _).trans ?_, waveOf_wave _ _⟩
  simp (disch := decide) only [long49, extract_low, extract_high, extract_all, Nat.reduceSub, keep, ofBool_beq_one, split_word]
  simp [h]

theorem cfg (a : Reg) (p : Plane) (q : Sel) : Statement (.cfg a p q) := by
  intro h v
  refine ⟨(congrArg (fun n => decide (40 ≤ n)) (majorOf_word _ _ _ _ _ _)).trans rfl, (decode_major50 _ _ _ _ _ v _).trans ?_, waveOf_wave _ _⟩
  simp (disch := decide) only [long50, extract_low, extract_high, extract_all, Nat.reduceSub, keep, ofBool_beq_one, split_word]
  simp [h]

theorem cfgw (a : Reg) (b : Reg) (q : Sel) : Statement (.cfgw a b q) := by
  intro h v
  refine ⟨(congrArg (fun n => decide (40 ≤ n)) (majorOf_word _ _ _ _ _ _)).trans rfl, (decode_major50 _ _ _ _ _ v _).trans ?_, waveOf_wave _ _⟩
  simp (disch := decide) only [long50, extract_low, extract_high, extract_all, Nat.reduceSub, keep, ofBool_beq_one, split_word]
  simp [h]

theorem cfgsync (q : Sel) : Statement (.cfgsync q) := by
  intro h v
  refine ⟨(congrArg (fun n => decide (40 ≤ n)) (majorOf_word _ _ _ _ _ _)).trans rfl, (decode_major50 _ _ _ _ _ v _).trans ?_, waveOf_wave _ _⟩
  simp (disch := decide) only [long50, extract_low, extract_high, extract_all, Nat.reduceSub, keep, ofBool_beq_one, split_word]
  simp [h]

theorem planeon (pl : Plane) (q : Sel) : Statement (.planeon pl q) := by
  intro h v
  refine ⟨(congrArg (fun n => decide (40 ≤ n)) (majorOf_word _ _ _ _ _ _)).trans rfl, (decode_major50 _ _ _ _ _ v _).trans ?_, waveOf_wave _ _⟩
  simp (disch := decide) only [long50, extract_low, extract_high, extract_all, Nat.reduceSub, keep, ofBool_beq_one, split_word]
  simp [h]

theorem planeoff (pl : Plane) (q : Sel) : Statement (.planeoff pl q) := by
  intro h v
  refine ⟨(congrArg (fun n => decide (40 ≤ n)) (majorOf_word _ _ _ _ _ _)).trans rfl, (decode_major50 _ _ _ _ _ v _).trans ?_, waveOf_wave _ _⟩
  simp (disch := decide) only [long50, extract_low, extract_high, extract_all, Nat.reduceSub, keep, ofBool_beq_one, split_word]
  simp [h]

theorem arbw (wt : BitVec 8) (pl : Plane) (q : Sel) : Statement (.arbw wt pl q) := by
  intro h v
  refine ⟨(congrArg (fun n => decide (40 ≤ n)) (majorOf_word _ _ _ _ _ _)).trans rfl, (decode_major50 _ _ _ _ _ v _).trans ?_, waveOf_wave _ _⟩
  simp (disch := decide) only [long50, extract_low, extract_high, extract_all, Nat.reduceSub, keep, ofBool_beq_one, split_word]
  simp [h]

theorem mclaim (m : Slot) (q : Sel) : Statement (.mclaim m q) := by
  intro h v
  refine ⟨(congrArg (fun n => decide (40 ≤ n)) (majorOf_word _ _ _ _ _ _)).trans rfl, (decode_major51 _ _ _ _ _ v _).trans ?_, waveOf_wave _ _⟩
  simp (disch := decide) only [long51, extract_low, extract_high, extract_all, Nat.reduceSub, keep, ofBool_beq_one, split_word]
  simp [h]

theorem mrel (m : Slot) (q : Sel) : Statement (.mrel m q) := by
  intro h v
  refine ⟨(congrArg (fun n => decide (40 ≤ n)) (majorOf_word _ _ _ _ _ _)).trans rfl, (decode_major51 _ _ _ _ _ v _).trans ?_, waveOf_wave _ _⟩
  simp (disch := decide) only [long51, extract_low, extract_high, extract_all, Nat.reduceSub, keep, ofBool_beq_one, split_word]
  simp [h]

theorem mload (a : Reg) (m : Slot) (q : Sel) : Statement (.mload a m q) := by
  intro h v
  refine ⟨(congrArg (fun n => decide (40 ≤ n)) (majorOf_word _ _ _ _ _ _)).trans rfl, (decode_major51 _ _ _ _ _ v _).trans ?_, waveOf_wave _ _⟩
  simp (disch := decide) only [long51, extract_low, extract_high, extract_all, Nat.reduceSub, keep, ofBool_beq_one, split_word]
  simp [h]

theorem mstore (a : Reg) (m : Slot) (q : Sel) : Statement (.mstore a m q) := by
  intro h v
  refine ⟨(congrArg (fun n => decide (40 ≤ n)) (majorOf_word _ _ _ _ _ _)).trans rfl, (decode_major51 _ _ _ _ _ v _).trans ?_, waveOf_wave _ _⟩
  simp (disch := decide) only [long51, extract_low, extract_high, extract_all, Nat.reduceSub, keep, ofBool_beq_one, split_word]
  simp [h]

theorem mma (x : AccNo) (ma : Slot) (mb : Slot) (fmt : BitVec 3) (q : Sel) : Statement (.mma x ma mb fmt q) := by
  intro h v
  refine ⟨(congrArg (fun n => decide (40 ≤ n)) (majorOf_word _ _ _ _ _ _)).trans rfl, (decode_major51 _ _ _ _ _ v _).trans ?_, waveOf_wave _ _⟩
  simp (disch := decide) only [long51, extract_low, extract_high, extract_all, Nat.reduceSub, keep, ofBool_beq_one, split_word]
  simp [h]

theorem mtile (d : Reg) (a : Reg) (b : Reg) (x : AccNo) (ma : Slot) (fmt : BitVec 3) (q : Sel) : Statement (.mtile d a b x ma fmt q) := by
  intro h v
  refine ⟨(congrArg (fun n => decide (40 ≤ n)) (majorOf_word _ _ _ _ _ _)).trans rfl, (decode_major51 _ _ _ _ _ v _).trans ?_, waveOf_wave _ _⟩
  simp (disch := decide) only [long51, extract_low, extract_high, extract_all, Nat.reduceSub, keep, ofBool_beq_one, split_word]
  simp [h]

theorem accz (x : AccNo) (q : Sel) : Statement (.accz x q) := by
  intro h v
  refine ⟨(congrArg (fun n => decide (40 ≤ n)) (majorOf_word _ _ _ _ _ _)).trans rfl, (decode_major51 _ _ _ _ _ v _).trans ?_, waveOf_wave _ _⟩
  simp (disch := decide) only [long51, extract_low, extract_high, extract_all, Nat.reduceSub, keep, ofBool_beq_one, split_word]
  simp [h]

theorem accst (a : Reg) (x : AccNo) (fmt : BitVec 3) (q : Sel) : Statement (.accst a x fmt q) := by
  intro h v
  refine ⟨(congrArg (fun n => decide (40 ≤ n)) (majorOf_word _ _ _ _ _ _)).trans rfl, (decode_major51 _ _ _ _ _ v _).trans ?_, waveOf_wave _ _⟩
  simp (disch := decide) only [long51, extract_low, extract_high, extract_all, Nat.reduceSub, keep, ofBool_beq_one, split_word]
  simp [h]

theorem accrd (d : Reg) (b : Reg) (x : AccNo) (q : Sel) : Statement (.accrd d b x q) := by
  intro h v
  refine ⟨(congrArg (fun n => decide (40 ≤ n)) (majorOf_word _ _ _ _ _ _)).trans rfl, (decode_major51 _ _ _ _ _ v _).trans ?_, waveOf_wave _ _⟩
  simp (disch := decide) only [long51, extract_low, extract_high, extract_all, Nat.reduceSub, keep, ofBool_beq_one, split_word]
  simp [h]

theorem accpeek (d : Reg) (b : Reg) (x : AccNo) (q : Sel) : Statement (.accpeek d b x q) := by
  intro h v
  refine ⟨(congrArg (fun n => decide (40 ≤ n)) (majorOf_word _ _ _ _ _ _)).trans rfl, (decode_major51 _ _ _ _ _ v _).trans ?_, waveOf_wave _ _⟩
  simp (disch := decide) only [long51, extract_low, extract_high, extract_all, Nat.reduceSub, keep, ofBool_beq_one, split_word]
  simp [h]

theorem mtrans (a : Reg) (md : Slot) (ms : Slot) (w32 : Bool) (q : Sel) : Statement (.mtrans a md ms w32 q) := by
  intro h v
  refine ⟨(congrArg (fun n => decide (40 ≤ n)) (majorOf_word _ _ _ _ _ _)).trans rfl, (decode_major51 _ _ _ _ _ v _).trans ?_, waveOf_wave _ _⟩
  simp (disch := decide) only [long51, extract_low, extract_high, extract_all, Nat.reduceSub, keep, ofBool_beq_one, split_word]
  simp [h]

theorem cpy (a : Reg) (q : Sel) : Statement (.cpy a q) := by
  intro h v
  refine ⟨(congrArg (fun n => decide (40 ≤ n)) (majorOf_word _ _ _ _ _ _)).trans rfl, (decode_major52 _ _ _ _ _ v _).trans ?_, waveOf_wave _ _⟩
  simp (disch := decide) only [long52, extract_low, extract_high, extract_all, Nat.reduceSub, keep, ofBool_beq_one, split_word]
  simp [h]

theorem cpyx (a : Reg) (q : Sel) : Statement (.cpyx a q) := by
  intro h v
  refine ⟨(congrArg (fun n => decide (40 ≤ n)) (majorOf_word _ _ _ _ _ _)).trans rfl, (decode_major52 _ _ _ _ _ v _).trans ?_, waveOf_wave _ _⟩
  simp (disch := decide) only [long52, extract_low, extract_high, extract_all, Nat.reduceSub, keep, ofBool_beq_one, split_word]
  simp [h]

theorem gstrm (a : Reg) (q : Sel) : Statement (.gstrm a q) := by
  intro h v
  refine ⟨(congrArg (fun n => decide (40 ≤ n)) (majorOf_word _ _ _ _ _ _)).trans rfl, (decode_major52 _ _ _ _ _ v _).trans ?_, waveOf_wave _ _⟩
  simp (disch := decide) only [long52, extract_low, extract_high, extract_all, Nat.reduceSub, keep, ofBool_beq_one, split_word]
  simp [h]

theorem coll (a : Reg) (q : Sel) : Statement (.coll a q) := by
  intro h v
  refine ⟨(congrArg (fun n => decide (40 ≤ n)) (majorOf_word _ _ _ _ _ _)).trans rfl, (decode_major52 _ _ _ _ _ v _).trans ?_, waveOf_wave _ _⟩
  simp (disch := decide) only [long52, extract_low, extract_high, extract_all, Nat.reduceSub, keep, ofBool_beq_one, split_word]
  simp [h]

theorem evpop (d : Reg) (q : Sel) : Statement (.evpop d q) := by
  intro h v
  refine ⟨(congrArg (fun n => decide (40 ≤ n)) (majorOf_word _ _ _ _ _ _)).trans rfl, (decode_major52 _ _ _ _ _ v _).trans ?_, waveOf_wave _ _⟩
  simp (disch := decide) only [long52, extract_low, extract_high, extract_all, Nat.reduceSub, keep, ofBool_beq_one, split_word]
  simp [h]

theorem evwait (d : Reg) (b : Reg) (tagged : Bool) (q : Sel) : Statement (.evwait d b tagged q) := by
  intro h v
  refine ⟨(congrArg (fun n => decide (40 ≤ n)) (majorOf_word _ _ _ _ _ _)).trans rfl, (decode_major52 _ _ _ _ _ v _).trans ?_, waveOf_wave _ _⟩
  simp (disch := decide) only [long52, extract_low, extract_high, extract_all, Nat.reduceSub, keep, ofBool_beq_one, split_word]
  simp [h]

theorem launch (a : Reg) (b : Reg) (q : Sel) : Statement (.launch a b q) := by
  intro h v
  refine ⟨(congrArg (fun n => decide (40 ≤ n)) (majorOf_word _ _ _ _ _ _)).trans rfl, (decode_major52 _ _ _ _ _ v _).trans ?_, waveOf_wave _ _⟩
  simp (disch := decide) only [long52, extract_low, extract_high, extract_all, Nat.reduceSub, keep, ofBool_beq_one, split_word]
  simp [h]

theorem cardstat (d : Reg) (b : Reg) (q : Sel) : Statement (.cardstat d b q) := by
  intro h v
  refine ⟨(congrArg (fun n => decide (40 ≤ n)) (majorOf_word _ _ _ _ _ _)).trans rfl, (decode_major52 _ _ _ _ _ v _).trans ?_, waveOf_wave _ _⟩
  simp (disch := decide) only [long52, extract_low, extract_high, extract_all, Nat.reduceSub, keep, ofBool_beq_one, split_word]
  simp [h]

theorem brow (d : Reg) (q : Sel) : Statement (.brow d q) := by
  intro h v
  refine ⟨(congrArg (fun n => decide (40 ≤ n)) (majorOf_word _ _ _ _ _ _)).trans rfl, (decode_major53 _ _ _ _ _ v _).trans ?_, waveOf_wave _ _⟩
  simp (disch := decide) only [long53, extract_low, extract_high, extract_all, Nat.reduceSub, keep, ofBool_beq_one, split_word]
  simp [h]

theorem bemit (port : Port) (pl : Plane) (q : Sel) : Statement (.bemit port pl q) := by
  intro h v
  refine ⟨(congrArg (fun n => decide (40 ≤ n)) (majorOf_word _ _ _ _ _ _)).trans rfl, (decode_major53 _ _ _ _ _ v _).trans ?_, waveOf_wave _ _⟩
  simp (disch := decide) only [long53, extract_low, extract_high, extract_all, Nat.reduceSub, keep, ofBool_beq_one, split_word]
  simp [h]

theorem bstep (q : Sel) : Statement (.bstep q) := by
  intro h v
  refine ⟨(congrArg (fun n => decide (40 ≤ n)) (majorOf_word _ _ _ _ _ _)).trans rfl, (decode_major53 _ _ _ _ _ v _).trans ?_, waveOf_wave _ _⟩
  simp (disch := decide) only [long53, extract_low, extract_high, extract_all, Nat.reduceSub, keep, ofBool_beq_one, split_word]
  simp [h]

theorem bread (d : Reg) (dr : BitVec 6) (dc : BitVec 6) (q : Sel) : Statement (.bread d dr dc q) := by
  intro h v
  refine ⟨(congrArg (fun n => decide (40 ≤ n)) (majorOf_word _ _ _ _ _ _)).trans rfl, (decode_major53 _ _ _ _ _ v _).trans ?_, waveOf_wave _ _⟩
  simp (disch := decide) only [long53, extract_low, extract_high, extract_all, Nat.reduceSub, keep, ofBool_beq_one, split_word]
  simp [h]

theorem btap (port : Port) (dr : BitVec 6) (dc : BitVec 6) (pl : Plane) (q : Sel) : Statement (.btap port dr dc pl q) := by
  intro h v
  refine ⟨(congrArg (fun n => decide (40 ≤ n)) (majorOf_word _ _ _ _ _ _)).trans rfl, (decode_major53 _ _ _ _ _ v _).trans ?_, waveOf_wave _ _⟩
  simp (disch := decide) only [long53, extract_low, extract_high, extract_all, Nat.reduceSub, keep, ofBool_beq_one, split_word]
  simp [h]

theorem bstat (d : Reg) (sel : BitVec 3) (q : Sel) : Statement (.bstat d sel q) := by
  intro h v
  refine ⟨(congrArg (fun n => decide (40 ≤ n)) (majorOf_word _ _ _ _ _ _)).trans rfl, (decode_major53 _ _ _ _ _ v _).trans ?_, waveOf_wave _ _⟩
  simp (disch := decide) only [long53, extract_low, extract_high, extract_all, Nat.reduceSub, keep, ofBool_beq_one, split_word]
  simp [h]

theorem bend (q : Sel) : Statement (.bend q) := by
  intro h v
  refine ⟨(congrArg (fun n => decide (40 ≤ n)) (majorOf_word _ _ _ _ _ _)).trans rfl, (decode_major53 _ _ _ _ _ v _).trans ?_, waveOf_wave _ _⟩
  simp (disch := decide) only [long53, extract_low, extract_high, extract_all, Nat.reduceSub, keep, ofBool_beq_one, split_word]
  simp [h]

theorem bendAbort (q : Sel) : Statement (.bendAbort q) := by
  intro h v
  refine ⟨(congrArg (fun n => decide (40 ≤ n)) (majorOf_word _ _ _ _ _ _)).trans rfl, (decode_major53 _ _ _ _ _ v _).trans ?_, waveOf_wave _ _⟩
  simp (disch := decide) only [long53, extract_low, extract_high, extract_all, Nat.reduceSub, keep, ofBool_beq_one, split_word]
  simp [h]

theorem bseedC (a : Reg) (q : Sel) : Statement (.bseedC a q) := by
  intro h v
  refine ⟨(congrArg (fun n => decide (40 ≤ n)) (majorOf_word _ _ _ _ _ _)).trans rfl, (decode_major53 _ _ _ _ _ v _).trans ?_, waveOf_wave _ _⟩
  simp (disch := decide) only [long53, extract_low, extract_high, extract_all, Nat.reduceSub, keep, ofBool_beq_one, split_word]
  simp [h]

theorem bseedR (a : Reg) (q : Sel) : Statement (.bseedR a q) := by
  intro h v
  refine ⟨(congrArg (fun n => decide (40 ≤ n)) (majorOf_word _ _ _ _ _ _)).trans rfl, (decode_major53 _ _ _ _ _ v _).trans ?_, waveOf_wave _ _⟩
  simp (disch := decide) only [long53, extract_low, extract_high, extract_all, Nat.reduceSub, keep, ofBool_beq_one, split_word]
  simp [h]

theorem maprRange (d : Reg) (a : Reg) (b : Reg) (q : Sel) : Statement (.maprRange d a b q) := by
  intro h v
  refine ⟨(congrArg (fun n => decide (40 ≤ n)) (majorOf_word _ _ _ _ _ _)).trans rfl, (decode_major54 _ _ _ _ _ v _).trans ?_, waveOf_wave _ _⟩
  simp (disch := decide) only [long54, extract_low, extract_high, extract_all, Nat.reduceSub, keep, ofBool_beq_one, split_word]
  simp [h]

theorem maprPage (d : Reg) (a : Reg) (b : Reg) (q : Sel) : Statement (.maprPage d a b q) := by
  intro h v
  refine ⟨(congrArg (fun n => decide (40 ≤ n)) (majorOf_word _ _ _ _ _ _)).trans rfl, (decode_major54 _ _ _ _ _ v _).trans ?_, waveOf_wave _ _⟩
  simp (disch := decide) only [long54, extract_low, extract_high, extract_all, Nat.reduceSub, keep, ofBool_beq_one, split_word]
  simp [h]

theorem unmap (d : Reg) (a : Reg) (b : Reg) (q : Sel) : Statement (.unmap d a b q) := by
  intro h v
  refine ⟨(congrArg (fun n => decide (40 ≤ n)) (majorOf_word _ _ _ _ _ _)).trans rfl, (decode_major54 _ _ _ _ _ v _).trans ?_, waveOf_wave _ _⟩
  simp (disch := decide) only [long54, extract_low, extract_high, extract_all, Nat.reduceSub, keep, ofBool_beq_one, split_word]
  simp [h]

theorem icinv (a : Reg) (b : Reg) (scope : BitVec 3) (q : Sel) : Statement (.icinv a b scope q) := by
  intro h v
  refine ⟨(congrArg (fun n => decide (40 ≤ n)) (majorOf_word _ _ _ _ _ _)).trans rfl, (decode_major54 _ _ _ _ _ v _).trans ?_, waveOf_wave _ _⟩
  simp (disch := decide) only [long54, extract_low, extract_high, extract_all, Nat.reduceSub, keep, ofBool_beq_one, split_word]
  simp [h]

theorem hitch (q : Sel) : Statement (.hitch q) := by
  intro h v
  refine ⟨(congrArg (fun n => decide (40 ≤ n)) (majorOf_word _ _ _ _ _ _)).trans rfl, (decode_major54 _ _ _ _ _ v _).trans ?_, waveOf_wave _ _⟩
  simp (disch := decide) only [long54, extract_low, extract_high, extract_all, Nat.reduceSub, keep, ofBool_beq_one, split_word]
  simp [h]

theorem dstep (d : Reg) (a : Reg) (q : Sel) : Statement (.dstep d a q) := by
  intro h v
  refine ⟨(congrArg (fun n => decide (40 ≤ n)) (majorOf_word _ _ _ _ _ _)).trans rfl, (decode_major54 _ _ _ _ _ v _).trans ?_, waveOf_wave _ _⟩
  simp (disch := decide) only [long54, extract_low, extract_high, extract_all, Nat.reduceSub, keep, ofBool_beq_one, split_word]
  simp [h]

theorem dresume (d : Reg) (a : Reg) (b : Reg) (q : Sel) : Statement (.dresume d a b q) := by
  intro h v
  refine ⟨(congrArg (fun n => decide (40 ≤ n)) (majorOf_word _ _ _ _ _ _)).trans rfl, (decode_major54 _ _ _ _ _ v _).trans ?_, waveOf_wave _ _⟩
  simp (disch := decide) only [long54, extract_low, extract_high, extract_all, Nat.reduceSub, keep, ofBool_beq_one, split_word]
  simp [h]

theorem preempt (d : Reg) (a : Reg) (dbg : Bool) (q : Sel) : Statement (.preempt d a dbg q) := by
  intro h v
  refine ⟨(congrArg (fun n => decide (40 ≤ n)) (majorOf_word _ _ _ _ _ _)).trans rfl, (decode_major54 _ _ _ _ _ v _).trans ?_, waveOf_wave _ _⟩
  simp (disch := decide) only [long54, extract_low, extract_high, extract_all, Nat.reduceSub, keep, ofBool_beq_one, split_word]
  simp [h]

theorem keyld (d : Reg) (a : Reg) (b : Reg) (q : Sel) : Statement (.keyld d a b q) := by
  intro h v
  refine ⟨(congrArg (fun n => decide (40 ≤ n)) (majorOf_word _ _ _ _ _ _)).trans rfl, (decode_major54 _ _ _ _ _ v _).trans ?_, waveOf_wave _ _⟩
  simp (disch := decide) only [long54, extract_low, extract_high, extract_all, Nat.reduceSub, keep, ofBool_beq_one, split_word]
  simp [h]

theorem lnkctlRead (d : Reg) (a : Reg) (q : Sel) : Statement (.lnkctlRead d a q) := by
  intro h v
  refine ⟨(congrArg (fun n => decide (40 ≤ n)) (majorOf_word _ _ _ _ _ _)).trans rfl, (decode_major54 _ _ _ _ _ v _).trans ?_, waveOf_wave _ _⟩
  simp (disch := decide) only [long54, extract_low, extract_high, extract_all, Nat.reduceSub, keep, ofBool_beq_one, split_word]
  simp [h]

theorem lnkctlEnable (d : Reg) (a : Reg) (q : Sel) : Statement (.lnkctlEnable d a q) := by
  intro h v
  refine ⟨(congrArg (fun n => decide (40 ≤ n)) (majorOf_word _ _ _ _ _ _)).trans rfl, (decode_major54 _ _ _ _ _ v _).trans ?_, waveOf_wave _ _⟩
  simp (disch := decide) only [long54, extract_low, extract_high, extract_all, Nat.reduceSub, keep, ofBool_beq_one, split_word]
  simp [h]

theorem lnkctlDisable (d : Reg) (a : Reg) (q : Sel) : Statement (.lnkctlDisable d a q) := by
  intro h v
  refine ⟨(congrArg (fun n => decide (40 ≤ n)) (majorOf_word _ _ _ _ _ _)).trans rfl, (decode_major54 _ _ _ _ _ v _).trans ?_, waveOf_wave _ _⟩
  simp (disch := decide) only [long54, extract_low, extract_high, extract_all, Nat.reduceSub, keep, ofBool_beq_one, split_word]
  simp [h]

theorem lnkctlReset (d : Reg) (a : Reg) (q : Sel) : Statement (.lnkctlReset d a q) := by
  intro h v
  refine ⟨(congrArg (fun n => decide (40 ≤ n)) (majorOf_word _ _ _ _ _ _)).trans rfl, (decode_major54 _ _ _ _ _ v _).trans ?_, waveOf_wave _ _⟩
  simp (disch := decide) only [long54, extract_low, extract_high, extract_all, Nat.reduceSub, keep, ofBool_beq_one, split_word]
  simp [h]

theorem lnkctlClear (d : Reg) (a : Reg) (q : Sel) : Statement (.lnkctlClear d a q) := by
  intro h v
  refine ⟨(congrArg (fun n => decide (40 ≤ n)) (majorOf_word _ _ _ _ _ _)).trans rfl, (decode_major54 _ _ _ _ _ v _).trans ?_, waveOf_wave _ _⟩
  simp (disch := decide) only [long54, extract_low, extract_high, extract_all, Nat.reduceSub, keep, ofBool_beq_one, split_word]
  simp [h]

theorem lnkctlLongReach (d : Reg) (a : Reg) (b : Reg) (q : Sel) : Statement (.lnkctlLongReach d a b q) := by
  intro h v
  refine ⟨(congrArg (fun n => decide (40 ≤ n)) (majorOf_word _ _ _ _ _ _)).trans rfl, (decode_major54 _ _ _ _ _ v _).trans ?_, waveOf_wave _ _⟩
  simp (disch := decide) only [long54, extract_low, extract_high, extract_all, Nat.reduceSub, keep, ofBool_beq_one, split_word]
  simp [h]

theorem lnkctlEncryption (d : Reg) (a : Reg) (b : Reg) (q : Sel) : Statement (.lnkctlEncryption d a b q) := by
  intro h v
  refine ⟨(congrArg (fun n => decide (40 ≤ n)) (majorOf_word _ _ _ _ _ _)).trans rfl, (decode_major54 _ _ _ _ _ v _).trans ?_, waveOf_wave _ _⟩
  simp (disch := decide) only [long54, extract_low, extract_high, extract_all, Nat.reduceSub, keep, ofBool_beq_one, split_word]
  simp [h]

theorem lnkctlReplayTimeout (d : Reg) (a : Reg) (b : Reg) (q : Sel) : Statement (.lnkctlReplayTimeout d a b q) := by
  intro h v
  refine ⟨(congrArg (fun n => decide (40 ≤ n)) (majorOf_word _ _ _ _ _ _)).trans rfl, (decode_major54 _ _ _ _ _ v _).trans ?_, waveOf_wave _ _⟩
  simp (disch := decide) only [long54, extract_low, extract_high, extract_all, Nat.reduceSub, keep, ofBool_beq_one, split_word]
  simp [h]

theorem deferredFault (fe : Nat) (k : Nat) : Statement (.deferredFault fe k) := fun _ _ => rfl

theorem splitPhaseReply (n : Nat) : Statement (.splitPhaseReply n) := fun _ _ => rfl

theorem bankPacket (n : Nat) : Statement (.bankPacket n) := fun _ _ => rfl

theorem refusedResend (n : Nat) : Statement (.refusedResend n) := fun _ _ => rfl

theorem remoteWaitRequest (n : Nat) : Statement (.remoteWaitRequest n) := fun _ _ => rfl

theorem holdTake (n : Nat) : Statement (.holdTake n) := fun _ _ => rfl

theorem holdRelease (n : Nat) : Statement (.holdRelease n) := fun _ _ => rfl

theorem seatSave (fe : Nat) (k : Nat) : Statement (.seatSave fe k) := fun _ _ => rfl

theorem cardCheckpoint (card : Nat) : Statement (.cardCheckpoint card) := fun _ _ => rfl

theorem quantumEnd (qn : Nat) : Statement (.quantumEnd qn) := fun _ _ => rfl

theorem nopPacket (qn : Nat) : Statement (.nopPacket qn) := fun _ _ => rfl

theorem launchPacket (qn : Nat) : Statement (.launchPacket qn) := fun _ _ => rfl

theorem transformPacket (qn : Nat) : Statement (.transformPacket qn) := fun _ _ => rfl

theorem copyPacket (qn : Nat) : Statement (.copyPacket qn) := fun _ _ => rfl

theorem waitPacket (qn : Nat) : Statement (.waitPacket qn) := fun _ _ => rfl

theorem signalPacket (qn : Nat) : Statement (.signalPacket qn) := fun _ _ => rfl

theorem waitReread (qn : Nat) : Statement (.waitReread qn) := fun _ _ => rfl

theorem nodeDispatch (node : Nat) : Statement (.nodeDispatch node) := fun _ _ => rfl

theorem nodeComplete (node : Nat) (ok : Bool) : Statement (.nodeComplete node ok) := fun _ _ => rfl

theorem regionPlace (launch : Nat) : Statement (.regionPlace launch) := fun _ _ => rfl

theorem deal (launch : Nat) : Statement (.deal launch) := fun _ _ => rfl

theorem planeFire (fe : Nat) : Statement (.planeFire fe) := fun _ _ => rfl

theorem arbiterEpoch (fe : Nat) : Statement (.arbiterEpoch fe) := fun _ _ => rfl

theorem groupRetire (fe : Nat) : Statement (.groupRetire fe) := fun _ _ => rfl

theorem stage0RowRead (fe : Nat) : Statement (.stage0RowRead fe) := fun _ _ => rfl

theorem rowSliceArrival (fe : Nat) (chan : Nat) : Statement (.rowSliceArrival fe chan) := fun _ _ => rfl

theorem emissionComplete (fe : Nat) : Statement (.emissionComplete fe) := fun _ _ => rfl

theorem rowRetire (fe : Nat) : Statement (.rowRetire fe) := fun _ _ => rfl

theorem cascadeRelease (casc : Nat) : Statement (.cascadeRelease casc) := fun _ _ => rfl

theorem enginePacketLanding (card : Nat) (rcv : Nat) : Statement (.enginePacketLanding card rcv) := fun _ _ => rfl

theorem pileOpAtHome (n : Nat) : Statement (.pileOpAtHome n) := fun _ _ => rfl

theorem meldPointArrival (n : Nat) (point : Nat) : Statement (.meldPointArrival n point) := fun _ _ => rfl

theorem meldWindowExpiry (n : Nat) : Statement (.meldWindowExpiry n) := fun _ _ => rfl

theorem streamRelatch (fe : Nat) (pl : Nat) (port : Nat) : Statement (.streamRelatch fe pl port) := fun _ _ => rfl

theorem relatchToken (ctx : Nat) : Statement (.relatchToken ctx) := fun _ _ => rfl

theorem unmapComplete (ctx : Nat) : Statement (.unmapComplete ctx) := fun _ _ => rfl

theorem configPacketApply (n : Nat) : Statement (.configPacketApply n) := fun _ _ => rfl

theorem portCommandComplete (fe : Nat) (pl : Nat) (port : Nat) : Statement (.portCommandComplete fe pl port) := fun _ _ => rfl

theorem sparseRowCheck (fe : Nat) : Statement (.sparseRowCheck fe) := fun _ _ => rfl

theorem arrayCommandPerform (fe : Nat) : Statement (.arrayCommandPerform fe) := fun _ _ => rfl

theorem mtileStep (fe : Nat) : Statement (.mtileStep fe) := fun _ _ => rfl

theorem followOnMma (card : Nat) (rcv : Nat) : Statement (.followOnMma card rcv) := fun _ _ => rfl

theorem cardCheck (card : Nat) : Statement (.cardCheck card) := fun _ _ => rfl

theorem completionRecordPost (card : Nat) : Statement (.completionRecordPost card) := fun _ _ => rfl

theorem eventRecordArrival (n : Nat) : Statement (.eventRecordArrival n) := fun _ _ => rfl

theorem eventRecordRetry (n : Nat) : Statement (.eventRecordRetry n) := fun _ _ => rfl

theorem nakReceive (link : BitVec 32) (ackSeq : Nat) : Statement (.nakReceive link ackSeq) := fun _ _ => rfl

theorem ackReceive (link : BitVec 32) (ackSeq : Nat) : Statement (.ackReceive link ackSeq) := fun _ _ => rfl

theorem riggingRoute (n : Nat) : Statement (.riggingRoute n) := fun _ _ => rfl

theorem hitchMarker (job : BitVec 16) (epoch : BitVec 8) (cause : CauseWords) : Statement (.hitchMarker job epoch cause) := fun _ _ => rfl

theorem guRequest (n : Nat) : Statement (.guRequest n) := fun _ _ => rfl

theorem fillComplete (gu : Nat) (seg : Nat) (wb : Bool) (ecc : EccResult) : Statement (.fillComplete gu seg wb ecc) := fun _ _ => rfl

theorem rowSwap (gu : Nat) (ch : Nat) (bank : Nat) (row : Nat) : Statement (.rowSwap gu ch bank row) := fun _ _ => rfl

theorem collRingStep (card : Nat) : Statement (.collRingStep card) := fun _ _ => rfl

theorem channelClosed (chan : Nat) : Statement (.channelClosed chan) := fun _ _ => rfl

theorem waitevDeadline (fe : Nat) (k : Nat) : Statement (.waitevDeadline fe k) := fun _ _ => rfl

theorem waitRequestReply (n : Nat) : Statement (.waitRequestReply n) := fun _ _ => rfl

theorem popwAnswer (n : Nat) : Statement (.popwAnswer n) := fun _ _ => rfl

theorem rowCopyComplete (gu : Nat) (ch : Nat) (bank : Nat) (row : Nat) : Statement (.rowCopyComplete gu ch bank row) := fun _ _ => rfl

theorem contextBind (ctx : Nat) (img : BindImage) : Statement (.contextBind ctx img) := fun _ _ => rfl

theorem edgeCoreStart (die : Nat) (hand : BitVec 64) : Statement (.edgeCoreStart die hand) := fun _ _ => rfl

theorem knock (qn : Nat) (wptr : BitVec 32) : Statement (.knock qn wptr) := fun _ _ => rfl

theorem queueEnable (qn : Nat) : Statement (.queueEnable qn) := fun _ _ => rfl

theorem preemptionRequest (ctx : Nat) (cause : BitVec 2) : Statement (.preemptionRequest ctx cause) := fun _ _ => rfl

theorem contextUnbind (ctx : Nat) : Statement (.contextUnbind ctx) := fun _ _ => rfl

theorem contextResume (ctx : Nat) (moves : List (Nat × Nat)) : Statement (.contextResume ctx moves) := fun _ _ => rfl

theorem contextKill (ctx : Nat) : Statement (.contextKill ctx) := fun _ _ => rfl

theorem queueDisable (qn : Nat) : Statement (.queueDisable qn) := fun _ _ => rfl

theorem queueReset (qn : Nat) (rptr : BitVec 32) : Statement (.queueReset qn rptr) := fun _ _ => rfl

theorem priorityAging (qn : Nat) : Statement (.priorityAging qn) := fun _ _ => rfl

theorem stageFaultRecord (fe : Nat) (code : BitVec 8) (kind : BitVec 2) (row : BitVec 32) (col : BitVec 13) (addr : BitVec 64) : Statement (.stageFaultRecord fe code kind row col addr) := fun _ _ => rfl

theorem barrierArrival (fe : Nat) (bar : Nat) (amount : Nat) : Statement (.barrierArrival fe bar amount) := fun _ _ => rfl

theorem errorArrival (fe : Nat) (bar : Nat) : Statement (.errorArrival fe bar) := fun _ _ => rfl

theorem injectionStarvation (fe : Nat) : Statement (.injectionStarvation fe) := fun _ _ => rfl

theorem spliceFlitReceive (link : BitVec 32) (seq : Nat) (crcOk : Bool) (hdrOk : Bool) : Statement (.spliceFlitReceive link seq crcOk hdrOk) := fun _ _ => rfl

theorem riggingFlitReceive (link : BitVec 32) (flit : Flit) (crcOk : Bool) (tagOk : Bool) (hdrOk : Bool) : Statement (.riggingFlitReceive link flit crcOk tagOk hdrOk) := fun _ _ => rfl

theorem replayTimeout (link : BitVec 32) : Statement (.replayTimeout link) := fun _ _ => rfl

theorem ackInterval (link : BitVec 32) : Statement (.ackInterval link) := fun _ _ => rfl

theorem framePad (link : BitVec 32) : Statement (.framePad link) := fun _ _ => rfl

theorem keySoon (link : BitVec 32) : Statement (.keySoon link) := fun _ _ => rfl

theorem keySwitch (link : BitVec 32) : Statement (.keySwitch link) := fun _ _ => rfl

theorem linkTrained (link : BitVec 32) (out : Training) : Statement (.linkTrained link out) := fun _ _ => rfl

theorem trainingAttemptFail (link : BitVec 32) : Statement (.trainingAttemptFail link) := fun _ _ => rfl

theorem laneFailure (link : BitVec 32) (ucie : BitVec 2) : Statement (.laneFailure link ucie) := fun _ _ => rfl

theorem ucieRetrainDone (link : BitVec 32) (ucie : BitVec 2) : Statement (.ucieRetrainDone link ucie) := fun _ _ => rfl

theorem fecMarginLow (link : BitVec 32) : Statement (.fecMarginLow link) := fun _ _ => rfl

theorem lossOfSignal (link : BitVec 32) : Statement (.lossOfSignal link) := fun _ _ => rfl

theorem linkTimeout (n : Nat) : Statement (.linkTimeout n) := fun _ _ => rfl

theorem debuggerHitchRequest (job : BitVec 16) : Statement (.debuggerHitchRequest job) := fun _ _ => rfl

theorem fillMergeWindow (gu : Nat) (seg : Nat) : Statement (.fillMergeWindow gu seg) := fun _ _ => rfl

theorem swapWindowEnd (gu : Nat) : Statement (.swapWindowEnd gu) := fun _ _ => rfl

theorem heartbeatReceived (gu : Nat) : Statement (.heartbeatReceived gu) := fun _ _ => rfl

theorem heartbeatMissed (gu : Nat) : Statement (.heartbeatMissed gu) := fun _ _ => rfl

theorem trcmdReadTest (chan : Nat) : Statement (.trcmdReadTest chan) := fun _ _ => rfl

theorem trcmdWriteTest (chan : Nat) : Statement (.trcmdWriteTest chan) := fun _ _ => rfl

theorem trcmdPatternTest (chan : Nat) : Statement (.trcmdPatternTest chan) := fun _ _ => rfl

theorem trbcast (chan : Nat) (v : BitVec 64) : Statement (.trbcast chan v) := fun _ _ => rfl

theorem trrepair (chan : Nat) (v : BitVec 64) : Statement (.trrepair chan v) := fun _ _ => rfl

theorem trctlOpen (chan : Nat) : Statement (.trctlOpen chan) := fun _ _ => rfl

theorem trctlClose (chan : Nat) : Statement (.trctlClose chan) := fun _ _ => rfl

theorem handback (gu : Nat) : Statement (.handback gu) := fun _ _ => rfl

theorem pwrctlWrite (v : BitVec 64) : Statement (.pwrctlWrite v) := fun _ _ => rfl

theorem clockThrottle (power : BitVec 16) (temp : BitVec 8) : Statement (.clockThrottle power temp) := fun _ _ => rfl

theorem moduleidWrite (v : BitVec 64) : Statement (.moduleidWrite v) := fun _ _ => rfl

theorem ctxctlWrite (ctx : Nat) (v : BitVec 64) : Statement (.ctxctlWrite ctx v) := fun _ _ => rfl

theorem routeTableWrite (n : Nat) (v : BitVec 64) : Statement (.routeTableWrite n v) := fun _ _ => rfl

theorem registerWrite (reg : BitVec 32) (v : BitVec 64) (bytes : Nat) : Statement (.registerWrite reg v bytes) := fun _ _ => rfl

theorem dataTokenArrival (fe : Nat) (pl : Nat) (port : Nat) (seq : BitVec 16) (words : List (BitVec 32)) (eor : Bool) (last : Bool) : Statement (.dataTokenArrival fe pl port seq words eor last) := fun _ _ => rfl

theorem refresh (gu : Nat) : Statement (.refresh gu) := fun _ _ => rfl

theorem handFetch : Statement (.handFetch) := fun _ _ => rfl

theorem handCommit : Statement (.handCommit) := fun _ _ => rfl

theorem mapperBind : Statement (.mapperBind) := fun _ _ => rfl

theorem receiverRelease : Statement (.receiverRelease) := fun _ _ => rfl

theorem senderRelease : Statement (.senderRelease) := fun _ _ => rfl

theorem belayDistance : Statement (.belayDistance) := fun _ _ => rfl

theorem hostLinkDown : Statement (.hostLinkDown) := fun _ _ => rfl

theorem powerGood : Statement (.powerGood) := fun _ _ => rfl

theorem mscFailover : Statement (.mscFailover) := fun _ _ => rfl

end Sys2Proof.Laws.EncodesBack
end

