-- ==== Sys2Proof/Tests/Slice0.lean ====
section
/-!
SUPPORT. Tests: the decoding of every instruction from a word put together by the manual's layouts, a term that each check of
WellFormed refuses, single instructions with results the manual writes out, and for every obligation with hypotheses a state
and operands that meet them.
-/

namespace Sys2Proof.Tests
open Sys2Proof Sys2Proof.Machine
-- one theorem after another: many at once would each take a thread and its stack
set_option Elab.async false

/-! ### Sample states -/

/-- A hand of an FE's first seat, with eight slots, in which s1 = 0x100, s2 = 7 and s3 = 0x10040. -/
def sampleHand : Hand :=
  { addr := 0x10000, next := 0x10040, belay := true, slots := List.replicate 8 { lo := 0 }
    work := { s := ((Vector.replicate 64 0).set 1 0x100 |>.set 2 7 |>.set 3 0x10040) } }

/-- The seat that runs it. -/
def sampleSeat (h : Hand) : Seat :=
  { st := .running, pc := h.addr, hand := some h, ctx := 1, spillbase := 0x1000, ovfptr := 0x18000, ovflim := 0x12000 }

/-- A context that maps 64 KiB of HBM at 0x1_0000 and the scratchpad of FE 0 at 0x10_0000. -/
def sampleCtx : Ctx :=
  { st := .running, job := 7
    ranges := [(0, { img := { base := 0x10000, limit := 0x20000, pa := 0, perm := 0xF } }),
               (1, { img := { base := 0x100000, limit := 0x180000, pa := 0x100000000000, perm := 0x7 } })] }

/-- The FE on which that seat runs. -/
def sampleFe (t : Seat) : FE := { holder := some 1, idle := false, seats := #v[t, {}, {}, {}] }

/-- A state in which that seat is in turn. -/
def sampleState (h : Hand) : State :=
  { State.reset with
    agenda := [], boot := 9
    fes := [(0, sampleFe (sampleSeat h))]
    ctxs := [(1, sampleCtx)] }

/-- A slot issues in a state whose seat in turn has counted nothing yet. -/
theorem issues_of {s : State} {h : Hand} {q : Sel} {w : Nat} (hs : s.curSeat < 4) (hh : (cur s).hand = some h)
    (hq : selOn h q = true) (hc : (cur s).belayCnt = 0) (hw : w ≤ h.work.belayMax.toNat)
    (hk : h.walked = [] := by rfl) : Issues s h q w :=
  ⟨hs, hh, hq, .inr (.inr (by simpa [hc] using hw)), hk⟩

theorem waits_of {s : State} (h : (cur s).stepping = false ∧ (ctxAt s (cur s).ctx).st ∉ ([.preempting, .stopped] : List CtxState) ∧ jobFrozen s (cur s).ctx = false ∧
    s.gus = []) : MayWait s := ⟨h.1, h.2.1, h.2.2.1, by simp [h.2.2.2]⟩

/-- The sample state with a write of its seat to 8 bytes at a physical address in flight. -/
def behindState (h : Hand) (pa : Nat) (op : ReqOp) : State :=
  { sampleState h with reqs := [{ id := 1, ctx := 1, fe := 0, seat := 0, hand := 0, va := 0, pa := pa, op := op }] }

theorem performed_of {s : State} (h : ∀ x ∈ awaiting s, sameSeat x s.curFe s.curSeat = false) : Performed s := h

/-- Nothing that the seat in turn has sent is in flight, so that what it does at its own FE comes behind nothing. -/
theorem apart_of {s : State} (off n : Nat) (h : unperformed s = []) : Apart s off n := by simp [Apart, h]

/-- The sample seat at a hand boundary, with memory from 0x1_0000 on as given and with enforcement off. -/
def fetchState (m : List Host.Cell) (t : Seat) : State :=
  { sampleState sampleHand with mem := m, fes := [(0, sampleFe { t with arch := { t.arch with belayEn := false } })] }

/-- The sample seat with no hand. -/
def restSeat : Seat := { sampleSeat sampleHand with hand := none }

/-! ### Decoding

Words put together field by field from the layouts of 14 R218 and R221 and the codes of 15 R245 to R252 and of chapters 16
to 19; where the manual writes a word out, the word as it stands there. -/

/-- A first word of form R (14 R218). -/
def formR (major sd sa sb fn : Nat) (q : Nat := 0) : W32 :=
  BitVec.ofNat 32 (major * 2 ^ 26 + sd * 2 ^ 20 + sa * 2 ^ 14 + sb * 2 ^ 8 + fn * 2 ^ 4 + q)

/-- A first word of form I (14 R218). -/
def formI (major sd sa imm : Nat) (q : Nat := 0) : W32 :=
  BitVec.ofNat 32 (major * 2 ^ 26 + sd * 2 ^ 20 + sa * 2 ^ 14 + imm * 2 ^ 4 + q)

/-- Every word of the list decodes to the instruction beside it; the second word carries that EXT (14 R221) and the wave tags
of a hand's only 64-bit instruction. -/
def decodesAs (l : List (W32 × Nat × Instr)) : Bool :=
  l.all fun (lo, ext, i) =>
    match decode lo (BitVec.ofNat 32 (127 * 2 ^ 18 + 127 * 2 ^ 11 + ext)) with
    | .ok j => j == i
    | .error _ => false

/-- The words are refused with that name. -/
def refusedAs (e : DecodeError) (l : List (W32 × Nat)) : Bool :=
  l.all fun (lo, ext) =>
    match decode lo (BitVec.ofNat 32 (127 * 2 ^ 18 + 127 * 2 ^ 11 + ext)) with
    | .ok _ => false
    | .error f => f == e

/-- The hand that 15 writes out word by word, and the two other words given there. -/
theorem test_decode_worked_examples :
    decode 0xB8400280 0x01FC0800 = .ok (.lit 0 4 0x028 0) ∧ decode 0x04304420 0 = .ok (.mul 3 1 4 0) ∧
    decode 0x0430C200 0 = .ok (.add 3 3 2 0) ∧ decode 0x2C500100 0 = .ok (.movi 5 0x100) ∧
    decode 0xA8314010 0x0203F800 = .ok (.st 2 3 5 0 0) ∧ decode 0x00000010 0 = .ok (.halt 0) ∧
    decode 0x0D104230 0 = .ok (.cmp 3 2 1 1 2 0) ∧ decode 0xA8420040 0x01FFF800 = .ok (.ldf 4 8 0 false 0) ∧
    decode 0 0 = .ok (.nop 0) := ⟨rfl, rfl, rfl, rfl, rfl, rfl, rfl, rfl, rfl⟩

theorem test_decode_control :
    decodesAs [(formR 0x00 0 0 0 0 9, 0, .nop 9), (formR 0x00 0 0 0 1, 0, .halt 0), (formR 0x00 0 0 0 2, 0, .yield 0),
      (formR 0x00 0 0 0 3, 0, .brk 0), (formR 0x00 0 0 0 4, 0, .eret 0), (formR 0x00 6 7 0 5, 0, .waitev 6 7 0),
      (formI 0x18 0 0 0 + 5 * 16, 0, .br 5 0), (formI 0x19 0x3F 0x3F 0x3FF, 0, .call (-1) 0), (formI 0x1A 0 0 3 2, 0, .skip 3 2),
      (formI 0x1B 2 9 0x3FE, 0, .loop 2 9 0x3FE 0), (formR 0x1C 0 5 0 0, 0, .calli 5 0), (formR 0x1C 0 5 0 1, 0, .jmpi 5 0),
      (formR 0x1C 0 0 0 2, 0, .ret 0), (formR 0x1C 1 0 0 3, 0, .loopbrk 1 0), (formI 0x1D 0 0 0x155, 0, .svc 0x155 0),
      (formI 0x1E 0 0 0x2AA, 0, .trap 0x2AA 0), (formR 0x20 4 0 0x14 0, 0, .csrr 4 0x14 0), (formR 0x20 0 4 0x11 1, 0, .csrw 0x11 4 0),
      (formR 0x20 3 4 0x12 2, 0, .csrx 3 0x12 4 0)] = true := by decide

theorem test_decode_integer :
    decodesAs [(formR 0x01 1 2 3 0, 0, .add 1 2 3 0), (formR 0x01 1 2 3 1, 0, .sub 1 2 3 0), (formR 0x01 1 2 3 2, 0, .mul 1 2 3 0),
      (formR 0x01 1 2 3 3, 0, .mulh 1 2 3 0), (formR 0x01 1 2 3 4, 0, .mulhn 1 2 3 0), (formR 0x01 1 2 3 5, 0, .div 1 2 3 0),
      (formR 0x01 1 2 3 6, 0, .divn 1 2 3 0), (formR 0x01 1 2 3 7, 0, .rem 1 2 3 0), (formR 0x01 1 2 3 8, 0, .remn 1 2 3 0),
      (formR 0x01 1 2 3 9, 0, .and 1 2 3 0), (formR 0x01 1 2 3 10, 0, .or 1 2 3 0), (formR 0x01 1 2 3 11, 0, .xor 1 2 3 0),
      (formR 0x01 1 2 3 12, 0, .andn 1 2 3 0), (formR 0x01 1 2 3 13, 0, .shl 1 2 3 0), (formR 0x01 1 2 3 14, 0, .shr 1 2 3 0),
      (formR 0x01 1 2 3 15, 0, .sra 1 2 3 0), (formR 0x02 1 2 3 0, 0, .rotl 1 2 3 0), (formR 0x02 1 2 0 1, 0, .clz 1 2 0),
      (formR 0x02 1 2 0 2, 0, .ctz 1 2 0), (formR 0x02 1 2 0 3, 0, .popc 1 2 0), (formR 0x02 1 2 3 4, 0, .min 1 2 3 0),
      (formR 0x02 1 2 3 5, 0, .max 1 2 3 0), (formR 0x02 1 2 3 6, 0, .minn 1 2 3 0), (formR 0x02 1 2 3 7, 0, .maxn 1 2 3 0),
      (formR 0x02 1 2 3 8, 0, .sel 1 2 3 0), (formR 0x02 1 2 0 9, 0, .mov 1 2 0)] = true := by decide

theorem test_decode_predicates :
    decodesAs [(formR 0x03 (5 * 8 + 6) 2 3 7, 0, .cmp 7 5 6 2 3 0), (formR 0x03 (6 * 8 + 1) 2 3 8, 0, .fcmp 6 1 2 3 0),
      (formR 0x04 1 2 3 0, 0, .pand 1 2 3 0), (formR 0x04 1 2 3 1, 0, .por 1 2 3 0), (formR 0x04 1 2 3 2, 0, .pxor 1 2 3 0),
      (formR 0x04 1 2 0 3, 0, .pnot 1 2 0), (formI 0x0A (7 * 8 + 2) 9 0x3FF, 0, .cmpi 7 2 9 0x3FF 0)] = true := by decide

theorem test_decode_immediates :
    decodesAs [(formI 0x05 1 2 0x200, 0, .addi 1 2 0x200 0), (formI 0x06 1 2 3, 0, .andi 1 2 3 0), (formI 0x07 1 2 3, 0, .ori 1 2 3 0),
      (formI 0x08 1 2 3, 0, .xori 1 2 3 0), (formR 0x09 1 2 63 0, 0, .shli 1 2 63 0), (formR 0x09 1 2 3 1, 0, .shri 1 2 3 0),
      (formR 0x09 1 2 3 2, 0, .srai 1 2 3 0), (formI 0x0B 1 0 0 + 0x80001, 0, .movi 1 0x80001),
      (formI 0x0C 1 0 0 + 0xABCDE, 0, .movhi 1 0xABCDE)] = true := by decide

theorem test_decode_float :
    decodesAs [(formR 0x10 1 2 3 0, 0, .fadd 1 2 3 0), (formR 0x10 1 2 3 1, 0, .fsub 1 2 3 0), (formR 0x10 1 2 3 2, 0, .fmul 1 2 3 0),
      (formR 0x10 1 2 3 3, 0, .fdiv 1 2 3 0), (formR 0x10 1 2 3 4, 0, .fmin 1 2 3 0), (formR 0x10 1 2 3 5, 0, .fmax 1 2 3 0),
      (formR 0x10 1 2 0 6, 0, .fabs 1 2 0), (formR 0x10 1 2 0 7, 0, .fneg 1 2 0), (formR 0x11 1 2 3 0, 0, .ffma 1 2 3 0),
      (formR 0x12 1 2 0 0, 0, .frcp 1 2 0), (formR 0x12 1 2 0 1, 0, .frsq 1 2 0), (formR 0x12 1 2 0 2, 0, .fsqrt 1 2 0),
      (formR 0x12 1 2 0 3, 0, .fexp2 1 2 0), (formR 0x12 1 2 0 4, 0, .flog2 1 2 0), (formR 0x13 1 2 15 4, 0, .fcvt 4 15 1 2 0),
      (formR 0x14 1 2 3 0, 0, .extN 1 2 3 0), (formR 0x14 1 2 3 1, 0, .extI 1 2 3 0), (formR 0x14 1 2 3 2, 0, .ins 1 2 3 0)] = true := by
  decide

theorem test_decode_memory :
    decodesAs [(formR 0x28 1 2 0x3F 0, 0x7FF, .ld 0 1 2 0xFFFF true 0), (formR 0x29 1 2 0x10 1, 0, .st 1 1 2 0x8000 0),
      (formR 0x2B 1 2 0 2, 8, .ldg 3 1 2 8 false 0), (formR 0x2A 1 2 1 3, 1, .stg 2 1 2 0x801 0),
      (formR 0x2A 1 2 0x20 4, 4, .ldf 1 2 4 true 0), (formR 0x2A 1 2 0 5, 4, .ldx 1 2 4 false 0), (formR 0x2A 1 2 0 6, 4, .stf 1 2 4 0),
      (formR 0x2A 1 2 0 7, 4, .setf 1 2 4 0), (formR 0x2A 0 2 0 8, 4, .clre 2 4 0), (formR 0x2A 1 2 0 9, 4, .tagrd 1 2 4 0),
      (formR 0x2A 1 2 0 10, 4, .ldfG 1 2 4 false 0), (formR 0x2A 1 2 0x20 11, 4, .ldxG 1 2 4 true 0),
      (formR 0x2A 1 2 0 12, 4, .stfG 1 2 4 0), (formR 0x2A 1 2 0 13, 4, .setfG 1 2 4 0), (formR 0x2A 0 2 0 14, 4, .clreG 2 4 0),
      (formR 0x2A 1 2 0 15, 4, .tagrdG 1 2 4 0), (formI 0x2E 7 2 0x3FF, 0x400, .lit 2 7 0x1003FF 0),
      (formI 0x2E 7 3 1, 1, .lea 7 0x401 0)] = true := by decide

theorem test_decode_atomics :
    decodesAs [(formR 0x2C 1 2 3 0, 0x7FB, .aadd 1 2 3 0xFF false true true 0), (formR 0x2C 0 2 3 1, 4, .amin 0 2 3 0 true false false 0),
      (formR 0x2C 1 2 3 2, 8, .amax 1 2 3 1 false false false 0), (formR 0x2C 1 2 3 3, 1, .aminn 1 2 3 0 false false true 0),
      (formR 0x2C 1 2 3 4, 2, .amaxn 1 2 3 0 false true false 0), (formR 0x2C 1 2 3 5, 0, .aand 1 2 3 0 false false false 0),
      (formR 0x2C 1 2 3 6, 0, .aor 1 2 3 0 false false false 0), (formR 0x2C 1 2 3 7, 0, .axor 1 2 3 0 false false false 0),
      (formR 0x2C 1 2 3 8, 0, .axchg 1 2 3 0 false false false 0), (formR 0x2C 1 2 4 9, 0, .acas 1 2 4 0 false false false 0),
      (formR 0x2C 1 2 3 10, 2, .afadd 1 2 3 0 false true 0), (formR 0x2C 0 2 3 11, 0x401, .asig 2 3 0x80 false true 0),
      (formR 0x2D 1 2 3 0, 2, .pinit 1 2 3 0 true 0), (formR 0x2D 1 2 3 1, 8, .push 1 2 3 1 false 0),
      (formR 0x2D 1 2 0 2, 0, .pop 1 2 0 false 0), (formR 0x2D 1 2 3 3, 0x7FA, .popw 1 2 3 0xFF true 0)] = true := by decide

theorem test_decode_barriers :
    decodesAs [(formR 0x2F 0 2 3 0, 8, .binit 2 3 true false 0), (formR 0x2F 0 2 3 0, 4, .binit 2 3 false true 0),
      (formR 0x2F 0 2 3 1, 2, .barr 2 3 true 0), (formR 0x2F 1 2 3 2, 0, .bwait 1 2 3 false 0),
      (formR 0x2F 1 2 0 3, 2, .btest 1 2 true 0), (formR 0x2F 0 2 0 4, 0, .brst 2 0), (formR 0x2F 0 0 0 5, 0x15, .fenceLd 5 0),
      (formR 0x2F 0 0 0 5, 0x20, .fenceSt 0 0), (formR 0x2F 0 0 0 5, 0x33, .fenceAll 3 0)] = true := by decide

theorem test_decode_streams :
    decodesAs [(formR 0x30 15 2 3 0, 0x602, .sinDense 15 2 3 3 false 2 0), (formR 0x30 1 2 3 0, 0x0C, .sinExpand 1 2 3 0 true 0 0),
      (formR 0x30 1 2 3 1, 0x201, .soutDense 1 2 3 1 false 1 0), (formR 0x30 1 2 3 1, 0x40A, .soutSparse 1 2 3 2 false 2 0),
      (formR 0x30 1 2 0 2, 0x202, .spush 1 2 1 true false 0), (formR 0x30 1 2 0 2, 1, .spush 1 2 0 false true 0),
      (formR 0x30 1 14 0 3, 0x400, .spull 1 14 2 0), (formR 0x30 1 14 0 4, 0, .speek 1 14 0 0),
      (formR 0x31 9 0 0 0, 0x201, .portrst 9 1 true 0), (formR 0x31 1 9 0 1, 0x600, .portstat 1 9 3 false 0)] = true := by decide

theorem test_decode_planes :
    decodesAs [(formR 0x32 0 2 0 0, 3, .cfg 2 3 0), (formR 0x32 0 2 3 1, 0, .cfgw 2 3 0), (formR 0x32 0 0 0 2, 0, .cfgsync 0),
      (formR 0x32 0 0 0 3, 1, .planeon 1 0), (formR 0x32 0 0 0 4, 2, .planeoff 2 0),
      (formR 0x32 0 0 0 5, 0x7FA, .arbw 0xFF 2 0)] = true := by decide

theorem test_decode_matrix :
    decodesAs [(formR 0x33 0 0 0 0, 0xF8, .mclaim 31 0), (formR 0x33 0 0 0 1, 8, .mrel 1 0), (formR 0x33 0 2 0 2, 0x10, .mload 2 2 0),
      (formR 0x33 0 2 0 3, 0x18, .mstore 2 3 0), (formR 0x33 0 0 9 4, 0x724, .mma 7 4 9 4 0),
      (formR 0x33 1 2 3 5, 0x1F1, .mtile 1 2 3 1 30 1 0), (formR 0x33 0 0 0 6, 0x500, .accz 5 0), (formR 0x33 0 2 0 7, 0x302, .accst 2 3 2 0),
      (formR 0x33 1 0 3 8, 0x202, .accrd 1 3 2 0), (formR 0x33 1 0 3 9, 0x702, .accpeek 1 3 7 0),
      (formR 0x33 0 2 6 10, 0x2A, .mtrans 2 6 5 true 0), (formR 0x33 0 2 6 10, 0x28, .mtrans 2 6 5 false 0)] = true := by decide

theorem test_decode_engines :
    decodesAs [(formR 0x34 0 2 0 0, 0, .cpy 2 0), (formR 0x34 0 2 0 1, 0, .cpyx 2 0), (formR 0x34 0 2 0 2, 0, .gstrm 2 0),
      (formR 0x34 0 2 0 3, 0, .coll 2 0), (formR 0x34 4 0 0 4, 0, .evpop 4 0), (formR 0x34 4 0 0 5, 0, .evwait 4 0 false 0),
      (formR 0x34 4 0 3 5, 1, .evwait 4 3 true 0), (formR 0x34 0 2 3 6, 0, .launch 2 3 0), (formR 0x34 1 0 3 7, 0, .cardstat 1 3 0)] = true := by
  decide

theorem test_decode_cascades :
    decodesAs [(formR 0x35 1 0 0 0, 0, .brow 1 0), (formR 0x35 12 0 0 1, 0x400, .bemit 12 2 0), (formR 0x35 0 0 0 2, 0, .bstep 0),
      (formR 0x35 1 0x30 0x10 3, 0, .bread 1 (-16) 16 0), (formR 0x35 12 1 0x3F 4, 0x200, .btap 12 1 (-1) 1 0),
      (formR 0x35 1 0 0 5, 4, .bstat 1 4 0), (formR 0x35 0 0 0 6, 0, .bend 0), (formR 0x35 0 0 0 6, 1, .bendAbort 0),
      (formR 0x35 0 2 0 7, 0, .bseedC 2 0), (formR 0x35 0 2 0 7, 1, .bseedR 2 0)] = true := by decide

theorem test_decode_system :
    decodesAs [(formR 0x36 1 2 3 0, 0, .maprRange 1 2 3 0), (formR 0x36 1 2 3 0, 1, .maprPage 1 2 3 0), (formR 0x36 1 2 3 1, 0, .unmap 1 2 3 0),
      (formR 0x36 0 2 3 2, 5, .icinv 2 3 5 0), (formR 0x36 0 0 0 3, 0, .hitch 0), (formR 0x36 1 2 0 4, 0, .dstep 1 2 0),
      (formR 0x36 1 2 3 5, 0, .dresume 1 2 3 0), (formR 0x36 1 2 0 6, 1, .preempt 1 2 true 0), (formR 0x36 1 2 3 7, 0, .keyld 1 2 3 0),
      (formR 0x36 1 2 0 8, 0, .lnkctlRead 1 2 0), (formR 0x36 1 2 0 8, 1, .lnkctlEnable 1 2 0), (formR 0x36 1 2 0 8, 2, .lnkctlDisable 1 2 0),
      (formR 0x36 1 2 0 8, 3, .lnkctlReset 1 2 0), (formR 0x36 1 2 0 8, 4, .lnkctlClear 1 2 0), (formR 0x36 1 2 3 8, 5, .lnkctlLongReach 1 2 3 0),
      (formR 0x36 1 2 3 8, 6, .lnkctlEncryption 1 2 3 0), (formR 0x36 1 2 3 8, 7, .lnkctlReplayTimeout 1 2 3 0)] = true := by decide

/-- 15 R242: the unassigned majors and minors, the tagged minors outside major 0x2A, and FCVT between two integer codes. -/
theorem test_decode_illegal :
    refusedAs .illegalOpcode [(formR 0x0D 0 0 0 0, 0), (formR 0x15 0 0 0 0, 0), (formR 0x1F 0 0 0 0, 0), (formR 0x21 0 0 0 0, 0),
      (formR 0x37 0 0 0 0, 0), (formR 0x3F 0 0 0 0, 0), (formR 0x00 0 0 0 6, 0), (formR 0x02 0 0 0 10, 0), (formR 0x28 0 0 0 4, 0),
      (formR 0x29 0 0 0 9, 0), (formR 0x2B 0 0 0 15, 0), (formR 0x13 1 2 8 9, 0), (formI 0x2E 1 4 0, 0), (formR 0x36 0 0 0 9, 0)] = true := by decide

/-- 15 R242: reserved codes, numbers out of range and nonzero fields that an entry does not use. -/
theorem test_decode_reserved :
    refusedAs .reservedField [(formR 0x00 1 0 0 0, 0), (formR 0x03 (6 * 8) 0 0 0, 0), (formR 0x03 (7 * 8) 0 0 8, 0), (formR 0x04 8 0 0 0, 0),
      (formR 0x20 1 0 0x18 0, 0), (formR 0x13 1 2 5 0, 0), (formR 0x28 0 0 0x20 1, 0), (formR 0x2B 0 0 0x20 0, 0), (formR 0x2C 1 0 0 0, 4),
      (formR 0x2C 0 0 3 9, 0), (formR 0x2C 0 0 0 10, 1), (formR 0x2F 0 0 0 5, 0), (formR 0x2F 0 0 0 5, 0x16), (formR 0x30 16 0 0 0, 0),
      (formR 0x30 0 0 0 0, 3), (formR 0x33 0 0 0x20 4, 0), (formR 0x33 0 0 0 5, 0xF8), (formR 0x33 0 0 0 8, 0), (formR 0x34 1 0 0 4, 0),
      (formR 0x34 0 0 1 5, 0), (formR 0x35 1 17 0 3, 0), (formR 0x36 0 0 0 8, 8), (formI 0x1B 3 0 0, 0), (formR 0x1C 0 0 0 3 + 3 * 2 ^ 20, 0)] = true := by
  decide

/-! ### Well-formed instructions: a term that each check refuses -/

theorem test_wf_refuses :
    Instr.wf (.cmp 0 6 0 0 0 0) = false ∧ Instr.wf (.fcmp 7 0 0 0 0) = false ∧ Instr.wf (.fcvt 5 0 0 0 0) = false ∧
    Instr.wf (.fcvt 0 7 0 0 0) = false ∧ Instr.wf (.fcvt 8 9 0 0 0) = false ∧ Instr.wf (.loop 3 0 0 0) = false ∧
    Instr.wf (.loopbrk 3 0) = false ∧ Instr.wf (.csrr 0 24 0) = false ∧ Instr.wf (.csrw 24 0 0) = false ∧
    Instr.wf (.csrx 0 63 0 0) = false ∧ Instr.wf (.ld 3 0 0 0 true 0) = false ∧ Instr.wf (.ldg 3 0 0 0 true 0) = false ∧
    Instr.wf (.lit 3 0 0 0) = false := by decide

theorem test_wf_refuses_landings :
    [Instr.aadd 1 0 0 0 true false false 0, .amin 1 0 0 0 true false false 0, .amax 1 0 0 0 true false false 0,
      .aminn 1 0 0 0 true false false 0, .amaxn 1 0 0 0 true false false 0, .aand 1 0 0 0 true false false 0,
      .aor 1 0 0 0 true false false 0, .axor 1 0 0 0 true false false 0, .axchg 1 0 0 0 true false false 0,
      .acas 1 0 0 0 true false false 0, .acas 0 0 1 0 true false false 0, .afadd 1 0 0 0 true false 0].all (fun i => !i.wf) = true := by decide

theorem test_wf_refuses_codes :
    [Instr.fenceLd 6 0, .fenceSt 7 0, .fenceAll 6 0, .sinDense 0 0 0 0 false 3 0, .sinExpand 0 0 0 0 false 3 0,
      .soutDense 0 0 0 0 false 3 0, .soutSparse 0 0 0 0 false 3 0, .mma 0 0 0 5 0, .mtile 0 0 0 0 0 5 0, .mtile 0 0 0 0 31 0 0,
      .accst 0 0 3 0, .evpop 1 0, .evwait 1 0 false 0, .evwait 0 1 false 0, .bread 0 17 0 0, .bread 0 0 (-17) 0, .btap 0 17 0 0 0,
      .btap 0 0 17 0 0, .icinv 0 0 6 0].all (fun i => !i.wf) = true := by decide

/-- Words that chapters 20 to 26 write out beside their listings. -/
theorem test_decode_program_words :
    decode 0xC0008600 0x01FC0801 = .ok (.sinDense 0 2 6 0 false 1 0) ∧ decode 0xC000C510 0x0203F809 = .ok (.soutSparse 0 3 5 0 false 1 0) ∧
    decode 0xC010C600 0x02001009 = .ok (.sinExpand 1 3 6 0 false 1 0) ∧ decode 0xC4900010 0x01FFF801 = .ok (.portstat 9 0 0 true 0) ∧
    decode 0xA8B281C0 0x01FFFE00 = .ok (.stfG 11 10 0xE00 0) ∧ decode 0xA8C5C041 0x0608200C = .ok (.ldf 12 23 0xC false 1) ∧
    decode 0xD004C011 0x080FF800 = .ok (.cpyx 19 1) ∧ decode 0xBCD20E20 0x01FFF800 = .ok (.bwait 13 8 14 false 0) ∧
    decode 0xD40FC040 0x02001000 = .ok (.btap 0 (-1) 0 0 0) ∧ decode 0xD4303F40 0x080C2800 = .ok (.btap 3 0 (-1) 0 0) ∧
    decode 0xD4500000 0x01FFF800 = .ok (.brow 5 0) ∧ decode 0x28117FF0 0 = .ok (.cmpi 0 1 5 (-1) 0) :=
  ⟨rfl, rfl, rfl, rfl, rfl, rfl, rfl, rfl, rfl, rfl, rfl, rfl⟩

theorem test_decode_more_program_words :
    decode 0xBC000050 0x0407F814 = .ok (.fenceLd 4 0) ∧ decode 0x60000006 0 = .ok (.br 0 6) ∧ decode 0x094A009A 0 = .ok (.mov 20 40 10) ∧
    decode 0xADA80035 0x060BF800 = .ok (.stg 3 26 32 0 5) ∧ decode 0xB008A3B5 0x01FC0803 = .ok (.asig 34 35 0 true true 5) ∧
    decode 0xB00923B7 0x0203F80B = .ok (.asig 36 35 1 true true 7) ∧ decode 0x299300E0 0 = .ok (.cmpi 3 1 12 14 0) ∧
    decode 0xB0628700 0x01FFF802 = .ok (.aadd 6 10 7 0 false true false 0) ∧ decode 0x6C020000 0 = .ok (.loop 0 8 0 0) ∧
    decode 0xACA08020 0x04041808 = .ok (.ldg 3 10 2 8 false 0) ∧ decode 0x0A85C020 0 = .ok (.ctz 40 23 0) ∧
    decode 0x19B6C00A 0 = .ok (.andi 27 27 0 10) ∧ decode 0x70000029 0 = .ok (.ret 9) :=
  ⟨rfl, rfl, rfl, rfl, rfl, rfl, rfl, rfl, rfl, rfl, rfl, rfl, rfl⟩

/-! ### Single instructions

One slot each in the sample state, with results that the manual writes out. -/

/-- The hand in flight after one instruction of the sample hand, changed by `f` before it. -/
def handAfter (i : Instr) (f : Hand → Hand := id) : Option Hand :=
  match exec i (sampleState (f sampleHand)) with
  | .next t => (cur t).hand
  | _ => none

/-- What scalar register `r` holds after it. -/
def regAfter (i : Instr) (r : Reg) (f : Hand → Hand := id) : Option W64 := (handAfter i f).map fun h => rdS h r

/-- The register and FPFLAGS after the conversion of the FP32 value `x`, under FPCTL `c` and SRSEED `g`. -/
def convert (dst : BitVec 4) (x c : W64) (g : W32) : Option (W64 × W64 × W32) :=
  (handAfter (.fcvt dst 0 9 8 0) fun h => { h with work := { h.work with s := h.work.s.set 8 x, fpctl := c, srseed := g } }).map
    fun h => (rdS h 9, h.work.fpflags, h.work.srseed)

/-- The table of worked conversions of 03 (after R41), its rows to BF16. -/
theorem test_fcvt_bf16 :
    convert 2 0x3F808000 0 1 = some (0x3F80, 0x10, 1) ∧ convert 2 0x3F808000 2 1 = some (0x3F81, 0x10, 1) ∧
    convert 2 0x3F808000 4 1 = some (0x3F81, 0x10, 0x80200003) ∧
    convert 2 0x3F808000 4 0x80200003 = some (0x3F81, 0x10, 0xC0300002) := by decide +kernel

/-- The other rows of that table: overflow to infinity, with SAT and to E4M3, and saturation to integers. -/
theorem test_fcvt_saturation :
    convert 1 0x4788B800 0 1 = some (0x7C00, 0x14, 1) ∧ convert 1 0x4788B800 0x100 1 = some (0x7BFF, 0x14, 1) ∧
    convert 3 0x43FA0000 0 1 = some (0x7E, 0x14, 1) ∧ convert 8 0xC348B333 0 1 = some (0xFFFFFFFFFFFFFF80, 0x11, 1) ∧
    convert 10 0x7FC00000 0 1 = some (0, 0x01, 1) ∧ convert 10 0xFF800000 0 1 = some (0xFFFFFFFF80000000, 0x11, 1) := by decide +kernel

/-- 16 R274: movi s1, 0x1_2345 and then movhi s1, 0x6_789A build 0x0000_0012_3456_789A. -/
theorem test_movi_movhi :
    regAfter (.movi 1 0x12345) 1 = some 0x12345 ∧
    regAfter (.movhi 1 0x6789A) 1 (fun h => setS 1 0x12345 h) = some 0x123456789A := by decide +kernel

/-- 16 R279: the extraction worked out there. -/
theorem test_ext_worked : regAfter (.extI 2 1 3 0) 2 (fun h => setS 1 0xF80 (setS 3 0x804 h)) = some 0xFFFFFFFFFFFFFFF8 := by decide +kernel

/-- 16 R270: the corners of signed division and of the high product. -/
theorem test_div_truncates : regAfter (.div 9 8 2 0) 9 (fun h => setS 8 (-15) h) = some (-2) := by decide +kernel
theorem test_rem_sign : regAfter (.rem 9 8 2 0) 9 (fun h => setS 8 (-15) h) = some (-1) := by decide +kernel
theorem test_mulh_minus_one : regAfter (.mulh 9 8 8 0) 9 (fun h => setS 8 (-1) h) = some 0 := by decide +kernel
theorem test_mulhn_all_ones : regAfter (.mulhn 9 8 8 0) 9 (fun h => setS 8 (-1) h) = some 0xFFFFFFFFFFFFFFFE := by decide +kernel

/-- 16 R270, 00 R8: a division by zero writes no register and records INT_DIVZERO. -/
theorem test_div_by_zero :
    (handAfter (.div 9 8 10 0) fun h => setS 10 0 (setS 9 5 h)).map (fun h => (rdS h 9, h.flt.map (·.code))) = some (5, some 0x23) := by
  decide +kernel

/-- 16 R271: shift amounts come from bits [5:0]. -/
theorem test_sra_amount : regAfter (.sra 9 8 10 0) 9 (fun h => setS 8 (-16) (setS 10 66 h)) = some (-4) := by decide +kernel
theorem test_addi_wraps : regAfter (.addi 9 8 1 0) 9 (fun h => setS 8 (-1) h) = some 0 := by decide +kernel

/-- 14 R220: the selector (!p1) turns the slot off when p1 is 1, and its weight is still counted. -/
theorem test_predicated_off :
    (handAfter (.add 9 1 2 9) fun h => { h with work := { h.work with p := 2 } }).map (fun h => (rdS h 9, h.slot)) = some (0, 1) := by
  decide +kernel

/-- 17 R290: a store to the scratchpad waits for commit and the hand's own load sees it (04 R57). -/
theorem test_store_then_load :
    ((handAfter (.st 2 2 1 4 0)).map fun h => h.effects.length) = some 1 ∧
    (regAfter (.ld 0 9 1 4 false 0) 9 fun h => { h with bytes := [(0x104, 0x87)] }) = some 0xFFFFFFFFFFFFFF87 := by decide +kernel

/-- 03 R49: the row of five elements quantised to sf4 under E2M1. -/
theorem test_quantise_worked :
    ((quantise 0x41 1 ([0x3F400000, 0xC0400000, 0x3F99999A, 0x3DCCCCCD, 0x40200000].map fun c => some (Fmt.decode .fp32 c))).take 6)
      = [0x41, 0x5E, 0xF3, 0x04, 0x06, 0x00] := by decide +kernel

/-! ### The program that 16 works out, from the bits of the opcode table -/

/-- The first step after reset with a word placed before it runs that word: movi s1, 0x500. -/
theorem test_first_step_runs_the_word :
    (match step (State.reset.withFetchWord 32 0x2C100500) with
      | .next t => (cur t).hand.map fun h => (rdS h 1, h.slot)
      | _ => none) = some (0x500, 1) := by decide +kernel

theorem test_decode_table_word : decodeTableWord 64 0x01FC0800B8400280 = some (.lit 0 4 0x28 0) ∧ decodeTableWord 32 0xFFFFFFFF = none := ⟨rfl, rfl⟩

/-- 04 R66: the worked example of a save block, 9,216 bytes rounded to three units of 4 KiB. -/
theorem test_saveBlock_worked :
    let seat (live : W64) (hdr : W64) (base len : W64) (evs : Nat) : Seat :=
      { st := .belayed, ctx := 1, hdr := hdr, belayDw := live, evq := List.replicate evs ⟨0, 0⟩
        arch := { s := (Vector.replicate 64 0).set 2 base |>.set 3 len } }
    let fe : FE :=
      { holder := some 1, seats := #v[seat 0xFFF 0x0030000000010080 0x100 256 2, seat 0x3300 0x0030000000000080 0x400 16 0, {}, {}]
        opm := (Vector.replicate 32 {}).set 0 { claim := some 0 } |>.set 1 { claim := some 0 }
        accs := (Vector.replicate 8 {}).set 0 { steps := 1 }, arrQ := [{ seat := 0, hand := 0, op := .mtile 32 0 0 0 0 0, step := 1 }]
        barriers := (List.range 3).map fun n => (n, { st := .opened }) }
    let s : State := { sampleState sampleHand with fes := [(0, fe)] }
    let range (n : Nat) : Nat := (rangeBytes (0x100, List.replicate n 0, List.replicate (n / 4) true)).length
    blockBytes s 0 = 12288 ∧ (recordBytes 0 (seatAt s 0 0)).length = 288 ∧ (recordBytes 1 (seatAt s 0 1)).length = 216 ∧
    range 256 = 272 ∧ range 16 = 32 ∧ (saveImage s 0).length = 12288 := by decide +kernel

/-! ### States that meet the hypotheses of the statements -/

abbrev H := sampleHand
abbrev S := sampleState sampleHand

theorem test_meets_EncodeDecodeRoundTrip : (Instr.add 1 2 3 0).event = false ∧ (Instr.add 1 2 3 0).wf = true := by decide

theorem test_meets_DecodeEncodeRoundTrip :
    decode 0x1471C010 0 = .ok (.addi 7 7 1 0) ∧ majorOf 0x34000000 = 0x0D ∧ majorOf 0xFC000000 = 0x3F := ⟨rfl, rfl, rfl⟩

/-- The sample hand with one slot, the word of `addi s7, s7, 1`. -/
def addiHand : Hand := { sampleHand with slots := [{ lo := 0x1471C010 }] }

theorem test_meets_StepRunsTheDecodedSlot :
    let g : State := { sampleState addiHand with given := true }
    let e : State := { sampleState { addiHand with slot := 1 } with given := true }
    let n : State := { fetchState [] restSeat with given := true }
    let f : FE := { sampleFe (sampleSeat addiHand) with issued := 0 }
    let s : State := { sampleState addiHand with fes := [(1, f)] }
    (g.curSeat < 4 ∧ g.agenda = [] ∧ (cur g).hand = some addiHand ∧ addiHand.slots[addiHand.slot]? = some { lo := 0x1471C010 } ∧
      decode 0x1471C010 0 = .ok (.addi 7 7 1 0)) ∧
    ((cur e).hand = some { addiHand with slot := 1 } ∧ addiHand.slots.length ≤ 1) ∧ (cur n).hand = none ∧
    (s.curSeat < 4 ∧ s.agenda = [] ∧ s.given = false ∧ s.fes.find? (fun x => decide (s.curFe < x.1) && feReady x) = some (1, f) ∧
      (∀ m < 3, seatReady (seatAt s 1 (((feAt s 1).issued + 1 + m) % 4)) = false) ∧ ((feAt s 1).issued + 1 + 3) % 4 = 0 ∧
      seatReady (seatAt s 1 0) = true ∧ (seatAt s 1 0).passed = false ∧ (seatAt s 1 0).hand = some addiHand) ∧
    State.reset.agenda = [.powerGood] ∧ 4 ≤ { State.reset with curSeat := 4 }.curSeat :=
  ⟨⟨by decide, rfl, rfl, rfl, rfl⟩, ⟨rfl, by decide⟩, rfl, ⟨by decide, rfl, rfl, rfl, by decide, rfl, rfl, rfl, rfl⟩, rfl, by decide⟩

theorem test_meets_InvariantKeptByEveryStep : Inv State.reset ∧ ∃ t, step State.reset = .next t :=
  ⟨⟨rfl, rfl, by decide⟩, _, rfl⟩

theorem test_meets_PredicatedOffSlotDoesNothing : S.curSeat < 4 ∧ (cur S).hand = some H ∧ selOn H 8 = false ∧
    (cur S).belayCnt.toNat + 48 ≤ H.work.belayMax.toNat := ⟨by decide, rfl, rfl, by decide⟩

/-- Every slot of weight up to 160 issues from the sample state. -/
theorem sample (w : Nat) (h : w ≤ 384) : Issues S H 0 w := issues_of (by decide) rfl rfl rfl h

theorem test_meets_IntegerArithmetic : Issues S H 0 4 ∧ Issues S H 0 8 ∧ Issues S H 0 48 ∧ rdS H 2 ≠ 0 ∧ rdS H 4 = 0 ∧
    H.flt = none := ⟨sample 4 (by decide), sample 8 (by decide), sample 48 (by decide), by decide, rfl, rfl⟩

theorem test_meets_RotateSelectExtremesMoveAndBitCounts : Issues S H 0 4 := sample 4 (by decide)

theorem test_meets_Immediates : Issues S H 0 4 := sample 4 (by decide)

theorem test_meets_AddressAndBitFields : Issues S H 0 4 := sample 4 (by decide)

theorem test_meets_ComparesAndPredicates : Issues S H 0 4 ∧ (5#3).toNat < 6 ∧ (3#3).toNat < 4 ∧ 4 ≤ (7#3).toNat ∧
    (majorOf 0x0F000000 = 3 ∧ ((0x0F000000#32).extractLsb' 4 4).toNat < 8 ∧
      6 ≤ (((0x0F000000#32).extractLsb' 20 6).extractLsb' 3 3).toNat) ∧
    (majorOf 0x10800000 = 4 ∧ 8 ≤ ((0x10800000#32).extractLsb' 20 6).toNat) ∧
    (majorOf 0x10000130 = 4 ∧ ((0x10000130#32).extractLsb' 4 4).toNat = 3 ∧ (0x10000130#32).extractLsb' 8 6 ≠ 0) :=
  ⟨sample 4 (by decide), by decide, by decide, by decide, by decide, by decide, by decide⟩

theorem test_meets_FloatResultsAndTraps : Issues S H 0 8 ∧ Issues S H 0 12 ∧ Issues S H 0 24 :=
  ⟨sample 8 (by decide), sample 12 (by decide), sample 24 (by decide)⟩

theorem test_meets_FloatSignsExtremesCompareAndConvert : Issues S H 0 4 ∧ Issues S H 0 8 ∧
    Fmt.fp32.decode 0x7FC00001 = .nan ∧ Fmt.fp32.decode 0x3F800000 ≠ .nan ∧
    ltFV true (Fmt.fp32.decode 0x80000000) (Fmt.fp32.decode 0) = true ∧
    ltFV true (Fmt.fp32.decode 0x3F800000) (Fmt.fp32.decode 0x3F800000) = false ∧
    (let h : Hand := { sampleHand with counted := true }
     (cur (sampleState h)).hand = some h ∧ selOn h 8 = false ∧ h.counted = true) :=
  ⟨sample 4 (by decide), sample 8 (by decide), by decide +kernel, by decide +kernel, by decide +kernel, by decide +kernel, rfl, rfl, rfl⟩

theorem test_meets_ControlTransfersOfASlot : Issues S H 0 4 ∧ H.ctl = none ∧ (rdS H 1).toNat % 8 = 0 ∧
    (rdS H 2).toNat % 8 ≠ 0 ∧ (rdS H 63).toNat % 8 = 0 ∧ (rdS (setS 63 4 H) 63).toNat % 8 ≠ 0 :=
  ⟨sample 4 (by decide), rfl, by decide, by decide, by decide, by decide⟩

theorem test_meets_FirstControlStandsAndSkip :
    (let h : Hand := { sampleHand with ctl := some .halt }
     Issues (sampleState h) h 0 4 ∧ h.ctl ≠ none) ∧ Issues S H 0 4 ∧ (1 : BitVec 7) ≠ 0 :=
  ⟨⟨issues_of (by decide) rfl rfl rfl (by decide), by decide⟩, sample 4 (by decide), by decide⟩

theorem test_meets_SystemRegisters : Issues S H 0 4 ∧ (0x13 : BitVec 6).toNat ≠ 0x14 ∧ (0x15 : BitVec 6).toNat ≠ 0x14 ∧
    (rdS (setS 5 0x200 H) 5).getLsbD 9 = H.work.belayEn ∧ (rdS (setS 5 0x381 H) 5).getLsbD 9 = H.work.belayEn ∧
    (rdS (setS 5 0x181 H) 5).getLsbD 9 ≠ H.work.belayEn ∧ (rdS (setS 5 0x200 H) 5).extractLsb' 0 9 = 0#9 ∧
    384 < ((rdS (setS 5 0x381 H) 5).extractLsb' 0 9).toNat ∧ ¬ (5 : W64) &&& 7#64 ≤ 4#64 :=
  ⟨sample 4 (by decide), by decide, by decide, by decide, by decide, by decide, by decide, by decide, by decide⟩

/-- The sample state with records in the event queue. -/
def evState (l : List EvRec) : State :=
  { sampleState sampleHand with fes := [(0, sampleFe { sampleSeat sampleHand with evq := l })] }

theorem test_meets_EventsAndWaits :
    let e : EvRec := ⟨0x0007000000000000, 5⟩
    let f : EvRec := ⟨0x0008000000000000, 6⟩
    let late : State := { sampleState sampleHand with time := 7 }
    Issues (evState [e]) H 0 8 ∧ H.flt = none ∧ H.taken = [] ∧ (cur (evState [e])).evq ≠ [] ∧
    ((cur late).evq = [] ∧ (cur late).ring = [] ∧ rdS H 2 ≠ BitVec.allOnes 64 ∧ (rdS H 2).toNat ≤ late.time) ∧
    (S.time < (rdS H 2).toNat ∧ MayWait S) ∧
    MayWait (evState [f]) ∧
    (cur (evState [e])).evq ++ (cur (evState [e])).ring = e :: [] ∧
    (cur S).evq ++ (cur S).ring = [] ∧
    ((cur (evState [f, e])).evq ++ (cur (evState [f, e])).ring = [f] ++ e :: [] ∧ (∀ x ∈ [f], recTag x ≠ (rdS H 2).extractLsb' 0 16) ∧
      recTag e = (rdS H 2).extractLsb' 0 16) ∧
    (∀ x ∈ (cur (evState [f])).evq ++ (cur (evState [f])).ring, recTag x ≠ (rdS H 2).extractLsb' 0 16) :=
  ⟨issues_of (by decide) rfl rfl rfl (by decide), rfl, rfl, by decide, by decide, ⟨by decide, waits_of (by decide)⟩, waits_of (by decide), rfl, rfl, ⟨rfl, by decide, by decide⟩, by decide⟩

/-- The sample hand with the registers given. -/
def handWith (l : List (Reg × W64)) : Hand := l.foldl (fun h p => setS p.1 p.2 h) sampleHand

theorem test_meets_LocalLoadAndStore :
    Issues S H 0 8 ∧ H.flt = none ∧ Unwatched H ∧ (1 : Reg) ≠ 62 ∧
    (let h := handWith [(62, 0x1200)]
     Issues (sampleState h) h 0 8 ∧ ¬ (rdS h 62 + (0 : BitVec 16).signExtend 64).toInt < (cur (sampleState h)).spillbase.toNat + 0x200) ∧
    (rdS H 2 + (0 : BitVec 16).signExtend 64).toNat % 2 ^ (2#2).toNat ≠ 0 ∧
    (let ea := rdS (handWith [(1, 0x5FFFC)]) 1 + (4 : BitVec 16).signExtend 64
     ea.toNat % 2 ^ (2#2).toNat = 0 ∧ 0x60000 < ea.toNat + 2 ^ (2#2).toNat) ∧
    (let ea := rdS (handWith [(1, 0x60000)]) 1 + (0xFFFC : BitVec 16).signExtend 64
     ea.toNat % 2 ^ (2#2).toNat = 0 ∧ ea.toNat + 2 ^ (2#2).toNat ≤ 0x60000 ∧
       ownBehind (sampleState (handWith [(1, 0x60000)])) 0 0 ea.toNat 4 = false ∧ Apart (sampleState (handWith [(1, 0x60000)])) ea.toNat 4) ∧
    (let s := behindState sampleHand (2 ^ 44 + 0x107) (.atomic 0 false 0 0)
     Issues s H 0 8 ∧ ownBehind s 0 0 (rdS H 1).toNat 8 = true) :=
  ⟨issues_of (by decide) rfl rfl rfl (by decide), rfl, rfl, by decide,
    ⟨issues_of (by decide) rfl rfl rfl (by decide), by decide⟩, by decide, by decide,
    ⟨by decide, by decide, by decide, apart_of _ _ rfl⟩, issues_of (by decide) rfl rfl rfl (by decide), by decide⟩

theorem test_meets_SpillRedirection :
    let h := handWith [(62, 0x11F8)]
    let s := sampleState h
    let ea := rdS h 62 + (0 : BitVec 16).signExtend 64
    let floor : W64 := (cur s).spillbase.setWidth 64 + 0x200
    let va := (cur s).ovfptr - (floor - ea)
    h.flt = none ∧ Unwatched h ∧ h.entered = false ∧ h.grant = none ∧ ea.toInt < floor.toInt ∧ Issues s h 0 160 ∧ Issues s h 0 8 ∧
    (cur s).ovflim ≤ va ∧ Reaches s va 8 { w := true } false 0x7FF8 [] ∧ Reaches s va 8 { r := true } false 0x7FF8 [] ∧
    h.gbytes = [] ∧ (cur s).st = .running ∧ s.gus = [] ∧
    (let g : Hand := { h with grant := some (5, 0), entered := true }
     Issues (sampleState g) g 0 160 ∧ g.grant = some (5, 0) ∧ g.flt = none ∧ Unwatched g) ∧
    ((cur s).ovfptr - (floor - (rdS h 62 + (0x8000 : BitVec 16).signExtend 64))) < (cur s).ovflim :=
  ⟨rfl, rfl, rfl, rfl, by decide, issues_of (by decide) rfl rfl rfl (by decide), issues_of (by decide) rfl rfl rfl (by decide),
    by decide, ⟨by decide, rfl, rfl⟩, ⟨by decide, rfl, rfl⟩, rfl, rfl, rfl, ⟨issues_of (by decide) rfl rfl rfl (by decide), rfl, rfl, rfl⟩,
    by decide⟩

/-- The sample state in which no range entry holds the address 0x2_0000, so that the tables at the root 0x100 of HBM are walked,
with channel 1 and its gather unit as given. -/
def walkState (c : Train) (g : Gu) : State :=
  { sampleState (handWith [(3, 0x20000)]) with
    ctxs := [(1, { sampleCtx with ptRoot := 0x100 })], trains := [(chanOfPa 0x100, c)], gus := [(guOfPa 0x100, g)] }

theorem test_meets_GlobalLoadAndStore :
    let ea := rdS H 3 + (0 : BitVec 16).signExtend 64
    Issues S H 0 8 ∧ Unwatched H ∧ Reaches S ea 8 { r := true } false 0x40 [] ∧ Lands (rdS H 1) 8 ∧
    (rdS H 2).toNat % 8 ≠ 0 ∧ Reaches S ea 8 { w := true } false 0x40 [] ∧
    (rdS H 2 + (0 : BitVec 16).signExtend 64).toNat % 8 ≠ 0 ∧
    (rdS H 1).toNat % 8 = 0 ∧
    (let h := handWith [(3, 0x20000)]
     let s := walkState { opened := true, closing := true } {}
     let t := walkState { opened := true } { ecc := [(1, true)] }
     Issues s h 0 8 ∧ walkOf s (rdS h 3 + (0 : BitVec 16).signExtend 64) = .wait ∧
     Issues t h 0 8 ∧ walkOf t (rdS h 3 + (0 : BitVec 16).signExtend 64) = .refuse 0x50) ∧
    (let h := handWith [(3, 0x20000)]
     let s := walkState { opened := true } {}
     Issues s h 0 8 ∧ walkOf s (rdS h 3 + (0 : BitVec 16).signExtend 64) = .go ∧
     ∃ c new, dataXlat s (feAt s s.curFe).tlb (cur s).ctx (rdS h 3 + (0 : BitVec 16).signExtend 64).toNat { r := true } false =
       (.error c, new)) :=
  ⟨issues_of (by decide) rfl rfl rfl (by decide), rfl, ⟨by decide, rfl, rfl⟩, ⟨by decide, by decide⟩, by decide, ⟨by decide, rfl, rfl⟩,
    by decide, by decide, ⟨issues_of (by decide) rfl rfl rfl (by decide), by decide +kernel,
      issues_of (by decide) rfl rfl rfl (by decide), by decide +kernel⟩,
      issues_of (by decide) rfl rfl rfl (by decide), by decide +kernel, _, _, rfl⟩

/-- The sample state with the bytes of an 8-byte literal cached. -/
def cachedState : State :=
  { sampleState sampleHand with
    fes := [(0, { sampleFe (sampleSeat sampleHand) with icache := (List.range 8).map fun i => (0x10040 + i, BitVec.ofNat 8 i) })] }

/-- The sample state whose hand stands at 0x2_0000, at the end of a page that may not be executed, or beyond every page. -/
def litState (perm : W64) (limit : W64) : State :=
  let h := { sampleHand with addr := 0x20000 }
  { sampleState h with
    ctxs := [(1, { sampleCtx with
      ptRoot := 0x100, ranges := [(0, { img := { base := 0x10000, limit := limit, pa := 0, perm := perm } })] })]
    trains := [(chanOfPa 0x100, { opened := true })] }

theorem test_meets_Literals :
    let l := H.addr + (0x40 : BitVec 21).signExtend 64
    (dataXlat S (feAt S S.curFe).tlb (cur S).ctx l.toNat { x := true } false = (.ok 0x40, []) ∧ l.toNat % 8 = 0 ∧ 0x40 % 8 = 0 ∧
      (feAt S S.curFe).icache = [] ∧ ownModule S 0x40 = true ∧ paBad S 0x40 = false ∧ (cur S).st = .running ∧ Issues S H 0 160 ∧
      (let s := { sampleState sampleHand with trains := [(chanOfPa 0x40, { opened := true })] }
       codeMeets s s.curFe (cur s).ctx l.toNat 8 = .go ∧ Issues s H 0 160 ∧ (∀ e ∈ s.gus, e.2.ecc = []))) ∧
    (dataXlat cachedState (feAt cachedState 0).tlb 1 l.toNat { x := true } false = (.ok 0x40, []) ∧
      (∀ i < 8, (KV.find (l.toNat + i) (feAt cachedState cachedState.curFe).icache).isSome) ∧ Issues cachedState H 0 8 ∧
      codeMeets cachedState 0 1 l.toNat 8 = .go) ∧
    ((H.addr + (0x44 : BitVec 21).signExtend 64).toNat % 8 ≠ 0 ∧ Issues S H 0 8) ∧
    (let h := { sampleHand with addr := 0x20000 }
     let p := litState 0x3 0x30000
     let m := litState 0xF 0x20000
     Issues p h 0 8 ∧ codeMeets p 0 1 0x20040 8 = .go ∧
     (dataXlat p (feAt p 0).tlb 1 0x20040 { x := true } false).1 = .error 0x13 ∧
     Issues m h 0 8 ∧ codeMeets m 0 1 0x20040 8 = .go ∧
     (dataXlat m (feAt m 0).tlb 1 0x20040 { x := true } false).1 = .error 0x12) :=
  ⟨⟨rfl, by decide, by decide, rfl, by decide, by decide, rfl, issues_of (by decide) rfl rfl rfl (by decide), by decide +kernel,
      issues_of (by decide) rfl rfl rfl (by decide), by decide⟩,
    ⟨rfl, by decide, issues_of (by decide) rfl rfl rfl (by decide), by decide +kernel⟩,
    ⟨by decide, issues_of (by decide) rfl rfl rfl (by decide)⟩, issues_of (by decide) rfl rfl rfl (by decide), by decide +kernel, rfl,
    issues_of (by decide) rfl rfl rfl (by decide), by decide +kernel, rfl⟩

/-- A read of the sample seat in flight, of 4 bytes at 0x40 of HBM. -/
def restRead : Req := { id := 1, ctx := 1, fe := 0, seat := 0, hand := 0, va := 0x10040, pa := 0x40, op := .read 4 false }

theorem test_meets_TagInstructions :
    let ea := rdS H 1 + (0 : BitVec 16).signExtend 64
    let h := handWith [(4, 0x100100)]
    (let s := behindState sampleHand (2 ^ 44 + 0x100) .tagrd
     Issues s H 0 4 ∧ seenTag s 0 0 ea.toNat = .later) ∧
    (let s := { sampleState sampleHand with reqs := [{ restRead with acq := true }] }
     Issues s H 0 4 ∧ acqBehind s 0 0 = true) ∧
    (acqBehind S 0 0 || decide (seenTag S 0 0 ea.toNat = .later)) = false ∧ Apart S ea.toNat 4 ∧
    (let s := behindState sampleHand (2 ^ 44 + 0x100) .clre
     Issues s H 0 4 ∧ (acqBehind s 0 0 || decide (seenTag s 0 0 ea.toNat = .later)) = false ∧ localTag s ea.toNat = false) ∧
    Unwatched H ∧ ea.toNat % 4 = 0 ∧ ea.toNat + 4 ≤ 0x60000 ∧ Issues S H 0 8 ∧ Issues S H 0 4 ∧
    (rdS H 2 + (0 : BitVec 16).signExtend 64).toNat % 4 ≠ 0 ∧
    (Issues (sampleState h) h 0 8 ∧ Reaches (sampleState h) (rdS h 4 + (0 : BitVec 16).signExtend 64) 4 { w := true } false
        (2 ^ 44 + 0x100) [] ∧ Reaches (sampleState h) (rdS h 4 + (0 : BitVec 16).signExtend 64) 4 { r := true } false
        (2 ^ 44 + 0x100) [] ∧ paClass (2 ^ 44 + 0x100) = 1 ∧ Lands (rdS h 1) 4) ∧
    (Reaches S (rdS H 3 + (0 : BitVec 16).signExtend 64) 4 { w := true } false 0x40 [] ∧
      Reaches S (rdS H 3 + (0 : BitVec 16).signExtend 64) 4 { r := true } false 0x40 [] ∧ paClass 0x40 ≠ 1) :=
  ⟨⟨issues_of (by decide) rfl rfl rfl (by decide), by decide⟩, ⟨issues_of (by decide) rfl rfl rfl (by decide), by decide⟩, by decide,
    apart_of _ _ rfl, ⟨issues_of (by decide) rfl rfl rfl (by decide), by decide, by decide⟩, rfl, by decide, by decide, issues_of (by decide) rfl rfl rfl (by decide), issues_of (by decide) rfl rfl rfl (by decide), by decide,
    ⟨issues_of (by decide) rfl rfl rfl (by decide), ⟨by decide, rfl, rfl⟩, ⟨by decide, rfl, rfl⟩, by decide, by decide, by decide⟩,
    ⟨by decide, rfl, rfl⟩, ⟨by decide, rfl, rfl⟩, by decide⟩

/-- The sample state with the word at 0x100 of the scratchpad of FE 0 empty. -/
def emptyState (h : Hand) : State := { sampleState h with tags := [(2 ^ 44 + 0x100, true)] }

theorem test_meets_TaggedWaits :
    let pa := spBase S.curFe + (rdS H 1 + (0 : BitVec 16).signExtend 64).toNat
    let h := handWith [(4, 0x100100)]
    let s := sampleState h
    let r : Req := request s h (rdS h 4) (2 ^ 44 + 0x100) (.waitRead true) none
    let g : Hand := { h with grant := some (5, 0), entered := true, asked := some r }
    (Issues S H 0 8 ∧ Unwatched H ∧ Fresh H ∧ (rdS H 1 + (0 : BitVec 16).signExtend 64).toNat % 4 = 0 ∧
      (rdS H 1 + (0 : BitVec 16).signExtend 64).toNat + 4 ≤ 0x60000 ∧ Uncontended S pa ∧ H.holds = [] ∧ H.bytes = [] ∧
      (cur S).st = .running ∧ Apart S 0x100 4 ∧ MayWait S ∧ tagFull S pa = true) ∧
    (let s := behindState sampleHand (2 ^ 44 + 0x100) .clre
     let s := { s with nextId := 2 }
     Issues s H 0 8 ∧ (cur s).st = .running ∧ MayWait s ∧
       ∀ op ∈ ([.waitRead true, .waitStf] : List ReqOp), (unperformed s).any (goesBefore (ownWait s 0x100 op)) = true) ∧
    (Issues (emptyState H) H 0 8 ∧ MayWait (emptyState H) ∧ Uncontended (emptyState H) pa ∧ tagFull (emptyState H) pa = false) ∧
    (Issues s h 0 8 ∧ Unwatched h ∧ h.flt = none ∧ h.holds = [] ∧ MayWait s ∧ h.entered = false ∧ h.grant = none ∧ h.asked = none ∧
      Reaches s (rdS h 4 + (0 : BitVec 16).signExtend 64) 4 { r := true, w := true } false (2 ^ 44 + 0x100) [] ∧
      Reaches s (rdS h 4 + (0 : BitVec 16).signExtend 64) 4 { r := true } false (2 ^ 44 + 0x100) [] ∧
      Reaches s (rdS h 4 + (0 : BitVec 16).signExtend 64) 4 { w := true } false (2 ^ 44 + 0x100) [] ∧
      Reaches s (rdS h 4 + (0 : BitVec 8).signExtend 64 * 32) 32 { r := true, w := true } false (2 ^ 44 + 0x100) [] ∧
      paClass (2 ^ 44 + 0x100) = 1 ∧ Lands (rdS h 1 + (0 : BitVec 8).signExtend 64 * 32) 32) ∧
    (Issues (sampleState g) g 0 8 ∧ g.grant = some (5, 0) ∧ g.asked = some r ∧ g.flt = none ∧ Unwatched g ∧ g.holds = [] ∧
      feOfPa { r with pa := 2 ^ 44 + 0x80100 }.pa ≠ some (sampleState g).curFe) :=
  ⟨⟨issues_of (by decide) rfl rfl rfl (by decide), rfl, ⟨rfl, rfl, rfl, rfl⟩, by decide, by decide, ⟨by decide, by decide⟩, rfl, rfl, rfl,
      apart_of _ _ rfl, waits_of (by decide), by decide⟩,
    ⟨issues_of (by decide) rfl rfl rfl (by decide), rfl, waits_of (by decide), by decide⟩,
    ⟨issues_of (by decide) rfl rfl rfl (by decide), waits_of (by decide), ⟨by decide, by decide⟩, by decide⟩,
    ⟨issues_of (by decide) rfl rfl rfl (by decide), rfl, rfl, rfl, waits_of (by decide), rfl, rfl, rfl, ⟨by decide, rfl, rfl⟩,
      ⟨by decide, rfl, rfl⟩, ⟨by decide, rfl, rfl⟩, ⟨by decide, rfl, rfl⟩, by decide, by decide, by decide⟩,
    issues_of (by decide) rfl rfl rfl (by decide), rfl, rfl, rfl, rfl, rfl, by decide⟩

theorem test_meets_Atomics :
    let h := handWith [(4, 0x100100)]
    let s := sampleState h
    Issues s h 0 8 ∧ Unwatched h ∧
    (Reaches s (rdS h 4 + (0 : BitVec 8).signExtend 64 * 8) 8 { r := true, w := true } false (2 ^ 44 + 0x100) [] ∧
      paClass (2 ^ 44 + 0x100) ≤ 1) ∧
    (Lands (rdS h 1 + (0xFF : BitVec 8).signExtend 64 * 8) 8 ∧ ownPa s 0 0xF8 = ownPa s s.curFe (rdS h 1 + (0xFF : BitVec 8).signExtend 64 * 8).toNat) ∧
    Lands (rdS h 1) 8 :=
  ⟨issues_of (by decide) rfl rfl rfl (by decide), rfl, ⟨⟨by decide, rfl, rfl⟩, by decide⟩, ⟨⟨by decide, by decide⟩, by decide⟩, by decide, by decide⟩

theorem test_meets_PileInstructions :
    let h := handWith [(4, 0x100100)]
    let s := sampleState h
    Issues s h 0 8 ∧ Unwatched h ∧
    (Reaches s (rdS h 4 + (0 : BitVec 8).signExtend 64 * 32) 32 { r := true, w := true } false (2 ^ 44 + 0x100) [] ∧
      paClass (2 ^ 44 + 0x100) ≤ 1) ∧
    (Lands (rdS h 1 + (0 : BitVec 8).signExtend 64 * 32) 32) ∧ Lands (rdS h 1) 4 ∧ Lands (rdS h 1) 16 :=
  ⟨issues_of (by decide) rfl rfl rfl (by decide), rfl, ⟨⟨by decide, rfl, rfl⟩, by decide⟩, ⟨by decide, by decide⟩, ⟨by decide, by decide⟩,
    by decide, by decide⟩

/-- The sample state with the barrier object 7 given. -/
def barState (b : Barrier) : State :=
  { sampleState sampleHand with fes := [(0, { sampleFe (sampleSeat sampleHand) with barriers := [(7, b)] })] }

theorem test_meets_BarrierInstructionsAndFences :
    let o : Barrier := { expect := 2, st := .opened }
    let v : Barrier := { expect := 2, st := .opened, phase := 3, last := .overrun, trap := true }
    let h := handWith [(4, 0x160038)]
    let s := sampleState h
    (let s := { behindState sampleHand (2 ^ 44 + 0x60038) (.barr 1) with nextId := 2 }
     (ownPend s 0 0 (0x60000 + 8 * (rdS H 2).toNat) 8).any (isWriteOp ·.op) = true ∧ Issues s H 0 4 ∧ Issues s H 0 8 ∧ MayWait s ∧
     (unperformed s).any (goesBefore (ownWait s (0x60000 + 8 * (rdS H 2).toNat) (.bwait 0))) = true) ∧
    ((rdS H 2).toNat < 2048 ∧ (acqBehind S 0 0 || (ownPend S 0 0 (0x60000 + 8 * 7) 8).any (isWriteOp ·.op)) = false ∧
      Apart S (0x60000 + 8 * 7) 8 ∧ Issues S H 0 8 ∧ Issues S H 0 4 ∧ Fresh H ∧ (barAt (feAt S 0) 7).st ≠ .opened) ∧
    (Issues (barState o) H 0 8 ∧ Apart (barState o) (0x60000 + 8 * 7) 8 ∧ (barAt (feAt (barState o) 0) 7).st = .opened ∧
      (barAt (feAt (barState o) 0) 7).phase = (rdS H 1).extractLsb' 0 8 ∧ MayWait (barState o) ∧
      (barAt (feAt (barState o) 0) 7).phase ≠ (rdS H 2).extractLsb' 0 8) ∧
    (Issues (barState v) H 0 8 ∧ (barAt (feAt (barState v) 0) 7).st ≠ .free ∧ (barAt (feAt (barState v) 0) 7).last = .overrun ∧
      (barAt (feAt (barState v) 0) 7).trap = true ∧ (barAt (feAt (barState v) 0) 7).phase ≠ (rdS H 1).extractLsb' 0 8) ∧
    (2048 ≤ (rdS (handWith [(4, 2048)]) 4).toNat ∧ (handWith [(4, 2048)]).flt = none ∧
      Issues (sampleState (handWith [(4, 2048)])) (handWith [(4, 2048)]) 0 8) ∧
    (Issues s h 0 8 ∧ Issues s h 0 4 ∧ Fresh h ∧ MayWait s ∧ Reaches s (rdS h 4) 8 { w := true } true (2 ^ 44 + 0x60038) [] ∧
      Reaches s (rdS h 4) 8 { r := true } true (2 ^ 44 + 0x60038) [] ∧ paClass (2 ^ 44 + 0x60038) = 1 ∧
      0x60000 ≤ paOff (2 ^ 44 + 0x60038) ∧ paOff (2 ^ 44 + 0x60038) < 0x64000 ∧ Lands (rdS h 1) 8) :=
  ⟨⟨by decide, issues_of (by decide) rfl rfl rfl (by decide), issues_of (by decide) rfl rfl rfl (by decide), waits_of (by decide), by decide⟩,
    ⟨by decide, by decide, apart_of _ _ rfl, issues_of (by decide) rfl rfl rfl (by decide), issues_of (by decide) rfl rfl rfl (by decide), ⟨rfl, rfl, rfl, rfl⟩,
      by decide⟩,
    ⟨issues_of (by decide) rfl rfl rfl (by decide), apart_of _ _ rfl, rfl, by decide, waits_of (by decide), by decide⟩,
    ⟨issues_of (by decide) rfl rfl rfl (by decide), by decide, rfl, rfl, by decide⟩,
    ⟨by decide, rfl, issues_of (by decide) rfl rfl rfl (by decide)⟩,
    issues_of (by decide) rfl rfl rfl (by decide), issues_of (by decide) rfl rfl rfl (by decide), ⟨rfl, rfl, rfl, rfl⟩, waits_of (by decide),
    ⟨by decide, rfl, rfl⟩, ⟨by decide, rfl, rfl⟩, by decide, by decide, by decide, by decide, by decide⟩

/-- The sample state with plane 0 of FE 0 as given. -/
def planeState (p : PlaneState) : State :=
  { sampleState sampleHand with fes := [(0, { sampleFe (sampleSeat sampleHand) with planes := #v[p, {}, {}, {}] })] }

theorem test_meets_StreamAndPortInstructions :
    let tok : Token := { elems := [5], eor := true }
    let p : PlaneState := { fields := [(0x85, 0x15)], chans := [(0x15, [tok])] }
    let n (c r : Nat) : W64 := BitVec.ofNat 64 (r * 2 ^ 32 + c)
    Issues S H 0 8 ∧ Issues S H 0 4 ∧ Unwatched H ∧ H.flt = none ∧ MayWait S ∧
    ((rdS H 1).toNat % 1 = 0 ∧ (rdS H 1).toNat + (0x5FF00 : W64).toNat * 1 ≤ 0x60000) ∧
    ((4#4).toNat % 2 = 0 ∧ 0 < (n 4096 4096).toNat % 2 ^ 32 ∧ (n 4096 4096).toNat % 2 ^ 32 ≤ 4096 ∧
      (n 4096 4096).toNat / 2 ^ 32 ≤ (n 4096 4096).toNat % 2 ^ 32 ∧ 4096 * (4 / 2 ^ (1#2).toNat) ≤ 8192) ∧
    ((5#4).toNat % 2 = 1 ∧ (n 1 0).toNat / 2 ^ 32 = 0 ∧ 4096 < (n 4097 1).toNat % 2 ^ 32 ∧ 8192 < 2049 * (4 / 2 ^ (0#2).toNat) ∧
      (n 3 4).toNat % 2 ^ 32 < (n 3 4).toNat / 2 ^ 32) ∧
    (rdS H 2).toNat % (4 / 2 ^ (0#2).toNat) ≠ 0 ∧
    (sinkChan (feAt (planeState p) 0) 0 5 = tok :: [] ∧ tok.elems = 5 :: [] ∧ tok.err = false ∧
      (portOf (feAt (planeState p) 0) 0 21).ecode = 0 ∧ (portOf (feAt (planeState p) 0) 0 21).reserved = 0 ∧
      Issues (planeState p) H 0 8 ∧ Issues (planeState p) H 0 4) ∧
    (sinkChan (feAt S 0) 0 5 = [] ∧ (portOf (feAt S 0) 0 21).ecode = 0) :=
  ⟨issues_of (by decide) rfl rfl rfl (by decide), issues_of (by decide) rfl rfl rfl (by decide), rfl, rfl, waits_of (by decide), by decide, by decide,
    by decide, by decide, ⟨rfl, rfl, rfl, rfl, rfl, issues_of (by decide) rfl rfl rfl (by decide),
      issues_of (by decide) rfl rfl rfl (by decide)⟩, rfl, rfl⟩

/-- A plane whose node 0 reads a source that another of its inputs reads too. -/
def sharedPlane : PlaneState := { fields := [(0, 1), (1, 0), (2, 0)] }

theorem test_meets_PlaneAndConfiguration :
    let behind : Hand := { sampleHand with cfgMark := 1 }
    Issues S H 0 8 ∧ Issues S H 0 4 ∧ planeBad S (feAt S S.curFe) 0 = none ∧ H.flt = none ∧ H.cfgMark ≤ (cur S).cfgDone ∧
    (∀ e ∈ (cur S).cfgFail, H.cfgMark ≤ e.1) ∧ Reaches S (rdS H 3) 8 { r := true } false 0x40 [] ∧
    (∃ n, planeBad (planeState sharedPlane) (feAt (planeState sharedPlane) 0) 0 = some n) ∧ Issues (planeState sharedPlane) H 0 8 ∧
    (Issues (sampleState behind) behind 0 8 ∧ behind.flt = none ∧ (cur (sampleState behind)).cfgDone < behind.cfgMark ∧
      MayWait (sampleState behind)) :=
  ⟨issues_of (by decide) rfl rfl rfl (by decide), issues_of (by decide) rfl rfl rfl (by decide), by decide +kernel, rfl, by decide,
    by decide, ⟨by decide, rfl, rfl⟩, ⟨_, rfl⟩, issues_of (by decide) rfl rfl rfl (by decide),
    issues_of (by decide) rfl rfl rfl (by decide), rfl, by decide, waits_of (by decide)⟩

theorem test_meets_MatrixInstructions :
    let c : Hand := { sampleHand with claims := [some 0, some 0] }
    let k : Hand := { setS 5 (16 + 256 * 32) c with arrMark := 1 }
    let mine (m : Slot) : Prop := c.claims.getD m.toNat none = some S.curSeat
    (Issues (sampleState c) c 0 4 ∧ Issues (sampleState c) c 0 8 ∧ Issues (sampleState c) c 0 16 ∧ mine 0 ∧ mine 1 ∧ ¬ mine 2 ∧
      c.claims.getD 2 none = none ∧ (rdS c 1).toNat % 64 = 0 ∧ (rdS c 1).toNat + 4096 ≤ 0x60000 ∧
      c.work.fpctl.extractLsb' 0 3 ≠ 4) ∧
    ((rdS (setS 1 0x5F800 c) 1).toNat % 64 = 0 ∧ (rdS (setS 1 0x5F800 c) 1).toNat + 2048 ≤ 0x60000) ∧
    (0 < (rdS k 5).toNat % 64 ∧ (rdS k 5).toNat % 64 ≤ 32 ∧ 0 < (rdS k 5).toNat / 256 % 64 ∧ (rdS k 5).toNat / 256 % 64 ≤ 32) ∧
    (rdS c 4).toNat % 64 = 0 ∧ 32 < (rdS (setS 5 33 c) 5).toNat % 64 ∧
    (tileBad 0 0 0 = true ∧ tileBad 32 0 1 = false ∧
      (rdS c 1).toNat + (31 * (tileOf 32 1).pa + (tileOf 32 1).ra) ≤ 0x60000 ∧
      (rdS c 1).toNat + (((tileOf 32 1).rowsB - 1) * (tileOf 32 1).pb + (tileOf 32 1).rb) ≤ 0x60000) ∧
    (c.flt = none ∧ c.arrMark ≤ (feAt (sampleState c) 0).arrOut) ∧
    (Issues (sampleState k) k 0 8 ∧ (feAt (sampleState k) 0).arrOut < k.arrMark ∧ MayWait (sampleState k)) :=
  ⟨⟨issues_of (by decide) rfl rfl rfl (by decide), issues_of (by decide) rfl rfl rfl (by decide),
      issues_of (by decide) rfl rfl rfl (by decide), rfl, rfl, by decide, rfl, by decide, by decide, by decide⟩,
    by decide, by decide, by decide, by decide, by decide, by decide, issues_of (by decide) rfl rfl rfl (by decide), by decide, waits_of (by decide)⟩

/-- The sample state with one card outstanding of the seat. -/
def cardState : State :=
  { sampleState sampleHand with
    fes := [(0, sampleFe { sampleSeat sampleHand with cards := [3] })]
    cards := [(3, { id := 3, poster := .seat 0 0, ctx := 1, want := 1, w := [1, 0, 0, 0, 0, 0, 0, 0], foot := [], rcv := [], source := 1 })] }

theorem test_meets_CardsAndLaunch :
    let mine (s : State) (tag id : Nat) : Option Card := (KV.find id s.cards).filter fun c => (cardTag c.w).toNat == tag
    let h := handWith [(4, 0x10100)]
    let bytes (s : State) (h : Hand) (off : Nat) : Nat :=
      let w := localRead s 0 h off 8
      192 + if w / 2 ^ 44 % 16 = 1 ∨ w / 2 ^ 44 % 16 = 2 then 16 * (w / 2 ^ 36 % 16 + 1) else 0
    let two : State := { S with mem := [(2 ^ 44 + 0x104, 0x10), (2 ^ 44 + 0x105, 0x10)] }
    let top : State := { sampleState (handWith [(1, 0x5FF40)]) with mem := [(2 ^ 44 + 0x5FF45, 0x30)] }
    Issues S H 0 8 ∧ (rdS H 1).toNat % 64 = 0 ∧ (rdS H 1).toNat + bytes S H 0x100 ≤ 0x60000 ∧
    (Issues two H 0 8 ∧ bytes two H 0x100 = 224 ∧ (rdS H 1).toNat + bytes two H 0x100 ≤ 0x60000) ∧
    (bytes top (handWith [(1, 0x5FF40)]) 0x5FF40 = 192 ∧ 0x5FF40 + 192 ≤ 0x60000) ∧
    (rdS H 2).toNat % 64 ≠ 0 ∧ (Issues (sampleState h) h 0 8 ∧ Reaches (sampleState h) (rdS h 4) 256 { r := true } false 0x100 []) ∧
    (ownBehind S 0 0 (rdS H 1).toNat 8 = false ∧
      (let s := behindState sampleHand (2 ^ 44 + 0x107) (.atomic 0 false 0 0)
       Issues s H 0 8 ∧ ownBehind s 0 0 (rdS H 1).toNat 8 = true)) ∧
    (cur S).cards.findSome? (mine S 7) = none ∧
    (Issues cardState H 0 8 ∧ ∃ c, (cur cardState).cards.findSome? (mine cardState 0) = some c) :=
  ⟨issues_of (by decide) rfl rfl rfl (by decide), by decide, by decide,
    ⟨issues_of (by decide) rfl rfl rfl (by decide), by decide, by decide⟩, by decide, by decide,
    ⟨issues_of (by decide) rfl rfl rfl (by decide), by decide, rfl, rfl⟩,
    ⟨by decide, issues_of (by decide) rfl rfl rfl (by decide), by decide⟩, rfl, issues_of (by decide) rfl rfl rfl (by decide), _, rfl⟩

/-- A cascade of one stage on FE 0, with eight row slots and a halo of one. -/
def sampleCasc : Cascade :=
  { id := 3, launch := 0, ctx := 1, cid := 9, rank := 1, d := 1, x0 := 0, y0 := 0, span := 1, w := 8, h := 1, fmt := 0, rpol := 1
    cpol := 1, nrows := 0, lw := 4, base := 0x2000, src := 0, spitch := 0, dst := 0, dpitch := 0
    stages := [{ hand := 0, const := 0, planes := 1, seat := 0 }], die := 0, bx := 0, bY := 0, st := .streaming }

def sampleBight : Bight :=
  { casc := 3, stage := 0, rank := 0, rcv := 6, adm := 5, iss := 3, taps := [{ pl := 0, port := 0, dr := 0, dc := 0 }] }

def stageState (b : Bight) (c : Cascade) : State :=
  { sampleState sampleHand with
    fes := [(0, { sampleFe (sampleSeat sampleHand) with bight := some b })], cascades := [(3, c)] }

theorem test_meets_RowInstructions :
    let b := sampleBight
    let c := sampleCasc
    let p : Cascade := { c with st := .placed }
    let on (b : Bight) (c : Cascade) : Prop := Issues (stageState b c) H 0 8 ∧ OnStage (stageState b c) H b c
    H.flt = none ∧
    (on b { c with st := .done } ∧ { c with st := .done }.st = .done) ∧
    (on b c ∧ c.st = .streaming ∧ b.redo = 0 ∧ (b.nknown = true → b.adm < b.n + c.h) ∧ b.adm < b.rcv) ∧
    (on { b with redo := 1 } c ∧ { b with redo := 1 }.redo ≠ 0) ∧
    (on { b with nknown := true, n := 4 } c ∧ 4 + c.h ≤ b.adm) ∧
    (on { b with rcv := 5, nknown := true, n := 5 } c ∧ 5 ≤ b.adm ∧ b.adm < 5 + c.h) ∧
    (on { b with rcv := 5 } c ∧ 5 ≤ b.adm ∧ 5 - b.ret < c.w ∧ MayWait (stageState { b with rcv := 5 } c)) ∧
    (b.pret < 63 ∧ b.taps ≠ [] ∧ b.iss + c.h + 1 ≤ b.adm ∧ c.rpol ≠ 3 ∧ b.taps.length < 16 ∧ b.stage = 0 ∧
      ((c.stages.getD b.stage { hand := 0, const := 0, planes := 0, seat := 0 }).planes.getLsbD (0 : Plane).toNat) = true ∧
      -(c.h : Int) ≤ (0x3F : BitVec 6).toInt ∧ (0x3F : BitVec 6).toInt ≤ c.h ∧ ¬ (2 : BitVec 6).toInt ≤ c.h ∧
      0 ≤ (b.iss : Int) + (0x3F : BitVec 6).toInt ∧ b.nknown = false ∧ (3 : BitVec 6).toInt < c.lw) ∧
    (on { b with pret := 63 } c ∧ 63 ≤ { b with pret := 63 }.pret) ∧
    (on { b with taps := [], stage := 1, adm := 4 } c ∧ 4 < b.iss + c.h + 1) ∧
    (on b p ∧ (rdS H 1).toNat % 4 = 0 ∧ (rdS H 1).toNat + 4 * p.lw ≤ 0x60000 ∧ p.st = .placed ∧ b.seeded < p.h ∧
      Issues (stageState b p) H 0 4) := by
  have on (b : Bight) (c : Cascade) (hf : b.flt = none) (hs : b.seat = 0) (hc : b.casc = 3) :
      Issues (stageState b c) H 0 8 ∧ OnStage (stageState b c) H b c :=
    ⟨issues_of (Nat.zero_lt_succ 3) rfl rfl rfl (by decide), rfl, by rw [hc]; rfl, hs, hf, rfl⟩
  exact ⟨rfl, ⟨on _ _ rfl rfl rfl, rfl⟩, ⟨on _ _ rfl rfl rfl, rfl, rfl, by decide, by decide⟩, ⟨on _ _ rfl rfl rfl, by decide⟩,
    ⟨on _ _ rfl rfl rfl, by decide⟩, ⟨on _ _ rfl rfl rfl, by decide, by decide⟩,
    ⟨on _ _ rfl rfl rfl, by decide, by decide, waits_of (by decide)⟩, by decide, ⟨on _ _ rfl rfl rfl, by decide⟩,
    ⟨on _ _ rfl rfl rfl, by decide⟩, on _ _ rfl rfl rfl, by decide, by decide, rfl, by decide,
    issues_of (by decide) rfl rfl rfl (by decide)⟩

/-- The edge core of die 0 with the sample hand in turn. -/
def edgeState : State :=
  { sampleState sampleHand with curFe := 25600, fes := [(25600, { seats := #v[{ sampleSeat sampleHand with ctx := 64 }, {}, {}, {}] })] }

theorem test_meets_SystemInstructions :
    25600 ≤ edgeState.curFe % 2 ^ 20 ∧ Issues edgeState H 0 16 ∧ Issues edgeState H 0 8 ∧ Lands (rdS H 1) 4 ∧ Lands (rdS H 1) 8 ∧
    Lands (rdS H 1) 32 ∧ (rdS H 1).toNat + 32 ≤ 0x60000 ∧ ownBehind edgeState 25600 0 (rdS H 1).toNat 32 = false ∧ ¬ 25600 ≤ S.curFe % 2 ^ 20 ∧ Issues S H 0 16 ∧ Issues S H 0 8 :=
  ⟨by decide, issues_of (by decide) rfl rfl rfl (by decide), issues_of (by decide) rfl rfl rfl (by decide), ⟨by decide, by decide⟩,
    ⟨by decide, by decide⟩, ⟨by decide, by decide⟩, by decide, by decide, by decide, issues_of (by decide) rfl rfl rfl (by decide),
    issues_of (by decide) rfl rfl rfl (by decide)⟩

/-- A request of seat 2 of FE 1 for a word of the scratchpad of FE 0. -/
def reqOf (op : ReqOp) (land : Option Nat := none) : Req :=
  { id := 5, ctx := 1, fe := 1, seat := 2, hand := 0x20000, va := 0x100100, pa := 2 ^ 44 + 0x100, op := op, land := land }

/-- The sample state with that request in flight, behind another. -/
def reqState (r : Req) : State := { sampleState sampleHand with reqs := [reqOf .clre, r] }

theorem at_bank {s : State} {n : Nat} {r : Req} {fe : Nat}
    (h : (s.reqs[n]? = some r ∧ r.flit = none ∧ r.far = none ∧ inOrder s r = true) ∧ reqRoute s r = [] ∧ ownModule s r.pa = true ∧
    (paClass r.pa = 1 ∧ feOfPa r.pa = some fe) ∧ (feAt s fe).holder = some r.ctx) : AtBank s n r fe :=
  ⟨⟨h.1.1, h.1.2.1, h.1.2.2.1, h.1.2.2.2⟩, h.2.1, h.2.2.1, h.2.2.2.1, h.2.2.2.2⟩

theorem test_meets_TagAndWaitRequestsAtHome :
    let s := reqState (reqOf (.waitRead true))
    AtBank s 1 (reqOf (.waitRead true)) 0 ∧ (feAt s 0).waits = [] ∧ (feAt s 0).holds = [] ∧
    AtBank (reqState (reqOf .tagrd (some 0x40))) 1 (reqOf .tagrd (some 0x40)) 0 :=
  ⟨at_bank (by decide), rfl, rfl, at_bank (by decide)⟩

theorem test_meets_AtomicsAtHome :
    AtBank (reqState (reqOf (.atomic 9 true 5 6) (some 0x40))) 1 (reqOf (.atomic 9 true 5 6) (some 0x40)) 0 ∧
    AtBank (reqState (reqOf (.atomic 10 false 5 6))) 1 (reqOf (.atomic 10 false 5 6)) 0 ∧ 9 < 12 ∧ (11 = 10 → true = false) :=
  ⟨at_bank (by decide), at_bank (by decide), by decide, by decide⟩

/-- Memory that holds a pile of capacity 2 at 0x100, with one cell at 0x140 in use. -/
def pileMem : List Host.Cell := [(2 ^ 44 + 0x100, 2), (2 ^ 44 + 0x108, 1), (2 ^ 44 + 0x110, 0x40), (2 ^ 44 + 0x140, 9)]

theorem test_meets_PilesAtHome :
    let r (op : PileOp) : Req := { reqOf (.pile op) (some 0x40) with hops := 9 }
    let s (op : PileOp) : State := { reqState (r op) with mem := pileMem }
    (AtBank (s .pop) 1 (r .pop) 0 ∧ AtBank (s (.push 9)) 1 (r (.push 9)) 0 ∧ AtBank (s .popw) 1 (r .popw) 0 ∧
      (feAt (s .pop) 0).waits = [] ∧ (meldPath (r .pop).fe (r .pop).pa).drop (r .pop).hops = [] ∧ (r .pop).land = some 0x40) ∧
    ((4 : W32) ≠ 0 ∧ (0x40 : W32).toNat % 8 = 0 ∧ 32 ≤ (0x40 : W32).toNat ∧ 0x100 + 0x40 + 8 * (4 : W32).toNat ≤ 0x60000) ∧
    pileHeader (reqState (r .pop)) (2 ^ 44 + 0x100) = none ∧
    pileHeader (s .pop) (2 ^ 44 + 0x100) = some (2, 1, 0x40) ∧
    pileHeader { s .pop with mem := [(2 ^ 44 + 0x100, 2), (2 ^ 44 + 0x110, 0x40)] } (2 ^ 44 + 0x100) = some (2, 0, 0x40) ∧
    pileHeader { s .pop with mem := [(2 ^ 44 + 0x100, 2), (2 ^ 44 + 0x108, 2), (2 ^ 44 + 0x110, 0x40)] } (2 ^ 44 + 0x100) =
      some (2, 2, 0x40) :=
  ⟨⟨at_bank (by decide), at_bank (by decide), at_bank (by decide), rfl, by decide, rfl⟩, by decide, by decide, by decide, by decide,
    by decide⟩

theorem test_meets_RepliesLandAndWake :
    let r : Req := { reqOf (.read 8 true) (some 0x5FFF8) with fe := 0, seat := 0 }
    let s : State := { sampleState sampleHand with replies := [⟨r, .land [1, 2]⟩] }
    let w : Req := { reqOf (.waitRead false) with fe := 0, seat := 0 }
    let p : Req := { reqOf (.pile .popw) with fe := 0, seat := 0 }
    let st (w : Req) : State :=
      { sampleState sampleHand with
        fes := [(0, sampleFe { sampleSeat { sampleHand with asked := some w, entered := true } with st := .waiting })]
        replies := [⟨w, .grant 7 0⟩] }
    (s.replies[0]? = some ⟨r, .land [1, 2]⟩ ∧ r.land = some 0x5FFF8 ∧ isWaitReq r = false ∧ isPopw r = false ∧
      r.far = none ∧ replyReady s ⟨r, .land [1, 2]⟩ = true ∧ routeDead s (replyRoute s r) = false ∧ (feAt s r.fe).holder = some r.ctx ∧ r.seat < 4 ∧ r.fe < 25600 ∧ 0x5FFF8 % 4 = 0 ∧
      0x5FFF8 + 4 * [1, 2].length ≤ 0x60000) ∧
    ((st w).replies[0]? = some ⟨w, .grant 7 0⟩ ∧ w.far = none ∧ replyReady (st w) ⟨w, .grant 7 0⟩ = true ∧ routeDead (st w) (replyRoute (st w) w) = false ∧
      ((seatAt (st w) 0 0).hand.bind (·.asked)).map (·.id) = some w.id ∧ (seatAt (st w) 0 0).st = .waiting ∧ isWaitReq w = true) ∧
    ((seatAt (st p) 0 0).st = .waiting ∧ p.far = none ∧ replyReady (st p) ⟨p, .grant 7 0⟩ = true ∧ routeDead (st p) (replyRoute (st p) p) = false ∧ isPopw p = true) := by decide

/-- Request `n` in flight is `r`, of this module, in no flit, and nothing comes before it. -/
theorem in_flight {s : State} {n : Nat} {r : Req}
    (h : s.reqs[n]? = some r ∧ r.flit = none ∧ r.far = none ∧ inOrder s r = true) : InFlight s n r :=
  ⟨h.1, h.2.1, h.2.2.1, h.2.2.2⟩

theorem test_meets_MeldsAndResends :
    let pop : Req := { reqOf (.pile .pop) (some 0x80) with fe := 2 }
    let push : Req := { reqOf (.pile (.push 9)) (some 0x40) with seat := 3 }
    let s : State := { sampleState sampleHand with reqs := [pop], refused := [pop] }
    let m : MeldWait := { point := (meldPath 2 (2 ^ 44 + 0x100)).headD 0, req := push, due := 7 }
    let far : Req := { reqOf (.pile .pop) (some 0x80) with fe := 3200 }
    let f : State := { sampleState sampleHand with reqs := [far] }
    let f : State := { f with links := (reqRoute f far).map (·, { st := .upFull }) }
    let fm : MeldWait := { point := (meldPath 3200 (2 ^ 44 + 0x100)).headD 0, req := push, due := 7 }
    (s.refused[0]? = some pop ∧ jobFrozen s pop.ctx = false) ∧
    ({ s with melds := [m] }.melds[0]? = some m ∧ recvFrozen { s with melds := [m] } m.req.ctx = false) ∧
    InFlight { s with melds := [m] } 0 pop ∧
    (ownModule s pop.pa = true ∧ routeDead s (reqRoute s pop) = false ∧ takesReq s pop (nextRoute s pop) = true ∧
      (meldLeft s pop).head? = some m.point ∧ m.req.ctx = pop.ctx ∧ m.req.pa = pop.pa ∧ (m.req.fe, m.req.seat) ≠ (pop.fe, pop.seat) ∧
      pop.land ≠ none ∧ m.req.land ≠ none ∧ m.req.far = none ∧ s.replies = []) ∧
    (s.melds = [] ∧ pop.hops = 0 ∧ (ctxAt s pop.ctx).meldWin ≠ 0) ∧
    InFlight { f with melds := [fm] } 0 far ∧
    (nextRoute f far ≠ [] ∧ (meldLeft f far).head? = some fm.point ∧ routeDead f (reqRoute f far) = false ∧
      takesReq f far (nextRoute f far) = true ∧ ownModule f far.pa = true) := by
  refine ⟨by decide +kernel, by decide +kernel, in_flight (by decide +kernel), by decide +kernel, by decide +kernel,
    in_flight (by decide +kernel), by decide +kernel⟩

/-- The sample state with a request for memory in flight, and the channel and gather unit of its address as given. -/
def guState (r : Req) (c : Train) (g : Gu) : State :=
  { sampleState sampleHand with reqs := [r], trains := [(chanOfPa r.pa, c)], gus := [(guOfPa r.pa, g)] }

theorem test_meets_GatherUnitRequests :
    let w : Req := { reqOf (.write 4 9) with pa := 0x40 }
    let r : Req := { reqOf (.read 8 true) (some 0x40) with pa := 0x40 }
    let far : Req := { reqOf (.write 4 9) with pa := 2 ^ 46 }
    let f : State := { sampleState sampleHand with boot := 9, reqs := [far], fes := [(1, { holder := some 1, seats := #v[{}, {}, { st := .running, ctx := 1 }, {}] })] }
    let up : Link := { st := .upFull }
    let on (r : Req) : State := { f with reqs := [r], routes := [(1, 0x80)], links := (reqRoute { f with routes := [(1, 0x80)] } r).map (·, up) }
    let load : Req := { reqOf (.read 8 true) (some 0x40) with pa := 2 ^ 46 }
    let push : Req := { reqOf (.pile (.push 9)) (some 0x40) with pa := 2 ^ 46 }
    let flies (s : State) (r : Req) : Prop := s.reqs[0]? = some r ∧ r.flit = none ∧ r.far = none ∧ inOrder s r = true
    (∀ x ∈ [far, load, push], flies (on x) x ∧ ownModule (on x) x.pa = false ∧
      routePort (on x) (paModule x.pa) = some 0 ∧ paBad (on x) x.pa = false ∧ (linkAt (on x) (riggingKey 0)).st = .upFull ∧
      routeDead (on x) (reqRoute (on x) x) = false ∧ takesReq (on x) x (reqRoute (on x) x) = true ∧ reqReady (on x) x = true) ∧
    (let s := guState w {} {}
     flies s w ∧ reqRoute s w = [] ∧ ownModule s w.pa = true ∧ paClass w.pa = 0 ∧ (trainAt s (chanOfPa w.pa)).opened = false) ∧
    (∀ g ∈ ([{}, { cached := [(segOf 0x40, false)] }] : List Gu), ∀ x ∈ [w, r],
      let s := guState x { opened := true } g
      flies s x ∧ reqRoute s x = [] ∧ (trainAt s (chanOfPa x.pa)).opened = true ∧ (trainAt s (chanOfPa x.pa)).closing = false ∧
      (trainAt s (chanOfPa x.pa)).accepted = [] ∧ (guAt s (guOfPa x.pa)).copying = [] ∧ (guAt s (guOfPa x.pa)).fills = [] ∧
      (guAt s (guOfPa x.pa)).rowWait = [] ∧
      (KV.find (segOf x.pa) (guAt s (guOfPa x.pa)).cached = none ↔ g = ({} : Gu))) ∧
    (flies f far ∧ ownModule f far.pa = false ∧ routePort f (paModule far.pa) = none ∧ asksNothing far = false ∧
      isSpillRead f far = false ∧ (seatAt f far.fe far.seat).st = .running ∧ (seatAt f far.fe far.seat).ctx = far.ctx ∧ far.seat < 4 ∧
      recvFrozen f far.ctx = false) := by decide +kernel

/-! ### Hands -/

/-- A hand of the one slot `addi s7, s7, 1`; a hand of an undefined major; and a belay hand of that slot. -/
def addiMem : List Host.Cell := [(8, 0x10), (9, 0xC0), (10, 0x71), (11, 0x14)]
def badMem : List Host.Cell := [(11, 0x34)]
def belayMem : List Host.Cell := [(0, 0x80), (16, 0x10), (17, 0xC0), (18, 0x71), (19, 0x14)]

theorem test_meets_HandFetchAndBelayHalt :
    let on (s : State) : State := { s with trains := [(0, { opened := true })] }
    let s := on (fetchState addiMem restSeat)
    let b := on (fetchState belayMem { restSeat with st := .loaded })
    let v := on (fetchState badMem { restSeat with arch := { fltvec := 0x18000 } })
    let p := on { fetchState belayMem restSeat with ctxs := [(1, { sampleCtx with st := .preempting })] }
    let ready (s : State) : Prop := s.curSeat < 4 ∧ (cur s).hand = none ∧ (cur s).hdrOnly = false ∧
      (cur s).deferred = [] ∧ (cur s).loopCheck = [] ∧ (ctxAt s 1).st = .running ∧ jobFrozen s 1 = false ∧ (feAt s 0).icache = [] ∧
      (∀ e ∈ s.gus, e.2.ecc = []) ∧ codeMeets s 0 1 (cur s).pc.toNat (fetchLen s 0 (cur s)) = .go ∧
      ownModule s 0 = true ∧ (cur s).pc.toNat % 4096 + 2048 ≤ 4096 ∧ 0 % 4096 = (cur s).pc.toNat % 4096 ∧
      (cur s).arch.belayEn = false
    (cur s).st = .running ∧ (cur b).st = .loaded ∧ (ready s ∧ ready b ∧ ready v) ∧
    (dataXlat s (feAt s 0).tlb 1 (cur s).pc.toNat { x := true } false = (.ok 0, []) ∧
      (∃ r, readHand s 0 1 (cur s).pc.toNat = .ok r ∧ decodeFault r = none) ∧
      ∃ r, readHand b 0 1 (cur b).pc.toNat = .ok r ∧ decodeFault r = none ∧ r.hdr.getLsbD 7 = true) ∧
    (∃ r x, readHand v 0 1 (cur v).pc.toNat = .ok r ∧ decodeFault r = some x ∧ Calm v (cur v).arch x.code ∧ (cur v).arch.fltvec ≠ 0 ∧
      (cur v).arch.hndl = false ∧ NoClaims v) ∧
    (isEdge p.curFe = false ∧ (cur p).stepping = false ∧ (ctxAt p 1).st = .preempting ∧ jobFrozen p 1 = false ∧
      (cur p).arch.stub = false ∧ (cur p).orig = none ∧ (cur p).loopCheck = [] ∧
      codeMeets p 0 1 (cur p).pc.toNat (fetchLen p 0 (cur p)) = .go) ∧
    (∃ r, readHand p 0 1 (cur p).pc.toNat = .ok r ∧ r.hdr.getLsbD 7 = true) :=
  ⟨rfl, rfl, ⟨by decide +kernel, by decide +kernel, by decide +kernel⟩, ⟨rfl, ⟨_, rfl, rfl⟩, _, rfl, rfl, by decide⟩, ⟨_, _, rfl, rfl, ⟨rfl, by decide, by decide, rfl⟩, by decide, rfl, rfl, rfl, by decide⟩, by decide +kernel, _, rfl, rfl⟩

/-- The sample hand past its last slot, with what it has recorded. -/
def endHand (c : Option Control) (f : Option FaultRec) (e : List Eff) : Hand :=
  { sampleHand with slot := 8, ctl := c, flt := f, effects := e }

theorem at_commit {h : Hand} (t : State) (hh : (cur t).hand = some h) (hs : t.curSeat < 4 ∧ h.slots.length ≤ h.slot ∧
    hasRowInstr h = false ∧ h.holds = [] ∧ h.popws = [] ∧ h.asked = none ∧ h.entered = false ∧ (cur t).stepping = false ∧ h.committing = false) : AtCommit t h :=
  ⟨hs.1, hh, hs.2.1, ⟨hs.2.2.1, hs.2.2.2.1, hs.2.2.2.2.1, hs.2.2.2.2.2.1, hs.2.2.2.2.2.2.1⟩, hs.2.2.2.2.2.2.2.1, hs.2.2.2.2.2.2.2.2⟩

/-- The end hand inside loop 1, whose last hand it is, with the count given. -/
def loopHand (n : W32) : Hand :=
  { endHand none none [] with
    work := { sampleHand.work with lc := #v[{}, { count := n, active := true, first := 0x10000, last := 0x10000, order := 0 }, {}] } }

theorem test_meets_CommitMakesEffectsVisible :
    let h := endHand none none []
    let q (e : Eff) : Hand := endHand none none [e]
    let r : Req := request S H 0x10040 0x40 (.read 8 true) (some 0x5FFF0)
    AtCommit (sampleState h) h ∧ h.flt = none ∧ h.effects = [] ∧ NoLoops h ∧ h.ctl = none ∧
    AtCommit (sampleState (endHand (some (.loop 2 5 0x10040)) none [])) (endHand (some (.loop 2 5 0x10040)) none []) ∧
    (AtCommit (sampleState (loopHand 1)) (loopHand 1) ∧ (loopHand 1).work.lc[1].active = true ∧
      (∀ m : Fin 3, m ≠ 1 → (loopHand 1).work.lc[m].active = false) ∧ (loopHand 1).work.lc[1].last = h.addr ∧
      (loopHand 1).work.lc[1].count.toNat ≤ 1 ∧ 1 < (loopHand 2).work.lc[1].count.toNat) ∧
    (AtCommit (sampleState (q (.store 0x5FFF8 8 5))) (q (.store 0x5FFF8 8 5)) ∧ NoLoops (q (.store 0x5FFF8 8 5)) ∧ 0x5FFF8 + 8 ≤ 0x60000 ∧
      Performed (sampleState (q (.store 0x5FFF8 8 5))) ∧ Performed { sampleState h with reqs := [{ r with seat := 1 }] } ∧ 0x5FFFC % 4 = 0 ∧ 0x5FFFC + 4 ≤ 0x60000) ∧
    (AtCommit (sampleState (q (.send r))) (q (.send r)) ∧ isRelOp r.op = false ∧ r.land = some 0x5FFF0 ∧ 0x5FFF0 + 16 ≤ 0x60000) :=
  ⟨at_commit _ rfl (by decide), rfl, rfl, fun n => by revert n; decide, rfl, at_commit _ rfl (by decide),
    ⟨at_commit _ rfl (by decide), by decide⟩, ⟨at_commit _ rfl (by decide), fun n => by revert n; decide, by decide,
      performed_of (by decide), performed_of (by decide), by decide⟩,
    at_commit _ rfl (by decide), by decide⟩

/-- The sample state at the end of a hand that has queued the one effect `e`, its FE as given but for that seat. -/
def effState (e : Eff) (f : FE) (t : Seat → Seat) : State :=
  let h := endHand none none [e]
  { sampleState h with
    fes := [(0, { f with holder := some 1, idle := false, seats := #v[t (sampleSeat h), {}, {}, {}] })] }

theorem at_effect (e : Eff) (f : FE) (t : Seat → Seat) (h : (cur (effState e f t)).hand = some (endHand none none [e]) ∧
    (cur (effState e f t)).stepping = false ∧ hasRowInstr (endHand none none [e]) = false) :
    AtCommit (effState e f t) (endHand none none [e]) ∧ NoLoops (endHand none none [e]) :=
  ⟨⟨Nat.zero_lt_succ 3, h.1, Nat.le_refl 8, ⟨h.2.2, rfl, rfl, rfl, rfl⟩, h.2.1, rfl⟩,
    fun n => (by decide : ∀ n : Fin 3, (endHand none none []).work.lc[n].active = false) n⟩

theorem test_meets_EffectsReachMemoryAtCommit :
    let at_ (e : Eff) (f : FE) (t : Seat → Seat) : Prop :=
      (AtCommit (effState e f t) (endHand none none [e]) ∧ NoLoops (endHand none none [e])) ∧ Performed (effState e f t)
    let bar (b : Barrier) : FE := { barriers := [(2047, b)] }
    let o : Barrier := { expect := 2, st := .opened }
    let m : FE := { arrQ := [{ seat := 1, hand := 0, op := .mtile 32 0 0 0 0 1 }] }
    let ev (t : Seat) : Seat := { t with evq := [⟨0, 5⟩] }
    at_ (.binit 2047 false true 1) {} id ∧ (barAt (bar o) 2047).expect = 2 ∧
    at_ (.barr 2047 1) (bar o) id ∧ at_ (.brst 2047) (bar { o with st := .error }) id ∧
    at_ (.card 0x100 1) {} (fun t => { t with cards := List.range 63 }) ∧
    at_ (.array (.accz 0)) {} id ∧ mtileBusy {} = false ∧ at_ (.array (.accz 0)) m id ∧ mtileBusy m = true ∧
    at_ (.evtake none) {} ev ∧ (cur (effState (.evtake none) {} ev)).evq = ⟨0, 5⟩ :: [] ∧
    (let e : Eff := .send { restRead with op := .atomic 0 true 1 0, land := some 0x5FFF8 }
     at_ e {} id ∧ 0x5FFF8 % 4 = 0 ∧ 0x5FFF8 + landBytesOf (.atomic 0 true 1 0) ≤ 0x60000) ∧
    (let e : Eff := .send { restRead with op := .write 8 1 }
     at_ e {} id) :=
  ⟨⟨at_effect _ _ _ (by decide), performed_of (by decide)⟩, rfl, ⟨at_effect _ _ _ (by decide), performed_of (by decide)⟩,
    ⟨at_effect _ _ _ (by decide), performed_of (by decide)⟩, ⟨at_effect _ _ _ ⟨rfl, rfl, rfl⟩, performed_of (by decide)⟩,
    ⟨at_effect _ _ _ (by decide), performed_of (by decide)⟩, rfl, ⟨at_effect _ _ _ (by decide), performed_of (by decide)⟩, rfl,
    ⟨at_effect _ _ _ (by decide), performed_of (by decide)⟩, rfl,
    ⟨⟨at_effect _ _ _ (by decide), performed_of (by decide)⟩, by decide, by decide⟩, at_effect _ _ _ (by decide), performed_of (by decide)⟩

/-- The sample state with a fault vector. -/
def vecState (h : Hand) : State :=
  { sampleState h with fes := [(0, sampleFe { sampleSeat h with arch := { fltvec := 0x18000 } })] }

theorem test_meets_FaultsTrapsAndReturns :
    let f : FaultRec := { code := 0x14 }
    let h := endHand none (some f) []
    let c (c : Control) : Hand := endHand (some c) none []
    let w (c : Control) (a : Arch → Arch) : Hand := { endHand (some c) none [] with work := a sampleHand.work }
    (AtCommit (vecState h) h ∧ h.flt = some f ∧ h.cfgHit = none ∧ NoClaims (vecState h) ∧ Calm (vecState h) (cur (vecState h)).arch f.code ∧
      (cur (vecState h)).arch.fltvec ≠ 0 ∧ (cur (vecState h)).arch.hndl = false) ∧
    (AtCommit (sampleState h) h ∧ NoClaims (sampleState h) ∧ Calm (sampleState h) (cur (sampleState h)).arch f.code ∧
      (cur (sampleState h)).arch.fltvec = 0 ∧ (ctxAt (sampleState h) 1).st = .running ∧
      ∀ e ∈ seatsOf (sampleState h) 1, (seatAt (sampleState h) e.1 e.2).st ≠ .waiting) ∧
    (let t := w (.trap 0x70 5 7) (fun a => { a with fltvec := 0x18000 })
     AtCommit (sampleState t) t ∧ t.flt = none ∧ t.effects = [] ∧ bightAt (sampleState t) 0 = none ∧
      Calm (sampleState t) t.work 0x70 ∧ t.work.fltvec ≠ 0 ∧ t.work.hndl = false) ∧
    (AtCommit (sampleState (c .eret)) (c .eret) ∧ AtCommit (sampleState (c .halt)) (c .halt) ∧
      AtCommit (sampleState (c (.brk 3))) (c (.brk 3)) ∧ isEdge (sampleState (c (.brk 3))).curFe = false) ∧
    ((w .eret (fun a => { a with hndl := true, hin := true, stub := true })).work.hin = true ∧
      (w .eret (fun a => { a with stub := true })).work.hndl = false ∧ (c .eret).work.stub = false) :=
  ⟨⟨at_commit _ rfl (by decide), rfl, rfl, ⟨rfl, rfl, by decide⟩, ⟨rfl, by decide, by decide, rfl⟩, by decide, rfl⟩,
    ⟨at_commit _ rfl (by decide), ⟨rfl, rfl, by decide⟩, ⟨rfl, by decide, by decide, rfl⟩, rfl, rfl, by decide⟩,
    ⟨at_commit _ rfl (by decide), rfl, rfl, rfl, ⟨rfl, by decide, by decide, rfl⟩, by decide, rfl⟩,
    ⟨at_commit _ rfl (by decide), at_commit _ rfl (by decide), at_commit _ rfl (by decide), rfl⟩, rfl, rfl, rfl⟩

/-- The sample seat with enforcement on, a fault vector and a count. -/
def belayState (n : BitVec 16) : State :=
  { sampleState sampleHand with fes := [(0, sampleFe { sampleSeat sampleHand with arch := { fltvec := 0x18000 }, belayCnt := n })] }

theorem test_meets_BelayDistance :
    let s := belayState 385
    let t := belayState 381
    s.curSeat < 4 ∧ (cur s).hand = some H ∧ H.work.belayEn = true ∧ H.holds = [] ∧ H.popws = [] ∧ H.asked = none ∧ H.entered = false ∧
    NoClaims s ∧ Calm s (cur s).arch 0x05 ∧ (cur s).arch.fltvec ≠ 0 ∧ (cur s).arch.hndl = false ∧
    H.work.belayMax.toNat < (cur s).belayCnt.toNat ∧
    (H.counted = false ∧ H.work.belayMax.toNat < (cur t).belayCnt.toNat + 4 ∧ (cur t).belayCnt.toNat + 4 ≤ 0xFFFF ∧
      (cur t).hand = some H ∧ NoClaims t ∧ Calm t (cur t).arch 0x05) :=
  ⟨by decide, rfl, rfl, rfl, rfl, rfl, rfl, ⟨rfl, rfl, by decide⟩, ⟨rfl, by decide, by decide, rfl⟩, by decide, rfl, by decide, rfl, by decide,
    by decide, rfl, ⟨rfl, rfl, by decide⟩, rfl, by decide, by decide, rfl⟩

/-- The sample state with a seat as given and a fault vector. -/
def seatState (t : Seat) : State :=
  { sampleState sampleHand with fes := [(0, sampleFe { t with arch := { fltvec := 0x18000 } })] }

theorem test_meets_DeferredFaultsAndDeadlines :
    let d : Deferred := { flt := { code := 0x51, info := 5 } }
    let s := seatState { restSeat with deferred := [d] }
    let w := seatState { sampleSeat sampleHand with st := .waiting, deferred := [d] }
    let h : Hand := { sampleHand with slots := [{ lo := 0x00408050 }], entered := true }
    let v := seatState { sampleSeat h with st := .waiting }
    (0 < 4 ∧ (seatAt s 0 0).deferred = d :: [] ∧ d.casc = false ∧ (feAt s 0).waits = [] ∧ (feAt s 0).holds = [] ∧
      (∀ pl : Fin 4, (feAt s 0).planes[pl].ports = []) ∧ (seatAt s 0 0).arch.dbgctl.getLsbD 0 = false ∧ d.flt.code ≠ 0x61 ∧
      (seatAt s 0 0).stepping = false ∧ (ctxAt s 1).st ≠ .preempting ∧ (seatAt s 0 0).arch.fltvec ≠ 0 ∧
      (seatAt s 0 0).arch.hndl = false ∧ (seatAt s 0 0).st = .running ∧ (seatAt s 0 0).hand = none ∧ (seatAt s 0 0).hdrOnly = false) ∧
    ((seatAt w 0 0).deferred = d :: [] ∧ (seatAt w 0 0).st = .waiting ∧ (seatAt w 0 0).hand = some H ∧ H.holds = [] ∧ H.popws = [] ∧
      H.asked = none) ∧
    ((seatAt v 0 0).st = .waiting ∧ (seatAt v 0 0).hand = some h ∧ h.slots[h.slot]? = some { lo := 0x00408050 } ∧
      rdS h 2 ≠ BitVec.allOnes 64) ∧
    decode 0x00408050 0 = .ok (.waitev 4 2 0) := by
  refine ⟨by decide, by decide, by decide, rfl⟩

/-! ### Barrier objects and contexts -/

theorem test_meets_BarrierArrivals :
    let b : Barrier := { expect := 2, st := .opened, arrived := 1, phase := 3 }
    let h : Hand := { sampleHand with entered := true }
    let w : State := { sampleState h with fes := [(0, { sampleFe { sampleSeat h with st := .waiting } with
      barriers := [(7, b)], waits := [.bar 0 7 3] })] }
    ((barAt (feAt (barState b) 0) 7).st = .opened ∧ b.arrived.toNat + 0 < b.expect.toNat ∧ b.arrived.toNat + 1 = b.expect.toNat ∧
      b.expect.toNat < b.arrived.toNat + 2 ∧ (feAt (barState b) 0).waits = []) ∧
    ((barAt (feAt w 0) 7).st = .opened ∧ (feAt w 0).waits = [.bar 0 7 b.phase] ∧ (seatAt w 0 0).st = .waiting ∧
      (seatAt w 0 0).hand = some h) ∧
    (barAt (feAt S 0) 7).st ≠ .opened := by decide

/-- A state in which the contexts are given, and nothing stands on any FE. -/
def ctxState (l : KV Ctx) : State := { State.reset with agenda := [], boot := 9, ctxs := l }

/-- A saved context of four seats that stood on FE 0. -/
def savedState : State :=
  { ctxState [(1, { sampleCtx with st := .saved, blocks := [{ fe := 0, key := 2 ^ 20, ranges := [] }] })] with
    fes := [(2 ^ 20, { seats := Vector.replicate 4 { restSeat with st := .saved }, idle := false })] }

theorem test_meets_ContextsChangeState :
    let x (st : CtxState) : Ctx := { sampleCtx with st := st }
    let f : State := { ctxState [(1, x .running)] with hitch := { frozen := [7] } }
    let r : State := { sampleState sampleHand with fes := [(0, sampleFe restSeat)] }
    let p : State := { sampleState sampleHand with
      fes := [(0, sampleFe { restSeat with st := .belayed })], ctxs := [(1, { x .preempting with cause := 1 })] }
    let k := savedState
    (1 < 64 ∧ (ctxAt (ctxState []) 1).st = .free ∧ (ctxAt (ctxState [(1, x .bound)]) 1).st = .bound ∧
      (ctxAt (ctxState [(1, x .bound)]) 1).unmaps = []) ∧
    ((ctxAt f 1).st = .running ∧ (ctxAt f 1).pend = false ∧ hitched f 1 = true) ∧
    ((ctxAt r 1).st = .running ∧ (ctxAt r 1).pend = false ∧ hitched r 1 = false ∧
      ∀ e ∈ seatsOf r 1, (seatAt r e.1 e.2).st = .running ∧ (seatAt r e.1 e.2).hand = none) ∧
    ((ctxAt k 1).st = .saved ∧ (ctxAt k 1).blocks = [{ fe := 0, key := 2 ^ 20, ranges := [] }] ∧
      (∀ b ∈ (ctxAt k 1).blocks, b.held = [] ∧ b.lands = [] ∧ b.fe < 25600 ∧ 2 ^ 20 ≤ b.key) ∧ k.launches = [] ∧ k.fused = [] ∧
      (feAt k 0).idle = true ∧ (∀ e ∈ seatsOf k 1, e.1 = 2 ^ 20) ∧ (∀ j < 4, (seatOf (feAt k (2 ^ 20)) j).faulted = false) ∧
      (∀ j < 4, (seatOf (feAt k (2 ^ 20)) j).st = .saved ∧ hdrStub (seatOf (feAt k (2 ^ 20)) j).hdr = 0 ∧
        (seatOf (feAt k (2 ^ 20)) j).ctx = 1)) ∧
    ((ctxAt k 1).owed = [] ∧ (∀ fe ∈ ctxFes k 1, isSaved fe = true) ∧ ∀ n ∈ k.graph, n.ctx ≠ 1) ∧
    (isEdge 0 = false ∧ (seatAt p 0 0).st ≠ .free ∧ saveReady p 1 = true ∧ (ctxAt p 1).stopAfter = false ∧ (ctxAt p 1).owed = [] ∧
      ctxFes p 1 = [0] ∧ p.cascades = [] ∧ (seatAt r 0 0).st ≠ .free ∧ saveReady r 1 = false) := by decide +kernel

/-- A copy card of 8 KiB with one receiver, of which the first 4 KiB have landed. -/
def copyCard : Card :=
  { id := 3, poster := .node 5, ctx := 1, want := 1, w := [0x100000000000, 0x10000, 8192, 0, 0, 0, 0, 0], foot := []
    rcv := [{ dest := 0x12000, bar := 0, bv := false, opm := false, slot := 0, landed := 4096 }], source := 1, checked := true }

/-- A dense global SIN of eight 4-byte elements. -/
def globCmd : StreamCmd :=
  { seat := 0, hand := 0, addr := 0x10000, count := 8, glob := true, esz := 0, sparse := false, ctx := 1 }

theorem test_meets_CheckpointsUnmapsAndEdgeCores :
    let s : State := { ctxState [(1, { sampleCtx with st := .preempting })] with cards := [(3, copyCard)] }
    let p : PlaneState := { ports := [(0, { queue := [{ globCmd with latch := some (0, 64, 0) }] })] }
    let t : State := { planeState p with ctxs := [(1, { sampleCtx with unmaps := [{ base := 0x10000, limit := 0x20000, edge := 25600, off := 0x40, tokens := [(0, 0, 0)] }] })] }
    let u : State := ctxState [(1, { sampleCtx with unmaps := [{ base := 0x10000, limit := 0x20000, edge := 25600, off := 0x40 }] })]
    (KV.find 3 s.cards = some copyCard ∧ (ctxAt s 1).st = .preempting ∧ cardOver copyCard = false ∧ copyCard.checkpointed = false ∧
      cardAwaited s copyCard = false ∧ (∀ r ∈ copyCard.rcv, r.failed = true ∨ r.landed % 4096 = 0 ∨ r.landed = outLen copyCard r) ∧
      cardKind copyCard.w = 1) ∧
    (let e : Receiver := { dest := 0x14000, bar := 0, bv := false, opm := false, slot := 0, landed := 8100 }
     let x : Card := { copyCard with w := [0x100000000000, 0x10000, 8100, 0, 0, 0, 0, 0], out := [(0, List.replicate 8100 0)], rcv := copyCard.rcv ++ [e, { e with failed := true, landed := 3 }] }
     cardOver x = false ∧ cardAwaited { s with cards := [(3, x)] } x = false ∧ e.landed = outLen x e ∧
     ∀ r ∈ x.rcv, r.failed = true ∨ r.landed % 4096 = 0 ∨ r.landed = outLen x r) ∧
    ((ctxAt t 1).unmaps.map (·.tokens) = [[(0, 0, 0)]] ∧ (portOf (feAt t 0) 0 0).queue ≠ []) ∧
    (unmapReady u 1).isSome = true ∧
    ((seatAt State.reset (25600 + 7) 0).st = .free ∧ (seatAt edgeState (25600 + 0) 0).st = .running) := by decide +kernel

/-! ### Queues, nodes, launches and cascades -/

/-- Bytes of 64-bit words from address `a` on, without those that are 0. -/
def wordsAt (a : Nat) (l : List (Nat × Nat)) : List Host.Cell :=
  (l.flatMap fun p => (List.range 8).map fun i => (a + 8 * p.1 + i, BitVec.ofNat 8 (p.2 / 256 ^ i))).filter (·.2 != 0)

def sampleQueue : Queue := { ringBase := 0x10000, en := true, ctx := 1, log2u := 4, st := .active, wptr := 3 }

/-- Queue 2 as given, bound to a slot, with its ring at 0x1_0000. -/
def queueState (x : Queue) (m : List Host.Cell) : State :=
  { ctxState [(1, sampleCtx)] with queues := [(2, x)], slots := [2], mem := m }

theorem test_meets_QueuesChangeState :
    let x := sampleQueue
    let o : State := { queueState x [] with queues := [(2, x), (3, { x with st := .pending })] }
    let live (x : Queue) : Prop := x.st ≠ .disabled ∧ x.st ≠ .error
    (live x ∧ (19 : W32) ≠ x.wptr ∧ ((16 : W32) - x.rptr).toNat ≤ 2 ^ x.log2u.toNat ∧ ((16 : W32) - x.wptr).toNat ≤ 2 ^ x.log2u.toNat ∧
      2 ^ x.log2u.toNat < ((17 : W32) - x.rptr).toNat) ∧
    live { x with st := .idle } ∧ ¬ live { x with st := .error } ∧ { x with st := .disabled }.st = .disabled ∧
    ((queueAt o 2).st = .active ∧ ∃ e ∈ o.queues, e.2.st = .pending) ∧ (queueAt o 3).st = .pending ∧ (queueAt o 2).st ≠ .pending ∧
    ((queueState { x with st := .pending } []).queues = [(2, { x with st := .pending })] ∧
      (queueState { x with st := .pending } []).slots.length < 32) := by decide

/-- Rings that hold a packet whose first two words are given; a LAUNCH, a NOP of two units, a WAIT that is met, one that is not, and
an unknown OP. -/
def ringOf (h w : Nat) : List Host.Cell := wordsAt 0 [(0, h), (1, w)]
def launchRing : List Host.Cell := ringOf 0x00050201 0x10100
def nopRing : List Host.Cell := wordsAt 0 [(0, 0x00050100)]
def waitRing (v : Nat) : List Host.Cell := wordsAt 0 [(0, 0x00050004), (1, 0x10800), (2, v)]
def badRing : List Host.Cell := wordsAt 0 [(0, 6)]

/-- The same state with the channel that serves the ring's memory open, and the links between its die and the command
processor up. -/
def openState (x : Queue) (m : List Host.Cell) : State :=
  { queueState x m with
    trains := (List.range 32).map fun i => (i, { opened := true })
    links := [(spliceKey 0 48, { st := .upFull }), (xSpliceKey 0 0, { st := .upFull })] }

/-- A launch record at 0x1_0100 that deals one group of one seat. -/
def recordMem : List Host.Cell :=
  wordsAt 0x100 [(0, 0x101), (1, 0x10400), (6, 0x200), (16, 0x10500), (18, 0x10600)]

/-- One node of queue 2 in the task graph. -/
def nodeOf (k : NodeKind) : Node :=
  { id := 9, queue := 2, ctx := 1, kind := k, tag := 5, index := 0, reads := [], writes := [], deps := [] }

def nodeState (k : NodeKind) (m : List Host.Cell) : State := { openState sampleQueue m with graph := [nodeOf k] }

/-- The card that the copy node's dispatch posted, once it is over. -/
def nodeCardDone : Card := { copyCard with poster := .node 9, done := true }

theorem test_meets_PacketsAndNodes :
    let x := sampleQueue
    let p (m : List Host.Cell) : Option Packet := packetAt (openState x m) 2
    let st := nodeState (.copy 0x10000 0x12000 8192) []
    let met (v : Nat) (p : Packet) : Bool := waitMet (readsGo cpDie 1 (packetReads (openState x (waitRing v)) 2).spans (openState x (waitRing v))) 1 p
    (frontReady (openState x launchRing) 2 = true ∧ ((p launchRing).map fun p => (p.op, packetBad x p)) = some (1, 0)) ∧
    (frontReady (openState x nopRing) 2 = true ∧ ((p nopRing).map fun p => (p.op, packetBad x p)) = some (0, 0)) ∧
    ((p (waitRing 0)).map fun p => (p.op, packetBad x p, met 0 p)) = some (4, 0, true) ∧ (openState x (waitRing 0)).gus = [] ∧
    ((p (waitRing 3)).map fun p => (p.op, packetBad x p, met 3 p)) = some (4, 0, false) ∧ frontReady (openState x (waitRing 3)) 2 = true ∧
    ((p badRing).map fun p => packetBad x p) = some 1 ∧ frontReady (openState x badRing) 2 = true ∧
    (∀ r ∈ [(2, [(0, 0x00050202), (3, 1), (5, 1)]), (3, [(0, 0x00050203), (3, 1)]), (5, [(0, 0x00050005)])],
      frontReady (openState x (wordsAt 0 r.2)) 2 = true ∧
      ((p (wordsAt 0 r.2)).map fun p => (p.op, packetBad x p)) = some (r.1, 0)) ∧
    (∀ h ∈ [0x00050800, 0x00050001, 0x00050002, 0x00050003, 0x00050104, 0x00050105],
      frontReady (openState x (ringOf h 0)) 2 = true ∧
      ((p (ringOf h 0)).any fun p => p.op == h % 8 && packetBad x p != 0) = true) ∧
    (let w := openState { x with stalled := true } (waitRing 0)
     (queueAt w 2).st = .active ∧ (queueAt w 2).stalled = true ∧ (p (waitRing 0)).any (waitMet w 1) = true ∧ overQuantum w 2 = false ∧
       (queueAt w 2).owes = []) ∧
    (st.graph = [nodeOf (.copy 0x10000 0x12000 8192)] ∧ nodeReady st (nodeOf (.copy 0x10000 0x12000 8192)) = true) ∧
    ((match (checkLaunch (nodeState (.launch 0x10100) recordMem) 1 (.node 9) 0 0x10100).out with
      | .ok (some l) => l.remote == []
      | _ => false) = true ∧
      nodeReady (nodeState (.launch 0x10100) recordMem) (nodeOf (.launch 0x10100)) = true) ∧
    ((match (checkLaunch (nodeState (.launch 0x10100) []) 1 (.node 9) 0 0x10100).out with
      | .ok none => true
      | _ => false) = true ∧ (queueAt st 2).st = .active ∧
      nodeReady (nodeState (.launch 0x10100) []) (nodeOf (.launch 0x10100)) = true) ∧
    nodeReady (nodeState (.signal 0x10800 7 false) []) (nodeOf (.signal 0x10800 7 false)) = true ∧
    ((nodeCardDone.poster = .node 9 ∧ nodeCardDone.done = true ∧ nodeCardDone.status = 0)) := by decide +kernel

theorem test_meets_SignalNode :
    let s := nodeState (.signal 0x10800 7 false) []
    (signalSpan s 1 0x10800 false).stop = .go ∧ (signalSpan s 1 0x10800 false).parts.map (·.pa) = [0x800] ∧
    ownModule s 0x800 = true ∧ paClass 0x800 = 0 := by decide +kernel

/-- A launch of one group of two seats. -/
def sampleLaunch : Launch :=
  { id := 4, ctx := 1, origin := .node 9, prio := 0, dealMode := false, align8 := false, modBase := 0, bmax := 0, entry := 0x10400
    args := 0, fltvec := 0, ovfBase := 0, ovfSz := 0, spillSz := 0x200, seed := 0
    levels := [{ gang := false, count := 1, domain := 3, w := 80, h := 40 }, { gang := false, count := 1, domain := 5, w := 0, h := 0 },
               { gang := false, count := 2, domain := 6, w := 0, h := 0 }]
    pos := [(0, 0)], waiting := [0] }

def launchState (l : Launch) : State := { ctxState [(1, sampleCtx)] with launches := [(4, l)] }

/-- A deal launch of one group of two seats. -/
def dealLaunch : Launch := { sampleLaunch with dealMode := true, levels := sampleLaunch.levels.drop 1, pos := [] }

/-- Both seats of the launch have retired on FE 6, and one more group of it runs elsewhere. -/
def retiredState : State :=
  let t : Seat := { st := .retired, ctx := 1, launch := 4 }
  { launchState { dealLaunch with waiting := [], placed := [(0, 6), (1, 7)] } with
    fes := [(6, { holder := some 1, idle := false, seats := #v[t, t, {}, {}] })] }

theorem test_meets_GroupsArePlacedAndRetire :
    let s := launchState sampleLaunch
    let full : State := { s with fused := (List.range 8).map fun d => feAtXY d 0 0 }
    let d := launchState dealLaunch
    let r := retiredState
    let t := seatAt r 6 0
    (s.launches = [(4, sampleLaunch)] ∧ sampleLaunch.unread = none ∧ sampleLaunch.cascs = [] ∧ (sampleLaunch.levels.getLast?.map (·.count)).getD 0 = 2 ∧
      sampleLaunch.levels.length ≤ 8 ∧ mayPlace s sampleLaunch = true ∧ findBase s sampleLaunch false 0 = some (0, 0, 0)) ∧
    findBase full sampleLaunch false 0 = none ∧
    (mayPlace d dealLaunch = true ∧ dealLaunch.waiting = [0] ∧ (dealPlace d dealLaunch none 0).isSome = true) ∧
    (t.st = .retired ∧ t.launch = 4 ∧ (∀ j < 4, seatOf (feAt r 6) j = t ∨ (seatAt r 6 j).st = .free) ∧ t.cards = [] ∧ t.splits = [] ∧
      (∀ x ∈ unperformed { r with reqs := [{ reqOf .clre with fe := 5 }] }, x.fe ≠ 6) ∧
      (feAt r 6).bight = none ∧ jobFrozen r t.ctx = false ∧ (∀ pl : Fin 4, (feAt r 6).planes[pl].owner = none) ∧
      (feAt r 6).barriers = [] ∧ (launchState dealLaunch).launches ≠ [] ∧
      ∀ l ∈ r.launches.map (·.2), l.regions = [] ∧ l.placed ≠ [] ∧ (∃ p ∈ l.placed, p.2 ≠ 6) ∧ l.cascs = [] ∧ mayPlace r l = true) := by
  decide +kernel

/-- A cascade of one stage with no halo, and its bight unit with the tokens given on its row channel. -/
def rowCasc : Cascade := { sampleCasc with h := 0, src := 0x10000, spitch := 64 }
def rowBight : Bight := { casc := 3, stage := 0, rank := 0 }

/-- A cascade of two stages, on FEs 0 and 1. -/
def twoCasc : Cascade := { rowCasc with d := 2, span := 2, stages := [{ hand := 0, const := 0, planes := 1, seat := 0 }, { hand := 0, const := 0, planes := 1, seat := 0 }] }

/-- The state of that cascade: an emission of FE 0 whose token stands at its sink, and the bight unit of FE 1. -/
def emitState : State :=
  let p : PlaneState := { fields := [(0x80, 0x15)], chans := [(0x15, [{ elems := [1, 2, 3, 4], eor := true }])] }
  let e : Emission := { row := 0, pl := 0, port := 0, const := 0, taps := [], fed := [] }
  { sampleState sampleHand with
    fes := [(0, { sampleFe (sampleSeat sampleHand) with bight := some { rowBight with emis := [e] }, planes := #v[p, {}, {}, {}] }),
            (1, { sampleFe { ctx := 1 } with bight := some { rowBight with stage := 1 } })]
    cascades := [(3, twoCasc)] }

theorem test_meets_RowsMoveThroughCascades :
    let s : State := { stageState rowBight rowCasc with trains := (List.range 64).map fun i => (8 * i, { opened := true }) }
    let tok : Token := { elems := [1, 2, 3, 4], eor := true }
    let b : Bight := { rowBight with stage := 1, rowChan := [tok] }
    let a := stageState b twoCasc
    let r := stageState { rowBight with pret := 1, emt := 1 } rowCasc
    let g := stageState rowBight { rowCasc with st := .saved, held := .streaming }
    let f := stageState rowBight { rowCasc with st := .filling }
    (liveBight s 0 = some (rowBight, rowCasc) ∧ s.cascades = [(rowBight.casc, rowCasc)] ∧ rowCasc.id = rowBight.casc ∧ rowBight.rank = 0 ∧
      rowCasc.rank = 1 ∧ rowCasc.rpol ≠ 3 ∧ rowBight.haloLo = [] ∧ rowBight.haloHi = [] ∧ stage0Ready s 0 = true ∧ rowCasc.cpol ≠ 3 ∧
      rowCasc.h = 0 ∧ 0 < rowCasc.lw ∧ rowBight.rowLast = false ∧ rowCasc.base + 4 * rowCasc.lw * rowCasc.w ≤ 0x60000 ∧ 0 < rowCasc.w) ∧
    (rowBight.parked = none ∧ (rowSpan s 0 rowCasc rowBight false 0).stop = .go) ∧
    (liveBight a 0 = some (b, twoCasc) ∧ 0 < b.stage ∧ tok.abort = false ∧ tok.eor = true ∧ tok.last = false ∧ b.rowLast = false ∧ b.rowEor = false ∧ b.row = [] ∧
      b.nknown = false ∧ b.rcv - b.ret < twoCasc.w ∧ tok.elems.length = twoCasc.lw) ∧
    ((liveBight emitState 0).any (fun p => p.1.emis.length == 1 && p.2 == twoCasc) = true ∧ twoCasc.st ≠ .stopped ∧ rankFe twoCasc 1 0 = 1 ∧
      (bightAt emitState 1).any (fun d => d.rowChan == []) = true ∧ sinkChan (feAt emitState 0) 0 0 = [tok] ∧ tok.err = false) ∧
    (liveBight r 0 = some ({ rowBight with pret := 1, emt := 1 }, rowCasc) ∧ rowBight.nknown = false ∧ rowCasc.st ≠ .draining) ∧
    (liveBight f 0 = some (rowBight, { rowCasc with st := .filling }) ∧ rowBight.flt = none) ∧
    (KV.find 3 g.cascades = some { rowCasc with st := .saved, held := .streaming } ∧
      releaseReady g { rowCasc with st := .saved, held := .streaming } = true) := by decide +kernel

/-- A plane that is on, whose node 0 clears the sign of FP32 elements from source 0 for sink 0. -/
def absPlane : PlaneState :=
  { on := true, fields := [(0, 6), (1, 0), (0x80, 0x10)], chans := [(0, [{ elems := [0xBF800000], eor := true, last := true }])] }

/-- A packet of one write to field 6 of plane 1, two FEs to the right of its origin. -/
def onePacket : CfgPacket :=
  { fe := 0, seat := 0, serial := some 0, ctx := 1, die := 0, ox := 0, oy := 0, region := (0, 0, 4, 4), rot := 0, words := []
    single := some (0x08041800, 0x12345) }

theorem test_meets_PlanesFireAndPacketsApply :
    let s := planeState absPlane
    let f := feAt s 0
    let bad : CfgPacket := { onePacket with single := some (0x18041800, 0x12345) }
    (feLive s 0 = true ∧ f.arb.cycle < 1024 ∧ (planeAt f 0).on = true ∧ (∀ q < 4, q ≠ 0 → (planeAt f q).on = false) ∧
      (∀ m < 16, m ≠ 0 → fieldN (planeAt f 0) (8 * m) % 64 = 63) ∧ (∀ i < 8, fieldN (planeAt f 0) (0x90 + i) = 0x3F) ∧
      (fireAt f 0 0).any (fun x => x.fl == 0 && x.out0.isSome && x.out1.isNone) = true ∧
      (∀ i < 3, (nodeCfg (planeAt f 0) 0).src.getD i 0x3F ≠ 0x10) ∧ consumed (planeAt f 0) 0x10 = true) ∧
    feLive { s with hitch := { frozen := [7] } } 0 = false ∧
    (let t : State := { sampleState sampleHand with cfgs := [onePacket, onePacket] }
     t.cfgs[1]? = some onePacket ∧ onePacket ∈ t.cfgs.take 1) ∧
    ((checkSingle { ox := 0, oy := 0, region := (0, 0, 4, 4) } 0x08041800 0x12345).any
        (fun x => x.field == 6 && x.x == 2 && x.y == 0 && x.pl == 1) = true ∧
      checkSingle { ox := 0, oy := 0, region := (0, 0, 4, 4) } 0x18041800 0x12345 = none ∧ bad.readFault = none) := by
  decide +kernel

/-- The sample state with a port of plane 0 as given. -/
def portState (ix : Nat) (p : PortState) : State := planeState { ports := [(ix, p)] }

/-- A sparse SOUT of a row of four elements of 4 bytes at 0x100. -/
def sparseCmd : StreamCmd :=
  { seat := 0, hand := 0, addr := 0x100, count := 0x0000000400000004, glob := false, esz := 0, sparse := true, ctx := 1 }

/-- The staging buffer held for that command on port 2, with one mask word of no element. -/
def stagedState (bad : Bool) : State :=
  { sampleState sampleHand with
    fes := [(0, { sampleFe (sampleSeat sampleHand) with
      planes := #v[{ ports := [(18, { queue := [sparseCmd] })] }, {}, {}, {}]
      staging := { port := some (0, 2), masks := [0], eorV := true, eorM := true, bad := bad } })] }

theorem test_meets_PortsAdvance :
    let dense : StreamCmd := { globCmd with glob := false, addr := 0x5FFE0 }
    let g := portState 0 { queue := [globCmd] }
    let o := portState 31 { queue := [globCmd] }
    let d := portState 0 { queue := [dense] }
    let b := stagedState true
    let k := stagedState false
    ((portOf (feAt g 0) 0 0).queue = globCmd :: [] ∧ needsLatch globCmd = true ∧ feLive g 0 = true ∧ globCmd.parked = none ∧
      headRuns (feAt g 0) 0 0 globCmd = true ∧
      (portOf (feAt o 0) 0 31).queue = globCmd :: [] ∧ headRuns (feAt o 0) 0 31 globCmd = true ∧ feLive o 0 = true) ∧
    (∃ l, latchNew g 0 (feDie 0) 1 (cmdVa globCmd) { r := true } = .ok l) ∧
    (∃ l, latchNew o 0 (feDie 0) 1 (cmdVa globCmd) { w := true } = .ok l) ∧
    (portOf (feAt d 0) 0 0 = { queue := [dense] } ∧ feLive d 0 = true ∧ chanOf (feAt d 0) 0 0 = [] ∧ unperformed d = [] ∧ cmdHigh dense = 0 ∧
      0 < cmdCount dense ∧ cmdCount dense ≤ 8 ∧ dense.addr.toNat + cmdCount dense * esize dense.esz ≤ 0x60000) ∧
    ((feAt b 0).staging.port = some (0, 2) ∧ (portOf (feAt b 0) 0 18).queue = sparseCmd :: [] ∧ (feAt b 0).staging.eorV = true ∧
      (feAt b 0).staging.eorM = true ∧ feLive b 0 = true ∧ (feAt b 0).staging.bad = true ∧ (seatAt b 0 0).st = .running ∧
      sparseCmd.dirty = none) ∧
    ((feAt k 0).staging.bad = false ∧ (feAt k 0).staging.masks = [0] ∧ (feAt k 0).staging.vals = [] ∧ 0 < cmdCount sparseCmd ∧
      cmdCount sparseCmd ≤ 32 ∧ (feAt k 0).waits = [] ∧ sparseCmd.addr.toNat % 4 = 0 ∧ sparseCmd.addr.toNat + 8 ≤ 0x60000) ∧
    ((portOf (feAt S 0) 0 15).window = [] ∧ (chanOf (feAt S 0) 0 15).length < 4 ∧ (0 : BitVec 16) = (portOf (feAt S 0) 0 15).seq ∧
      (63 : BitVec 16) ≠ (portOf (feAt S 0) 0 15).seq ∧ ((63 : BitVec 16) - (portOf (feAt S 0) 0 15).seq).toNat < 64) := by
  refine ⟨by decide, ⟨_, rfl⟩, ⟨_, rfl⟩, by decide, by decide, by decide, by decide⟩

/-- The sample state with an array queue. -/
def arrayState (l : List ArrCmd) : State :=
  { sampleState sampleHand with fes := [(0, { sampleFe (sampleSeat sampleHand) with arrQ := l })] }

/-- A CPYX card whose 8 bytes have all landed on FE 0, with an MMA as its follow-on. -/
def cpyxCard : Card :=
  { id := 3, poster := .seat 0 0, ctx := 1, want := 2, w := [0x200000000000, 0x10000, 8, 0, 0x01FFF800CC000140, 0, 0, 0], foot := []
    rcv := [{ dest := 0x100100, bar := 0, bv := false, opm := false, slot := 0, landed := 8, whole := true }], source := 1, checked := true
    out := [(0, List.replicate 8 1)] }

def followState : State :=
  { sampleState sampleHand with
    fes := [(0, { sampleFe (sampleSeat sampleHand) with
      opm := (Vector.replicate 32 {}).set 0 { claim := some 0 } |>.set 1 { claim := some 0 } })]
    cards := [(3, cpyxCard)] }

theorem test_meets_ArrayCommandsArePerformed :
    let z : ArrCmd := { seat := 0, hand := 0, op := .accz 7 }
    let l : ArrCmd := { seat := 0, hand := 0, op := .mload 0x5F800 31 }
    let t : ArrCmd := { seat := 0, hand := 0, op := .mtile 32 0x100 0x200 7 30 1 }
    ((feAt (arrayState [z, l]) 0).arrQ = z :: [l] ∧ feLive (arrayState [z, l]) 0 = true ∧ 0x5F800 + 2048 ≤ 0x60000) ∧
    (0 < (tileOf 32 1).nt ∧ (7#3).toNat + t.step % (tileOf 32 1).nt < 8 ∧ (1#3).toNat < 3) ∧
    (KV.find 3 followState.cards = some cpyxCard ∧ cpyxCard.want = 2 ∧ (∀ r ∈ cpyxCard.rcv, r.whole = true ∧ r.fired = false ∧ r.bv = false) ∧ cpyxCard.rcv.map (outLen cpyxCard) = [8] ∧ jobFrozen followState 1 = false ∧
      (cpyxCard.rcv.map (rcvFe followState cpyxCard)) = [some 0] ∧ (followOn (nth cpyxCard.w 4)).isSome = true ∧
      mtileBusy (feAt followState 0) = false ∧ (vget {} (feAt followState 0).opm 0).claim.isSome = true ∧
      (vget {} (feAt followState 0).opm 1).claim.isSome = true) := by decide +kernel

/-- A state with one card, with the channels of all memory open. -/
def engineState (c : Card) (m : List Host.Cell) : State :=
  { ctxState [(1, sampleCtx)] with
    cards := [(3, c)], mem := m, trains := (List.range 64).map fun i => (8 * i, { opened := true }) }

/-- A plain copy of 8 bytes, as posted, and once its source has been read and 4 bytes have landed. -/
def freshCopy : Card :=
  { copyCard with
    w := [0x100000000000, 0x10000, 8, 0, 0, 0, 0, 0], checked := false
    rcv := [{ dest := 0x1003E, bar := 0, bv := false, opm := false, slot := 0 }] }
def readCopy : Card :=
  { freshCopy with
    checked := true, out := [(0, List.replicate 8 7)]
    rcv := [{ dest := 0x1003C, bar := 0, bv := false, opm := false, slot := 0, landed := 4 }] }

/-- An ALLREDUCE of two elements that has moved nothing. -/
def reduceCard : Card :=
  { copyCard with want := 4, w := [0x400000000000, 0x10000, 2, 0, 0, 0, 0, 0], rcv := [], checked := true }

/-- A record for the sample seat, and the sample state with the records given in its queue and ring. -/
def sampleRec : RecMsg := { fe := 0, seat := 0, ev := ⟨7, 5⟩ }
def recState (m : RecMsg) (q r : Nat) : State :=
  { sampleState sampleHand with
    fes := [(0, sampleFe { sampleSeat sampleHand with evq := List.replicate q ⟨0, 0⟩, ring := List.replicate r ⟨0, 0⟩ })], recs := [m] }

/-- The sample state with a card of the sample seat that is over. -/
def overState : State :=
  { sampleState sampleHand with
    fes := [(0, sampleFe { sampleSeat sampleHand with cards := [3] })]
    cards := [(3, { copyCard with poster := .seat 0 0, done := true })] }

theorem test_meets_EnginesAndTheirRecords :
    let s := engineState freshCopy [(0, 1), (7, 2)]
    let b := engineState { freshCopy with w := [0x100000000000, 0x10000, 0, 0, 0, 0, 0, 0] } []
    let l := engineState readCopy []
    let r := engineState reduceCard [(4, 9)]
    (KV.find 3 s.cards = some freshCopy ∧ freshCopy.done = false ∧ freshCopy.checkpointed = false ∧ jobFrozen s 1 = false ∧
      freshCopy.again = false ∧ (∀ e ∈ s.gus, e.2.ecc = []) ∧ freshCopy.checked = false ∧ cardWaits s 3 freshCopy = false ∧ cardBad freshCopy = false ∧
      cardKind freshCopy.w = 1 ∧ cardXform freshCopy.w = 0 ∧ cardLen freshCopy.w = 8 ∧
      (readFrom s (cardDie freshCopy) 1 0x10000 8).2 = 0 ∧ (readFrom s (cardDie freshCopy) 1 0x10000 8).1.length = 8) ∧
    (∃ c, KV.find 3 b.cards = some c ∧ cardBad c = true ∧ c.checked = false ∧ cardWaits b 3 c = false) ∧
    (KV.find 3 l.cards = some readCopy ∧ readCopy.checked = true ∧ readCopy.want = 1 ∧ readCopy.broken = 0 ∧
      readCopy.rcv.map (fun r => (r.out == none, r.failed, r.opm, r.bv, r.landed, rcvBad l readCopy r 0x40)) =
        [(true, false, false, false, 4, false)] ∧
      ownModule l 0x40 = true ∧ paClass 0x40 = 0 ∧ meets l (cardDie readCopy) 1 0x40 = .go) ∧
    (KV.find 3 r.cards = some reduceCard ∧ cardKind reduceCard.w = 4 ∧ reduceCard.prog = 0 ∧ collOp reduceCard = 0 ∧
      fld (nth reduceCard.w 3) 1 0 = 0 ∧ Machine.ringState r reduceCard = 1 ∧
      (cardRead r reduceCard 0 0x10000 8).2 = 0 ∧ (cardRead r reduceCard 0 0x10000 8).1.length = 4 * cardLen reduceCard.w) ∧
    (KV.find 3 overState.cards = some { copyCard with poster := .seat 0 0, done := true } ∧ jobFrozen overState 1 = false ∧
      (seatAt overState 0 0).st = .running) ∧
    ((recState sampleRec 31 0).recs = [sampleRec] ∧ (seatAt (recState sampleRec 31 0) 0 0).st = .running ∧
      (seatAt (recState sampleRec 31 0) 0 0).evq.length = 31 ∧ (seatAt (recState sampleRec 31 0) 0 0).ring = []) ∧
    ((seatAt (recState sampleRec 32 31) 0 0).evq.length = 32 ∧ (seatAt (recState sampleRec 32 31) 0 0).ring.length = 31) ∧
    ((seatAt (recState sampleRec 32 32) 0 0).evq.length = 32 ∧ (seatAt (recState sampleRec 32 32) 0 0).ring.length = 32 ∧
      (seatAt (recState sampleRec 32 32) 0 0).evOver = false) ∧
    (({ sampleRec with held := true }).held = true ∧ (seatAt (recState { sampleRec with held := true } 31 0) 0 0).evq.length = 31 ∧
      (recState { sampleRec with held := true } 31 0).recs = [{ sampleRec with held := true }]) := by
  refine ⟨by decide, ⟨_, rfl, by decide, rfl, by decide⟩, by decide +kernel, by decide +kernel, by decide, by decide, by decide, by decide, by decide⟩

theorem test_meets_EnginePacketAddress :
    (∃ x fresh, latching (engineState readCopy []) readCopy 0 (0x1003C + 4) { w := true } = .go 0x40 x fresh) ∧ 0x40 % 2 ^ 44 + 4 ≤ 2 ^ 44 :=
  ⟨⟨_, _, rfl⟩, by decide⟩

/-! ### Links, hitches and the module -/

/-- The link ids of a splice and of a rigging port of this module, and a state with that link as given. -/
def spliceId : BitVec 32 := 0
def rigId : BitVec 32 := 0x201000
def linkState (id : BitVec 32) (l : Link) : State := { ctxState [] with fes := [], links := [(linkKey State.reset id, l)] }

theorem test_meets_LinksTrainAndReplay :
    let at' (l : Link) : Link := linkAt (linkState spliceId l) (linkKey (linkState spliceId l) spliceId)
    (at' { st := .training }).st = .training ∧ (at' { st := .training }).owesMarks = [] ∧ (at' { st := .upFull }).st ≠ .training ∧
    (let l := at' { st := .training, owesMarks := [7] }
     l.st = .training ∧ l.owesMarks = [7] ∧ l.buf = [] ∧ l.lr = false ∧ l.keyWait = false ∧ l.retrain ≠ 15 ∧ 7 ∉ l.frozenJobs ∧
       (linkState spliceId l).reqs = []) ∧
    ((at' { st := .training, trainFails := 1 }).trainFails < 2 ∧ 2 ≤ (at' { st := .training, trainFails := 2 }).trainFails ∧
      unperformed (linkState spliceId {}) = [] ∧ waitingReqs (linkState spliceId {}) = [] ∧ (linkState spliceId {}).replies = [] ∧
      (linkState spliceId {}).fes = []) ∧
    (isUp (at' { st := .upFull, replays := 6 }) = true ∧ (at' { st := .upFull, replays := 6 }).replays < 7 ∧
      (at' { st := .upFull }).owesMarks = []) ∧
    ((at' { st := .replay, replays := 7, runs := 1 }).st = .replay ∧ (at' { st := .replay, replays := 7, runs := 1 }).replays = 7 ∧
      (at' { st := .replay, replays := 7, runs := 1 }).runs < 2) ∧
    (let l := at' { st := .replay, buf := [1023, 0] }
     l.st = .replay ∧ l.wasFrozen = false ∧ l.buf.all (fun q => decide ((0 + 1024 - q) % 1024 < 1024 / 2)) = true) := by decide

/-- The sample state with one request in flight, and the splice of `spliceId` as given. -/
def flitState (r : Req) (l : Link) : State :=
  { sampleState sampleHand with reqs := [r], links := [(spliceKey 0 44, l)] }

theorem test_meets_SpliceFlits :
    let s (l : Link) : Link := linkAt (linkState spliceId l) (linkKey (linkState spliceId l) spliceId)
    let l := s { st := .upFull, sinceAck := 127, expect := 1023, seq := 3 }
    let behind (q : Nat) : Prop := q ≠ l.expect ∧ (((l.expect + 1024 - 1) % 1024) + 1024 - q) % 1024 < 1024 / 2
    let w : Req := { reqOf (.write 4 9) with fe := 0, seat := 0, pa := 2 ^ 37, flit := some (spliceKey 0 44, 1023) }
    let t := flitState w { st := .upFull, expect := 1023, seq := 3 }
    (isRigging (linkKey State.reset spliceId) = false ∧ carries l = true ∧ l.sinceAck < 128 ∧ l.expect < 1024 ∧ l.expect ≠ l.seq ∧
      l.discard = false) ∧
    (behind 1022 ∧ 1022 ≠ l.seq) ∧ (¬ behind 1 ∧ 1 ≠ l.expect ∧ 1 ≠ l.seq) ∧
    (sends (linkKey State.reset spliceId) (s { st := .upFull, expect := 1023, seq := 1023 }) = true) ∧
    (linkKey t spliceId = spliceKey 0 44 ∧ (linkAt t (spliceKey 0 44)).expect = 1023 ∧ w.far = none ∧ (seatAt t 0 0).st = .running ∧
      (seatAt t 0 0).ctx = w.ctx ∧ w.seat < 4) ∧
    (∀ r ∈ (flitState { w with flit := none } l).reqs, r.flit ≠ some (spliceKey 0 44, 1023)) ∧
    (0 < vget 0 (s { st := .upFull }).spares (3#2).toNat ∧
      vget 0 (s { st := .upFull, spares := Vector.replicate 4 0 }).spares (3#2).toNat = 0) := by decide +kernel

theorem test_meets_RiggingFlits :
    let r (l : Link) : Link := linkAt (linkState rigId l) (linkKey (linkState rigId l) rigId)
    let l := r { st := .upFull, expect := 2 ^ 24 - 1, sinceAck := 127 }
    let behind (q : Nat) : Prop := q ≠ l.expect ∧ (((l.expect + 2 ^ 24 - 1) % 2 ^ 24) + 2 ^ 24 - q) % 2 ^ 24 < 2 ^ 24 / 2
    let p : FarPacket := { src := 5, dst := 0, job := 7, body := .request (.write 4 9) 3 2 0x40 0x10040 false }
    let f : Flit := { seq := 2 ^ 24 - 1, kind := 2, ackV := false, ackSeq := 0, keyPh := false, body := [p] }
    (carries l = true ∧ isRigging (linkKey State.reset rigId) = true ∧ l.sinceAck < 128 ∧ f.kind.toNat ≤ 2 ∧ f.seq = l.expect ∧
      l.expect < 2 ^ 24 ∧ f.seq < 2 ^ 24 ∧ l.enc = false ∧ l.discard = false ∧
      reverseOf (linkState rigId l) (linkKey State.reset rigId) = none) ∧
    (behind (2 ^ 24 - 2) ∧ ¬ behind 1 ∧ 1 ≠ l.expect) ∧
    (p.dst = State.reset.moduleId.toNat ∧ { p with dst := 1023 }.dst ≠ State.reset.moduleId.toNat ∧
      jobCtx (linkState rigId l) 7 = none ∧ jobCtx (sampleState sampleHand) 7 = some 1) ∧
    (r { st := .upFull, enc := true, expect := 2 ^ 24 - 1, frameFails := 2 }).expect % 16 = 15 ∧
    (let l := r { st := .frozen, enc := true, inFrame := 15, seq := 31, buf := List.replicate 1008 0, frames := 2 ^ 28 - 2 }
     l.st = .frozen ∧ l.enc = true ∧ l.inFrame = 15 ∧ l.keyWait = false ∧ l.lr = false ∧ l.buf.length + 16 ≤ 1024 ∧
      l.seq % 16 = l.inFrame ∧ l.frames + 1 < 2 ^ 28) ∧
    (let k := linkKey State.reset 0x601000
     let t : State := { ctxState [] with
       routes := [(1, 0x80)], links := [(riggingKey 0, { st := .upFull, buf := [2, 3, 4] }), (k, { st := .upFull })] }
     carries (linkAt t k) = true ∧ isRigging k = true ∧ reverseOf t k = some (riggingKey 0) ∧
      isUp (linkAt t (riggingKey 0)) = true ∧ (linkAt t (riggingKey 0)).owesMarks = []) ∧
    ((r { enc := true, key1 := some 5 }).enc = true ∧ (r { enc := true, key1 := some 5 }).keyPh = false ∧
      (r { enc := true, key1 := some 5 }).inFrame = 0 ∧ 0 < (r { enc := true, inFrame := 1 }).inFrame ∧
      (r { enc := true, key1 := some 5 }).key1 ≠ none ∧ (r { enc := true, key1 := some 5 }).owesMarks = [] ∧ (r { enc := true }).key1 = none) := by
  decide +kernel

theorem test_meets_HitchFreezesAndReleases :
    let c : State := { sampleState sampleHand with fes := [(0, sampleFe restSeat)] }
    let x : Release := { job := 7, time := 50 }
    let a : State := { c with hitch := { st := 2, rels := [x], frozen := [7] } }
    let d : State := { c with
      fes := [(0, sampleFe { restSeat with st := .frozen, prev := .running })], hitch := { st := 2, rels := [{ x with half := true }], frozen := [7] } }
    (ctxsOf c 8 = [] ∧ c.hitch.markers = []) ∧
    (ctxsOf c 7 = [1] ∧ seatsOf c 1 = [(0, 0)] ∧ (7 : BitVec 16) ∉ c.hitch.frozen ∧ c.links = [] ∧ c.hitch.rels = [] ∧ c.launches = [] ∧
      (seatAt c 0 0).st = .running ∧ (seatAt c 0 0).hand = none) ∧
    (a.hitch.rels = [x] ∧ x.half = false ∧ a.replies = [] ∧ a.recs = [] ∧ a.melds = []) ∧
    (d.hitch.rels = [{ x with half := true }] ∧ x.job = 7 ∧ d.hitch.frozen = [7] ∧ ctxsOf d 7 = [1] ∧ seatsOf d 1 = [(0, 0)] ∧
      (seatAt d 0 0).st = .frozen ∧ (seatAt d 0 0).prev = .running ∧ (seatAt d 0 0).stepping = false ∧ (ctxAt d 1).st = .running ∧
      (ctxAt d 1).pend = false ∧ d.links = []) := by decide

/-- A state with gather unit 0 as given. -/
def gu0 (g : Gu) : State := { sampleState sampleHand with gus := [(0, g)] }

theorem test_meets_GatherUnitsFillSwapAndRefresh :
    let w : Req := { reqOf (.write 4 9) with pa := 0x40, fe := 0, seat := 0 }
    let f := gu0 { fills := [(0, false, [w])] }
    let two := gu0 { fills := [(0, false, [w, { w with id := 6, op := .write 4 8 }])] }
    let key := rowKey 0 1 5
    let h := gu0 { swapen := true, thresh := 1, hot := [(key, 1)] }
    let row := rowKey (chanOfPa w.pa) (bankHbm w.pa) (rowOf w.pa)
    let wait := gu0 { copying := [row], rowWait := [w] }
    ((∀ e ∈ f.trains, e.2.accepted = []) ∧ (guAt f 0).fills = [(0, false, [w])] ∧ (guAt f 0).cached = [] ∧ guOfPa w.pa = 0 ∧
      segOf w.pa = 0 ∧ w.far = none ∧ w.seat < 4 ∧
      (seatAt f 0 0).st = .running ∧ (seatAt f 0 0).ctx = w.ctx ∧ (ctxAt f 1).st = .running ∧
      (ctxAt { f with ctxs := [(1, { sampleCtx with st := .preempting })] } 1).st = .preempting) ∧
    ((guAt two 0).fills = [(0, false, [w, { w with id := 6, op := .write 4 8 }])] ∧ (guAt two 0).cached = []) ∧
    (guAt (gu0 { fills := [(0, false, [])] }) 0).fills = [(0, false, [])] ∧
    ((guAt h 0).swapen = true ∧ rowHot (guAt h 0) key = true ∧ key ∉ (guAt h 0).copying ∧ 511 ∈ freeSpares (guAt h 0) 0 1) ∧
    (guAt (gu0 {}) 0).swapen = false ∧
    (key ∈ (guAt (gu0 { copying := [key] }) 0).copying ∧ (guAt (gu0 {}) 0).rowWait = [] ∧ (guAt (gu0 {}) 0).fills = []) ∧
    ((guAt wait 0).copying = [row] ∧ (guAt wait 0).rowWait = [w] ∧ keyOf w.pa = row ∧ (guAt wait 0).fills = [] ∧ (guAt wait 0).cached = []) ∧
    ((guAt (gu0 { missed := 1 }) 0).rfown = false ∧ (guAt (gu0 { missed := 1 }) 0).missed = 1 ∧ (guAt (gu0 {}) 0).missed = 0) ∧
    ((guAt (gu0 { rfown := true, handback := true }) 0).rfown = true ∧ (guAt (gu0 { rfown := true, handback := true }) 0).handback = true ∧
      (guAt (gu0 { rfown := true }) 0).missed = 0 ∧ (guAt (gu0 {}) 0).handback = false) := by
  refine ⟨by decide, by decide, by decide, by decide +kernel, by decide, by decide, by decide +kernel, by decide, by decide⟩

theorem test_meets_ChannelsAndDeviceRegisters :
    let t (c : Train) : State := { State.reset with trains := [(5, c)] }
    let w : Req := { reqOf (.write 4 9) with pa := 0x540 }
    ((trainAt (t { opened := true }) 5).opened = true ∧ (trainAt (t {}) 5).opened = false ∧ (trainAt (t {}) 5).waiting = [] ∧
      (trainAt (t {}) 5).accepted = []) ∧
    ((0xBF3F : W64) &&& ~~~0xBFBF#64 = 0 ∧ (0xBF3F : W64).getLsbD 7 = false ∧ (0x3FBF : W64).getLsbD 15 = false) ∧
    (let s := t { waiting := [w] }
     (trainAt s 5).waiting = [w] ∧ (trainAt s 5).accepted = [] ∧ guOfPa w.pa = guOfChan 5 ∧ chanOfPa w.pa = 5 ∧
     (guAt s (guOfChan 5)).cached = [] ∧ (guAt s (guOfChan 5)).copying = []) ∧
    ((guAt (t { opened := true }) (guOfChan 5)).fills = [] ∧ (guAt (t { opened := true }) (guOfChan 5)).rowWait = []) ∧
    (trainAt (t { opened := true, closing := true }) 5).closing = true ∧ (trainAt (t { opened := true }) 5).closing = false ∧
    ((2 : W64).toNat % 4 ≠ 3 ∧ (3 : W64).toNat % 4 = 3) ∧ (7 : Nat) ≠ 8 ∧ { State.reset with boot := 9 }.boot ≠ 0 ∧
    State.reset.boot = 0 ∧ State.reset.trains = [] := by decide

end Sys2Proof.Tests
end

section
/-!
SUPPORT. Every step keeps memory and tags in canonical form and the seat in turn among the four of an FE: one lemma for each
operation of the machine, in the order of its files, then one for `exec` and one for what comes next. The operations of
Machine/Ops.lean are those of Laws/Keep.lean.
-/

namespace Sys2Proof
open Machine

-- one short proof after another, in turn: as parallel tasks they would hold more threads than the check's memory limit allows
set_option Elab.async false

/-! ### How a lemma of an operation is put together -/

/-- An operation that writes other fields of the state alone keeps the invariant. -/
theorem Inv.frame {s t : State} (h : Inv s) (hm : t.mem = s.mem := by rfl) (ht : t.tags = s.tags := by rfl)
    (hc : t.curSeat = s.curSeat := by rfl) : Inv t := h.of_eq hm ht hc

/-- Both arms of an `if` keep the invariant; `iteFst` and `iteSnd` say it of an operation that also answers a value. -/
theorem Inv.ite {c : Prop} [Decidable c] {s t : State} (hs : Inv s) (ht : Inv t) : Inv (if c then s else t) := by
  split
  · exact hs
  · exact ht

theorem Inv.iteFst {α : Type} {c : Prop} [Decidable c] {p q : State × α} (hp : Inv p.1) (hq : Inv q.1) :
    Inv (if c then p else q).1 := by
  split
  · exact hp
  · exact hq

theorem Inv.iteSnd {α : Type} {c : Prop} [Decidable c] {p q : α × State} (hp : Inv p.2) (hq : Inv q.2) :
    Inv (if c then p else q).2 := by
  split
  · exact hp
  · exact hq

/-- The state that a `let (a, t) := p` names. -/
theorem Inv.snd {α : Type} {p : α × State} {a : α} {t : State} (h : Inv p.2) (e : p = (a, t)) : Inv t := by
  subst e
  exact h

/-! ### Links (Machine/Route.lean) -/

theorem Inv.modLink {s : State} (h : Inv s) (k : Nat) (f : Link → Link) : Inv (modLink k f s) :=
  h.frame

theorem Inv.modTrain {s : State} (h : Inv s) (ch : Nat) (f : Train → Train) : Inv (modTrain ch f s) :=
  h.frame

/-! ### Integer instructions (Machine/Integer.lean) -/

theorem Inv.opRRR {s : State} (h : Inv s) (w : Nat) (f : W64 → W64 → W64) (d a b : Reg) (q : Sel) :
    Inv (opRRR w f d a b q s) :=
  h.issue ..

theorem Inv.opRR {s : State} (h : Inv s) (w : Nat) (f : W64 → W64) (d a : Reg) (q : Sel) : Inv (opRR w f d a q s) :=
  h.issue ..

theorem Inv.opDiv {s : State} (h : Inv s) (f : W64 → W64 → W64) (d a b : Reg) (q : Sel) : Inv (opDiv f d a b q s) :=
  h.issue ..

theorem Inv.opPPP {s : State} (h : Inv s) (f : Bool → Bool → Bool) (pd pa pb : Pred) (q : Sel) : Inv (opPPP f pd pa pb q s) :=
  h.issue ..

/-! ### Control instructions (Machine/Control.lean) -/

theorem Inv.tick {s : State} (h : Inv s) : Inv (tick s) :=
  h.frame

/-! ### Memory instructions (Machine/Memory.lean) -/

theorem Inv.issueRead {s : State} (h : Inv s) (w : Nat) (q : Sel) (wait : State → Hand → Bool) (g : State → Hand → Hand) :
    Inv (issueRead w q wait g s) := by
  unfold Machine.issueRead
  refine h.issueGen _ _ _ _ _ (fun _ h => ?_)
  split
  · exact h
  · exact .iteFst h (h.modHand ..)

theorem Inv.issueG {s : State} (h : Inv s) (w : Nat) (q : Sel) (al : Nat) (ea : Hand → W64) (g : State → Hand → Hand) :
    Inv (issueG w q al ea g s) :=
  h.issueRead ..

theorem Inv.spillLoad {s : State} (h : Inv s) (d : Reg) (va : W64) (n : Nat) (nz : Bool) : Inv (spillLoad d va n nz s).1 := by
  unfold Machine.spillLoad
  dsimp only
  split
  · exact h
  · split
    · exact h.modHand ..
    · split
      · exact h
      · split
        · exact h.modHand ..
        · split
          · exact h
          · split
            · exact h.modHand ..
            · split
              · exact h.modHand ..
              · split
                · exact h.modHand ..
                · exact (h.frame.modHand ..).sendReq ..

theorem Inv.enterWait {s : State} (h : Inv s) (w : Waiter) : Inv (enterWait w s) :=
  ((h.modHand ..).modFe ..).serveWord ..

theorem Inv.waitBank {s : State} (h : Inv s) (w : Waiter) (fin : W64 → Hand → Hand) : Inv (waitBank w fin s).1 := by
  unfold Machine.waitBank
  dsimp only
  split
  · split
    · split
      · split
        · exact h.modHand ..
        · exact h
      · exact h
    · split
      · split
        · exact (h.enterWait ..).modHand ..
        · exact h.enterWait ..
      · exact h.enterWait ..
  · exact h

theorem Inv.waitHome {s : State} (h : Inv s) (r : Req) (fin : W64 → Nat → Hand → Hand) : Inv (waitHome r fin s).1 := by
  unfold Machine.waitHome
  split
  · exact h
  · split
    · exact h.modHand ..
    · exact .iteFst h ((h.frame.modHand ..).sendReq ..)

theorem Inv.waitOwn {s : State} (h : Inv s) (w : Waiter) (op : ReqOp) (ea : Nat) (fin : W64 → Hand → Hand) :
    Inv (waitOwn w op ea fin s).1 := by
  unfold Machine.waitOwn
  split
  · exact h
  · exact .iteFst (h.waitHome ..) (h.waitBank ..)

theorem Inv.ldTag {s : State} (h : Inv s) (take : Bool) (d a : Reg) (off : BitVec 16) (nz : Bool) :
    Inv (ldTag take d a off nz s).1 := by
  unfold Machine.ldTag
  dsimp only
  split
  · exact h
  · split
    · exact h.modHand ..
    · split
      · exact h.modHand ..
      · exact .iteFst (h.modHand ..) (h.waitOwn ..)

theorem Inv.stTag {s : State} (h : Inv s) (d a : Reg) (off : BitVec 16) : Inv (stTag d a off s).1 := by
  unfold Machine.stTag
  dsimp only
  split
  · exact h
  · split
    · exact h.modHand ..
    · split
      · exact h.modHand ..
      · exact h.waitOwn ..

theorem Inv.ldTagG {s : State} (h : Inv s) (take : Bool) (d a : Reg) (off : BitVec 16) (nz : Bool) :
    Inv (ldTagG take d a off nz s).1 := by
  unfold Machine.ldTagG
  dsimp only
  split
  · exact h
  · split
    · exact h
    · split
      · exact h.modHand ..
      · split
        · exact (h.modHand ..).modHand ..
        · exact (h.modHand ..).waitHome ..

theorem Inv.stTagG {s : State} (h : Inv s) (d a : Reg) (off : BitVec 16) : Inv (stTagG d a off s).1 := by
  unfold Machine.stTagG
  dsimp only
  split
  · exact h
  · split
    · exact h
    · split
      · exact h.modHand ..
      · split
        · exact (h.modHand ..).modHand ..
        · exact (h.modHand ..).waitHome ..

theorem Inv.atomOp {s : State} (h : Inv s) (fn : Nat) (d a b : Reg) (off : BitVec 8) (nr g w64 : Bool) (q : Sel) :
    Inv (atomOp fn d a b off nr g w64 q s) :=
  h.issueRead ..

theorem Inv.pileReq {s : State} (h : Inv s) (land : Nat) (op : Hand → PileOp) (d a : Reg) (off : BitVec 8) (g : Bool)
    (q : Sel) : Inv (pileReq land op d a off g q s) :=
  h.issueRead ..

/-! ### The fetch of a hand (Machine/Fetch.lean) -/

theorem Inv.codeTouch {s : State} (h : Inv s) (s0 : State) (fe c va n : Nat) : Inv (codeTouch s0 fe c va n s) := by
  refine Inv.each (fun _ _ h => .ite h ?_) _ h
  split
  · exact h.edgeTouch ..
  · exact h

theorem Inv.codeRefused {s' : State} (h : Inv s') (s : State) (fe c va n : Nat) : Inv (codeRefused s fe c va n s').2 := by
  unfold Machine.codeRefused
  split
  · exact .ite (h.codeTouch ..) h
  · exact h

theorem Inv.takeDeferred {s : State} (h : Inv s) (fe k : Nat) : Inv (takeDeferred fe k s) := by
  unfold Machine.takeDeferred
  dsimp only
  split
  · exact h
  · exact (Inv.ite ((h.modSeat ..).modFe ..) (h.modSeat ..)).faultHere ..

theorem Inv.distanceNow {s : State} (h : Inv s) (fe k : Nat) : Inv (distanceNow fe k s) := by
  unfold Machine.distanceNow
  dsimp only
  split
  · exact h
  · split
    · exact h
    · split
      · exact (h.modSeat ..).faultHere ..
      · exact h

theorem Inv.beginHand {s : State} (h : Inv s) (fe k : Nat) (r : RawHand) (miss : Bool) : Inv (beginHand fe k r miss s) := by
  unfold Machine.beginHand
  extract_lets f s1 s2
  have h1 : Inv s1 := (Inv.each (fun _ _ h => h.walkTouch ..) _ (h.modFe ..)).codeTouch ..
  have h2 : Inv s2 := h1.modSeat ..
  exact (Inv.ite ((h2.addWeight ..).modHand ..) h2).distanceNow ..

theorem Inv.fetchGo {s : State} (h : Inv s) (fe k reason : Nat) : Inv (fetchGo fe k reason s) := by
  unfold Machine.fetchGo
  dsimp only
  split
  · exact h.faultHere ..
  · split
    · exact h.faultHere ..
    · split
      · exact h.haltAt ..
      · split
        · exact h.faultHere ..
        · exact h.beginHand ..

theorem Inv.fetchHand {s : State} (h : Inv s) : Inv (fetchHand s) := by
  have stop := (h.modSeat s.curFe s.curSeat fun t => { t with st := .running }).freezeSeat s.curFe s.curSeat
  unfold Machine.fetchHand
  refine .ite h (.ite stop (.ite stop (.ite (h.takeDeferred ..) (.ite h ?_))))
  split
  · rename_i e
    exact (((h.codeRefused ..).snd e).modSeat ..).faultHere ..
  · rename_i e
    have h1 := (h.codeRefused ..).snd e
    split
    · split
      · exact (h1.modSeat ..).faultHere ..
      · exact h1.modSeat ..
    · exact (h1.modSeat ..).fetchGo ..

theorem Inv.passTurn {s : State} (h : Inv s) : Inv (passTurn s) :=
  h.frame

/-! ### Event records (Machine/Record.lean) -/

theorem Inv.postOrphan {s : State} (h : Inv s) (launch index : Nat) (tag : BitVec 16) (status source : BitVec 8)
    (mask bytes : Nat) : Inv (postOrphan launch index tag status source mask bytes s) := by
  unfold Machine.postOrphan
  split
  · exact h
  · split
    · exact h.postRec ..
    · exact h.frame

theorem Inv.postFor {s : State} (h : Inv s) (fe k : Nat) (tag : BitVec 16) (status source : BitVec 8) (mask bytes : Nat) :
    Inv (postFor fe k tag status source mask bytes s) :=
  .ite (h.postOrphan ..) (h.postRec ..)

theorem Inv.storeRing {s : State} (h : Inv s) (fe k : Nat) : Inv (storeRing fe k s) :=
  .ite h (Inv.each (fun _ _ h => (h.wrPa ..).wrPa ..) _ h)

theorem Inv.recArrive {s : State} (h : Inv s) (n : Nat) : Inv (recArrive n s) := by
  unfold Machine.recArrive
  dsimp only
  split
  · exact h
  · exact .ite h (.ite ((h.frame.modSeat ..).storeRing ..) (.ite h.frame ((h.frame.modSeat ..).deferFault ..)))

theorem Inv.recRetry {s : State} (h : Inv s) (n : Nat) : Inv (recRetry n s) := by
  unfold Machine.recRetry
  dsimp only
  split
  · exact h
  · exact .ite h (.ite ((h.frame.modSeat ..).storeRing ..) (((h.frame.modSeat ..).storeRing ..).modSeat ..))

theorem Inv.evTake {s : State} (h : Inv s) (fe k : Nat) (tag : Option (BitVec 16)) : Inv (evTake fe k tag s) :=
  (h.modSeat ..).storeRing ..

/-! ### Barriers (Machine/Barrier.lean) -/

theorem Inv.setBar {s : State} (h : Inv s) (fe n : Nat) (b : Barrier) : Inv (setBar fe n b s) :=
  h.modFe ..

theorem Inv.answerBar {s : State} (h : Inv s) (fe : Nat) (w : Waiter) (v : W64) (ovr : Bool) :
    Inv (answerBar fe w v ovr s) := by
  unfold Machine.answerBar
  dsimp only
  split
  · exact h.grantSeat ..
  · exact h.sendReply ..
  · exact h

theorem Inv.releaseBar {s : State} (h : Inv s) (fe n : Nat) (b : Barrier) : Inv (releaseBar fe n b s) := by
  unfold Machine.releaseBar
  dsimp only
  refine Inv.each (fun _ _ h => ?_) _ (h.modFe ..)
  split
  · exact h.answerBar ..
  · exact h

theorem Inv.overrunRec {s : State} (h : Inv s) (fe n : Nat) (b : Barrier) : Inv (overrunRec fe n b s) :=
  h.postFor ..

theorem Inv.arriveBar {s : State} (h : Inv s) (fe n amount : Nat) : Inv (arriveBar fe n amount s).1 := by
  unfold Machine.arriveBar
  dsimp only
  split
  · exact h
  · exact h
  · exact .iteFst (h.setBar ..) (.iteFst ((h.setBar ..).releaseBar ..) (((h.setBar ..).releaseBar ..).overrunRec ..))

theorem Inv.errorBar {s : State} (h : Inv s) (fe n : Nat) : Inv (errorBar fe n s) :=
  .ite ((h.setBar ..).releaseBar ..) h

theorem Inv.resetBar {s : State} (h : Inv s) (fe n : Nat) : Inv (resetBar fe n s) :=
  .ite h ((h.setBar ..).releaseBar ..)

theorem Inv.freeBar {s : State} (h : Inv s) (fe n : Nat) : Inv (freeBar fe n s) :=
  (h.setBar ..).releaseBar ..

theorem Inv.initBar {s : State} (h : Inv s) (fe k n : Nat) (byteMode trap : Bool) (expect : BitVec 48) :
    Inv (initBar fe k n byteMode trap expect s) :=
  .ite (h.freeBar ..) (.ite (h.setBar ..) ((h.resetBar ..).setBar ..))

theorem Inv.freeBars {s : State} (h : Inv s) (fe : Nat) : Inv (freeBars fe s) :=
  Inv.each (fun _ _ h => h.freeBar ..) _ h

/-! ### Piles and melds (Machine/Pile.lean) -/

theorem Inv.landReply {s : State} (h : Inv s) (r : Req) (ws : List W32) : Inv (landReply r ws s) := by
  unfold Machine.landReply
  split
  · exact h.sendReply ..
  · exact h

theorem Inv.doAtomic {s : State} (h : Inv s) (r : Req) (fn : Nat) (wide : Bool) (v v2 : W64) :
    Inv (doAtomic r fn wide v v2 s) :=
  (h.wrPa ..).landReply ..

theorem Inv.pileAnswer {s : State} (h : Inv s) (r : Req) (v : W64) (st : Nat) : Inv (pileAnswer r v st s) := by
  unfold Machine.pileAnswer
  split
  · exact h.sendReply ..
  · exact h.landReply ..
  · exact h.landReply ..

theorem Inv.unpark {s : State} (h : Inv s) (r : Req) : Inv (unpark r s) := by
  unfold Machine.unpark
  split
  · exact h.modFe ..
  · exact h.frame

theorem Inv.enterBank {s : State} (h : Inv s) (fe : Nat) (r : Req) : Inv (enterBank fe r s) :=
  .ite h.frame (h.modFe ..)

theorem Inv.park {s : State} (h : Inv s) (r : Req) : Inv (park r s) := by
  unfold Machine.park
  dsimp only
  split
  · exact h.enterBank ..
  · exact .ite h.frame h.frame

theorem Inv.pilePush {s : State} (h : Inv s) (r : Req) (v : W64) (cap count base : Nat) :
    Inv (pilePush r v cap count base s) := by
  unfold Machine.pilePush
  split
  · exact ((h.unpark ..).pileAnswer ..).pileAnswer ..
  · exact .ite (((h.wrPa ..).wrPa ..).pileAnswer ..) (h.pileAnswer ..)

theorem Inv.pileAtHome {s : State} (h : Inv s) (r : Req) (op : PileOp) : Inv (pileAtHome r op s) := by
  unfold Machine.pileAtHome
  dsimp only
  split
  · exact .ite (h.pileAnswer ..) (((((h.wrPa ..).wrPa ..).wrPa ..).wrPa ..).pileAnswer ..)
  · split
    · exact h.pileAnswer ..
    · split
      · exact h.pilePush ..
      · exact h.pilePush ..
      · exact .ite ((h.wrPa ..).pileAnswer ..) (.ite (h.park ..) (h.pileAnswer ..))

theorem Inv.answerMeld {s : State} (h : Inv s) (a b : Req) (point : Nat) : Inv (answerMeld a b point s) :=
  ((h.pileAnswer ..).pileAnswer ..).frame

theorem Inv.meldArrive {s : State} (h : Inv s) (r : Req) (point : Nat) : Inv (meldArrive r point s) := by
  unfold Machine.meldArrive
  dsimp only
  split
  · split
    · exact h.frame.answerMeld ..
    · exact h
  · exact .ite h.frame h.frame

/-! ### The memory edge (Machine/Edge.lean) -/

theorem Inv.failReq {s : State} (h : Inv s) (r : Req) (code : BitVec 8) : Inv (failReq r code s) :=
  .ite h (.ite (.ite h (h.sendReply ..))
    (.ite (.ite (((h.modSeat ..).report ..).stopCtx ..) (h.modSeat ..)) (h.refuseReq ..)))

theorem Inv.guPerform {s : State} (h : Inv s) (r : Req) : Inv (guPerform r s) := by
  unfold Machine.guPerform
  dsimp only
  split
  · split
    · exact h.sendReply ..
    · exact h.sendReply ..
  · exact h.wrPa ..
  · exact h.doAtomic ..
  · exact h.pileAtHome ..
  · exact h

theorem Inv.guHit {s : State} (h : Inv s) (r : Req) : Inv (guHit r s) :=
  (h.modGu ..).guPerform ..

theorem Inv.guServe {s : State} (h : Inv s) (r : Req) : Inv (guServe r s) := by
  unfold Machine.guServe
  split
  · exact h.modGu ..
  · exact h.guHit ..

theorem Inv.guTake {s : State} (h : Inv s) (r : Req) : Inv (guTake r s) := by
  unfold Machine.guTake
  dsimp only
  split
  · exact h.modGu ..
  · split
    · exact h.guServe ..
    · split
      · exact h.modGu ..
      · exact h.modGu ..

theorem Inv.guAccept {s : State} (h : Inv s) (r : Req) : Inv (guAccept r s) :=
  .ite (h.modTrain ..) (.ite (h.modTrain ..) (h.guTake ..))

theorem Inv.serveAccepted {s : State} (h : Inv s) (ch n : Nat) : Inv (serveAccepted ch n s) := by
  induction n generalizing s with
  | zero => exact h
  | succ n ih =>
    unfold Machine.serveAccepted
    split
    · split
      · exact h
      · exact ih ((h.modTrain ..).guTake ..)
    · exact h

theorem Inv.serveGu {s : State} (h : Inv s) (n : Nat) : Inv (serveGu n s) :=
  Inv.each (fun _ _ h => h.serveAccepted ..) _ h

theorem Inv.closeWindow {s : State} (h : Inv s) (n seg : Nat) : Inv (closeWindow n seg s) :=
  h.modGu ..

theorem Inv.fillDone {s : State} (h : Inv s) (n seg : Nat) (wb : Bool) (ecc : EccResult) : Inv (fillDone n seg wb ecc s) := by
  unfold Machine.fillDone
  dsimp only
  split
  · split
    · exact .ite ((h.modGu ..).guEvent ..) ((h.modGu ..).modGu ..)
    · exact h
  · split
    · exact .ite (h.modGu ..) h
    · refine (Inv.ite ?_ ?_).serveGu ..
      · exact Inv.each (fun _ _ h => .ite (h.failReq ..) (h.guServe ..)) _ ((h.modGu ..).guEvent ..)
      · exact Inv.each (fun _ _ h => h.guServe ..) _ ((h.modGu ..).modGu ..)

theorem Inv.rowSwap {s : State} (h : Inv s) (n ch bank row : Nat) : Inv (rowSwap n ch bank row s) := by
  unfold Machine.rowSwap
  dsimp only
  split
  · exact h
  · split
    · exact .ite (h.modGu ..) (((h.modGu ..).modGu ..).guEvent ..)
    · exact h.frame.guEvent ..

theorem Inv.rowCopied {s : State} (h : Inv s) (n ch bank row : Nat) : Inv (rowCopied n ch bank row s) :=
  .ite h (((Inv.each (fun _ _ h => h.guTake ..) _ (h.modGu ..)).modGu ..).serveGu ..)

theorem Inv.heartbeat {s : State} (h : Inv s) (n : Nat) : Inv (heartbeat n s) :=
  .ite (((h.modGu ..).modGu ..).guEvent ..) (h.modGu ..)

theorem Inv.heartMiss {s : State} (h : Inv s) (n : Nat) : Inv (heartMiss n s) :=
  .ite ((Inv.ite ((h.modGu ..).modGu ..) (h.modGu ..)).guEvent ..) (h.modGu ..)

theorem Inv.handBack {s : State} (h : Inv s) (n : Nat) : Inv (handBack n s) :=
  h.modGu ..

theorem Inv.guctlWrite {s : State} (h : Inv s) (n : Nat) (v : W64) : Inv (guctlWrite n v s) :=
  .ite ((h.modGu ..).handBack ..) (h.modGu ..)

theorem Inv.trainWrite {s : State} (h : Inv s) (ch : Nat) (f : Train → Train) : Inv (trainWrite ch f s) :=
  h.modTrain ..

theorem Inv.runTest {s : State} (h : Inv s) (ch op : Nat) : Inv (runTest ch op s) :=
  h.trainWrite ..

theorem Inv.broadcast {s : State} (h : Inv s) (ch : Nat) (v : W64) : Inv (broadcast ch v s) :=
  h.trainWrite ..

theorem Inv.repair {s : State} (h : Inv s) (ch : Nat) (v : W64) : Inv (repair ch v s) :=
  h.trainWrite ..

theorem Inv.openChan {s : State} (h : Inv s) (ch : Nat) : Inv (openChan ch s) :=
  (h.modTrain ..).serveAccepted ..

theorem Inv.closeChan {s : State} (h : Inv s) (ch : Nat) : Inv (closeChan ch s) :=
  h.modTrain ..

theorem Inv.chanClosed {s : State} (h : Inv s) (ch : Nat) : Inv (chanClosed ch s) :=
  .ite h ((h.modGu ..).modTrain ..)

theorem Inv.trainStore {s : State} (h : Inv s) (ch off : Nat) (v : W64) : Inv (trainStore ch off v s) := by
  unfold Machine.trainStore
  split
  · exact .ite (h.trainWrite ..) (h.runTest ..)
  · exact h.broadcast ..
  · exact h.repair ..
  · exact .ite (h.openChan ..) (h.closeChan ..)
  · exact .ite (h.trainWrite ..) h

/-! ### Splices and rigging ports (Machine/Link.lean) -/

theorem Inv.dropRemoteHolds {s : State} (h : Inv s) (p : Nat → Nat → Bool) : Inv (dropRemoteHolds p s) :=
  Inv.each (fun _ _ h => Inv.each (fun _ _ h => h.dropHold ..) _ h) _ h

theorem Inv.cutLink {s : State} (h : Inv s) (k : Nat) : Inv (cutLink k s) :=
  (Inv.each (fun _ _ h => (h.takeBack ..).failReq ..) _ h.frame).dropRemoteHolds ..

theorem Inv.failLink {s : State} (h : Inv s) (k : Nat) (cause : BitVec 4) : Inv (failLink k cause s) :=
  ((h.modLink ..).report ..).cutLink ..

theorem Inv.enableLink {s : State} (h : Inv s) (k : Nat) : Inv (enableLink k s) :=
  h.modLink ..

theorem Inv.disableLink {s : State} (h : Inv s) (k : Nat) : Inv (disableLink k s) :=
  (h.modLink ..).cutLink ..

theorem Inv.resetLink {s : State} (h : Inv s) (k : Nat) : Inv (resetLink k s) :=
  h.modLink ..

theorem Inv.trainFail {s : State} (h : Inv s) (k : Nat) : Inv (trainFail k s) :=
  .ite h (.ite (h.failLink ..) (h.modLink ..))

theorem Inv.replayLink {s : State} (h : Inv s) (k : Nat) (progress : Bool) : Inv (replayLink k progress s) :=
  .ite h (.ite (h.modLink ..) (.ite ((h.modLink ..).failLink ..) (h.modLink ..)))

theorem Inv.nak {s : State} (h : Inv s) (k ack : Nat) : Inv (nak k ack s) :=
  .ite ((h.modLink ..).replayLink ..) h

theorem Inv.ackLink {s : State} (h : Inv s) (k ack : Nat) : Inv (ackLink k ack s) :=
  .ite h (h.modLink ..)

theorem Inv.headerDrop {s : State} (h : Inv s) (k seq : Nat) : Inv (headerDrop k seq s) := by
  unfold Machine.headerDrop
  dsimp only
  split
  · exact ((h.report ..).takeBack ..).failReq ..
  · exact h.frame.failReq ..
  · exact h.report ..

theorem Inv.deliver {s : State} (h : Inv s) (p : FarPacket) : Inv (deliver p s) := by
  unfold Machine.deliver
  dsimp only
  split
  · exact h.frame.sendReq ..
  · split
    · exact h.report ..
    · split
      · exact h.frame.sendReq ..
      · exact h.frame
      · exact h.frame
      · exact h.frame
      · exact h

theorem Inv.frameEnd {s : State} (h : Inv s) (k : Nat) (tagOk keyPh : Bool) : Inv (frameEnd k tagOk keyPh s) := by
  refine .ite ?_ (.ite ((h.modLink ..).failLink ..) (h.modLink ..))
  exact Inv.each (fun _ _ h => h.deliver ..) _ (Inv.each (fun _ _ h => h.headerDrop ..) _ (h.modLink ..))

theorem Inv.sequencedFlit {s : State} (h : Inv s) (k : Nat) (f : Flit) (tagOk hdrOk : Bool) :
    Inv (sequencedFlit k f tagOk hdrOk s) := by
  unfold Machine.sequencedFlit
  split
  extract_lets s1 s2
  have h1 : Inv s1 := h.modLink ..
  have h2 : Inv s2 := h1.modLink ..
  exact .ite h1 (.ite (.ite (Inv.each (fun _ _ h => h.deliver ..) _ h1) (h1.headerDrop ..)) (.ite (h2.frameEnd ..) h2))

theorem Inv.frameSent {s : State} (h : Inv s) (k : Nat) : Inv (frameSent k s) :=
  .ite ((h.modLink ..).report ..) (.ite ((h.modLink ..).modLink ..) (h.modLink ..))

theorem Inv.sendFlit {s : State} (h : Inv s) (k : Nat) : Inv (sendFlit k s) :=
  .ite ((h.modLink ..).modLink ..) (.ite (((h.modLink ..).modLink ..).frameSent ..) ((h.modLink ..).modLink ..))

theorem Inv.passFlit {s : State} (h : Inv s) (k : Nat) : Inv (passFlit k s) :=
  .ite (h.sendFlit ..) ((h.sendFlit ..).modLink ..)

theorem Inv.padFrame {s : State} (h : Inv s) (k n : Nat) : Inv (padFrame k n s) := by
  induction n generalizing s with
  | zero => exact h
  | succ n ih => exact .ite (ih (h.sendFlit ..)) h

theorem Inv.framePad {s : State} (h : Inv s) (k : Nat) : Inv (framePad k s) :=
  .ite (h.padFrame ..) h

theorem Inv.noteJob {s : State} (h : Inv s) (c k : Nat) : Inv (noteJob c k s) :=
  .ite h (h.modLink ..)

theorem Inv.crossLink {s : State} (h : Inv s) (c k : Nat) : Inv (crossLink c k s) :=
  (h.passFlit ..).noteJob ..

theorem Inv.crossJob {s : State} (h : Inv s) (job : BitVec 16) : Inv (crossJob job s) :=
  Inv.each (fun _ _ h => .ite ((Inv.each (fun _ _ h => h.crossLink ..) _ h).frame) h) _ h

theorem Inv.loadReq {s : State} (h : Inv s) (k n : Nat) : Inv (loadReq k n s) := by
  unfold Machine.loadReq
  dsimp only
  split
  · exact (h.frame.sendFlit ..).noteJob ..
  · exact h

theorem Inv.loadReply {s : State} (h : Inv s) (k n : Nat) : Inv (loadReply k n s) := by
  unfold Machine.loadReply
  dsimp only
  split
  · exact (h.frame.sendFlit ..).noteJob ..
  · exact h

theorem Inv.fillFlit {s : State} (h : Inv s) (k : Nat) : Inv (fillFlit k s) := by
  unfold Machine.fillFlit
  split
  · exact h.loadReq ..
  · split
    · exact h.loadReply ..
    · exact h.sendFlit ..

theorem Inv.fillAll {s : State} (h : Inv s) (k n : Nat) : Inv (fillAll k n s) := by
  induction n generalizing s with
  | zero => exact h
  | succ n ih => exact .ite (ih (h.fillFlit ..)) h

theorem Inv.passOver {s : State} (h : Inv s) (k seq : Nat) : Inv (passOver k seq s) :=
  h.frame

theorem Inv.spliceFlit {s : State} (h : Inv s) (k seq : Nat) (crcOk hdrOk : Bool) : Inv (spliceFlit k seq crcOk hdrOk s) := by
  unfold Machine.spliceFlit
  extract_lets n l s1 s2
  have h1 : Inv s1 := .ite (h.fillFlit ..) h
  have h2 : Inv s2 := h1.modLink ..
  refine .ite h (.ite (h2.modLink ..) ?_)
  split
  extract_lets s3
  have h3 : Inv s3 := h2.modLink ..
  exact .ite h3 (.ite (h3.passOver ..) (h3.headerDrop ..))

theorem Inv.sendMarker {s : State} (h : Inv s) (job : BitVec 16) (k : Nat) : Inv (sendMarker job k s) :=
  .ite h (.ite ((Inv.ite (h.passFlit ..) (h.sendFlit ..)).modLink ..) (.ite h (h.modLink ..)))

theorem Inv.sendOwed {s : State} (h : Inv s) (k : Nat) : Inv (sendOwed k s) :=
  Inv.each (fun _ _ h => (h.crossJob ..).sendMarker ..) _ h

theorem Inv.flitAck {s : State} (h : Inv s) (k : Nat) (f : Flit) : Inv (flitAck k f s) := by
  unfold Machine.flitAck
  split
  · exact h
  · exact .ite ((h.nak ..).sendOwed ..) (.ite ((h.ackLink ..).sendOwed ..) h)

theorem Inv.riggingFlit {s : State} (h : Inv s) (k : Nat) (f : Flit) (crcOk tagOk hdrOk : Bool) :
    Inv (riggingFlit k f crcOk tagOk hdrOk s) :=
  .ite h (.ite (h.modLink ..) (.ite ((h.flitAck ..).sequencedFlit ..) (h.flitAck ..)))

theorem Inv.laneFailure {s : State} (h : Inv s) (k u : Nat) : Inv (laneFailure k u s) :=
  .ite h ((h.fillAll ..).modLink ..)

theorem Inv.hostDown {s : State} (h : Inv s) : Inv (hostDown s) :=
  .ite h.frame h

/-! ### Device registers and the boot (Machine/Device.lean) -/

theorem Inv.takeWay {s : State} (h : Inv s) (d ctx pa : Nat) : Inv (takeWay d ctx pa s) := by
  unfold Machine.takeWay
  split
  · exact Inv.each (fun _ _ h => h.crossLink ..) _ h
  · exact h
  · exact .ite (h.report ..) h

theorem Inv.refusedAt {s : State} (h : Inv s) (d c va : Nat) (pa : Option Nat) (code : BitVec 8) :
    Inv (refusedAt d c va pa code s) := by
  unfold Machine.refusedAt
  dsimp only
  split
  · exact .ite ((h.takeWay ..).edgeTouch ..) (h.takeWay ..)
  · exact .ite (h.walkTouch ..) h

theorem Inv.ctxWrite {s t : State} (h : Inv s) (c va v : Nat) (e : ctxWrite c va v s = some t) : Inv t := by
  unfold Machine.ctxWrite at e
  split at e
  · cases e
  · cases e
    exact h.refusedAt ..
  · split at e
    · cases e
      exact h
    · split at e
      · cases e
      · cases e
        exact h.refusedAt ..
      · cases e
        exact .ite ((((h.xlateTouch ..).takeWay ..).edgeTouch ..).wrPa ..) (((h.xlateTouch ..).takeWay ..).edgeTouch ..)

theorem Inv.modQueue {s : State} (h : Inv s) (q : Nat) (f : Queue → Queue) : Inv (modQueue q f s) :=
  h.frame

theorem Inv.writeOwed {s : State} (h : Inv s) (q : Nat) (l : List (W64 × W64)) : Inv (writeOwed q l s) := by
  induction l generalizing s with
  | nil => exact h.modQueue ..
  | cons x l ih =>
    unfold Machine.writeOwed
    split
    · rename_i e
      exact ih (h.ctxWrite _ _ _ e)
    · exact h.modQueue ..

theorem Inv.cpWrite {s : State} (h : Inv s) (q : Nat) (va v : W64) : Inv (cpWrite q va v s) :=
  h.writeOwed ..

theorem Inv.freeSlot {s : State} (h : Inv s) (q : Nat) : Inv (freeSlot q s) :=
  h.frame

theorem Inv.queueError {s : State} (h : Inv s) (q code tag index op : Nat) : Inv (queueError q code tag index op s) :=
  ((h.modQueue ..).freeSlot ..).cpWrite ..

theorem Inv.toPending {s : State} (h : Inv s) (q : Nat) : Inv (toPending q s) :=
  h.frame

theorem Inv.knockQueue {s : State} (h : Inv s) (q : Nat) (w : W32) : Inv (knockQueue q w s) :=
  .ite h (.ite (.ite ((h.modQueue ..).toPending ..) (h.modQueue ..)) (h.queueError ..))

theorem Inv.queueEnable {s : State} (h : Inv s) (q : Nat) : Inv (queueEnable q s) :=
  h.modQueue ..

theorem Inv.queueDisable {s : State} (h : Inv s) (q : Nat) : Inv (queueDisable q s) :=
  (h.modQueue ..).freeSlot ..

theorem Inv.queueReset {s : State} (h : Inv s) (q : Nat) (rptr : W32) : Inv (queueReset q rptr s) :=
  .ite h (.ite (h.modQueue ..) ((h.modQueue ..).toPending ..))

theorem Inv.pwrctl {s : State} (h : Inv s) (v : W64) : Inv (pwrctl v s) :=
  .ite h h.frame

theorem Inv.powerEpoch {s : State} (h : Inv s) : Inv (powerEpoch s) :=
  .ite h h.frame

theorem Inv.moduleid {s : State} (h : Inv s) (v : W64) : Inv (moduleid v s) :=
  h.frame

theorem Inv.ctxctl {s : State} (h : Inv s) (c : Nat) (v : W64) : Inv (ctxctl c v s) :=
  .ite (h.modCtx ..) h

theorem Inv.routeWrite {s : State} (h : Inv s) (i : Nat) (v : W64) : Inv (routeWrite i v s) :=
  .ite h.frame h

theorem Inv.regWrite {s : State} (h : Inv s) (reg n : Nat) (v : W64) : Inv (regWrite reg n v s) := by
  unfold Machine.regWrite
  split
  · exact h
  · split
    · exact h.trainStore ..
    · exact .ite (.ite (h.knockQueue ..) h) (.ite (h.guctlWrite ..)
        (.ite (h.pwrctl ..) (.ite (h.moduleid ..) (.ite (h.ctxctl ..) (.ite (h.routeWrite ..) h)))))

theorem Inv.bootLink {s : State} (h : Inv s) (k : Nat) : Inv (bootLink k s) :=
  h.frame.modLink ..

theorem Inv.bootChannel {s : State} (h : Inv s) (ch : Nat) : Inv (bootChannel ch s) :=
  .ite (h.report ..) (h.openChan ..)

/-- The fourth boot step keeps the bytes of memory that outlast a reset, and every tag is full. -/
theorem Inv.forget {s : State} (h : Inv s) (p : Nat × Byte → Bool) : Inv { s with mem := s.mem.filter p, tags := [] } :=
  ⟨KV.wf_filter _ _ _ h.1, rfl, h.2.2⟩

theorem Inv.bootStep {s : State} (h : Inv s) (n : Nat) : Inv (bootStep n s) := by
  refine Inv.frame (s := match n with
    | 2 => _
    | 3 => _
    | 4 => _
    | 5 => _
    | 7 => _
    | _ => _) ?_
  split
  · exact Inv.each (fun _ _ h => h.bootLink ..) _ h
  · exact Inv.each (fun _ _ h => h.modGu ..) _ (Inv.each (fun _ _ h => h.bootChannel ..) _ h)
  · exact h.forget _
  · exact Inv.each (fun _ _ h => h.bootLink ..) _ h
  · exact h.frame
  · exact h

theorem Inv.bootGo {s : State} (h : Inv s) (l : List Nat) : Inv (bootGo l s) := by
  induction l generalizing s with
  | nil => exact h
  | cons n l ih => exact .ite h.frame (ih (h.bootStep n))

/-! ### The way of an access (Machine/Access.lean) -/

theorem Inv.freeWord {s : State} (h : Inv s) : Inv (freeWord s).2 :=
  h.frame

theorem Inv.streamLoad {s : State} (h : Inv s) (ctx pa n : Nat) : Inv (streamLoad ctx pa n s).2 :=
  .iteSnd h.freeWord (.iteSnd h (h.edgeTouch ..))

theorem Inv.streamStore {s : State} (h : Inv s) (ctx pa n v : Nat) : Inv (streamStore ctx pa n v s) :=
  .ite h (.ite (h.regWrite ..) ((h.edgeTouch ..).wrPa ..))

theorem Inv.homePut {s : State} (h : Inv s) (pa : Nat) (bs : List Byte) : Inv (homePut pa bs s) :=
  .ite h (.ite (Inv.each (fun _ _ h => h.regWrite ..) _ h) (h.landBytes ..))

theorem Inv.spanGo {s : State} (h : Inv s) (d ctx : Nat) (write : Bool) (p : Span) : Inv (spanGo d ctx write p s) := by
  unfold Machine.spanGo
  dsimp only
  split
  · exact (Inv.each (fun _ _ h => ((Inv.ite (h.xlateTouch ..) h).takeWay ..).edgeTouch ..) _ h).refusedAt ..
  · exact Inv.each (fun _ _ h => ((Inv.ite (h.xlateTouch ..) h).takeWay ..).edgeTouch ..) _ h

theorem Inv.spanPut {s : State} (h : Inv s) (l : List Part) (bs : List Byte) : Inv (spanPut l bs s) := by
  induction l generalizing s bs with
  | nil => exact h
  | cons a l ih => exact ih (h.homePut ..) _

theorem Inv.readsGo {s : State} (h : Inv s) (d ctx : Nat) (l : List Span) : Inv (readsGo d ctx l s) :=
  Inv.each (fun _ _ h => h.spanGo ..) _ h

/-! ### Requests at their homes (Machine/Home.lean) -/

theorem Inv.bankPerform {s : State} (h : Inv s) (fe : Nat) (r : Req) : Inv (bankPerform fe r s) := by
  unfold Machine.bankPerform
  dsimp only
  split
  · exact (h.wrPa ..).setTag ..
  · exact h.setTag ..
  · exact h.landReply ..
  · exact (h.enterBank ..).serveWord ..
  · exact (h.enterBank ..).serveWord ..
  · exact h.setTag ..
  · exact (h.wrPa ..).setTag ..
  · exact h.dropHold ..
  · exact h.arriveBar ..
  · exact h.initBar ..
  · exact h.resetBar ..
  · exact h.landReply ..
  · split
    · exact h.sendReply ..
    · exact h.enterBank ..
  · exact h.pileAtHome ..
  · exact h.guPerform ..
  · exact h.guPerform ..
  · exact h.guPerform ..
  · exact h

theorem Inv.divert {s : State} (h : Inv s) (fe : Nat) (r : Req) : Inv (divert fe r s) := by
  unfold Machine.divert
  split
  · exact .ite (h.modCtx ..) h.frame
  · exact h.frame

theorem Inv.bankArrive {s : State} (h : Inv s) (fe : Nat) (r : Req) : Inv (bankArrive fe r s) :=
  .ite (h.bankPerform ..) (.ite (h.divert ..) ((h.report ..).failReq ..))

theorem Inv.travel {s : State} (h : Inv s) (r : Req) (f : State → State) (hf : ∀ s, Inv s → Inv (f s)) : Inv (travel r f s) :=
  .ite (h.failReq ..) (hf _ (Inv.each (fun _ _ h => h.crossLink ..) _ h))

theorem Inv.farAnswer {s : State} (h : Inv s) (r : Req) : Inv (farAnswer r s) := by
  unfold Machine.farAnswer
  dsimp only
  split
  · split
    · exact h.freeWord.sendReply ..
    · exact h.freeWord.sendReply ..
  · exact h.freeWord.landReply ..
  · exact h.freeWord.landReply ..
  · exact h.freeWord.sendReply ..
  · exact h.freeWord.sendReply ..
  · exact h.freeWord.landReply ..
  · exact h.freeWord.sendReply ..
  · exact h.pileAnswer ..
  · exact h

theorem Inv.farAck {s : State} (h : Inv s) (r : Req) : Inv (farAck r s) :=
  .ite (h.sendReply ..) h

theorem Inv.passOn3 {s : State} (h : Inv s) (r : Req) : Inv (passOn3 r s) :=
  .ite (h.report ..) (Inv.each (fun _ _ h => h.crossLink ..) _ h)

theorem Inv.farRequest {s : State} (h : Inv s) (r : Req) : Inv (farRequest r s) := by
  unfold Machine.farRequest
  refine .ite (h.passOn3 ..) (.ite (h.pileAnswer ..) ?_)
  split
  · exact (h.report ..).failReq ..
  · refine (Inv.ite (h.report ..) h).travel _ _ fun s h => ?_
    have h1 := h.failReq r Code.dataPage
    exact .ite (.ite (((Inv.ite (h1.modSeat ..) h1).modCtx ..).report ..) h1) ((h.farAnswer ..).farAck ..)

theorem Inv.homeArrive {s : State} (h : Inv s) (r : Req) : Inv (homeArrive r s) := by
  unfold Machine.homeArrive
  dsimp only
  split
  · exact h.failReq ..
  · split
    · exact h.failReq ..
    · split
      · exact h.pileAnswer ..
      · split
        · exact h.guAccept ..
        · split
          · split
            · exact h.sendReply ..
            · exact h.sendReply ..
          · exact h.regWrite ..
          · exact h
        · split
          · exact h.bankArrive ..
          · exact h

theorem Inv.reqStep {s : State} (h : Inv s) (r : Req) (e : ReqEvent) : Inv (reqStep r e s) := by
  unfold Machine.reqStep
  dsimp only
  split
  · exact h.farRequest ..
  · exact .ite (h.failReq ..) ((Inv.each (fun _ _ h => h.crossLink ..) _ h).meldArrive ..)
  · exact h.travel _ _ (fun _ h => h.homeArrive ..)

theorem Inv.reqGo {s : State} (h : Inv s) (n : Nat) (ok : ReqEvent → Bool) : Inv (reqGo n ok s) := by
  unfold Machine.reqGo
  dsimp only
  split
  · exact h
  · exact .ite (h.frame.reqStep ..) h

theorem Inv.resend {s : State} (h : Inv s) (n : Nat) : Inv (resend n s) := by
  unfold Machine.resend
  split
  · exact .ite h.frame h
  · exact h

theorem Inv.meldExpire {s : State} (h : Inv s) (n : Nat) : Inv (meldExpire n s) := by
  unfold Machine.meldExpire
  split
  · exact .ite h h.frame
  · exact h

theorem Inv.landAt {s : State} (h : Inv s) (r : Req) (off : Nat) (ws : List W32) : Inv (landAt r off ws s) :=
  .ite ((h.modSeat ..).modCtx ..) (.ite ((h.modSeat ..).landWords ..) ((h.modSeat ..).report ..))

theorem Inv.giveValue {s : State} (h : Inv s) (r : Req) (v : W64) (st : Nat) : Inv (giveValue r v st s) := by
  unfold Machine.giveValue
  split
  · exact .ite ((h.grantSeat ..).modSeat ..) h
  · exact h

theorem Inv.replyGo {s : State} (h : Inv s) (n : Nat) (ok : Req → Bool) : Inv (replyGo n ok s) := by
  unfold Machine.replyGo
  dsimp only
  split
  · exact h
  · split
    · exact h
    · split
      · exact h.frame.failReq ..
      · split
        · exact Inv.each (fun _ _ h => h.crossLink ..) _ h.frame
        · split
          · exact (Inv.each (fun _ _ h => h.crossLink ..) _ h.frame).landAt ..
          · exact Inv.each (fun _ _ h => h.crossLink ..) _ h.frame
          · exact (Inv.each (fun _ _ h => h.crossLink ..) _ h.frame).giveValue ..
          · exact Inv.each (fun _ _ h => h.crossLink ..) _ h.frame
          · exact (Inv.each (fun _ _ h => h.crossLink ..) _ h.frame).failReq ..

theorem Inv.deferredNow {s : State} (h : Inv s) (fe k : Nat) : Inv (deferredNow fe k s) :=
  .ite (h.takeDeferred ..) h

theorem Inv.deadline {s : State} (h : Inv s) (fe k : Nat) : Inv (deadline fe k s) := by
  unfold Machine.deadline
  dsimp only
  split
  · exact h
  · split
    · exact h.frame
    · exact h

/-! ### Floating-point instructions (Machine/Float.lean) -/

theorem Inv.opFF {s : State} (h : Inv s) (w : Nat) (f : Fmt → Rnd → Nat → Nat → Nat × Rnd) (d a b : Reg) (q : Sel) :
    Inv (opFF w f d a b q s) :=
  h.issue ..

theorem Inv.opF {s : State} (h : Inv s) (w : Nat) (f : Fmt → Rnd → Nat → Nat × Rnd) (d a : Reg) (q : Sel) :
    Inv (opF w f d a q s) :=
  h.issue ..

/-! ### Planes (Machine/Plane.lean) -/

theorem Inv.modPlane {s : State} (h : Inv s) (fe pl : Nat) (g : PlaneState → PlaneState) : Inv (modPlane fe pl g s) :=
  h.modFe ..

theorem Inv.firePlane {s : State} (h : Inv s) (fe pl : Nat) : Inv (firePlane fe pl s) :=
  .ite (h.modFe ..) ((h.modFe ..).orFlags ..)

theorem Inv.sendLine {s : State} (h : Inv s) (fe pl i : Nat) : Inv (sendLine fe pl i s) := by
  unfold Machine.sendLine
  dsimp only
  split
  · exact h
  · exact (h.modFe ..).modFe ..

theorem Inv.countCycle {s : State} (h : Inv s) (fe : Nat) : Inv (countCycle fe s) :=
  .ite (h.modFe ..) h

theorem Inv.planeFire {s : State} (h : Inv s) (fe : Nat) : Inv (planeFire fe s) := by
  unfold Machine.planeFire
  dsimp only
  split
  · exact h
  · refine Inv.each (fun _ _ h => h.sendLine ..) _ ?_
    split
    · exact ((h.modFe ..).countCycle ..).firePlane ..
    · exact (h.modFe ..).countCycle ..

theorem Inv.arbiterEpoch {s : State} (h : Inv s) (fe : Nat) : Inv (arbiterEpoch fe s) :=
  (h.modFe ..).powerEpoch

theorem Inv.planeOn {s : State} (h : Inv s) (fe k pl : Nat) : Inv (planeOn fe k pl s) :=
  h.modPlane ..

theorem Inv.planeOff {s : State} (h : Inv s) (fe pl : Nat) : Inv (planeOff fe pl s) :=
  h.modPlane ..

theorem Inv.arbPin {s : State} (h : Inv s) (fe pl : Nat) (w : BitVec 8) : Inv (arbPin fe pl w s) :=
  h.modFe ..

/-! ### Streams and ports (Machine/Stream.lean) -/

theorem Inv.modPort {s : State} (h : Inv s) (fe pl p : Nat) (g : PortState → PortState) : Inv (modPort fe pl p g s) :=
  h.modFe ..

theorem Inv.streamOp {s : State} (h : Inv s) (sink sparse : Bool) (port : Port) (a b : Reg) (pl : Plane) (g : Bool)
    (esz : BitVec 2) (q : Sel) : Inv (streamOp sink sparse port a b pl g esz q s) :=
  h.issue ..

theorem Inv.spull {s : State} (h : Inv s) (d : Reg) (port : Port) (pl : Plane) : Inv (spull d port pl s).1 := by
  unfold Machine.spull
  dsimp only
  split
  · exact h.modHand ..
  · split
    · exact h
    · split
      · exact h
      · exact .iteFst (h.modHand ..) ((h.modPort ..).modHand ..)

theorem Inv.flushDirty {s : State} (h : Inv s) (c : StreamCmd) : Inv (flushDirty c s) := by
  unfold Machine.flushDirty
  split
  · exact h.setTag ..
  · exact h

theorem Inv.portReset {s : State} (h : Inv s) (fe pl : Nat) (sink : Bool) (port : Nat) :
    Inv (portReset fe pl sink port s) := by
  unfold Machine.portReset
  dsimp only
  refine Inv.modFe ?_ ..
  split
  · exact h.flushDirty ..
  · exact h

theorem Inv.portsReset {s : State} (h : Inv s) (fe pl : Nat) : Inv (portsReset fe pl s) :=
  Inv.each (fun _ _ h => (h.portReset ..).portReset ..) _ h

theorem Inv.portPut {s : State} (h : Inv s) (fe pl : Nat) (sink : Bool) (port : Nat) (c : StreamCmd) :
    Inv (portPut fe pl sink port c s) :=
  .ite h (.ite ((h.freshId.modPort ..).modFe ..) (h.freshId.modPort ..))

theorem Inv.spushPut {s : State} (h : Inv s) (fe pl port : Nat) (v : W32) (eor last : Bool) :
    Inv (spushPut fe pl port v eor last s) :=
  h.modFe ..

theorem Inv.spullTake {s : State} (h : Inv s) (fe pl port : Nat) : Inv (spullTake fe pl port s) :=
  .ite h (h.modFe ..)

theorem Inv.setHead {s : State} (h : Inv s) (fe pl ix : Nat) (c : StreamCmd) : Inv (setHead fe pl ix c s) :=
  h.modPort ..

theorem Inv.endHead {s : State} (h : Inv s) (fe pl ix : Nat) : Inv (endHead fe pl ix s) :=
  h.modPort ..

theorem Inv.feedPort {s : State} (h : Inv s) (fe pl port : Nat) (t : Token) : Inv (feedPort fe pl port t s) :=
  h.modFe ..

theorem Inv.windowStep {s : State} (h : Inv s) (fe pl ix : Nat) : Inv (windowStep fe pl ix s) := by
  unfold Machine.windowStep
  dsimp only
  split
  · exact .ite ((h.modPort ..).feedPort ..) h
  · exact h

theorem Inv.windowSend {s : State} (h : Inv s) (fe pl ix : Nat) (t : Token) : Inv (windowSend fe pl ix t s) :=
  (h.modPort ..).windowStep ..

theorem Inv.sendToken {s : State} (h : Inv s) (fe pl ix : Nat) (c : StreamCmd) (t : Token) : Inv (sendToken fe pl ix c t s) :=
  .ite (h.feedPort ..) ((Inv.ite (h.modPort ..) h).windowSend ..)

theorem Inv.portError {s : State} (h : Inv s) (fe pl port : Nat) (c : StreamCmd) (code : BitVec 8) (info addr : W64) :
    Inv (portError fe pl port c code info addr s) :=
  ((Inv.ite (((h.flushDirty ..).modFe ..).modFe ..) ((h.flushDirty ..).modFe ..)).modFe ..).deferFault ..

theorem Inv.latchFail {s : State} (h : Inv s) (fe pl ix : Nat) (c : StreamCmd) (code : BitVec 8) :
    Inv (latchFail fe pl ix c code s) :=
  .ite ((h.sendToken ..).endHead ..) (h.portError ..)

theorem Inv.relatch {s : State} (h : Inv s) (fe pl ix : Nat) : Inv (relatch fe pl ix s) := by
  unfold Machine.relatch
  dsimp only
  split
  · exact h
  · split
    · exact h
    · split
      · exact (h.xlateTouch ..).setHead ..
      · exact .ite ((h.setHead ..).report ..) (.ite h ((h.refusedAt ..).latchFail ..))
      · exact h

theorem Inv.putElem {s : State} (h : Inv s) (pa n v : Nat) (c : StreamCmd) : Inv (putElem pa n v c s).1 := by
  unfold Machine.putElem
  extract_lets word s1 s2
  have h1 : Inv s1 := .ite (h.flushDirty ..) h
  have h2 : Inv s2 := h1.streamStore ..
  split
  · exact h2
  · split
    · exact h2.setTag ..
    · exact h2

theorem Inv.skipElem {s : State} (h : Inv s) (pa n : Nat) (c : StreamCmd) : Inv (skipElem pa n c s).1 :=
  .iteFst (h.flushDirty ..) h

theorem Inv.sinElems {s : State} (h : Inv s) (fe : Nat) (c : StreamCmd) (k : Nat) : Inv (sinElems fe c k s).2.2 := by
  induction k generalizing s c with
  | zero => exact h
  | succ k ih =>
    unfold Machine.sinElems
    split
    · exact ih (h.streamLoad ..) _
    · exact h

theorem Inv.sinStep {s : State} (h : Inv s) (fe pl ix : Nat) (c : StreamCmd) : Inv (sinStep fe pl ix c s) := by
  unfold Machine.sinStep
  dsimp only
  split
  · exact (h.sendToken ..).endHead ..
  · split
    · exact (h.refusedAt ..).latchFail ..
    · refine .ite (Inv.endHead ?_ ..) (Inv.setHead ?_ ..) <;>
        exact (Inv.ite ((h.sinElems ..).takeWay ..) (h.sinElems ..)).sendToken ..
    · exact h

theorem Inv.areaGo {s : State} (h : Inv s) (fe : Nat) (c : StreamCmd) (write : Bool) (p : Span) :
    Inv (areaGo fe c write p s) :=
  .ite (h.spanGo ..) h

theorem Inv.expandArea {s : State} (h : Inv s) (fe : Nat) (c : StreamCmd) : Inv (expandArea fe c s).2 :=
  .iteSnd (h.areaGo ..) (.iteSnd (h.areaGo ..) (.iteSnd ((h.areaGo ..).areaGo ..)
    (.iteSnd (((h.areaGo ..).areaGo ..).areaGo ..) (((h.areaGo ..).areaGo ..).areaGo ..))))

theorem Inv.expandStep {s : State} (h : Inv s) (fe pl ix : Nat) (c : StreamCmd) : Inv (expandStep fe pl ix c s) := by
  unfold Machine.expandStep
  split
  · split
    · rename_i e
      exact (((h.expandArea ..).snd e).sendToken ..).endHead ..
    · rename_i e
      exact ((h.expandArea ..).snd e).setHead ..
  · exact .ite ((h.sendToken ..).endHead ..) ((h.sendToken ..).setHead ..)

theorem Inv.soutElems {s : State} (h : Inv s) (fe : Nat) (c : StreamCmd) (l : List (W32 × Bool)) (k : Nat) :
    Inv (soutElems fe c l k s).2.2 := by
  have elem : ∀ (b : Bool) pa n v c {s}, Inv s →
      Inv (if b then Machine.skipElem pa n c s else Machine.putElem pa n v c s).1 := fun b pa n v c s h => by
      cases b
      · exact h.putElem ..
      · exact h.skipElem ..
  induction l generalizing s c k with
  | nil => exact h
  | cons x l ih =>
    unfold Machine.soutElems
    split
    · exact h
    · split
      · exact ih (elem _ _ _ _ _ h) ..
      · exact h

theorem Inv.soutStep {s : State} (h : Inv s) (fe pl port : Nat) (c : StreamCmd) : Inv (soutStep fe pl port c s) := by
  unfold Machine.soutStep
  dsimp only
  split
  · exact (h.flushDirty ..).endHead ..
  · split
    · exact h
    · refine .ite h (.ite (h.modFe ..) (.ite ((h.modFe ..).portError ..) ?_))
      split
      · exact (h.refusedAt ..).latchFail ..
      · refine .ite (Inv.endHead (Inv.flushDirty ?_ ..) ..) (Inv.setHead ?_ ..) <;>
          exact (Inv.ite ((h.soutElems ..).takeWay ..) (h.soutElems ..)).modFe ..
      · exact h

theorem Inv.stageStep {s : State} (h : Inv s) (fe pl port : Nat) (c : StreamCmd) : Inv (stageStep fe pl port c s) := by
  unfold Machine.stageStep
  dsimp only
  split
  · exact .ite (h.modFe ..) h
  · split
    · exact h
    · split
      · exact .ite ((h.modFe ..).modFe ..) (.ite ((h.modFe ..).portError ..) ((h.modFe ..).modFe ..))
      · exact (h.modFe ..).modFe ..
      · exact h

theorem Inv.sparseCheck {s : State} (h : Inv s) (fe : Nat) : Inv (sparseCheck fe s) := by
  unfold Machine.sparseCheck
  dsimp only
  split
  · exact h
  · split
    · exact h.modFe ..
    · exact .ite h (.ite (h.portError ..) (.ite (h.portError ..)
        (.ite h (.ite (((h.areaGo ..).spanPut ..).portError ..) ((((h.areaGo ..).spanPut ..).endHead ..).modFe ..)))))

theorem Inv.portStep {s : State} (h : Inv s) (fe pl ix : Nat) : Inv (portStep fe pl ix s) := by
  unfold Machine.portStep
  dsimp only
  split
  · exact h
  · split
    · split
      · exact h
      · split
        · exact h.windowStep ..
        · split
          · exact h
          · exact .ite (h.expandStep ..) (h.sinStep ..)
    · split
      · exact h
      · split
        · exact h.modFe ..
        · split
          · exact h
          · exact .ite (h.stageStep ..) (h.soutStep ..)

theorem Inv.dataToken {s : State} (h : Inv s) (fe pl port : Nat) (seq : BitVec 16) (words : List W32) (eor last : Bool) :
    Inv (dataToken fe pl port seq words eor last s) :=
  .ite ((h.modPort ..).windowStep ..) h

/-! ### The configuration network (Machine/ConfigNet.lean) -/

theorem Inv.applyWrites {s : State} (h : Inv s) (die : Nat) (edge : Option Nat) (ws : List FieldWrite) :
    Inv (applyWrites die edge ws s) :=
  Inv.each (fun _ _ h => .ite h (h.modFe ..)) _ h

theorem Inv.cfgDone {s : State} (h : Inv s) (p : CfgPacket) (flt : Option FaultRec) : Inv (cfgDone p flt s) := by
  unfold Machine.cfgDone
  split
  · exact h
  · exact h.modSeat ..

theorem Inv.cfgApply {s : State} (h : Inv s) (n : Nat) : Inv (cfgApply n s) := by
  unfold Machine.cfgApply
  dsimp only
  split
  · exact h
  · split
    · exact h
    · split
      · exact h.frame.cfgDone ..
      · split
        · exact (h.frame.applyWrites ..).cfgDone ..
        · exact h.frame.cfgDone ..
      · split
        · exact (h.frame.applyWrites ..).cfgDone ..
        · exact h.frame.cfgDone ..

theorem Inv.sendCfg {s : State} (h : Inv s) (p : CfgPacket) : Inv (sendCfg p s) :=
  h.frame.modSeat ..

theorem Inv.cfgSend {s : State} (h : Inv s) (fe k : Nat) (va : W64) (rot : Plane) : Inv (cfgSend fe k va rot s) := by
  unfold Machine.cfgSend
  dsimp only
  split
  · exact (h.readsGo ..).sendCfg ..
  · exact (h.readsGo ..).sendCfg ..

theorem Inv.cfgwSend {s : State} (h : Inv s) (fe k : Nat) (w v : W32) : Inv (cfgwSend fe k w v s) :=
  h.sendCfg ..

theorem Inv.cfgSync {s : State} (h : Inv s) : Inv (cfgSync s).1 := by
  unfold Machine.cfgSync
  dsimp only
  split
  · exact h
  · split
    · exact h
    · split
      · exact h
      · exact h.modHand ..

theorem Inv.cfgSpent {s : State} (hi : Inv s) (fe k : Nat) (h : Hand) : Inv (cfgSpent fe k h s) := by
  unfold Machine.cfgSpent
  split
  · exact hi.modSeat ..
  · exact hi

/-! ### The matrix array (Machine/Matrix.lean) -/

theorem Inv.arrEnter {s : State} (h : Inv s) (fe : Nat) (c : ArrCmd) : Inv (arrEnter fe c s) :=
  h.modFe ..

theorem Inv.arrLeave {s : State} (h : Inv s) (fe : Nat) : Inv (arrLeave fe s) :=
  h.modFe ..

theorem Inv.modRcv {s : State} (h : Inv s) (id j : Nat) (g : Receiver → Receiver) : Inv (modRcv id j g s) :=
  h.frame

theorem Inv.arrFormat {s : State} (h : Inv s) (fe : Nat) (c : ArrCmd) (step : Nat) : Inv (arrFormat fe c step s) := by
  unfold Machine.arrFormat
  split
  · exact h.modRcv ..
  · exact h.deferFault ..

theorem Inv.arrCredit {s : State} (h : Inv s) (c : ArrCmd) : Inv (arrCredit c s) := by
  unfold Machine.arrCredit
  split
  · exact h.modRcv ..
  · exact h

theorem Inv.accStore {s : State} (h : Inv s) (fe : Nat) (c : ArrCmd) (off x fmt : Nat) (fpctl : W64) (gen : W32) :
    Inv (accStore fe c off x fmt fpctl gen s) := by
  unfold Machine.accStore
  dsimp only
  split
  · exact h.landBytes ..
  · split
    · exact h.deferFault ..
    · exact (Inv.ite h (h.orFlags ..)).landBytes ..

theorem Inv.arrPerform {s : State} (h : Inv s) (fe : Nat) : Inv (arrPerform fe s) := by
  unfold Machine.arrPerform
  dsimp only
  split
  · exact h
  · split
    · exact h
    · refine Inv.arrLeave ?_ ..
      split
      · exact h.modFe ..
      · exact h.landBytes ..
      · refine Inv.arrCredit ?_ ..
        split
        · exact h.modFe ..
        · exact h.arrFormat ..
      · exact h.modFe ..
      · exact h.accStore ..
      · exact h.modFe ..
      · exact h

theorem Inv.mtileStep {s : State} (h : Inv s) (fe : Nat) : Inv (mtileStep fe s) := by
  unfold Machine.mtileStep
  dsimp only
  split
  · exact h
  · split
    · split
      · exact h
      · split
        · exact ((h.modFe ..).arrFormat ..).arrLeave ..
        · exact .ite (((h.modFe ..).modFe ..).arrLeave ..) (((h.modFe ..).modFe ..).modFe ..)
    · exact h

theorem Inv.setClaim {s : State} (h : Inv s) (fe m : Nat) (c : Option Nat) : Inv (setClaim fe m c s) :=
  h.modFe ..

/-! ### Cards and engines (Machine/Engine.lean) -/

theorem Inv.postOp {s : State} (h : Inv s) (kind : Nat) (a : Reg) (q : Sel) : Inv (postOp kind a q s) :=
  h.issueRead ..

theorem Inv.modCard {s : State} (h : Inv s) (id : Nat) (g : Card → Card) : Inv (modCard id g s) :=
  h.frame

theorem Inv.postCard {s : State} (h : Inv s) (fe k off want : Nat) : Inv (postCard fe k off want s) :=
  h.frame.modSeat ..

theorem Inv.spanTouch {s : State} (h : Inv s) (d c va n : Nat) (need : Need) : Inv (spanTouch d c va n need s) :=
  h.spanGo ..

theorem Inv.endCard {s : State} (h : Inv s) (id : Nat) (status : BitVec 8) : Inv (endCard id status s) :=
  h.modCard ..

theorem Inv.copySetup {s : State} (h : Inv s) (id : Nat) (c : Card) : Inv (copySetup id c s) :=
  .ite ((Inv.each (fun _ _ h => h.spanTouch ..) _ h).endCard ..) ((Inv.each (fun _ _ h => h.spanTouch ..) _ h).modCard ..)

theorem Inv.cardCheck {s : State} (h : Inv s) (id : Nat) : Inv (cardCheck id s) := by
  unfold Machine.cardCheck
  dsimp only
  split
  · exact h
  · split
    · exact h
    · split
      · exact h.endCard ..
      · split
        · split
          · exact h.endCard ..
          · exact .ite ((h.modPort ..).modCard ..) (h.endCard ..)
        · split
          · exact (h.readsGo ..).endCard ..
          · exact (h.readsGo ..).endCard ..
          · exact (h.readsGo ..).modCard ..
        · exact h.copySetup ..

theorem Inv.failRcv {s : State} (h : Inv s) (id j : Nat) : Inv (failRcv id j s) := by
  unfold Machine.failRcv
  dsimp only
  split
  · exact h
  · split
    · exact h
    · split
      · exact .ite ((h.modRcv ..).report ..) (.ite ((h.modRcv ..).errorBar ..) (h.modRcv ..))
      · exact h.modRcv ..

theorem Inv.creditRcv {s : State} (h : Inv s) (id j n : Nat) (r : Receiver) : Inv (creditRcv id j n r s) := by
  unfold Machine.creditRcv
  dsimp only
  split
  · exact .ite h (.ite (h.arriveBar ..) ((h.arriveBar ..).failRcv ..))
  · exact h

theorem Inv.parkCard {s : State} (h : Inv s) (id key va : Nat) : Inv (parkCard id key va s) := by
  unfold Machine.parkCard
  split
  · exact (h.modCard ..).report ..
  · exact h

theorem Inv.landAtHome {s : State} (h : Inv s) (r : Receiver) (pa off : Nat) (bs : List Byte) :
    Inv (landAtHome r pa off bs s) := by
  unfold Machine.landAtHome
  split
  · exact h.modFe ..
  · exact h.homePut ..

theorem Inv.packetLost {s : State} (h : Inv s) (id : Nat) (code : BitVec 8) : Inv (packetLost id code s) :=
  .ite (h.modCard ..) h

theorem Inv.landPacket {s : State} (h : Inv s) (id j : Nat) : Inv (landPacket id j s) := by
  unfold Machine.landPacket
  split
  · exact h
  · split
    · exact h
    · split
      · exact h
      · split
        · exact .ite (h.failRcv ..) h
        · extract_lets va n d
          split
          · exact h
          · exact h.parkCard ..
          · exact ((h.refusedAt ..).packetLost ..).failRcv ..
          · extract_lets s1
            have h1 : Inv s1 := .ite (h.xlateTouch ..) h
            refine .ite (h1.failRcv ..) ?_
            split
            · exact h1
            · exact ((h1.refusedAt ..).packetLost ..).failRcv ..
            · refine .ite ?_ (Inv.creditRcv ?_ ..) <;>
                exact ((((h1.modCard ..).takeWay ..).edgeTouch ..).landAtHome ..).modRcv ..

theorem Inv.follow {s : State} (h : Inv s) (id j : Nat) : Inv (follow id j s) := by
  unfold Machine.follow
  dsimp only
  split
  · exact h
  · split
    · exact h
    · split
      · exact h
      · split
        · exact .ite h (.ite (h.failRcv ..) (((h.arrEnter ..).modRcv ..).creditRcv ..))
        · exact h.modRcv ..

theorem Inv.freeProducer {s : State} (h : Inv s) (c : Card) : Inv (freeProducer c s) := by
  unfold Machine.freeProducer
  split
  · exact h.modPort ..
  · exact h

theorem Inv.jobClose {s : State} (h : Inv s) (id : Nat) (st : BitVec 8) : Inv (jobClose id st s) := by
  unfold Machine.jobClose
  split
  · exact (h.endCard ..).freeProducer ..
  · exact h

theorem Inv.jobFail {s : State} (h : Inv s) (id : Nat) (c : Card) (code : BitVec 8) : Inv (jobFail id c code s) := by
  unfold Machine.jobFail
  split
  · exact h.endCard ..
  · exact (h.windowSend ..).jobClose ..

theorem Inv.jobStep {s : State} (h : Inv s) (id : Nat) : Inv (jobStep id s) := by
  unfold Machine.jobStep
  dsimp only
  split
  · exact h
  · split
    · exact .ite h (h.endCard ..)
    · split
      · exact h
      · split
        · exact h.jobClose ..
        · split
          · exact .ite (((h.modCard ..).windowSend ..).jobClose ..) ((h.modCard ..).windowSend ..)
          · split
            · exact h
            · split
              · exact h
              · exact (h.spanGo ..).jobFail ..
              · exact .ite ((((h.spanGo ..).modCard ..).windowSend ..).jobClose ..) (((h.spanGo ..).modCard ..).windowSend ..)

theorem Inv.jobRelatch {s : State} (h : Inv s) (id : Nat) : Inv (jobRelatch id s) := by
  unfold Machine.jobRelatch
  dsimp only
  split
  · exact h
  · split
    · exact h
    · split
      · exact (h.xlateTouch ..).modCard ..
      · exact .ite (h.parkCard ..) ((h.refusedAt ..).jobFail ..)
      · exact h

theorem Inv.cardRecord {s : State} (h : Inv s) (id : Nat) : Inv (cardRecord id s) := by
  unfold Machine.cardRecord
  dsimp only
  split
  · exact h
  · split
    · exact h
    · split
      · exact h.modCard ..
      · exact (h.postFor ..).frame

theorem Inv.cardLost {s : State} (h : Inv s) (id : Nat) (c : Card) : Inv (cardLost id c s) := by
  unfold Machine.cardLost
  dsimp only
  split
  · exact h.jobFail ..
  · exact h.endCard ..
  · exact Inv.each (fun _ _ h => h.failRcv ..) _ (h.modCard ..)

/-! ### Collectives (Machine/Coll.lean) -/

theorem Inv.freeWords {s : State} (h : Inv s) (n : Nat) : Inv (freeWords n s).2 := by
  induction n generalizing s with
  | zero => exact h
  | succ n ih => exact ih h.freeWord

theorem Inv.freeBlock {s : State} (h : Inv s) (l : CollLevel) : Inv (freeBlock l s).2 :=
  h.freeWords 8

theorem Inv.freeBlocks {s : State} (h : Inv s) (l : CollLevel) (n : Nat) : Inv (freeBlocks l n s).2 := by
  induction n generalizing s with
  | zero => exact h
  | succ n ih => exact ih (h.freeBlock l)

theorem Inv.freeWire {s : State} (h : Inv s) (l : CollLevel) (n : Nat) : Inv (freeWire l n s).2 := by
  unfold Machine.freeWire
  dsimp only
  split
  · exact h.freeWords ..
  · exact h.freeWords ..
  · exact h.freeBlocks ..

theorem Inv.cardPut {s : State} (h : Inv s) (s0 : State) (c : Card) (key va : Nat) (bs : List Byte) :
    Inv (cardPut s0 c key va bs s).1 := h.spanPut ..

theorem Inv.encode215 {s : State} (h : Inv s) (s0 : State) (c : Card) (n i : Nat) (l : CollLevel) (vals : List FV) :
    Inv (encode215 s0 c n i l vals s).2.1 := by
  unfold Machine.encode215
  dsimp only
  split
  · exact h
  · split
    · exact h
    · exact h.cardPut ..

theorem Inv.putWork {s : State} (h : Inv s) (id a : Nat) (vals : List FV) : Inv (putWork id a vals s) :=
  h.modCard ..

theorem Inv.storeOut {s : State} (h : Inv s) (s0 : State) (id : Nat) (r : Nat × Nat) : Inv (storeOut s0 id r s) := by
  unfold Machine.storeOut
  split
  · exact h
  · exact .ite ((h.cardPut ..).endCard ..) (h.cardPut ..)

theorem Inv.collLoad {s : State} (h : Inv s) (s0 : State) (id : Nat) (c : Card) : Inv (collLoad s0 id c s) :=
  .ite (h.endCard ..) (h.modCard ..)

theorem Inv.broadcastStep {s : State} (h : Inv s) (s0 : State) (id : Nat) (c : Card) : Inv (broadcastStep s0 id c s) := by
  unfold Machine.broadcastStep
  extract_lets n b arrives
  split
  rename_i work t e
  have h1 : Inv t := by
    split at e <;> cases e
    · exact h.freeWords ..
    · exact h
  exact .ite (h1.modCard ..) (.ite (((h1.modCard ..).cardPut ..).endCard ..) ((h1.modCard ..).cardPut ..))

theorem Inv.reduceStep {s : State} (h : Inv s) (s0 : State) (id n k : Nat) (c : Card) : Inv (reduceStep s0 id n k c s) := by
  unfold Machine.reduceStep
  extract_lets l p ch x
  split
  rename_i acc t e
  have h1 : Inv t := by
    split at e <;> cases e
    · exact h
    · exact h.freeWire ..
  extract_lets s1
  have h2 : Inv s1 := .ite h1 (h1.modCard ..)
  exact .ite (h2.putWork ..) (.ite ((h2.encode215 ..).endCard ..) (h2.encode215 ..))

theorem Inv.gatherStep {s : State} (h : Inv s) (s0 : State) (id n k : Nat) (c : Card) : Inv (gatherStep s0 id n k c s) := by
  unfold Machine.gatherStep
  extract_lets l ch
  split
  rename_i v t e
  have h1 : Inv t := by
    split at e
    · cases e
      exact h
    · exact (h.freeWire ..).snd e
  exact .ite ((h1.putWork ..).storeOut ..) (h1.putWork ..)

theorem Inv.ringGo {s : State} (h : Inv s) (s0 : State) (id : Nat) (c : Card) (g : Bool) (n k : Nat) :
    Inv (ringGo s0 id c g n k s) := by
  unfold Machine.ringGo
  extract_lets s1 s2 s3 s4
  have h1 : Inv s1 := by
    unfold s1
    split
    · exact Inv.each (fun _ _ h => h.crossLink ..) _ h
    · exact h
  have h2 : Inv s2 := .ite (h1.broadcastStep ..) (.ite (h1.gatherStep ..) (h1.reduceStep ..))
  have h3 : Inv s3 := h2.modCard ..
  have h4 : Inv s4 := .ite (h3.storeOut ..) h3
  exact .ite h3 (h4.modCard ..)

theorem Inv.stepTouch {s : State} (h : Inv s) (id : Nat) (c : Card) : Inv (stepTouch id c s) :=
  Inv.each (fun _ _ h => (h.spanGo ..).modCard ..) _ h

theorem Inv.ringStep {s : State} (h : Inv s) (id : Nat) : Inv (ringStep id s) := by
  unfold Machine.ringStep
  split
  · exact h
  · split
    · exact h
    · split
      · exact h
      · exact (h.stepTouch ..).ringGo ..
      · exact .ite ((h.stepTouch ..).collLoad ..) (h.endCard ..)
      · split
        · exact h.parkCard ..
        · exact h
      · exact h.endCard ..

theorem Inv.checkpoint {s : State} (h : Inv s) (id : Nat) : Inv (checkpoint id s) := by
  unfold Machine.checkpoint
  split
  · exact h
  · exact .ite (h.modCard ..) h

/-! ### Launches and groups (Machine/Launch.lean) -/

theorem Inv.modLaunch {s : State} (h : Inv s) (id : Nat) (g : Launch → Launch) : Inv (modLaunch id g s) :=
  h.frame

theorem Inv.enterLaunch {s : State} (h : Inv s) (l : Launch) : Inv (enterLaunch l s) :=
  h.frame

theorem Inv.settleCtx {s : State} (h : Inv s) (c : Nat) : Inv (settleCtx c s) := by
  unfold Machine.settleCtx
  split
  · exact h
  · split
    · exact h.modCtx ..
    · exact h.report ..
    · exact h.report ..
    · exact h

theorem Inv.launchRetire {s : State} (h : Inv s) (id : Nat) : Inv (launchRetire id s) := by
  unfold Machine.launchRetire
  dsimp only
  split
  · exact h
  · split
    · exact h
    · split
      · exact h.settleCtx ..
      · exact (h.settleCtx ..).frame.sendReq ..
      · exact .ite (((h.settleCtx ..).frame.modCtx ..).postRec ..) ((h.settleCtx ..).frame.modCtx ..)

theorem Inv.deviceLaunch {s : State} (h : Inv s) (fe k : Nat) (va : W64) (tag : BitVec 16) :
    Inv (deviceLaunch fe k va tag s) :=
  .ite (h.postRec ..) h.frame

theorem Inv.readLaunch {s : State} (h : Inv s) (id : Nat) : Inv (readLaunch id s) := by
  unfold Machine.readLaunch
  dsimp only
  split
  · exact h
  · split
    · exact h
    · exact .ite h ((h.readsGo ..).frame.launchRetire ..)

theorem Inv.clearPad {s : State} (h : Inv s) (fe : Nat) : Inv (clearPad fe s) :=
  ⟨KV.wf_filter _ _ _ h.1, KV.wf_filter _ _ _ h.2.1, h.2.2⟩

theorem Inv.giveFe {s : State} (h : Inv s) (c fe : Nat) : Inv (giveFe c fe s) :=
  .ite (h.modFe ..) ((h.clearPad ..).modFe ..)

theorem Inv.placeGroup {s : State} (h : Inv s) (l : Launch) (g fe : Nat) (hand : Nat → Option W64) :
    Inv (placeGroup l g fe hand s) := by
  unfold Machine.placeGroup
  extract_lets n en s1 s2 s3 job
  have h2 : Inv s2 := Inv.each (fun _ _ h => h.modSeat ..) _ (h.giveFe ..)
  have h3 : Inv s3 := h2.modLaunch ..
  exact .ite (h3.frame.modCtx ..) h3

theorem Inv.loadPlane {s : State} (h : Inv s) (l : Launch) (c : Cascade) (fe p : Nat) (va : W64) :
    Inv (loadPlane l c fe p va s) := by
  unfold Machine.loadPlane
  dsimp only
  split
  · exact h.readsGo ..
  · split
    · exact (h.readsGo ..).applyWrites ..
    · exact h.readsGo ..

theorem Inv.placeCasc {s : State} (h : Inv s) (l : Launch) (die bx y : Nat) (c : Cascade) :
    Inv (placeCasc l die bx y c s) := by
  unfold Machine.placeCasc
  dsimp only
  split
  · refine Inv.frame ?_
    refine Inv.each (fun _ _ h => ?_) _ h.frame
    refine Inv.each (fun _ _ h => ?_) _ h
    split
    · refine Inv.xlateTouch ?_ ..
      split
      · refine Inv.xlateTouch ?_ ..
        refine Inv.modFe ?_ ..
        refine Inv.each (fun _ _ h => ?_) _ h
        split
        · split
          · exact h.loadPlane ..
          · exact h
        · exact h
      · refine Inv.modFe ?_ ..
        refine Inv.each (fun _ _ h => ?_) _ h
        split
        · split
          · exact h.loadPlane ..
          · exact h
        · exact h
    · split
      · refine Inv.xlateTouch ?_ ..
        refine Inv.modFe ?_ ..
        refine Inv.each (fun _ _ h => ?_) _ h
        split
        · split
          · exact h.loadPlane ..
          · exact h
        · exact h
      · refine Inv.modFe ?_ ..
        refine Inv.each (fun _ _ h => ?_) _ h
        split
        · split
          · exact h.loadPlane ..
          · exact h
        · exact h
  · refine Inv.each (fun _ _ h => ?_) _ h.frame
    refine Inv.each (fun _ _ h => ?_) _ h
    split
    · refine Inv.xlateTouch ?_ ..
      split
      · refine Inv.xlateTouch ?_ ..
        refine Inv.modFe ?_ ..
        refine Inv.each (fun _ _ h => ?_) _ h
        split
        · split
          · exact h.loadPlane ..
          · exact h
        · exact h
      · refine Inv.modFe ?_ ..
        refine Inv.each (fun _ _ h => ?_) _ h
        split
        · split
          · exact h.loadPlane ..
          · exact h
        · exact h
    · split
      · refine Inv.xlateTouch ?_ ..
        refine Inv.modFe ?_ ..
        refine Inv.each (fun _ _ h => ?_) _ h
        split
        · split
          · exact h.loadPlane ..
          · exact h
        · exact h
      · refine Inv.modFe ?_ ..
        refine Inv.each (fun _ _ h => ?_) _ h
        split
        · split
          · exact h.loadPlane ..
          · exact h
        · exact h

theorem Inv.placeRegion {s t : State} (h : Inv s) (id u : Nat) (e : placeRegion id u s = some t) : Inv t := by
  unfold Machine.placeRegion at e
  split at e
  · cases e
  · split at e
    · cases e
    · cases e
      exact Inv.each (fun _ _ h => h.placeCasc ..) _ (Inv.each (fun _ _ h => h.placeGroup ..) _
        ((Inv.each (fun _ _ h => h.modFe ..) _ h).modLaunch ..))

theorem Inv.placeAll {f : Nat → State → Option State} (hf : ∀ {s t} u, Inv s → f u s = some t → Inv t) (l : List Nat)
    {s t : State} (h : Inv s) (e : placeAll f l s = some t) : Inv t := by
  induction l generalizing s with
  | nil =>
    cases e
    exact h
  | cons u l ih =>
    obtain ⟨r, hr, e⟩ := Option.bind_eq_some_iff.1 e
    exact ih (hf u h hr) e

theorem Inv.unwait {s : State} (h : Inv s) (id : Nat) (us : List Nat) : Inv (unwait id us s) :=
  h.modLaunch ..

theorem Inv.regionPlace {s : State} (h : Inv s) (id : Nat) : Inv (regionPlace id s) := by
  unfold Machine.regionPlace
  split
  · exact h
  · split
    · exact h.readLaunch ..
    · split
      · exact h
      · split
        · exact h
        · rename_i e
          exact (Inv.placeAll (fun u h => h.placeRegion _ u) _ h e).unwait ..

theorem Inv.dealOne {s : State} (h : Inv s) {id u : Nat} {cur : Option (Nat × Nat)} {x : State × Option (Nat × Nat)}
    (e : dealOne id u cur s = some x) : Inv x.1 := by
  unfold Machine.dealOne at e
  split at e
  · cases e
  · split at e
    · cases e
    · cases e
      exact (h.placeGroup ..).modLaunch ..

theorem Inv.dealSet {s : State} (h : Inv s) {id : Nat} {l : List Nat} {cur : Option (Nat × Nat)} {x : State × Option
    (Nat × Nat)}
    (e : dealSet id l cur s = some x) : Inv x.1 := by
  induction l generalizing s cur with
  | nil =>
    cases e
    exact h
  | cons u l ih =>
    unfold Machine.dealSet at e
    split at e
    · cases e
    · rename_i hd
      exact ih (h.dealOne hd) e

theorem Inv.dealGo {s : State} (h : Inv s) (id n : Nat) (cur : Option (Nat × Nat)) : Inv (dealGo id n cur s) := by
  induction n generalizing s cur with
  | zero => exact h
  | succ n ih =>
    unfold Machine.dealGo
    split
    · exact h
    · split
      · exact h
      · split
        · exact h
        · rename_i e
          exact .ite (ih ((h.dealSet e).unwait ..) _) h

theorem Inv.deal {s : State} (h : Inv s) (id : Nat) : Inv (deal id s) := by
  unfold Machine.deal
  split
  · exact h
  · exact .ite h (h.dealGo ..)

theorem Inv.remoteRetired {s : State} (h : Inv s) (id m : Nat) : Inv (remoteRetired id m s) := by
  unfold Machine.remoteRetired
  split
  · exact h
  · exact .ite h ((h.modLaunch ..).launchRetire ..)

theorem Inv.setIdle {s : State} (h : Inv s) (idle : Bool) (fes : List Nat) : Inv (setIdle idle fes s) :=
  Inv.each (fun _ _ h => h.modFe ..) _ h

theorem Inv.endRegions {s : State} (h : Inv s) (id : Nat) : Inv (endRegions id s) := by
  unfold Machine.endRegions
  dsimp only
  split
  · exact h
  · exact (h.setIdle ..).modLaunch ..

theorem Inv.groupRetire {s : State} (h : Inv s) (fe : Nat) : Inv (groupRetire fe s) := by
  unfold Machine.groupRetire
  dsimp only
  split
  · exact h
  · refine .ite h (Inv.launchRetire (Inv.endRegions (Inv.modLaunch (Inv.frame (Inv.freeBars ?_ fe)) ..) ..) ..)
    exact Inv.each (fun _ _ h => .ite ((h.portsReset ..).planeOff ..) h) _ h

/-! ### Cascades (Machine/Bight.lean) -/

theorem Inv.modBight {s : State} (h : Inv s) (fe : Nat) (g : Bight → Bight) : Inv (modBight fe g s) :=
  h.modFe ..

theorem Inv.modCasc {s : State} (h : Inv s) (id : Nat) (g : Cascade → Cascade) : Inv (modCasc id g s) :=
  h.frame

theorem Inv.cellWrite {s : State} (h : Inv s) (fe : Nat) (c : Cascade) (p : Nat) (col : Int) (v : W32) :
    Inv (cellWrite fe c p col v s) :=
  h.wrPa ..

theorem Inv.cellsWrite {s : State} (h : Inv s) (fe : Nat) (c : Cascade) (p : Nat) (col : Int) (l : List W32) :
    Inv (cellsWrite fe c p col l s) :=
  Inv.each (fun _ _ h => h.cellWrite ..) _ h

theorem Inv.freeTaps {s : State} (h : Inv s) (fe : Nat) : Inv (freeTaps fe s) := by
  unfold Machine.freeTaps
  split
  · exact h
  · exact Inv.each (fun _ _ h => h.modPort ..) _ h

theorem Inv.flushPlanes {s : State} (h : Inv s) (fe : Nat) (planes : BitVec 4) : Inv (flushPlanes fe planes s) :=
  Inv.each (fun _ _ h => .ite (h.modPlane ..) h) _ h

theorem Inv.cascDone {s : State} (h : Inv s) (id : Nat) (aborted : Bool) : Inv (cascDone id aborted s) := by
  unfold Machine.cascDone
  dsimp only
  split
  · exact h
  · refine Inv.each (fun _ _ h => ?_) _ (h.modCasc ..)
    split
    · exact h
    · exact .ite (((h.freeTaps ..).flushPlanes ..).modBight ..) (h.freeTaps ..)

theorem Inv.cascAbort {s : State} (h : Inv s) (id : Nat) : Inv (cascAbort id s) := by
  unfold Machine.cascAbort
  split
  · exact h
  · exact .ite h (h.cascDone ..)

theorem Inv.doneCheck {s : State} (h : Inv s) (id : Nat) : Inv (doneCheck id s) := by
  unfold Machine.doneCheck
  split
  · exact h
  · exact .ite (h.cascDone ..) h

theorem Inv.withdrawEmis {s : State} (h : Inv s) (fe : Nat) : Inv (withdrawEmis fe s) := by
  unfold Machine.withdrawEmis
  dsimp only
  split
  · exact h
  · split
    · exact h
    · exact .ite h (((Inv.ite (h.modBight ..) h).flushPlanes ..).modBight ..)

theorem Inv.recordFault {s : State} (h : Inv s) (fe : Nat) (code : BitVec 8) (kind row col : Nat) (addr : W64) (dst : Bool) :
    Inv (recordFault fe code kind row col addr dst s) := by
  unfold Machine.recordFault
  dsimp only
  split
  · exact h
  · split
    · exact h
    · exact ((Inv.ite (h.withdrawEmis ..) h).modBight ..).modCasc ..

theorem Inv.stageFaultEvent {s : State} (h : Inv s) (fe : Nat) (code : BitVec 8) (kind row col : Nat) (addr : W64) :
    Inv (stageFaultEvent fe code kind row col addr s) := by
  unfold Machine.stageFaultEvent
  split
  · exact .ite (h.recordFault ..) h
  · exact h

theorem Inv.resumeStage {s : State} (h : Inv s) (fe k : Nat) : Inv (resumeStage fe k s) := by
  unfold Machine.resumeStage
  dsimp only
  split
  · exact h
  · split
    · exact h
    · split
      · exact h.modBight ..
      · exact .ite (h.modBight ..) (((h.modBight ..).modCasc ..).doneCheck ..)

theorem Inv.learnN {s : State} (h : Inv s) (fe n : Nat) : Inv (learnN fe n s) := by
  unfold Machine.learnN
  split
  · exact h
  · split
    · exact h
    · extract_lets s1 s2 last s3 s4
      have h1 : Inv s1 := h.modBight ..
      have h2 : Inv s2 := .ite (h1.modCasc ..) h1
      have h3 : Inv s3 := .ite (h2.modBight ..) h2
      have h4 : Inv s4 := .ite (h3.recordFault ..) h3
      exact .ite (h4.doneCheck ..) h4

theorem Inv.rowDone {s : State} (h : Inv s) (fe : Nat) : Inv (rowDone fe s) := by
  unfold Machine.rowDone
  split
  · exact h
  · split
    · exact h
    · extract_lets pro s1 s2 s3
      have h2 : Inv s2 := (h.cellsWrite ..).modBight ..
      have h3 : Inv s3 := .ite (h2.modCasc ..) h2
      exact .ite h (.ite h2 (.ite (h3.learnN ..) h3))

theorem Inv.sliceDone {s : State} (h : Inv s) (fe : Nat) : Inv (sliceDone fe s) := by
  unfold Machine.sliceDone
  split
  · exact h
  · split
    · exact h
    · extract_lets toks s1 s2 s3
      have h1 : Inv s1 := h.modBight ..
      have h2 : Inv s2 := .ite (h1.modBight ..) h1
      have h3 : Inv s3 := .ite (h2.modBight ..) h2
      exact h3.rowDone ..

theorem Inv.stage0Read {s : State} (h : Inv s) (fe : Nat) : Inv (stage0Read fe s) := by
  unfold Machine.stage0Read
  dsimp only
  split
  · exact h
  · split
    · exact h
    · split
      · exact h
      · exact ((h.spanGo ..).modBight ..).sliceDone ..
      · exact .ite ((h.modBight ..).report ..) (((h.spanGo ..).modBight ..).recordFault ..)

theorem Inv.sliceArrive {s : State} (h : Inv s) (fe chan : Nat) : Inv (sliceArrive fe chan s) := by
  unfold Machine.sliceArrive
  split
  · exact h
  · split
    · exact h
    · split
      · split
        · exact h
        · extract_lets s1 s2 s3
          have h1 : Inv s1 := h.modBight ..
          have h2 : Inv s2 := .ite h1 (h1.modBight ..)
          have h3 : Inv s3 := h1.modBight ..
          exact .ite (.ite (h2.learnN ..) h2) (.ite h1 (.ite (h3.sliceDone ..) h3))
      · split
        · exact h
        · exact (h.modBight ..).rowDone ..
      · split
        · exact h
        · exact (h.modBight ..).rowDone ..

theorem Inv.rowOp {s : State} (h : Inv s) (brow : Bool) (f : Bight → Cascade → Hand → State → State × Ans)
    (hf : ∀ b c hd s, Inv s → Inv (f b c hd s).1) : Inv (rowOp brow f s).1 := by
  have go : ∀ b c hd, Inv (rowOp.go brow f s b c hd).1 := fun b c hd => by
    unfold Machine.rowOp.go
    split
    · exact h.modHand ..
    · exact hf b c hd s h
  unfold Machine.rowOp
  dsimp only
  split
  · exact h
  · exact h.modHand ..
  · split
    · exact h.modHand ..
    · split
      · exact h.modHand ..
      · split
        · split
          · exact (h.modFe ..).faultHere ..
          · exact go ..
        · exact go ..

theorem Inv.onHand {s : State} (h : Inv s) (g : Hand → Hand) : Inv (onHand g s).1 :=
  h.modHand ..

theorem Inv.rowFault {s : State} (h : Inv s) : Inv (rowFault s).1 :=
  h.onHand ..

theorem Inv.browGo {s : State} (hi : Inv s) (d : Reg) (b : Bight) (c : Cascade) (h : Hand) : Inv (browGo d b c h s).1 :=
  .iteFst hi.rowFault (.iteFst (hi.onHand ..) (.iteFst hi (.iteFst (hi.onHand ..)
    (.iteFst (hi.onHand ..) (.iteFst (hi.onHand ..) (.iteFst hi.rowFault hi))))))

theorem Inv.onBight {s : State} (h : Inv s) (fe : Nat) (g : Bight → Cascade → State → State)
    (hg : ∀ b c s, Inv s → Inv (g b c s)) : Inv (onBight fe g s) := by
  unfold Machine.onBight
  split
  · exact h
  · split
    · exact h
    · exact hg _ _ s h

theorem Inv.drainCheck {s : State} (h : Inv s) (fe : Nat) : Inv (drainCheck fe s) :=
  h.onBight _ _ (fun _ _ _ h => .ite ((h.modCasc ..).doneCheck ..) h)

theorem Inv.browCommit {s : State} (h : Inv s) (fe k kind : Nat) : Inv (browCommit fe k kind s) := by
  unfold Machine.browCommit
  refine Inv.drainCheck ?_ ..
  split
  · exact h.modBight ..
  · exact h.modBight ..
  · exact h.modSeat ..

theorem Inv.bemitCommit {s : State} (h : Inv s) (fe : Nat) (pl : Plane) (port : Port) : Inv (bemitCommit fe pl port s) :=
  h.modBight ..

theorem Inv.btapCommit {s : State} (h : Inv s) (fe : Nat) (pl : Plane) (port : Port) (dr dc : Int) :
    Inv (btapCommit fe pl port dr dc s) :=
  (h.modBight ..).modPort ..

theorem Inv.bendCommit {s : State} (h : Inv s) (fe : Nat) : Inv (bendCommit fe s) :=
  h.onBight _ _ (fun _ _ _ h => (h.modBight ..).learnN ..)

theorem Inv.bendAbortCommit {s : State} (h : Inv s) (fe : Nat) : Inv (bendAbortCommit fe s) :=
  h.onBight _ _ (fun _ _ _ h => h.cascAbort ..)

theorem Inv.haltStage {s : State} (h : Inv s) (fe k : Nat) : Inv (haltStage fe k s) :=
  h.onBight _ _ (fun _ _ _ h => .ite (h.cascAbort ..) h)

theorem Inv.fillEnds {s : State} (h : Inv s) (c : Cascade) (fe rank p : Nat) (const : W32) :
    Inv (fillEnds c fe rank p const s) :=
  .ite (.ite h (h.cellsWrite ..)) ((Inv.ite h (h.cellsWrite ..)).cellsWrite ..)

theorem Inv.bseedRCommit {s : State} (h : Inv s) (fe off : Nat) : Inv (bseedRCommit fe off s) := by
  refine h.onBight _ _ fun b c s h => ?_
  extract_lets p row s1 lo hi s2 s3
  have h1 : Inv s1 := h.cellsWrite ..
  have h2 : Inv s2 := .ite ((h1.cellsWrite ..).fillEnds ..) h1
  have h3 : Inv s3 := .ite ((h2.cellsWrite ..).fillEnds ..) h2
  exact (h3.fillEnds ..).modBight ..

theorem Inv.emitDone {s : State} (h : Inv s) (fe : Nat) : Inv (emitDone fe s) :=
  h.onBight _ _ (fun _ _ _ h => .ite ((Inv.ite ((h.modBight ..).modCasc ..) (h.modBight ..)).doneCheck ..) (h.modBight ..))

theorem Inv.egress {s : State} (h : Inv s) (fe : Nat) (b : Bight) (c : Cascade) (e : Emission) : Inv (egress fe b c e s) := by
  unfold Machine.egress
  dsimp only
  split
  · exact h.cellsWrite ..
  · exact ((((h.cellsWrite ..).spanGo ..).spanPut ..).modBight ..).emitDone ..
  · exact .ite (((h.cellsWrite ..).modBight ..).report ..)
      (((((h.cellsWrite ..).spanGo ..).spanPut ..).modBight ..).recordFault ..)

theorem Inv.setEmis {s : State} (h : Inv s) (fe : Nat) (e : Emission) : Inv (setEmis fe e s) :=
  h.modBight ..

theorem Inv.emission {s : State} (h : Inv s) (fe : Nat) : Inv (emission fe s) := by
  unfold Machine.emission
  split
  · exact h
  · split
    · exact h
    · refine .ite (.ite h (h.egress ..)) ?_
      split
      · exact h
      · exact (h.setEmis ..).feedPort ..
      · split
        · exact h
        · extract_lets s1 n e s2 s3 s4
          have h1 : Inv s1 := h.modFe ..
          have h2 : Inv s2 := h1.setEmis ..
          have h4 : Inv s4 := (h1.setEmis ..).modBight ..
          exact .ite h1 (.ite (h1.recordFault ..) (.ite (h1.recordFault ..)
            (.ite (.ite (h2.egress ..) h2) (.ite (h4.emitDone ..) h4))))

theorem Inv.rowRetire {s : State} (h : Inv s) (fe : Nat) : Inv (rowRetire fe s) := by
  unfold Machine.rowRetire
  dsimp only
  split
  · exact h
  · exact .ite h (.ite (h.modBight ..) (((Inv.ite (h.cellsWrite ..) h).modBight ..).doneCheck ..))

theorem Inv.cascRelease {s : State} (h : Inv s) (id : Nat) : Inv (cascRelease id s) := by
  unfold Machine.cascRelease
  split
  · exact h
  · exact .ite (h.modCasc ..) h

theorem Inv.waiterLost {s : State} (h : Inv s) (w : Awaiting) : Inv (waiterLost w s) := by
  unfold Machine.waiterLost
  dsimp only
  split
  · split
    · exact .ite h (h.cardLost ..)
    · exact h
  · exact .ite h (h.latchFail ..)
  · split
    · exact h
    · exact .ite h (h.recordFault ..)

theorem Inv.linkTimeout {s : State} (h : Inv s) (n : Nat) : Inv (linkTimeout n s) := by
  unfold Machine.linkTimeout
  split
  · exact .ite h ((h.frame.takeBack ..).failReq ..)
  · split
    · exact h.waiterLost ..
    · exact h

/-! ### Queues and nodes (Machine/Queue.lean) -/

theorem Inv.mapperBind {s : State} (h : Inv s) : Inv (mapperBind s) := by
  unfold Machine.mapperBind
  split
  · exact h
  · split
    · exact h
    · exact h.frame.modQueue ..

theorem Inv.quantumEnd {s : State} (h : Inv s) (q : Nat) : Inv (quantumEnd q s) :=
  .ite ((h.toPending ..).freeSlot ..) h

theorem Inv.advance {s : State} (h : Inv s) (q n : Nat) : Inv (Machine.advance q n s) := by
  have h1 := (h.modQueue q fun x => { x with rptr := x.rptr + w32 n, quantum := x.quantum + 1, stalled := false }).cpWrite q
  exact .ite (h1 ..) (.ite (((h1 ..).modQueue ..).freeSlot ..) (h1 ..).frame)

theorem Inv.enterNode {s : State} (h : Inv s) (q : Nat) (p : Packet) (kind : NodeKind) : Inv (enterNode q p kind s) :=
  h.frame

theorem Inv.cpLoad {s : State} (h : Inv s) (p : Span) : Inv (cpLoad p s).2 := by
  unfold Machine.cpLoad
  dsimp only
  split
  · exact .iteSnd h h.freeWord
  · exact h

theorem Inv.cpStore {s : State} (h : Inv s) (p : Span) (v : Nat) : Inv (cpStore p v s) := by
  unfold Machine.cpStore
  split
  · exact .ite (h.wrPa ..) h
  · exact h

theorem Inv.waitGo {s : State} (h : Inv s) (q : Nat) (p : Packet) : Inv (waitGo q p s) :=
  .ite ((h.spanGo ..).modQueue ..) (.ite (((h.spanGo ..).cpLoad ..).advance ..) (((h.spanGo ..).cpLoad ..).modQueue ..))

theorem Inv.packetGo {s : State} (h : Inv s) (q : Nat) (ops : Nat → Bool) : Inv (packetGo q ops s) := by
  unfold Machine.packetGo
  dsimp only
  split
  · exact h
  · split
    · exact h.readsGo ..
    · exact h
    · split
      · exact h
      · split
        · exact (h.readsGo ..).queueError ..
        · split
          · exact (h.readsGo ..).advance ..
          · exact ((h.readsGo ..).enterNode ..).advance ..
          · exact ((h.readsGo ..).enterNode ..).advance ..
          · exact ((h.readsGo ..).enterNode ..).advance ..
          · exact (h.readsGo ..).waitGo ..
          · exact ((h.readsGo ..).enterNode ..).advance ..

theorem Inv.waitReread {s : State} (h : Inv s) (q : Nat) : Inv (waitReread q s) := by
  unfold Machine.waitReread
  extract_lets s1
  have h1 : Inv s1 := .ite (h.writeOwed ..) h
  refine .ite h1 ?_
  split
  · exact .ite (h1.waitGo ..) h1
  · exact h1

theorem Inv.modNode {s : State} (h : Inv s) (id : Nat) (g : Node → Node) : Inv (modNode id g s) :=
  h.frame

theorem Inv.nodeLeave {s : State} (h : Inv s) (id : Nat) (ok : Bool) : Inv (nodeLeave id ok s) := by
  unfold Machine.nodeLeave
  dsimp only
  split
  · exact h
  · exact .ite h.frame (.ite h.frame (h.frame.queueError ..))

theorem Inv.nodeCard {s : State} (h : Inv s) (n : Node) (source : Nat) (w : List W64) : Inv (nodeCard n source w s) :=
  h.frame

theorem Inv.signalGo {s : State} (h : Inv s) (ctx : Nat) (va v : W64) (add : Bool) : Inv (signalGo ctx va v add s).1 :=
  .iteFst (h.spanGo ..) ((Inv.iteSnd ((h.spanGo ..).cpLoad ..) (h.spanGo ..)).cpStore ..)

theorem Inv.nodeDispatch {s : State} (h : Inv s) (id : Nat) : Inv (nodeDispatch id s) := by
  unfold Machine.nodeDispatch
  dsimp only
  split
  · exact h
  · split
    · exact h
    · split
      · split
        · exact ((h.modNode ..).readsGo ..).enterLaunch ..
        · exact ((h.modNode ..).readsGo ..).nodeLeave ..
      · exact (h.modNode ..).nodeCard ..
      · exact (h.modNode ..).nodeCard ..
      · exact ((h.modNode ..).signalGo ..).nodeLeave ..

theorem Inv.nodeComplete {s : State} (h : Inv s) (id : Nat) (ok : Bool) : Inv (nodeComplete id ok s) := by
  unfold Machine.nodeComplete
  dsimp only
  split
  · exact h
  · split
    · exact h.frame.nodeLeave ..
    · exact h

/-! ### Contexts: pre-emption, save, bind, resume and kill (Machine/Context.lean) -/

theorem Inv.mapReqs {s : State} (h : Inv s) (c : Nat) (g : Req → Req) : Inv (mapReqs c g s) :=
  h.frame

theorem Inv.renameFe {s : State} (h : Inv s) (c old new : Nat) : Inv (renameFe c old new s) :=
  h.frame

theorem Inv.preemptSeat {s : State} (h : Inv s) (fe k : Nat) : Inv (preemptSeat fe k s) := by
  unfold Machine.preemptSeat
  dsimp only
  split
  · exact .ite ((h.abandon ..).haltAt ..) (h.modSeat ..)
  · exact (h.abandon ..).haltAt ..
  · split
    · exact .ite ((h.abandon ..).haltAt ..) h
    · exact h
  · exact h

theorem Inv.preemptNow {s : State} (h : Inv s) (c : Nat) : Inv (preemptNow c s) :=
  Inv.each (fun _ _ h => h.preemptSeat ..) _ (h.modCtx ..)

theorem Inv.preemptRequest {s : State} (h : Inv s) (c : Nat) (cause : BitVec 2) : Inv (preemptRequest c cause s) := by
  unfold Machine.preemptRequest
  dsimp only
  split
  · exact .ite h (.ite ((h.modCtx ..).modCtx ..) ((h.modCtx ..).preemptNow ..))
  · exact h
  · exact h.report ..

theorem Inv.haltStub {s : State} (h : Inv s) (fe k : Nat) : Inv (haltStub fe k s) :=
  .ite ((h.abandon ..).haltAt ..) h

theorem Inv.saveFe {s : State} (h : Inv s) (c fe : Nat) : Inv (saveFe c fe s) :=
  (h.frame.renameFe ..).modCtx ..

theorem Inv.landSys {s : State} (h : Inv s) (fe off : Nat) (ws : List W32) : Inv (landSys fe off ws s) :=
  h.landWords ..

theorem Inv.settleOwed {s : State} (h : Inv s) (c : Nat) (v : W32) : Inv (settleOwed c v s) :=
  Inv.each (fun _ _ h => h.landSys ..) _ (h.modCtx ..)

theorem Inv.saveCtx {s : State} (h : Inv s) (c : Nat) : Inv (saveCtx c s) := by
  unfold Machine.saveCtx
  extract_lets fes s1 rects s2 s3 s4
  have h1 : Inv s1 := Inv.each (fun _ _ h => h.withdrawEmis ..) _ (Inv.each (fun _ _ h => h.haltStub ..) _ h)
  have h2 : Inv s2 := Inv.each (fun _ _ h => h.saveFe ..) _ h1
  have h4 : Inv s4 := h2.frame.setIdle ..
  exact .ite (((h4.modCtx ..).report ..).settleOwed ..) ((h4.modCtx ..).settleOwed ..)

theorem Inv.seatSave {s : State} (h : Inv s) (fe k : Nat) : Inv (seatSave fe k s) := by
  unfold Machine.seatSave
  dsimp only
  split
  · split
    · exact h.saveCtx ..
    · exact h
  · exact .ite (h.saveCtx ..) h

theorem Inv.bindCtx {s : State} (h : Inv s) (c : Nat) (img : BindImage) : Inv (bindCtx c img s) :=
  .ite (h.report ..)
    (Inv.each (fun _ _ h => .ite ((h.modQueue ..).queueEnable ..) ((h.modQueue ..).queueDisable ..)) _ (h.modCtx ..))

theorem Inv.bindHorlyn {s : State} (h : Inv s) (img : BindImage) : Inv (bindHorlyn img s) :=
  h.modCtx ..

theorem Inv.discardWork {s : State} (h : Inv s) (c : Nat) : Inv (discardWork c s) :=
  h.frame

theorem Inv.dropTlbs {s : State} (h : Inv s) (c : Nat) : Inv (dropTlbs c s) :=
  h.frame

theorem Inv.unbindCtx {s : State} (h : Inv s) (c : Nat) : Inv (unbindCtx c s) :=
  .ite (h.report ..) (Inv.each (fun _ _ h => h.landSys ..) _ (((h.discardWork ..).dropTlbs ..).modCtx ..))

theorem Inv.putRange {s : State} (h : Inv s) (n : Nat) (r : Nat × List Byte × List Bool) : Inv (putRange n r s) :=
  Inv.each (fun _ _ h => h.putTag ..) _ (Inv.each (fun _ _ h => h.wrPa ..) _ h)

theorem Inv.restoreFe {s : State} (h : Inv s) (c : Nat) (x : Ctx) (moves : List (Nat × Nat)) (b : SaveBlock) :
    Inv (restoreFe c x moves b s) :=
  ((Inv.each (fun _ _ h => h.putRange ..) _ (h.clearPad ..)).frame).renameFe ..

theorem Inv.performHeld {s : State} (h : Inv s) (n : Nat) (b : SaveBlock) : Inv (performHeld n b s) :=
  Inv.each (fun _ _ h => h.landWords ..) _
    (Inv.each (fun _ _ h => (Inv.each (fun _ _ h => h.landWords ..) _ h).bankPerform ..) _ h)

theorem Inv.resumeCtx {s : State} (h : Inv s) (c : Nat) (moves : List (Nat × Nat)) : Inv (resumeCtx c moves s) := by
  unfold Machine.resumeCtx
  extract_lets x s1 s2 s3 held s4 s5 s6 s7
  have h1 : Inv s1 := h.frame
  have h2 : Inv s2 := h1.setIdle ..
  have h5 : Inv s5 := ((Inv.each (fun _ _ h => h.restoreFe ..) _ h2).mapReqs ..).modCtx ..
  have h6 : Inv s6 := Inv.each (fun _ _ h => h.performHeld ..) _ h5
  have h7 : Inv s7 := h6.frame
  exact .ite (h.report ..) (Inv.each (fun _ _ h => h.proceedFaulted ..) _ h7)

theorem Inv.vacate {s : State} (h : Inv s) (fe : Nat) : Inv (vacate fe s) :=
  ((Inv.each (fun _ _ h => .ite ((h.portsReset ..).planeOff ..) h) _
    (Inv.each (fun _ _ h => h.abandon ..) _ h)).freeBars ..).frame

theorem Inv.killCtx {s : State} (h : Inv s) (c : Nat) : Inv (killCtx c s) := by
  unfold Machine.killCtx
  extract_lets x rects busy s1 keys s2 s3 s4 s5 s6
  have h1 : Inv s1 := Inv.each (fun _ _ h => h.vacate ..) _ h
  have h6 : Inv s6 := (((h1.frame.setIdle ..).discardWork ..).modCtx ..).settleOwed ..
  refine .ite (h.report ..) (Inv.each (fun _ _ h => .ite h ?_) _ h6)
  split
  · exact h.queueError ..
  · exact h

/-! ### Hitches and releases (Machine/Hitch.lean) -/

theorem Inv.hitchSeat {s : State} (h : Inv s) (fe k : Nat) : Inv (hitchSeat fe k s) := by
  unfold Machine.hitchSeat
  dsimp only
  split
  · exact h.freezeSeat ..
  · exact h.freezeSeat ..
  · exact h.freezeSeat ..
  · exact .ite (h.freezeSeat ..) h
  · exact h

theorem Inv.hitchLinks {s : State} (h : Inv s) (job : BitVec 16) : Inv (hitchLinks job s) :=
  Inv.each (fun _ _ h => h.sendMarker ..) _ (h.crossJob ..)

theorem Inv.stopWindows {s : State} (h : Inv s) (cs : List Nat) : Inv (stopWindows cs s) :=
  h.frame

theorem Inv.startWindows {s : State} (h : Inv s) (cs : List Nat) : Inv (startWindows cs s) :=
  h.frame

theorem Inv.spreadMarker {s : State} (h : Inv s) (job : BitVec 16) : Inv (spreadMarker job s) :=
  .ite h (h.frame.hitchLinks ..)

theorem Inv.marker {s : State} (h : Inv s) (job : BitVec 16) (epoch : BitVec 8) (c : CauseWords) :
    Inv (marker job epoch c s) := by
  refine .ite h.frame (.ite (h.frame.spreadMarker ..) (Inv.spreadMarker ?_ ..))
  exact Inv.each (fun _ _ h => Inv.each (fun _ _ h => h.hitchSeat ..) _ h) _ (h.frame.stopWindows ..)

theorem Inv.hitchCommit {s : State} (h : Inv s) (fe k : Nat) (hand : W64) : Inv (hitchCommit fe k hand s) :=
  .ite h (.ite ((h.raiseHitch ..).modSeat ..) (h.raiseHitch ..))

theorem Inv.stepCommit {s : State} (h : Inv s) (e : Nat) (n : W64) (off : Nat) : Inv (stepCommit e n off s) := by
  unfold Machine.stepCommit
  dsimp only
  split
  · exact h.freeWord.landSys ..
  · split
    · exact h.landSys ..
    · exact .ite (h.landSys ..)
        (.ite ((((h.modSeat ..).proceedFaulted ..).freezeSeat ..).stepDone ..) ((h.modSeat ..).proceedFaulted ..))

theorem Inv.resumeCommit {s : State} (h : Inv s) (e : Nat) (job : BitVec 16) (t : W64) (off : Nat) :
    Inv (resumeCommit e job t off s) :=
  .ite (h.landSys ..) (h.frame.landSys ..)

theorem Inv.receiverRelease {s : State} (h : Inv s) : Inv (receiverRelease s) := by
  unfold Machine.receiverRelease
  dsimp only
  split
  · exact h
  · exact (Inv.ite (h.startWindows ..) h).frame

theorem Inv.unfreezeSeat {s : State} (h : Inv s) (fe k : Nat) : Inv (unfreezeSeat fe k s) := by
  unfold Machine.unfreezeSeat
  extract_lets s1 t s2
  have h1 : Inv s1 := .ite (h.stepDone ..) h
  have h2 : Inv s2 := h1.modSeat ..
  exact .ite h1 (.ite ((h1.abandon ..).modSeat ..) (.ite (h2.takeDeferred ..) h2))

theorem Inv.thawLinks {s : State} (h : Inv s) (job : BitVec 16) : Inv (thawLinks job s) :=
  h.frame

theorem Inv.senderRelease {s : State} (h : Inv s) : Inv (senderRelease s) := by
  unfold Machine.senderRelease
  split
  · exact h
  · refine Inv.each (fun _ _ h => ?_) _ (h.frame.thawLinks ..)
    extract_lets seats s1 x s2
    have h1 : Inv s1 := Inv.each (fun _ _ h => h.unfreezeSeat ..) _ h
    have h2 : Inv s2 := .ite (h1.preemptNow ..) (.ite ((h1.modCtx ..).settleOwed ..)
      (.ite (Inv.each (fun _ _ h => h.preemptSeat ..) _ h1) h1))
    exact Inv.each (fun _ _ h => h.proceedFaulted ..) _ h2

/-! ### System instructions (Machine/System.lean) -/

theorem Inv.privOp {s : State} (h : Inv s) (w bytes : Nat) (d : Reg) (op : Hand → SysOp) (q : Sel) :
    Inv (privOp w bytes d op q s) :=
  h.issue ..

theorem Inv.imageOp {s : State} (h : Inv s) (d b : Reg) (op : Hand → RangeImage → SysOp) (q : Sel) :
    Inv (imageOp d b op q s) :=
  h.issueRead ..

theorem Inv.lnkctlOp {s : State} (h : Inv s) (op : Nat) (d a : Reg) (b : Option Reg) (q : Sel) :
    Inv (lnkctlOp op d a b q s) :=
  h.privOp ..

theorem Inv.dropMisses {s : State} (h : Inv s) (c base limit : Nat) : Inv (dropMisses c base limit s) :=
  h.frame

theorem Inv.releaseAtomics {s : State} (h : Inv s) (c base limit : Nat) : Inv (releaseAtomics c base limit s) := by
  unfold Machine.releaseAtomics
  dsimp only
  refine Inv.each (fun _ _ h => ?_) _ (h.modCtx ..)
  split
  · exact h.sendReq ..
  · exact h.modCtx ..

theorem Inv.unparkNodes {s : State} (h : Inv s) (c base limit : Nat) : Inv (unparkNodes c base limit s) :=
  h.frame

theorem Inv.maprCommit {s : State} (h : Inv s) (page : Bool) (a : W64) (img : RangeImage) : Inv (maprCommit page a img s).2 :=
  .iteSnd h (.iteSnd (.iteSnd (((h.dropMisses ..).releaseAtomics ..).unparkNodes ..) h)
    (.iteSnd h (.iteSnd h (.iteSnd h ((((h.modCtx ..).dropMisses ..).releaseAtomics ..).unparkNodes ..)))))

theorem Inv.unmapCommit {s : State} (h : Inv s) (fe off : Nat) (a : W64) (img : RangeImage) :
    Inv (unmapCommit fe off a img s).2 :=
  .iteSnd h (h.frame.modCtx ..)

theorem Inv.dropLatch {s : State} (h : Inv s) (n : Nat × Nat × Nat) : Inv (dropLatch n s) := by
  unfold Machine.dropLatch
  split
  · exact h.modFe ..
  · exact h.modCard ..
  · exact h.modPort ..

theorem Inv.relatchToken {s : State} (h : Inv s) (c : Nat) : Inv (relatchToken c s) := by
  unfold Machine.relatchToken
  split
  · exact h
  · exact (h.modCtx ..).dropLatch ..

theorem Inv.unmapComplete {s : State} (h : Inv s) (c : Nat) : Inv (unmapComplete c s) := by
  unfold Machine.unmapComplete
  split
  · exact h
  · exact (h.modCtx ..).landSys ..

theorem Inv.icinvCommit {s : State} (h : Inv s) (fe k : Nat) (base len : W64) (scope : Nat) :
    Inv (icinvCommit fe k base len scope s) :=
  h.frame

theorem Inv.preemptCommit {s : State} (h : Inv s) (fe off : Nat) (a : W64) (dbg : Bool) :
    Inv (preemptCommit fe off a dbg s).2 := by
  unfold Machine.preemptCommit
  dsimp only
  split
  · exact (h.modCtx ..).preemptRequest ..
  · exact (h.modCtx ..).preemptRequest ..
  · exact h

theorem Inv.keyldCommit {s : State} (h : Inv s) (fe : Nat) (link : W64) (off : Nat) : Inv (keyldCommit fe link off s).2 :=
  .iteSnd (h.wrPa ..) (((h.wrPa ..).modLink ..).sendOwed ..)

theorem Inv.lnkctlCommit {s : State} (h : Inv s) (op k : Nat) (v : W64) : Inv (lnkctlCommit op k v s).2 := by
  unfold Machine.lnkctlCommit
  dsimp only
  split
  · exact h
  · exact .iteSnd (h.enableLink ..) h
  · exact h.disableLink ..
  · exact .iteSnd (h.resetLink ..) h
  · exact h.modLink ..
  · exact .iteSnd h (h.modLink ..)
  · exact .iteSnd h (h.modLink ..)
  · exact .iteSnd h (h.modLink ..)

theorem Inv.sysCommit {s : State} (h : Inv s) (fe : Nat) (op : SysOp) (off : Nat) : Inv (sysCommit fe op off s) := by
  unfold Machine.sysCommit
  extract_lets words s1
  have h1 : Inv s1 := h.emptyWords ..
  clear_value s1
  cases op with
  | mapr => exact (h1.maprCommit ..).landSys ..
  | unmap => exact .ite ((h1.unmapCommit ..).landSys ..) (h1.unmapCommit ..)
  | dstep => exact h1.stepCommit ..
  | dresume => exact h1.resumeCommit ..
  | preempt =>
    dsimp only
    split
    · exact (h1.preemptCommit ..).landSys ..
    · exact h1.preemptCommit ..
  | keyld => exact (h1.keyldCommit ..).landSys ..
  | lnkctl => exact (h1.lnkctlCommit ..).landSys ..

theorem Inv.edgeStart {s : State} (h : Inv s) (die : Nat) (hand : W64) : Inv (edgeStart die hand s) := by
  unfold Machine.edgeStart
  dsimp only
  split
  · exact h.modFe ..
  · exact h.modFe ..
  · exact h.modFe ..
  · exact h

/-! ### The commit of a hand (Machine/Commit.lean) -/

theorem Inv.emptyLand {s : State} (h : Inv s) (fe k : Nat) (hand : W64) (off n : Nat) :
    Inv (emptyLand fe k hand off n s) := by
  induction n generalizing s off with
  | zero => exact h
  | succ n ih => exact ih (h.ownOp _ _ _ _ _ (h.setTag ..)) _

theorem Inv.issueReq {s : State} (h : Inv s) (fe k : Nat) (r : Req) : Inv (issueReq fe k r s) := by
  unfold Machine.issueReq
  dsimp only
  split
  · exact ((h.emptyLand ..).modSeat ..).sendNew ..
  · exact h.sendNew ..

theorem Inv.fenceCommit {s : State} (h : Inv s) (fe k : Nat) (hand : W64) (ld st all : Bool) :
    Inv (fenceCommit fe k hand ld st all s) :=
  .ite h.frame (h.modSeat ..)

theorem Inv.commitEff {s : State} (h : Inv s) (fe k : Nat) (hand : W64) (e : Eff) : Inv (commitEff fe k hand e s) := by
  unfold Machine.commitEff
  dsimp only
  split
  · exact h.ownOp _ _ _ _ _ (h.wrPa ..)
  · exact h.sendNew ..
  · exact h.ownOp _ _ _ _ _ ((h.wrPa ..).setTag ..)
  · exact h.ownOp _ _ _ _ _ (h.setTag ..)
  · exact h.issueReq ..
  · exact h.ownOp _ _ _ _ _ (h.initBar ..)
  · exact h.ownOp _ _ _ _ _ (h.arriveBar ..)
  · exact h.ownOp _ _ _ _ _ (h.resetBar ..)
  · exact h.fenceCommit ..
  · exact h.portPut ..
  · exact .ite h (h.spushPut ..)
  · exact h.spullTake ..
  · exact h.portReset ..
  · exact h.cfgSend ..
  · exact h.cfgwSend ..
  · exact h.planeOn ..
  · exact h.planeOff ..
  · exact h.arbPin ..
  · exact h.setClaim ..
  · exact h.setClaim ..
  · exact h.arrEnter ..
  · exact h.postCard ..
  · exact h.evTake ..
  · exact h.deviceLaunch ..
  · exact h.browCommit ..
  · exact h.bemitCommit ..
  · exact h.modBight ..
  · exact h.btapCommit ..
  · exact h.bendCommit ..
  · exact h.bendAbortCommit ..
  · exact h.modBight ..
  · exact h.bseedRCommit ..
  · exact h.icinvCommit ..
  · exact h.hitchCommit ..
  · exact .ite h (h.modSeat ..)
  · exact h.sysCommit ..

theorem Inv.endHolds {s : State} (hi : Inv s) (fe k : Nat) (h : Hand) : Inv (endHolds fe k h s) := by
  unfold Machine.endHolds
  refine Inv.each (fun _ _ h => ?_) _ hi
  split
  · exact .ite (h.sendNew ..) (h.ownOp _ _ _ _ _ (h.dropHold ..))
  · exact h

theorem Inv.afterCommit {s : State} (hi : Inv s) (fe k : Nat) (h : Hand) : Inv (afterCommit fe k h s) := by
  unfold Machine.afterCommit
  rcases h.ctl with _ | c
  · exact hi
  · cases c
    case trap => exact hi.takeFault ..
    case brk =>
      dsimp only
      refine .ite (hi.modSeat ..) ?_
      have h1 := hi.modSeat fe k
      split
      · exact (h1 _).raiseHitch ..
      · exact ((h1 _).raiseHitch ..).freezeSeat ..
    case halt => exact (hi.modSeat ..).haltStage ..
    case eret => exact .ite ((hi.modSeat ..).resumeStage ..) (hi.modSeat ..)
    all_goals exact hi

theorem Inv.endStep {s : State} (h : Inv s) (fe k : Nat) : Inv (endStep fe k s) :=
  .ite ((Inv.ite (h.freezeSeat ..) h).stepDone ..) h

theorem Inv.runEffs {s : State} (h : Inv s) (fe k : Nat) (hand : W64) (l : List Eff) : Inv (runEffs fe k hand l s).2 := by
  induction l generalizing s with
  | nil => exact h
  | cons e l ih =>
    unfold Machine.runEffs
    split
    · exact h
    · exact ih (h.commitEff ..)

theorem Inv.goCommit {s : State} (hi : Inv s) (fe k : Nat) (h : Hand) : Inv (goCommit fe k h s) := by
  unfold Machine.goCommit
  extract_lets s1
  have h1 : Inv s1 := hi.modSeat ..
  split
  · rename_i e
    exact ((((h1.runEffs ..).snd e).endHolds ..).afterCommit ..).endStep ..
  · rename_i e
    exact ((h1.runEffs ..).snd e).modSeat ..

theorem Inv.commitHand {s : State} (hi : Inv s) (fe k : Nat) (h : Hand) : Inv (commitHand fe k h s) :=
  (hi.modSeat ..).goCommit ..

theorem Inv.tryCommit {s : State} (h : Inv s) : Inv (tryCommit s) := by
  unfold Machine.tryCommit
  dsimp only
  split
  · exact h
  · split
    · exact h
    · split
      · exact h.goCommit ..
      · split
        · exact (h.modBight ..).faultHere ..
        · split
          · exact (h.cfgSpent ..).faultHere ..
          · exact h.faultHere ..
          · exact .ite (h.modHand ..) (h.commitHand ..)

theorem Inv.belayCheck {s : State} (h : Inv s) : Inv (belayCheck s) := by
  unfold Machine.belayCheck
  dsimp only
  split
  · exact .ite (h.faultHere ..) h
  · exact h

/-! ### Every instruction and every event (Machine/Dispatch.lean) -/

/-- An arm of `exec` that ends in `.next s`. -/
theorem Inv.ofNext {s t : State} (h : Inv s) (e : (.next s : Result) = .next t) : Inv t := by
  cases e
  exact h

theorem Inv.execWaitev {s t : State} (h : Inv s) {d a : Reg} {q : Sel} (e : execWaitev d a q s = .next t) : Inv t := by
  refine .ofNext (h.issueB _ _ _ fun _ h => ?_) e
  dsimp only
  split
  · exact h
  · exact .iteFst (h.modHand ..) (.iteFst (h.modHand ..) h.tick)

theorem Inv.execLd {s t : State} (h : Inv s) {w : BitVec 2} {d a : Reg} {off : BitVec 16} {nz : Bool} {q : Sel}
    (e : execLd w d a off nz q s = .next t) : Inv t := by
  refine .ofNext (h.issueGen _ _ _ _ _ fun _ h => ?_) e
  dsimp only
  split
  · exact h
  · exact .iteFst (h.spillLoad ..) (.iteFst h (h.modHand ..))

theorem Inv.execPopw {s t : State} (h : Inv s) {d a b : Reg} {off : BitVec 8} {g : Bool} {q : Sel}
    (e : execPopw d a b off g q s = .next t) : Inv t := by
  refine .ofNext (h.issueB _ _ _ fun _ h => ?_) e
  dsimp only
  split
  · exact h
  · split
    · exact h.waitHome ..
    · exact .iteFst h (.iteFst (h.modHand ..) ((h.modHand ..).waitHome ..))

theorem Inv.execLit {s t : State} (h : Inv s) {ty : BitVec 2} {d : Reg} {off : BitVec 21} {q : Sel}
    (e : execLit ty d off q s = .next t) : Inv t := by
  refine .ofNext (h.issueGen _ _ _ _ _ fun _ h => ?_) e
  dsimp only
  split
  · exact h
  · refine .iteFst (h.modHand ..) ?_
    split
    · exact h
    · rename_i e _
      exact ((h.codeRefused ..).snd e).modHand ..
    · exact h.modHand ..
    · exact ((h.codeTouch ..).modFe ..).modHand ..

theorem Inv.execBwait {s t : State} (h : Inv s) {d a b : Reg} {rem : Bool} {q : Sel} (e : execBwait d a b rem q s = .next t) :
    Inv t := by
  refine .ofNext (h.issueB _ _ _ fun _ h => ?_) e
  dsimp only
  split
  · exact h
  · refine .iteFst (.iteFst h (.iteFst (h.modHand ..) ((h.modHand ..).waitHome ..)))
      (.iteFst (h.modHand ..) (.iteFst (h.waitHome ..) ?_))
    split
    · exact h.modHand ..
    · exact h
    · exact h.modHand ..
    · exact h.enterWait ..

theorem Inv.execAccrd {s t : State} (h : Inv s) {d b : Reg} {x : AccNo} {q : Sel}
    (e : execAccrd d b x q s = .next t) : Inv t := by
  refine .ofNext (h.issueB _ _ _ fun _ h => ?_) e
  dsimp only
  split
  · exact h
  · exact .iteFst h (h.modHand ..)

theorem Inv.execEvwait {s t : State} (h : Inv s) {d b : Reg} {tagged : Bool} {q : Sel}
    (e : execEvwait d b tagged q s = .next t) : Inv t := by
  refine .ofNext (h.issueB _ _ _ fun _ h => ?_) e
  dsimp only
  split
  · exact h
  · split
    · exact h.modHand ..
    · exact h

theorem Inv.execEnginePacketLanding {s t : State} (h : Inv s) {card rcv : Nat}
    (e : execEnginePacketLanding card rcv s = .next t) : Inv t := by
  refine .ofNext ?_ e
  split
  · exact .ite (.ite (h.jobRelatch ..) (h.jobStep ..)) (h.landPacket ..)
  · exact h

theorem Inv.exec {s t : State} (h : Inv s) (i : Instr) (e : exec i s = .next t) : Inv t := by
  cases i with
  | nop | halt | yield | brk | eret | sel | cmp | fcmp | pnot | cmpi | movi | movhi | fmin | fmax | fabs | fneg | ffma
  | fcvt | ins | br | call | skip | loop | calli | jmpi | ret | loopbrk | svc | trap | csrw | csrx | setf | clre | lea
  | binit | brst | fenceLd | fenceSt | fenceAll | spush | speek | portrst | portstat | cfgw | planeon | planeoff | arbw
  | mclaim | mrel | mload | mstore | mma | mtile | accz | accst | accpeek | mtrans | evpop | cardstat | bstat | icinv
  | hitch | keyld =>
    exact .ofNext (h.issue ..) e
  | waitev => exact h.execWaitev e
  | add | sub | mul | mulh | mulhn | and | or | xor | andn | shl | shr | sra | rotl | min | max | minn | maxn | extN | extI =>
    exact .ofNext (h.opRRR ..) e
  | div | divn | rem | remn => exact .ofNext (h.opDiv ..) e
  | clz | ctz | popc | mov | addi | andi | ori | xori | shli | shri | srai => exact .ofNext (h.opRR ..) e
  | pand | por | pxor => exact .ofNext (h.opPPP ..) e
  | fadd | fsub | fmul | fdiv => exact .ofNext (h.opFF ..) e
  | frcp | frsq | fsqrt | fexp2 | flog2 => exact .ofNext (h.opF ..) e
  | csrr => exact .ofNext (h.issueGen _ _ _ _ _ fun _ h => (Inv.ite h.tick h).modHand ..) e
  | ld => exact h.execLd e
  | st | tagrd | barr | btest => exact .ofNext (h.issueRead ..) e
  | ldg | stg | setfG | clreG | tagrdG | cfg | launch => exact .ofNext (h.issueG ..) e
  | ldf | ldx => exact .ofNext (h.issueB _ _ _ fun _ h => h.ldTag ..) e
  | stf => exact .ofNext (h.issueB _ _ _ fun _ h => h.stTag ..) e
  | ldfG | ldxG => exact .ofNext (h.issueB _ _ _ fun _ h => h.ldTagG ..) e
  | stfG => exact .ofNext (h.issueB _ _ _ fun _ h => h.stTagG ..) e
  | aadd | amin | amax | aminn | amaxn | aand | aor | axor | axchg | acas | afadd | asig => exact .ofNext (h.atomOp ..) e
  | pinit | push | pop => exact .ofNext (h.pileReq ..) e
  | popw => exact h.execPopw e
  | lit => exact h.execLit e
  | bwait => exact h.execBwait e
  | sinDense | sinExpand | soutDense | soutSparse => exact .ofNext (h.streamOp ..) e
  | spull => exact .ofNext (h.issueB _ _ _ fun _ h => h.spull ..) e
  | cfgsync => exact .ofNext (h.issueB _ _ _ fun _ h => h.cfgSync) e
  | accrd => exact h.execAccrd e
  | cpy | cpyx | gstrm | coll => exact .ofNext (h.postOp ..) e
  | evwait => exact h.execEvwait e
  | brow => exact .ofNext (h.issueB _ _ _ fun _ h => h.rowOp _ _ (fun _ _ _ _ h => h.browGo ..)) e
  | bemit | bstep | bread | btap | bend =>
    exact .ofNext (h.issueGen _ _ _ _ _ fun _ h => h.rowOp _ _ fun _ _ _ _ h => .iteFst h.rowFault (h.onHand ..)) e
  | bendAbort | bseedC | bseedR =>
    exact .ofNext (h.issueGen _ _ _ _ _ fun _ h => h.rowOp _ _ (fun _ _ _ _ h => h.onHand ..)) e
  | maprRange | maprPage | unmap => exact .ofNext (h.imageOp ..) e
  | dstep | dresume | preempt => exact .ofNext (h.privOp ..) e
  | lnkctlRead | lnkctlEnable | lnkctlDisable | lnkctlReset | lnkctlClear | lnkctlLongReach | lnkctlEncryption
  | lnkctlReplayTimeout =>
    exact .ofNext (h.lnkctlOp ..) e
  | deferredFault => exact .ofNext (h.deferredNow ..) e
  | splitPhaseReply | waitRequestReply | popwAnswer => exact .ofNext (h.replyGo ..) e
  | bankPacket | remoteWaitRequest | holdTake | holdRelease | pileOpAtHome | meldPointArrival | riggingRoute | guRequest =>
    exact .ofNext (h.reqGo ..) e
  | refusedResend => exact .ofNext (h.resend ..) e
  | seatSave => exact .ofNext (h.seatSave ..) e
  | cardCheckpoint => exact .ofNext (h.checkpoint ..) e
  | quantumEnd => exact .ofNext (h.quantumEnd ..) e
  | nopPacket | launchPacket | transformPacket | copyPacket | waitPacket | signalPacket => exact .ofNext (h.packetGo ..) e
  | waitReread => exact .ofNext (h.waitReread ..) e
  | nodeDispatch => exact .ofNext (h.nodeDispatch ..) e
  | nodeComplete => exact .ofNext (h.nodeComplete ..) e
  | regionPlace => exact .ofNext (h.regionPlace ..) e
  | deal => exact .ofNext (h.deal ..) e
  | planeFire => exact .ofNext (h.planeFire ..) e
  | arbiterEpoch => exact .ofNext (h.arbiterEpoch ..) e
  | groupRetire => exact .ofNext (.ite (h.remoteRetired ..) (h.groupRetire ..)) e
  | stage0RowRead => exact .ofNext (h.stage0Read ..) e
  | rowSliceArrival => exact .ofNext (h.sliceArrive ..) e
  | emissionComplete => exact .ofNext (h.emission ..) e
  | rowRetire => exact .ofNext (h.rowRetire ..) e
  | cascadeRelease => exact .ofNext (h.cascRelease ..) e
  | enginePacketLanding => exact h.execEnginePacketLanding e
  | meldWindowExpiry => exact .ofNext (h.meldExpire ..) e
  | streamRelatch => exact .ofNext (h.relatch ..) e
  | relatchToken => exact .ofNext (h.relatchToken ..) e
  | unmapComplete => exact .ofNext (h.unmapComplete ..) e
  | configPacketApply => exact .ofNext (h.cfgApply ..) e
  | portCommandComplete => exact .ofNext (h.portStep ..) e
  | sparseRowCheck => exact .ofNext (h.sparseCheck ..) e
  | arrayCommandPerform => exact .ofNext (h.arrPerform ..) e
  | mtileStep => exact .ofNext (h.mtileStep ..) e
  | followOnMma => exact .ofNext (h.follow ..) e
  | cardCheck => exact .ofNext (h.cardCheck ..) e
  | completionRecordPost => exact .ofNext (h.cardRecord ..) e
  | eventRecordArrival => exact .ofNext (h.recArrive ..) e
  | eventRecordRetry => exact .ofNext (h.recRetry ..) e
  | nakReceive => exact .ofNext ((h.nak ..).sendOwed ..) e
  | ackReceive => exact .ofNext ((h.ackLink ..).sendOwed ..) e
  | hitchMarker => exact .ofNext (h.marker ..) e
  | fillComplete => exact .ofNext (h.fillDone ..) e
  | rowSwap => exact .ofNext (h.rowSwap ..) e
  | collRingStep => exact .ofNext (h.ringStep ..) e
  | channelClosed => exact .ofNext (h.chanClosed ..) e
  | waitevDeadline => exact .ofNext (h.deadline ..) e
  | rowCopyComplete => exact .ofNext (h.rowCopied ..) e
  | contextBind => exact .ofNext (.ite (h.bindCtx ..) (.ite (h.bindHorlyn ..) h)) e
  | edgeCoreStart => exact .ofNext (.ite (h.edgeStart ..) h) e
  | knock => exact .ofNext (h.knockQueue ..) e
  | queueEnable => exact .ofNext (h.queueEnable ..) e
  | preemptionRequest => exact .ofNext (.ite (h.preemptRequest ..) h) e
  | contextUnbind => exact .ofNext (.ite (h.unbindCtx ..) h) e
  | contextResume => exact .ofNext (.ite (h.resumeCtx ..) h) e
  | contextKill => exact .ofNext (.ite (h.killCtx ..) h) e
  | queueDisable => exact .ofNext (h.queueDisable ..) e
  | queueReset => exact .ofNext (h.queueReset ..) e
  | priorityAging => exact .ofNext (.ite (h.modQueue ..) h) e
  | stageFaultRecord => exact .ofNext (h.stageFaultEvent ..) e
  | barrierArrival => exact .ofNext (h.arriveBar ..) e
  | errorArrival => exact .ofNext (h.errorBar ..) e
  | injectionStarvation => exact .ofNext (h.modFe ..) e
  | spliceFlitReceive => exact .ofNext (h.spliceFlit ..) e
  | riggingFlitReceive => exact .ofNext (h.riggingFlit ..) e
  | replayTimeout => exact .ofNext (h.replayLink ..) e
  | ackInterval | ucieRetrainDone | fecMarginLow | lossOfSignal => exact .ofNext (h.modLink ..) e
  | framePad => exact .ofNext (h.framePad ..) e
  | keySoon => exact .ofNext (.ite ((h.modLink ..).report ..) h) e
  | keySwitch | linkTrained => exact .ofNext ((h.modLink ..).sendOwed ..) e
  | trainingAttemptFail => exact .ofNext (h.trainFail ..) e
  | laneFailure => exact .ofNext (h.laneFailure ..) e
  | linkTimeout => exact .ofNext (h.linkTimeout ..) e
  | debuggerHitchRequest => exact .ofNext (.ite h (h.raiseHitch ..)) e
  | fillMergeWindow => exact .ofNext (h.closeWindow ..) e
  | swapWindowEnd | refresh => exact .ofNext (h.modGu ..) e
  | heartbeatReceived => exact .ofNext (h.heartbeat ..) e
  | heartbeatMissed => exact .ofNext (h.heartMiss ..) e
  | trcmdReadTest | trcmdWriteTest | trcmdPatternTest => exact .ofNext (h.runTest ..) e
  | trbcast => exact .ofNext (h.broadcast ..) e
  | trrepair => exact .ofNext (h.repair ..) e
  | trctlOpen => exact .ofNext (h.openChan ..) e
  | trctlClose => exact .ofNext (h.closeChan ..) e
  | handback => exact .ofNext (h.handBack ..) e
  | pwrctlWrite => exact .ofNext (h.pwrctl ..) e
  | clockThrottle => exact .ofNext h.frame e
  | moduleidWrite => exact .ofNext (h.moduleid ..) e
  | ctxctlWrite => exact .ofNext (h.ctxctl ..) e
  | routeTableWrite => exact .ofNext (h.routeWrite ..) e
  | registerWrite => exact .ofNext (h.regWrite ..) e
  | dataTokenArrival => exact .ofNext (h.dataToken ..) e
  | handFetch => exact .ofNext (h.passTurn.fetchHand) e
  | handCommit => exact .ofNext h.tryCommit e
  | mapperBind => exact .ofNext h.mapperBind e
  | receiverRelease => exact .ofNext h.receiverRelease e
  | senderRelease => exact .ofNext h.senderRelease e
  | belayDistance => exact .ofNext h.belayCheck e
  | hostLinkDown => exact .ofNext h.hostDown e
  | powerGood => exact .ofNext (.ite (h.bootGo ..) h) e
  | mscFailover => exact .ofNext (.ite (h.frame.bootGo ..) h) e

/-! ### What comes next (Machine/Sched.lean, Step.lean) -/

/-- A turn passed to a seat that an FE has. -/
theorem Inv.seatInTurn {s : State} (h : Inv s) (fe : Nat) {k : Nat} (hk : k < 4) : Inv { s with curFe := fe, curSeat := k } :=
  ⟨h.1, h.2.1, hk⟩

/-- The seat found in a list of seats, or the first of the list, is one of them. -/
theorem find_getD_mem {p : Nat → Bool} {l : List Nat} {k0 : Nat} (h0 : k0 ∈ l) : (l.find? p).getD k0 ∈ l := by
  cases e : l.find? p with
  | none => exact h0
  | some k => exact List.mem_of_find?_eq_some e

theorem Inv.feTurn {s : State} (h : Inv s) {fe : Nat} {x : Instr × State} (e : feTurn fe s = some x) : Inv x.2 := by
  unfold Machine.feTurn at e
  extract_lets f order at e
  have lt : ∀ k ∈ order, k < 4 := fun k hk => by
    obtain ⟨_, _, rfl⟩ := List.mem_map.1 (List.mem_filter.1 hk).1
    exact Nat.mod_lt _ (by decide)
  clear_value order
  split at e
  · cases e
  · cases e
    have h1 := Inv.each (fun j _ h => h.modSeat fe j fun t => { t with passed := false })
    exact ((h1 _ h).modFe ..).seatInTurn _ (lt _ (find_getD_mem (by simp)))

theorem Inv.turnAfter {s : State} (h : Inv s) {n : Nat} {x : Instr × State} (e : turnAfter n s = some x) : Inv x.2 := by
  obtain ⟨_, _, e⟩ := Option.bind_eq_some_iff.1 e
  exact h.feTurn e

theorem Inv.newRound {s : State} (h : Inv s) {x : Instr × State} (e : newRound s = some x) : Inv x.2 := by
  obtain ⟨_, _, e⟩ := Option.bind_eq_some_iff.1 e
  exact (Inv.each (fun _ _ h => .ite h (h.countCycle ..)) _ h).feTurn e

theorem Inv.nextRound {s : State} (h : Inv s) {x : Instr × State} (e : nextRound s = some x) : Inv x.2 := by
  unfold Machine.nextRound at e
  dsimp only at e
  split at e
  · cases e
    exact h.seatInTurn _ (by decide)
  · exact h.newRound e

theorem Inv.nextInstr {s : State} (h : Inv s) {x : Instr × State} (e : nextInstr s = some x) : Inv x.2 := by
  unfold Machine.nextInstr at e
  split at e
  · cases e
    exact h.frame
  · split at e
    · cases e
      exact h.frame
    · rcases ht : Machine.turnAfter s.curFe s with _ | y
      · rw [ht, Option.orElse_none] at e
        split at e
        · cases e
          exact h
        · exact h.nextRound e
      · rw [ht, Option.orElse_some] at e
        cases e
        exact h.turnAfter ht

theorem Inv.step {s t : State} (h : Inv s) (e : step s = .next t) : Inv t := by
  unfold Machine.step at e
  split at e
  · split at e
    · rename_i hn
      exact (h.nextInstr hn).exec _ e
    · exact h.ofNext e
  · cases e

/-- Settles O5: nothing is written, no tag is listed, and the first seat has the turn. -/
theorem invariantAtReset : Obligations.InvariantAtReset := by
  unfold Obligations.InvariantAtReset
  exact ⟨wf_reset, rfl, by decide⟩

/-- Settles O6: the event that comes next finds the invariant kept, and every event and instruction keeps it. -/
theorem invariantKeptByEveryStep : Obligations.InvariantKeptByEveryStep := by
  unfold Obligations.InvariantKeptByEveryStep
  exact fun _ _ h e => h.step e

end Sys2Proof
end

section
/-!
SUPPORT. Which instruction a step performs: the turn that is given, the turn of an FE, and the event that comes first.
-/

namespace Sys2Proof
open Machine

/-- A step is the instruction or event that comes next, performed. -/
theorem step_of_nextInstr {s t : State} {i : Instr} (hs : s.curSeat < 4) (h : nextInstr s = some (i, t)) : step s = exec i t := by
  simp only [step, if_pos hs, h]

theorem nextInstr_of_agenda {s : State} {i : Instr} {rest : List Instr} (h : s.agenda = i :: rest) :
    nextInstr s = some (i, { s with agenda := rest }) := by
  simp only [nextInstr, h]

theorem nextInstr_of_given {s : State} (ha : s.agenda = []) (hg : s.given = true) :
    nextInstr s = some (seatInstr (cur s), { s with given := false }) := by
  simp only [nextInstr, ha, hg, if_true]

/-- With no turn given, the next FE of the round that has a ready seat comes next, if it yields a turn. -/
theorem nextInstr_of_feTurn {s : State} {e : Nat × FE} {x : Instr × State} (ha : s.agenda = []) (hg : s.given = false)
    (he : s.fes.find? (fun y => decide (s.curFe < y.1) && feReady y) = some e) (hx : feTurn e.1 s = some x) :
    nextInstr s = some x := by
  simp only [nextInstr, ha, hg, turnAfter, he, Option.bind_some, hx, Option.orElse_some, Bool.false_eq_true, if_false]

/-- The instruction of a slot whose words decode. -/
theorem slotInstr_of_decode {h : Hand} {w : SlotWords} {i : Instr} (hw : h.slots[h.slot]? = some w)
    (hi : decode w.lo w.hi = .ok i) : slotInstr h = i := by
  simp only [slotInstr, hw, hi]

/-- Past its last slot a hand commits (04 R57). -/
theorem slotInstr_past {h : Hand} (hl : h.slots.length ≤ h.slot) : slotInstr h = .handCommit := by
  simp only [slotInstr, List.getElem?_eq_none hl]

theorem seatInstr_of_hand {t : Seat} {h : Hand} (hh : t.hand = some h) : seatInstr t = slotInstr h := by
  simp only [seatInstr, hh]

theorem seatInstr_of_none {t : Seat} (hh : t.hand = none) : seatInstr t = .handFetch := by
  simp only [seatInstr, hh]

/-- A list whose element `n` is the first that `p` admits: what it keeps of the list begins with that element. -/
theorem filter_first {α : Type} (p : α → Bool) (l : List α) (n : Nat) (x : α) (hn : l[n]? = some x) (hx : p x = true)
    (hlt : ∀ m < n, ∀ y, l[m]? = some y → p y = false) : ∃ r, l.filter p = x :: r := by
  induction l generalizing n with
  | nil => simp at hn
  | cons y l ih =>
    cases n with
    | zero =>
      obtain rfl : y = x := by simpa using hn
      exact ⟨l.filter p, List.filter_cons_of_pos hx⟩
    | succ n =>
      rw [List.filter_cons_of_neg (by simp [hlt 0 (Nat.succ_pos n) y rfl])]
      exact ih n (by simpa using hn) fun m hm z hz => hlt (m + 1) (Nat.succ_lt_succ hm) z (by simpa using hz)

/-- The seats of an FE in turn, from the one after seat `i` on. -/
theorem turnOrder_at (i : Nat) {m : Nat} (hm : m < 4) : ([i + 1, i + 2, i + 3, i + 4].map (· % 4))[m]? = some ((i + 1 + m) % 4) := by
  match m, hm with
  | 0, _ | 1, _ | 2, _ | 3, _ => rfl

/-- 06 R101: the turn of an FE goes to the first ready seat after the one that issued last, when it has not yielded. -/
theorem feTurn_first {s : State} {fe n : Nat} (hn : n < 4)
    (hlt : ∀ m < n, seatReady (seatAt s fe (((feAt s fe).issued + 1 + m) % 4)) = false)
    (hr : seatReady (seatAt s fe (((feAt s fe).issued + 1 + n) % 4)) = true)
    (hp : (seatAt s fe (((feAt s fe).issued + 1 + n) % 4)).passed = false) :
    let k := ((feAt s fe).issued + 1 + n) % 4
    feTurn fe s = some (seatInstr (seatAt s fe k), { modFe fe (fun f => { f with issued := k })
      (modSeat fe k (fun t => { t with passed := false }) s) with curFe := fe, curSeat := k }) := by
  intro k
  have hk : k < 4 := Nat.mod_lt _ (by decide)
  obtain ⟨r, hf⟩ := filter_first (fun j => seatReady (seatOf (feAt s fe) j))
    ([(feAt s fe).issued + 1, (feAt s fe).issued + 2, (feAt s fe).issued + 3, (feAt s fe).issued + 4].map (· % 4)) n k
    (turnOrder_at _ hn) hr fun m hm y hy => by
      obtain rfl := Option.some.inj ((turnOrder_at _ (Nat.lt_trans hm hn)).symm.trans hy)
      exact hlt m hm
  have hpk : (seatOf (feAt s fe) k).passed = false := hp
  have hi : seatInstr (seatAt (modSeat fe k (fun t => { t with passed := false }) s) fe k) = seatInstr (seatAt s fe k) := by
    rw [seatAt_modSeat _ _ _ _ hk]
    rfl
  simp only [feTurn, hf, List.find?_cons, hpk, Bool.not_false, Option.getD_some, List.takeWhile_cons, bne_self_eq_false,
    Bool.false_eq_true, if_false, List.nil_append, each, List.foldl_cons, List.foldl_nil, hi]

/-- What a seat with the hand `h` issues, and what one without a hand does. -/
theorem step_of_seat {s t : State} {u : Seat} (hs : s.curSeat < 4) (h : nextInstr s = some (seatInstr u, t)) :
    (∀ h, u.hand = some h →
      (∀ w i, h.slots[h.slot]? = some w → decode w.lo w.hi = .ok i → step s = exec i t) ∧
      (h.slots.length ≤ h.slot → step s = exec .handCommit t)) ∧
    (u.hand = none → step s = exec .handFetch t) := by
  rw [step_of_nextInstr hs h]
  refine ⟨fun h hh => ?_, fun hh => by rw [seatInstr_of_none hh]⟩
  rw [seatInstr_of_hand hh]
  exact ⟨fun w i hw hi => by rw [slotInstr_of_decode hw hi], fun hl => by rw [slotInstr_past hl]⟩

/-- Settles O4: the turn that is given, the turn of the next ready FE, an event of the agenda, and a seat that no FE has. -/
theorem stepRunsTheDecodedSlot : Obligations.StepRunsTheDecodedSlot := by
  unfold Obligations.StepRunsTheDecodedSlot
  intro s h
  refine ⟨fun hs ha hg => ?_, fun e n hs ha hg hn he => ?_, fun i rest hs ha => step_of_nextInstr hs (nextInstr_of_agenda ha),
    fun hs => by simp only [step, if_neg (Nat.not_lt.2 hs)]⟩
  · have key := step_of_seat hs (nextInstr_of_given ha hg)
    exact ⟨key.1 h, key.2⟩
  · intro k hlt hr hp t
    have key := step_of_seat hs (nextInstr_of_feTurn ha hg he (feTurn_first hn hlt hr hp))
    exact ⟨key.1 h, key.2⟩

end Sys2Proof
end

section
/-!
SUPPORT. The counterexample to O41: a seat whose event queue holds more records than its 32 places.
-/

namespace Sys2Proof
open Machine

/-- A hand past its last slot that takes one record. -/
def takingHand : Hand := { addr := 0x10000, next := 0x10040, slots := [{ lo := 0 }], slot := 1, work := {}, effects := [.evtake none] }

/-- A state in which the event queue of the seat in turn holds 34 records, its spill ring being empty: two more than fit. -/
def overfullState : State :=
  { State.reset with
    agenda := []
    fes := [(0, { seats := #v[{ st := .running, hand := some takingHand, spilllim := 0x2000, evq := List.replicate 34 ⟨0, 5⟩ }, {}, {}, {}] })] }

theorem atCommit_overfull : AtCommit overfullState takingHand :=
  ⟨by decide, rfl, by decide, ⟨by decide, rfl, rfl, rfl, rfl⟩, rfl, rfl⟩

/-- The commit that takes a record leaves 33, of which one enters the spill ring: it is stored in the carve-out of the seat
(19 R347), and memory changes. -/
theorem takeOverfull_writes (t : State) (h : exec .handCommit overfullState = .next t) : t.mem ≠ overfullState.mem := by
  have key : memByte (tryCommit overfullState).mem (spBase 0 + 8) ≠ memByte overfullState.mem (spBase 0 + 8) := by decide +kernel
  have e : tryCommit overfullState = t := by injection h
  rw [← e]
  exact fun hm => key (congrArg (memByte · _) hm)

/-- Refutes O41: its clause of the record that a hand has taken says that memory stays, for every event queue with an empty
ring. It leaves out that a queue holds 32 records at most (19 R347): where more follow the one taken, those beyond 32 enter the
spill ring, which lies in memory. -/
theorem not_commitMakesEffectsVisible : ¬ Obligations.CommitMakesEffectsVisible := by
  unfold Obligations.CommitMakesEffectsVisible
  rintro ⟨-, h⟩
  have loops : NoLoops takingHand := fun n => (by decide : ∀ n : Fin 3, takingHand.work.lc[n].active = false) n
  obtain ⟨-, -, -, -, -, -, -, -, -, -, taken⟩ :=
    h overfullState takingHand (.evtake none) atCommit_overfull rfl rfl rfl loops (fun x hx => absurd hx (List.not_mem_nil))
  obtain ⟨t, ht, -, hm, -⟩ := taken ⟨0, 5⟩ (List.replicate 33 ⟨0, 5⟩) rfl rfl rfl
  exact takeOverfull_writes t ht hm

end Sys2Proof
end

section
/-!
SUPPORT. Faults and commits of the seat in turn: what the abandonment of a hand that claims nothing changes, the ways in which a
fault is taken (04 R73), and the commit of a hand with no effects (04 R57).
-/

namespace Sys2Proof
open Machine

/-! ### Updates of one object -/

theorem modFe_congr (fe : Nat) (f g : FE → FE) (s : State) (h : f (feAt s fe) = g (feAt s fe)) : modFe fe f s = modFe fe g s := by
  unfold feAt at h
  simp only [modFe, KV.upd, h]

/-- A fold whose steps all leave the state as it is. -/
theorem each_id {α : Type} {f : α → State → State} {s : State} {l : List α} (h : ∀ x ∈ l, f x s = s) : each l f s = s := by
  induction l with
  | nil => rfl
  | cons x r ih =>
    show each r f (f x s) = s
    rw [h x List.mem_cons_self]
    exact ih fun y hy => h y (List.mem_cons_of_mem x hy)

/-- What every step of a fold keeps, the fold keeps. -/
theorem each_keeps {α : Type} {P : State → Prop} {f : α → State → State} (hf : ∀ x s, P s → P (f x s)) (l : List α) {s : State}
    (h : P s) : P (each l f s) := by
  induction l generalizing s with
  | nil => exact h
  | cons x l ih => exact ih (hf x s h)

/-! ### The seats of a context -/

theorem mem_seatsOf {s : State} {c : Nat} {e : Nat × Nat} :
    e ∈ seatsOf s c ↔ e.2 < 4 ∧ ∃ f, (e.1, f) ∈ s.fes ∧ (seatOf f e.2).ctx = c ∧ (seatOf f e.2).st ≠ .free := by
  obtain ⟨fe, k⟩ := e
  simp only [seatsOf, List.mem_flatMap, List.mem_filterMap, List.mem_range, Option.ite_none_right_eq_some, Bool.and_eq_true,
    beq_iff_eq, bne_iff_ne, Option.some.injEq, Prod.mk.injEq, Prod.exists]
  constructor
  · rintro ⟨j, f, hm, i, hi, hc, rfl, rfl⟩
    exact ⟨hi, f, hm, hc⟩
  · rintro ⟨hk, f, hm, hc⟩
    exact ⟨fe, f, hm, k, hk, hc, rfl, rfl⟩

/-- A key reads as the default, or as an entry that is listed. -/
theorem KV.get_default_or_mem {α : Type} (d : α) (k : Nat) (m : KV α) : KV.get d k m = d ∨ (k, KV.get d k m) ∈ m := by
  induction m with
  | nil => exact .inl rfl
  | cons e r ih =>
    obtain ⟨j, v⟩ := e
    by_cases hj : j = k
    · subst hj
      simp [KV.get]
    · simp only [KV.get, if_neg hj, List.mem_cons]
      exact ih.imp id .inr

theorem seatOf_default (k : Nat) : seatOf {} k = {} := by
  unfold seatOf vget
  by_cases hk : k < 4
  · simp [hk]
  · simp [Nat.le_of_not_lt hk]

/-- A seat that is not FREE is among those of its context. -/
theorem seatAt_mem_seatsOf {s : State} {fe k : Nat} (hk : k < 4) (h : (seatAt s fe k).st ≠ .free) :
    (fe, k) ∈ seatsOf s (seatAt s fe k).ctx := by
  refine mem_seatsOf.2 ⟨hk, feAt s fe, ?_, rfl, h⟩
  rcases KV.get_default_or_mem {} fe s.fes with hd | hm
  · exact absurd (show (seatOf (KV.get {} fe s.fes) k).st = .free by rw [hd, seatOf_default]) h
  · exact hm

/-- The entries of a map after an update: the one updated, or another that was listed. -/
theorem KV.mem_upd {α : Type} {d : α} {k : Nat} {g : α → α} {m : KV α} {e : Nat × α} (h : e ∈ KV.upd d k g m) :
    e = (k, g (KV.get d k m)) ∨ (e ∈ m ∧ e.1 ≠ k) := by
  rcases KV.mem_insert h with rfl | h
  · exact .inl rfl
  · exact .inr ⟨(List.mem_filter.1 h).1, KV.drop_fresh k m e h⟩

/-- An update of one seat gives a context no other seat. -/
theorem mem_seatsOf_modSeat {s : State} {fe k c : Nat} {g : Seat → Seat} {e : Nat × Nat} (h : e ∈ seatsOf (modSeat fe k g s) c) :
    e = (fe, k) ∨ e ∈ seatsOf s c := by
  obtain ⟨e1, e2⟩ := e
  obtain ⟨he, f, hm, hc, hst⟩ := mem_seatsOf.1 h
  have hu : (e1, f) ∈ KV.upd {} fe (fun f => { f with seats := vset f.seats k (g (seatOf f k)) }) s.fes := hm
  rcases KV.mem_upd hu with heq | ⟨hm, -⟩
  · obtain ⟨rfl, rfl⟩ := Prod.mk.inj heq
    by_cases hk : e2 = k
    · exact .inl (Prod.ext rfl hk)
    · have ho : seatOf { feAt s e1 with seats := vset (feAt s e1).seats k (g (seatOf (feAt s e1) k)) } e2 = seatAt s e1 e2 :=
        vget_vset_other _ _ _ _ _ hk
      have hx : seatAt s e1 e2 = seatOf (KV.get {} e1 s.fes) e2 := rfl
      exact .inr ((show (seatAt s e1 e2).ctx = c from ho ▸ hc) ▸ seatAt_mem_seatsOf he (show (seatAt s e1 e2).st ≠ .free from ho ▸ hst))
  · exact .inr (mem_seatsOf.2 ⟨he, f, hm, hc, hst⟩)

/-! ### The abandonment of a hand -/

theorem abandon_of_no_hand {s : State} {fe k : Nat} (h : (seatAt s fe k).hand = none) : abandon fe k s = s := by
  simp only [abandon, h]

/-- What filters an empty wait list and leaves every plane as it is changes nothing beside a seat. -/
theorem modFe_unclaimed {s : State} {fe k : Nat} {g : Seat → Seat} {p : Waiter → Bool} {q : PlaneState → PlaneState}
    (hw : (feAt s fe).waits = []) (hq : ∀ pl : Fin 4, q (feAt s fe).planes[pl] = (feAt s fe).planes[pl]) :
    modFe fe (fun f => { f with waits := f.waits.filter p, planes := f.planes.map q }) (modSeat fe k g s) = modSeat fe k g s := by
  have hpl : (feAt s fe).planes.map q = (feAt s fe).planes := by
    ext1 i hi
    exact (Vector.getElem_map ..).trans (hq ⟨i, hi⟩)
  unfold modSeat
  rw [modFe_modFe]
  refine modFe_congr _ _ _ _ ?_
  simp only [hpl, hw, List.filter_nil]

/-- 04 R58: a hand that has no hold, no answered POPW and no request is abandoned, on an FE where nothing waits, is held or is
reserved: only its seat changes. -/
theorem abandon_unclaimed {s : State} {fe k : Nat} {h : Hand} (hh : (seatAt s fe k).hand = some h)
    (ho : h.holds = []) (hp : h.popws = []) (ha : h.asked = none) (hw : (feAt s fe).waits = []) (hb : (feAt s fe).holds = [])
    (hq : ∀ pl : Fin 4, (feAt s fe).planes[pl].ports = []) :
    abandon fe k s = modSeat fe k (fun t => { t with hand := none, belayCnt := h.cnt0 }) s := by
  simp only [abandon, hh, ho, hp, ha, each, List.foldl_nil]
  rw [modFe_unclaimed hw fun pl => by rw [hq pl, List.map_nil, ← hq pl]]
  have hb' : (feAt (modSeat fe k (fun t => { t with hand := none, belayCnt := h.cnt0 }) s) fe).holds = [] := by
    rw [modSeat, feAt_modFe]
    exact hb
  rw [hb']
  rfl

/-! ### Taking a fault (04 R73 to R75) -/

/-- The seat that a fault or trap `f` has made FAULTED. -/
def faultedSeat (f : FaultRec) (trap : Bool) (hand ret : W64) (t : Seat) : Seat :=
  { t with st := .faulted, arch := faulted f trap hand ret t.arch }

/-- The seat that has entered its handler. -/
def handledSeat (f : FaultRec) (trap : Bool) (hand ret : W64) (t : Seat) : Seat :=
  { t with
    st := .running, pc := t.arch.fltvec
    arch := { faulted f trap hand ret t.arch with hndl := true, hin := t.arch.hin || t.arch.stub } }

/-- A fault that starts no wave makes its seat FAULTED, which then goes on as 04 R73 says. -/
theorem takeFault_calm {s u : State} {fe k : Nat} {f : FaultRec} {trap : Bool} {hand ret : W64} (hu : abandon fe k s = u)
    (hd : (seatAt u fe k).arch.dbgctl.getLsbD 0 = false) (hc : f.code ≠ 0x61) (hs : (seatAt u fe k).stepping = false) :
    takeFault fe k f trap hand ret s = proceedFaulted fe k (modSeat fe k (faultedSeat f trap hand ret) u) := by
  have hb : bit (seatAt u fe k).arch.dbgctl 0 = false := hd
  have hw : (f.code == Code.watchpoint) = false := beq_eq_false_iff_ne.2 hc
  simp only [takeFault, hu, hb, hw, hs, Bool.or_self, Bool.and_false, Bool.false_eq_true, if_false]
  rfl

/-- A FAULTED seat enters its handler. -/
theorem proceedFaulted_enters {s : State} {fe k : Nat} (hst : (seatAt s fe k).st = .faulted)
    (hp : (ctxAt s (seatAt s fe k).ctx).st ≠ .preempting) (hv : (seatAt s fe k).arch.fltvec ≠ 0)
    (hn : (seatAt s fe k).arch.hndl = false) :
    proceedFaulted fe k s = modSeat fe k (fun t => { t with
      st := .running, pc := t.arch.fltvec, arch := { t.arch with hndl := true, hin := t.arch.hin || t.arch.stub } }) s := by
  have hp' : ((ctxAt s (seatAt s fe k).ctx).st == .preempting) = false := beq_eq_false_iff_ne.2 hp
  have hv' : ((seatAt s fe k).arch.fltvec != 0) = true := bne_iff_ne.2 hv
  simp only [proceedFaulted, hst, hp', hv', hn, bne_self_eq_false, Bool.false_and, Bool.false_eq_true, if_false, Bool.not_false,
    Bool.and_self, if_true]

/-- A FAULTED seat with no vector, or in its handler already, stops its context. -/
theorem proceedFaulted_stops {s : State} {fe k : Nat} (hst : (seatAt s fe k).st = .faulted)
    (h : (seatAt s fe k).arch.fltvec = 0 ∨ (seatAt s fe k).arch.hndl = true) :
    proceedFaulted fe k s = stopCtx (seatAt s fe k).ctx s := by
  rcases h with h | h <;> simp [proceedFaulted, hst, h]

/-- 04 R73: a fault that starts no wave, of a seat with a vector that is in no handler. -/
theorem takeFault_enters {s u : State} {fe k : Nat} {f : FaultRec} {trap : Bool} {hand ret : W64} (hk : k < 4)
    (hu : abandon fe k s = u) (hd : (seatAt u fe k).arch.dbgctl.getLsbD 0 = false) (hc : f.code ≠ 0x61)
    (hs : (seatAt u fe k).stepping = false) (hp : (ctxAt u (seatAt u fe k).ctx).st ≠ .preempting)
    (hv : (seatAt u fe k).arch.fltvec ≠ 0) (hn : (seatAt u fe k).arch.hndl = false) :
    takeFault fe k f trap hand ret s = modSeat fe k (handledSeat f trap hand ret) u := by
  have e := seatAt_modSeat fe k (faultedSeat f trap hand ret) u hk
  rw [takeFault_calm hu hd hc hs, proceedFaulted_enters (by rw [e]; rfl) (by rw [e]; exact hp) (by rw [e]; exact hv)
    (by rw [e]; exact hn), modSeat_modSeat _ _ _ _ _ hk]
  rfl

/-- A RUNNING context none of whose seats waits is STOPPED, and reported. -/
theorem stopCtx_of_none_waiting {s : State} {c : Nat} (hr : (ctxAt s c).st = .running)
    (hw : ∀ e ∈ seatsOf s c, (seatAt s e.1 e.2).st ≠ .waiting) :
    stopCtx c s = report (.contextStopped c) (modCtx c (fun x => { x with st := .stopped }) s) := by
  simp only [stopCtx, hr]
  refine each_id fun e he => if_neg ?_
  rw [beq_iff_eq]
  exact hw e he

/-- No seat of context `c` waits, but perhaps seat `k` of FE `fe`. -/
def OthersGoOn (s : State) (c fe k : Nat) : Prop := ∀ e ∈ seatsOf s c, e ≠ (fe, k) → (seatAt s e.1 e.2).st ≠ .waiting

/-- What happens to the one seat does not make another wait. -/
theorem OthersGoOn.modSeat {s : State} {c fe k : Nat} (h : OthersGoOn s c fe k) (g : Seat → Seat) :
    OthersGoOn (modSeat fe k g s) c fe k := by
  rintro ⟨a, b⟩ he hne
  have hm := (mem_seatsOf_modSeat he).resolve_left hne
  by_cases hfe : a = fe
  · subst hfe
    rw [seatAt_modSeat_seat _ _ _ _ _ fun hb => hne (Prod.ext rfl hb)]
    exact h _ hm hne
  · rw [seatAt_modSeat_fe _ _ _ _ _ _ hfe]
    exact h _ hm hne

/-- 04 R73: a fault that starts no wave, of a seat with no vector or in its handler, where no other seat of its RUNNING context
waits. -/
theorem takeFault_stops {s u : State} {fe k : Nat} {f : FaultRec} {trap : Bool} {hand ret : W64} (hk : k < 4)
    (hu : abandon fe k s = u) (hd : (seatAt u fe k).arch.dbgctl.getLsbD 0 = false) (hc : f.code ≠ 0x61)
    (hs : (seatAt u fe k).stepping = false) (hr : (ctxAt u (seatAt u fe k).ctx).st = .running)
    (hv : (seatAt u fe k).arch.fltvec = 0 ∨ (seatAt u fe k).arch.hndl = true) (hw : OthersGoOn u (seatAt u fe k).ctx fe k) :
    takeFault fe k f trap hand ret s = report (.contextStopped (seatAt u fe k).ctx)
      (modCtx (seatAt u fe k).ctx (fun x => { x with st := .stopped }) (modSeat fe k (faultedSeat f trap hand ret) u)) := by
  have e := seatAt_modSeat fe k (faultedSeat f trap hand ret) u hk
  rw [takeFault_calm hu hd hc hs, proceedFaulted_stops (by rw [e]; rfl) (by rw [e]; exact hv), e]
  refine stopCtx_of_none_waiting hr fun x hx => ?_
  by_cases hxe : x = (fe, k)
  · subst hxe
    rw [e]
    exact SeatState.noConfusion
  · exact hw.modSeat _ x hx hxe

/-- The fault of the hand in flight. -/
theorem faultHere_of_hand {s : State} {fe k : Nat} {h : Hand} {f : FaultRec} (hh : (seatAt s fe k).hand = some h) :
    faultHere fe k f s = takeFault fe k f false h.addr h.addr s := by
  simp only [faultHere, hh]

/-- The fault of a hand in flight that claims nothing, of a seat with a vector that is in no handler: nothing of the hand is
left, and the seat is in its handler. -/
theorem faultHere_enters {s : State} {h : Hand} {f : FaultRec} (hk : s.curSeat < 4) (hh : (cur s).hand = some h)
    (ho : h.holds = []) (hp : h.popws = []) (ha : h.asked = none) (hn : NoClaims s) (hc : Calm s (cur s).arch f.code)
    (hv : (cur s).arch.fltvec ≠ 0) (hi : (cur s).arch.hndl = false) :
    faultHere s.curFe s.curSeat f s = modCur (fun t =>
      { handledSeat f false h.addr h.addr t with hand := none, belayCnt := h.cnt0 }) s := by
  obtain ⟨hd, hcode, hpre, hstep⟩ := hc
  have hu := abandon_unclaimed (k := s.curSeat) hh ho hp ha hn.1 hn.2.1 hn.2.2
  have e := seatAt_modSeat s.curFe s.curSeat (fun t => { t with hand := none, belayCnt := h.cnt0 }) s hk
  rw [faultHere_of_hand hh, takeFault_enters hk hu (by rw [e]; exact hd) hcode (by rw [e]; exact hstep) (by rw [e]; exact hpre)
    (by rw [e]; exact hv) (by rw [e]; exact hi), modSeat_modSeat _ _ _ _ _ hk]
  rfl

/-- The fault of a hand in flight that claims nothing, of a seat with no vector or in its handler, where no seat of its RUNNING
context waits: nothing of the hand is left, and the context is STOPPED. -/
theorem faultHere_stops {s : State} {h : Hand} {f : FaultRec} (hk : s.curSeat < 4) (hh : (cur s).hand = some h)
    (ho : h.holds = []) (hp : h.popws = []) (ha : h.asked = none) (hn : NoClaims s) (hc : Calm s (cur s).arch f.code)
    (hv : (cur s).arch.fltvec = 0 ∨ (cur s).arch.hndl = true) (hr : (ctxAt s (cur s).ctx).st = .running)
    (hw : ∀ e ∈ seatsOf s (cur s).ctx, (seatAt s e.1 e.2).st ≠ .waiting) :
    faultHere s.curFe s.curSeat f s = report (.contextStopped (cur s).ctx) (modCtx (cur s).ctx (fun x => { x with st := .stopped })
      (modCur (fun t => { faultedSeat f false h.addr h.addr t with hand := none, belayCnt := h.cnt0 }) s)) := by
  obtain ⟨hd, hcode, -, hstep⟩ := hc
  have hu := abandon_unclaimed (k := s.curSeat) hh ho hp ha hn.1 hn.2.1 hn.2.2
  have e := seatAt_modSeat s.curFe s.curSeat (fun t => { t with hand := none, belayCnt := h.cnt0 }) s hk
  have ho : OthersGoOn s (cur s).ctx s.curFe s.curSeat := fun e he _ => hw e he
  rw [faultHere_of_hand hh, takeFault_stops hk hu (by rw [e]; exact hd) hcode (by rw [e]; exact hstep) (by rw [e]; exact hr)
    (by rw [e]; exact hv) (by rw [e]; exact ho.modSeat _), modSeat_modSeat _ _ _ _ _ hk, e]
  rfl

/-! ### BELAY_DISTANCE (04 R60) -/

theorem NoClaims.modCur {s : State} (h : NoClaims s) (g : Seat → Seat) : NoClaims (modCur g s) := by
  have e : feAt (Machine.modCur g s) s.curFe = { feAt s s.curFe with
      seats := vset (feAt s s.curFe).seats s.curSeat (g (seatOf (feAt s s.curFe) s.curSeat)) } := feAt_modFe ..
  unfold NoClaims
  rw [modCur_curFe, e]
  exact h

/-- The state in which the hand `h` of the seat in turn has ended by BELAY_DISTANCE with the count `n`. -/
def overDistance (h : Hand) (n : Nat) (s : State) : State :=
  modCur (fun t => { handledSeat { code := Code.belayDistance, slot := BitVec.ofNat 7 h.slot, info := w64 n } false h.addr h.addr t with
    hand := none, belayCnt := h.cnt0 }) s

/-- 15 R253: a weight that takes the count above MAX under enforcement ends the hand at once. -/
theorem addWeight_exceeds {s : State} {h : Hand} {w : Nat} (hk : s.curSeat < 4) (hh : (cur s).hand = some h)
    (hen : h.work.belayEn = true) (hmax : h.work.belayMax.toNat < (cur s).belayCnt.toNat + w) (hle : (cur s).belayCnt.toNat + w ≤ 0xFFFF)
    (ho : h.holds = []) (hp : h.popws = []) (ha : h.asked = none) (hn : NoClaims s) (hc : Calm s (cur s).arch Code.belayDistance)
    (hv : (cur s).arch.fltvec ≠ 0) (hi : (cur s).arch.hndl = false) :
    addWeight w s = (overDistance h ((cur s).belayCnt.toNat + w) s, false) := by
  have e := cur_modCur (fun t => { t with belayCnt := BitVec.ofNat 16 ((cur s).belayCnt.toNat + w) }) s hk
  have hf := faultHere_enters (s := modCur (fun t => { t with belayCnt := BitVec.ofNat 16 ((cur s).belayCnt.toNat + w) }) s) (h := h)
    (f := { code := Code.belayDistance, slot := BitVec.ofNat 7 h.slot, info := w64 ((cur s).belayCnt.toNat + w) })
    hk (by rw [e]; exact hh) ho hp ha (hn.modCur _) (by unfold Calm; rw [e]; exact hc) (by rw [e]; exact hv) (by rw [e]; exact hi)
  simp only [addWeight, hh, Nat.min_eq_left hle, hen, hmax, decide_true, Bool.and_self, if_true]
  exact congrArg (·, false) (hf.trans (modCur_modCur _ _ s hk))

/-- A slot whose weight takes the count above MAX ends its hand, whatever its selector. -/
theorem issue_exceeds {s u : State} {h : Hand} {w : Nat} {q : Sel} {g : State → Hand → Hand} (hh : (cur s).hand = some h)
    (hcnt : h.counted = false) (hx : addWeight w s = (u, false)) : issue w q g s = u := by
  simp only [issue, issueGen, hh, hcnt, ite_self, hx, Bool.false_eq_true, if_false, Bool.not_false, if_true]

/-- The check of the count ends a hand whose count stands above MAX. -/
theorem belayCheck_exceeds {s : State} {h : Hand} (hk : s.curSeat < 4) (hh : (cur s).hand = some h)
    (hen : h.work.belayEn = true) (hcm : h.committing = false) (hmax : h.work.belayMax.toNat < (cur s).belayCnt.toNat)
    (ho : h.holds = []) (hp : h.popws = []) (ha : h.asked = none) (hn : NoClaims s) (hc : Calm s (cur s).arch Code.belayDistance)
    (hv : (cur s).arch.fltvec ≠ 0) (hi : (cur s).arch.hndl = false) :
    belayCheck s = overDistance h (cur s).belayCnt.toNat s := by
  simp only [belayCheck, hh, hen, hcm, hmax, Bool.not_false, Bool.and_self, decide_true, if_true]
  exact faultHere_enters hk hh ho hp ha hn hc hv hi

/-- Settles O43: the check, and the weight of a slot, find a count above MAX, and the fault enters the handler. -/
theorem belayDistance : Obligations.BelayDistance := by
  unfold Obligations.BelayDistance
  intro d a b q s h hk hh hen ho hp ha _ hcm hn hc hv hi taken
  have done (n : Nat) : taken n (overDistance h n s) := by
    have e : cur (overDistance h n s) = _ := cur_modCur _ s hk
    dsimp only [taken]
    rw [e]
    exact ⟨rfl, rfl, rfl, rfl, rfl, rfl⟩
  refine ⟨fun hmax => ⟨_, congrArg Host.Outcome.next (belayCheck_exceeds hk hh hen hcm hmax ho hp ha hn hc hv hi), done _⟩,
    fun hcnt hmax hle => ?_⟩
  have hx := addWeight_exceeds hk hh hen hmax hle ho hp ha hn hc hv hi
  exact ⟨⟨_, congrArg Host.Outcome.next (issue_exceeds hh hcnt hx), done _⟩,
    _, congrArg Host.Outcome.next (issue_exceeds hh hcnt hx), done _⟩

end Sys2Proof
end

section
/-!
SUPPORT. The commit of a hand (04 R57): when it abandons the hand and when it goes on, and what the control instruction that took
effect does after it.
-/

namespace Sys2Proof
open Machine

/-! ### HAND_COMMIT of the seat in turn -/

/-- A hand without row instructions takes no fault of its stage. -/
theorem stageFault_of_no_row {s : State} {fe k : Nat} {h : Hand} (hr : hasRowInstr h = false) : stageFault s fe k h = none := by
  unfold stageFault
  split
  · simp only [hr, Bool.false_and, Bool.false_eq_true, if_false]
  · rfl

/-- 04 R58: a hand at its commit with a recorded fault, which is no failed packet's, takes it. -/
theorem tryCommit_fault {s : State} {h : Hand} {f : FaultRec} (hc : AtCommit s h) (hf : h.flt = some f) (hg : h.cfgHit = none) :
    tryCommit s = faultHere s.curFe s.curSeat f s := by
  obtain ⟨-, hh, hl, ⟨hr, -⟩, -, hb⟩ := hc
  have hh' : (seatAt s s.curFe s.curSeat).hand = some h := hh
  simp only [tryCommit, hh', if_neg (Nat.not_lt.2 hl), hb, Bool.false_eq_true, if_false, stageFault_of_no_row hr, hf, cfgSpent, hg]

/-- A hand at its commit with neither a fault nor an effect commits. -/
theorem tryCommit_plain {s : State} {h : Hand} (hc : AtCommit s h) (hf : h.flt = none) (he : h.effects = []) :
    tryCommit s = commitHand s.curFe s.curSeat h s := by
  obtain ⟨-, hh, hl, ⟨hr, -⟩, -, hb⟩ := hc
  have hh' : (seatAt s s.curFe s.curSeat).hand = some h := hh
  simp only [tryCommit, hh', if_neg (Nat.not_lt.2 hl), hb, Bool.false_eq_true, if_false, stageFault_of_no_row hr, hf, he, claimLost,
    List.any_nil]

theorem endStep_of_not_stepping {s : State} {fe k : Nat} (h : (seatAt s fe k).stepping = false) : endStep fe k s = s := by
  simp only [endStep, h, Bool.false_eq_true, if_false]

/-- The commit of a hand with neither effects nor holds that goes on at `pc` with the registers `a`: its seat has committed, and
what its control instruction does follows. -/
theorem commitHand_plain {s : State} {h : Hand} {a : Arch} {pc : W64} (hk : s.curSeat < 4) (he : h.effects = []) (ho : h.holds = [])
    (hn : onward h = (a, { pc := pc })) :
    commitHand s.curFe s.curSeat h s =
      endStep s.curFe s.curSeat (afterCommit s.curFe s.curSeat h (modCur (committed a pc) s)) := by
  simp only [commitHand, hn, goCommit, he, runEffs, endHolds, ho, each, List.foldl_nil, modSeat_modSeat _ _ _ _ _ hk]
  rfl

/-- A trap, HALT, ERET or BRK took effect. -/
def exits : Option Control → Bool
  | some (.trap _ _ _) | some .eret | some .halt | some (.brk _) => true
  | _ => false

/-- Traps, HALT, ERET and BRK leave the next hand in memory as the seat's next one. -/
theorem onward_of_exits {h : Hand} (hx : exits h.ctl = true) : onward h = (h.work, { pc := h.next }) := by
  unfold onward
  match h.ctl, hx with
  | some (.trap _ _ _), _ | some .eret, _ | some .halt, _ | some (.brk _), _ => rfl

/-- HAND_COMMIT of a hand with neither fault nor effect that ends with a trap, HALT, ERET or BRK, which leaves the seat unstepped. -/
theorem exec_handCommit_exit {s u : State} {h : Hand} (hc : AtCommit s h) (hf : h.flt = none) (he : h.effects = [])
    (hx : exits h.ctl = true) (hu : afterCommit s.curFe s.curSeat h (modCur (committed h.work h.next) s) = u)
    (hst : (seatAt u s.curFe s.curSeat).stepping = false) :
    exec .handCommit s = .next u := by
  obtain ⟨-, ho, -⟩ := hc.plain
  show Host.Outcome.next (tryCommit s) = _
  rw [tryCommit_plain hc hf he, commitHand_plain hc.seat he ho (onward_of_exits hx), hu, endStep_of_not_stepping hst]

/-! ### After the commit -/

theorem bightAt_modCur (g : Seat → Seat) (s : State) : bightAt (modCur g s) s.curFe = bightAt s s.curFe := by
  unfold bightAt modCur modSeat
  rw [feAt_modFe]

/-- 16 R266, R267: the trap of a committed hand, of a seat with a vector that is in no handler, enters the handler. -/
theorem afterCommit_trap {s : State} {h : Hand} {code : BitVec 8} {info : W64} {slot : BitVec 7} (hk : s.curSeat < 4)
    (hx : h.ctl = some (.trap code info slot)) (hc : Calm s h.work code) (hv : h.work.fltvec ≠ 0) (hn : h.work.hndl = false) :
    afterCommit s.curFe s.curSeat h (modCur (committed h.work h.next) s) =
      modCur (fun t => { committed
        { faulted { code := code, slot := slot, info := info } true h.addr h.next h.work with
          hndl := true, hin := h.work.hin || h.work.stub } h.work.fltvec t with st := .running }) s := by
  obtain ⟨hd, hcode, hpre, hstep⟩ := hc
  have e : seatAt (modCur (committed h.work h.next) s) s.curFe s.curSeat = committed h.work h.next (cur s) := cur_modCur _ s hk
  simp only [afterCommit, hx]
  rw [takeFault_enters (f := { code := code, slot := slot, info := info }) hk (abandon_of_no_hand (by rw [e]; rfl)) (by rw [e]; exact hd) hcode
    (by rw [e]; exact hstep) (by rw [e]; exact hpre) (by rw [e]; exact hv) (by rw [e]; exact hn)]
  exact modCur_modCur _ _ s hk

/-- 16 R268: ERET of a seat that runs no stage does what it does to its seat. -/
theorem afterCommit_eret {s : State} {h : Hand} {a : Arch} {pc : W64} (hk : s.curSeat < 4) (hx : h.ctl = some .eret)
    (hb : bightAt s s.curFe = none) :
    afterCommit s.curFe s.curSeat h (modCur (committed a pc) s) = modCur (fun t => returnFrom (committed a pc t)) s := by
  have e : bightAt (modSeat s.curFe s.curSeat returnFrom (modCur (committed a pc) s)) s.curFe = none :=
    (bightAt_modCur _ _).trans ((bightAt_modCur _ _).trans hb)
  simp only [afterCommit, hx, resumeStage, e, ite_self]
  exact modCur_modCur _ _ s hk

/-- 16 R265: HALT of a seat that runs no stage retires it. -/
theorem afterCommit_halt {s : State} {h : Hand} {a : Arch} {pc : W64} (hk : s.curSeat < 4) (hx : h.ctl = some .halt)
    (hb : bightAt s s.curFe = none) :
    afterCommit s.curFe s.curSeat h (modCur (committed a pc) s) = modCur (fun t => { committed a pc t with st := .retired }) s := by
  have e : bightAt (modSeat s.curFe s.curSeat (fun t => { t with st := .retired }) (modCur (committed a pc) s)) s.curFe = none :=
    (bightAt_modCur _ _).trans ((bightAt_modCur _ _).trans hb)
  simp only [afterCommit, hx, haltStage, onBight, e]
  exact modCur_modCur _ _ s hk

/-- 16 R265, 11 R170: BRK of a seat of an FE that is not being stepped writes the fault registers, starts a wave for its job and
freezes. -/
theorem afterCommit_brk {s : State} {h : Hand} {a : Arch} {pc : W64} {slot : BitVec 7} (hk : s.curSeat < 4)
    (hx : h.ctl = some (.brk slot)) (hst : (cur s).stepping = false) (hed : isEdge s.curFe = false) :
    afterCommit s.curFe s.curSeat h (modCur (committed a pc) s) =
      freezeSeat s.curFe s.curSeat (raiseHitch (ctxAt s (cur s).ctx).job h.addr Code.breakpoint s.curFe s.curSeat false
        (modCur (committed (faulted { code := Code.breakpoint, slot := slot } true h.addr h.next a) pc) s)) := by
  have e : seatAt (modCur (committed a pc) s) s.curFe s.curSeat = committed a pc (cur s) := cur_modCur _ s hk
  have hs : (committed a pc (cur s)).stepping = false := hst
  simp only [afterCommit, hx, e, hs, hed, Bool.false_eq_true, if_false]
  have hm := modCur_modCur (committed a pc) (fun t => { t with
    arch := faulted { code := Code.breakpoint, slot := slot } true h.addr h.next t.arch }) s hk
  exact congrArg (fun u => freezeSeat s.curFe s.curSeat (raiseHitch (ctxAt s (cur s).ctx).job h.addr Code.breakpoint s.curFe s.curSeat false u)) hm

/-- The seat after its own freeze. -/
theorem cur_freezeSeat {s : State} (hk : s.curSeat < 4) (hf : (cur s).st ≠ .frozen) :
    cur (freezeSeat s.curFe s.curSeat s) = { cur s with st := .frozen, prev := (cur s).st } := by
  refine (seatAt_modSeat _ _ _ s hk).trans ?_
  have : ((cur s).st == .frozen) = false := beq_eq_false_iff_ne.2 hf
  show (if ((cur s).st == .frozen) = true then cur s else _) = _
  rw [this]
  rfl

/-! ### ERET (16 R268) -/

/-- Out of the handler, to RETHAND. -/
theorem returnFrom_handler {a : Arch} {pc : W64} {t : Seat} (hn : a.hndl = true) (hs : a.stub = false ∨ a.hin = true) :
    returnFrom (committed a pc t) = committed { a with hndl := false, hin := false } a.rethand t := by
  have h : (a.hndl && (!a.stub || a.hin)) = true := by rcases hs with hs | hs <;> simp [hn, hs]
  exact if_pos h

/-- Out of the rebuild stub, to the resume hand. -/
theorem returnFrom_stub {a : Arch} {pc : W64} {t : Seat} (hn : a.hndl = false) (hs : a.stub = true) :
    returnFrom (committed a pc t) = { committed { a with stub := false } t.stubRet t with orig := none } := by
  have h : ¬ (a.hndl && (!a.stub || a.hin)) = true := by simp [hn]
  exact (if_neg h).trans (if_pos hs)

/-- A jump through RETHAND elsewhere. -/
theorem returnFrom_elsewhere {a : Arch} {pc : W64} {t : Seat} (hn : a.hndl = false) (hs : a.stub = false) :
    returnFrom (committed a pc t) = committed a a.rethand t := by
  have h : ¬ (a.hndl && (!a.stub || a.hin)) = true := by simp [hn]
  exact (if_neg h).trans (if_neg (by simp [committed, hs]))

/-! ### The obligation -/

theorem cur_report_modCtx (r : Report) (c : Nat) (g : Ctx → Ctx) (s : State) : cur (report r (modCtx c g s)) = cur s := rfl

theorem ctxAt_report_modCtx (r : Report) (c : Nat) (g : Ctx → Ctx) (s : State) :
    ctxAt (report r (modCtx c g s)) c = g (ctxAt s c) := KV.get_upd_same ..

/-- A hand with a recorded fault, where the seat has a vector and is in no handler. -/
theorem exec_handCommit_fault_enters {s : State} {h : Hand} {f : FaultRec} (hc : AtCommit s h) (hf : h.flt = some f)
    (hg : h.cfgHit = none) (hn : NoClaims s) (hm : Calm s (cur s).arch f.code) (hv : (cur s).arch.fltvec ≠ 0)
    (hi : (cur s).arch.hndl = false) :
    exec .handCommit s = .next (modCur (fun t => { handledSeat f false h.addr h.addr t with hand := none, belayCnt := h.cnt0 }) s) := by
  obtain ⟨-, ho, hp, ha, -⟩ := hc.plain
  show Host.Outcome.next (tryCommit s) = _
  rw [tryCommit_fault hc hf hg, faultHere_enters hc.seat hc.hand ho hp ha hn hm hv hi]

/-- A hand with a recorded fault, where the seat has no vector or is in its handler already: its RUNNING context is STOPPED. -/
theorem exec_handCommit_fault_stops {s : State} {h : Hand} {f : FaultRec} (hc : AtCommit s h) (hf : h.flt = some f)
    (hg : h.cfgHit = none) (hn : NoClaims s) (hm : Calm s (cur s).arch f.code)
    (hv : (cur s).arch.fltvec = 0 ∨ (cur s).arch.hndl = true) (hr : (ctxAt s (cur s).ctx).st = .running)
    (hw : ∀ e ∈ seatsOf s (cur s).ctx, (seatAt s e.1 e.2).st ≠ .waiting) :
    exec .handCommit s = .next (report (.contextStopped (cur s).ctx) (modCtx (cur s).ctx (fun x => { x with st := .stopped })
      (modCur (fun t => { faultedSeat f false h.addr h.addr t with hand := none, belayCnt := h.cnt0 }) s))) := by
  obtain ⟨-, ho, hp, ha, -⟩ := hc.plain
  show Host.Outcome.next (tryCommit s) = _
  rw [tryCommit_fault hc hf hg, faultHere_stops hc.seat hc.hand ho hp ha hn hm hv hr hw]

/-- ERET commits its hand and does to the seat what 16 R268 says. -/
theorem exec_handCommit_eret {s : State} {h : Hand} (hc : AtCommit s h) (hf : h.flt = none) (he : h.effects = [])
    (hb : bightAt s s.curFe = none) (hx : h.ctl = some .eret) {g : Seat → Seat}
    (hg : returnFrom (committed h.work h.next (cur s)) = g (cur s)) (hst : (g (cur s)).stepping = false) :
    exec .handCommit s = .next (modCur g s) := by
  refine exec_handCommit_exit hc hf he (by rw [hx]; rfl) ((afterCommit_eret hc.seat hx hb).trans (modCur_congr _ _ s hg)) ?_
  exact (congrArg Seat.stepping (cur_modCur g s hc.seat)).trans hst

/-- BRK commits its hand, writes the fault registers and freezes the seat behind the wave that it starts. -/
theorem exec_handCommit_brk {s : State} {h : Hand} {slot : BitVec 7} (hc : AtCommit s h) (hf : h.flt = none) (he : h.effects = [])
    (hx : h.ctl = some (.brk slot)) (hed : isEdge s.curFe = false) :
    ∃ t, exec .handCommit s = .next t ∧ cur t = { committed (faulted { code := Code.breakpoint, slot := slot } true h.addr h.next h.work)
        h.next (cur s) with st := .frozen, prev := .running } ∧
      t.hitch.job = (ctxAt s (cur s).ctx).job ∧ t.mem = s.mem := by
  have hu := afterCommit_brk (a := h.work) (pc := h.next) hc.seat hx hc.free hed
  have e := cur_modCur (committed (faulted { code := Code.breakpoint, slot := slot } true h.addr h.next h.work) h.next) s hc.seat
  have hcur := cur_freezeSeat (s := raiseHitch (ctxAt s (cur s).ctx).job h.addr Code.breakpoint s.curFe s.curSeat false
    (modCur (committed (faulted { code := Code.breakpoint, slot := slot } true h.addr h.next h.work) h.next) s)) hc.seat
    (fun hst => SeatState.noConfusion ((congrArg Seat.st e).symm.trans hst))
  have hcur' := hcur.trans (congrArg (fun t : Seat => { t with st := SeatState.frozen, prev := t.st }) e)
  exact ⟨_, exec_handCommit_exit hc hf he (by rw [hx]; rfl) hu ((congrArg Seat.stepping hcur').trans hc.free), hcur', rfl, rfl⟩

/-- Settles O42: a fault is taken in place of the commit, and the control instruction that took effect acts after it. -/
theorem faultsTrapsAndReturns : Obligations.FaultsTrapsAndReturns := by
  unfold Obligations.FaultsTrapsAndReturns
  refine ⟨fun s h f hc hf hg hn hm => ⟨fun hv hi => exec_handCommit_fault_enters hc hf hg hn hm hv hi, fun hv hr hw => ?_⟩,
    fun s h hc hf he hb => ⟨fun code info slot hx hm hv hn => ?_, fun hx => ⟨fun hn hs => ?_, fun hn hs => ?_, fun hn hs => ?_⟩,
      fun hx => ?_, fun slot hx hed => ?_⟩⟩
  · refine ⟨_, exec_handCommit_fault_stops hc hf hg hn hm hv hr hw, ?_⟩
    rw [cur_report_modCtx, ctxAt_report_modCtx, cur_modCur _ s hc.seat]
    exact ⟨rfl, rfl, rfl, rfl, rfl, rfl, rfl⟩
  · exact exec_handCommit_exit hc hf he (by rw [hx]; rfl) (afterCommit_trap hc.seat hx hm hv hn)
      ((congrArg Seat.stepping (cur_modCur _ s hc.seat)).trans hc.free)
  · exact exec_handCommit_eret hc hf he hb hx (returnFrom_handler hn hs) hc.free
  · exact exec_handCommit_eret hc hf he hb hx (returnFrom_stub hn hs) hc.free
  · exact exec_handCommit_eret hc hf he hb hx (returnFrom_elsewhere hn hs) hc.free
  · exact exec_handCommit_exit hc hf he (by rw [hx]; rfl) (afterCommit_halt hc.seat hx hb)
      ((congrArg Seat.stepping (cur_modCur _ s hc.seat)).trans hc.free)
  · obtain ⟨t, ht, hcur, hjob, hmem⟩ := exec_handCommit_brk hc hf he hx hed
    exact ⟨t, ht, by rw [hcur], by rw [hcur], by rw [hcur]; rfl, by rw [hcur]; rfl, hjob, hmem⟩

end Sys2Proof
end

section
/-!
SUPPORT. Card checkpoints, re-latch tokens, the end of an UNMAP and the start of an edge core (O47); what landing words changes.
-/

namespace Sys2Proof
open Machine

/-! ### Bank service changes FEs and replies alone (08 R130) -/

theorem serveOne_frame (fe pa : Nat) (w : Waiter) (s : State) :
    ∃ f r, (serveOne fe pa w s).1 = { s with fes := f, replies := r } := by
  cases w with
  | ldf _ _ | ldx _ _ | stf _ _ => unfold serveOne; dsimp only; split <;> exact ⟨_, _, rfl⟩
  | bar _ _ _ => exact ⟨_, _, rfl⟩
  | remote r =>
    unfold serveOne
    dsimp only
    split
    · split <;> exact ⟨_, _, rfl⟩
    · split <;> exact ⟨_, _, rfl⟩
    · split <;> exact ⟨_, _, rfl⟩
    · exact ⟨_, _, rfl⟩

theorem serveList_frame (fe pa : Nat) (l : List Waiter) (s : State) :
    ∃ f r, (serveList fe pa l s).1 = { s with fes := f, replies := r } := by
  induction l generalizing s with
  | nil => exact ⟨_, _, rfl⟩
  | cons w l ih =>
    unfold serveList
    split
    · obtain ⟨f, r, e⟩ := serveOne_frame fe pa w s
      obtain ⟨f', r', e'⟩ := ih (serveOne fe pa w s).1
      exact ⟨f', r', e'.trans (by rw [e])⟩
    · exact ih s

theorem serveWord_frame (fe pa : Nat) (s : State) : ∃ f r, serveWord fe pa s = { s with fes := f, replies := r } := by
  obtain ⟨f, r, e⟩ := serveList_frame fe pa (feAt s fe).waits s
  exact ⟨_, _, (congrArg (modFe fe fun x => { x with waits := (serveList fe pa (feAt s fe).waits s).2 }) e).trans rfl⟩

/-- A tag that is set changes the tags, and what the waiters of its word bring about. -/
theorem setTag_frame (pa : Nat) (full : Bool) (s : State) :
    ∃ f r, setTag pa full s = { putTag pa full s with fes := f, replies := r } := by
  unfold setTag
  dsimp only
  split
  · exact serveWord_frame _ _ (putTag pa full s)
  · exact ⟨_, _, rfl⟩

theorem tagFull_putTag (pa : Nat) (full : Bool) (s : State) : tagFull (putTag pa full s) pa = full := by
  unfold tagFull putTag
  rw [KV.get_put_same, Bool.not_not]

/-- One word lands (17 R286): it is written and its tag is full. -/
theorem landWords_one (pa : Nat) (w : W32) (s : State) :
    ∃ f r, landWords pa [w] s = { putTag pa true (wrPa pa 4 w.toNat s) with fes := f, replies := r } :=
  setTag_frame pa true (wrPa pa 4 w.toNat s)

/-! ### Cards -/

theorem KV.find_map_at {α : Type} (k : Nat) (g : α → α) (m : KV α) :
    KV.find k (m.map fun e => if e.1 == k then (e.1, g e.2) else e) = (KV.find k m).map g := by
  induction m with
  | nil => rfl
  | cons e m ih =>
    obtain ⟨j, v⟩ := e
    by_cases hj : j = k
    · simp [KV.find, hj]
    · have hj' : (j == k) = false := beq_eq_false_iff_ne.2 hj
      simp only [List.map_cons, hj', Bool.false_eq_true, if_false, KV.find, if_neg hj, ih]

theorem cardAt_modCard (id : Nat) (g : Card → Card) (s : State) : cardAt (modCard id g s) id = (cardAt s id).map g :=
  KV.find_map_at id g s.cards

/-- 04 R67: a copy card stands at a boundary when each of its receivers does. -/
theorem atBoundary_of_copy {c : Card} (hk : cardKind c.w = 1 ∨ cardKind c.w = 2)
    (hr : ∀ r ∈ c.rcv, r.failed = true ∨ r.landed % 4096 = 0 ∨ r.landed = outLen c r) : atBoundary c = true := by
  have hall : (c.rcv.all fun r => r.failed || r.landed % 4096 == 0 || r.landed == outLen c r) = true := by
    simpa [List.all_eq_true, or_assoc] using hr
  rcases hk with hk | hk <;> simp [atBoundary, hk, isCopy, hall]

theorem checkpoint_stops {s : State} {id : Nat} {c : Card} (hc : KV.find id s.cards = some c)
    (hp : (ctxAt s c.ctx).st = .preempting) (ho : cardOver c = false) (hn : c.checkpointed = false) (ha : cardAwaited s c = false)
    (hb : atBoundary c = true) :
    checkpoint id s = modCard id (fun c => { c with checkpointed := true, latch := none, lats := [] }) s := by
  simp only [checkpoint, cardAt, hc, hp, ho, hn, ha, hb, beq_self_eq_true, Bool.not_false, Bool.and_self, if_true]

/-! ### Ports -/

/-- A port after its own update. -/
theorem portOf_modPort {s : State} {fe pl ix : Nat} (hp : pl < 4) (g : PortState → PortState) :
    portOf (feAt (modPort fe pl ix g s) fe) pl ix = g (portOf (feAt s fe) pl ix) := by
  unfold modPort
  rw [feAt_modFe]
  simp only [portOf, modPortF, planeAt, modPl, vget_vset_same _ _ _ _ hp, KV.get_put_same]

/-- 09 R154: a token that reaches a port drops the latch of the command at its head. -/
theorem dropLatch_port {s : State} {fe pl ix : Nat} {x : StreamCmd} {q : List StreamCmd} (hp : pl < 4)
    (hq : (portOf (feAt s fe) pl ix).queue = x :: q) :
    (portOf (feAt (dropLatch (fe, pl, ix) s) fe) pl ix).queue = { x with latch := none, dropped := true } :: q ∧
      (dropLatch (fe, pl, ix) s).ctxs = s.ctxs ∧ (dropLatch (fe, pl, ix) s).mem = s.mem := by
  have e : dropLatch (fe, pl, ix) s = modPort fe pl ix (fun p => { p with queue := match p.queue with
      | x :: r => { x with latch := none, dropped := true } :: r
      | [] => [] }) s := by
    match pl, hp with
    | 0, _ | 1, _ | 2, _ | 3, _ => rfl
  rw [e, portOf_modPort hp, hq]
  exact ⟨rfl, rfl, rfl⟩

theorem relatchToken_head {s : State} {c : Nat} {u : Unmap} {us : List Unmap} {n : Nat × Nat × Nat} {rest : List (Nat × Nat × Nat)}
    (hu : (ctxAt s c).unmaps = u :: us) (hn : u.tokens = n :: rest) :
    relatchToken c s = dropLatch n (modCtx c (fun x => { x with unmaps := { u with tokens := rest } :: us }) s) := by
  simp only [relatchToken, hu, popToken, hn]

/-! ### The end of an UNMAP (09 R153) -/

theorem ctxAt_modCtx (c : Nat) (g : Ctx → Ctx) (s : State) : ctxAt (modCtx c g s) c = g (ctxAt s c) := KV.get_upd_same ..

/-- The entries that the end of an UNMAP leaves: not the RETIRING ones in its range. -/
theorem mem_ranges_endUnmap {u : Unmap} {x : Ctx} {e : Nat × Range} : e ∈ (endUnmap u x).ranges ↔
    e ∈ x.ranges ∧ ¬(e.2.retiring = true ∧ u.base.toNat ≤ e.2.img.base.toNat ∧ e.2.img.limit.toNat ≤ u.limit.toNat) := by
  simp only [endUnmap, List.mem_filter, Bool.not_eq_true', ← Bool.not_eq_true, Bool.and_eq_true, decide_eq_true_eq, and_assoc]

theorem unmapComplete_of_ready {s : State} {c : Nat} {u : Unmap} (hu : unmapReady s c = some u) :
    ∃ f r, unmapComplete c s =
      { putTag (ownPa s u.edge u.off) true (wrPa (ownPa s u.edge u.off) 4 0 (modCtx c (endUnmap u) s)) with fes := f, replies := r } := by
  simp only [unmapComplete, hu, landSys]
  exact landWords_one _ _ _

/-! ### The start of an edge core (26 R392) -/

/-- The first seat of an edge core as Horlyn starts it. -/
def startedCore (hand : W64) : Seat := { st := .loaded, pc := hand &&& ~~~7, ctx := horlyn, arch := { belayEn := false } }

theorem edgeStart_stopped {s : State} {d : Nat} {hand : W64} (hd : d < 8) (h : (seatAt s (25600 + d) 0).st = .free ∨
    (seatAt s (25600 + d) 0).st = .retired ∨ (seatAt s (25600 + d) 0).st = .faulted) :
    seatAt (edgeStart d hand s) (25600 + d) 0 = startedCore hand ∧ (edgeStart d hand s).mem = s.mem := by
  have e : edgeStart d hand s = modFe (25600 + d) (fun f => { f with
      holder := some horlyn, idle := false, seats := vset f.seats 0 (startedCore hand) }) s := by
    have hm : edgeBase + d % 8 = 25600 + d := by rw [Nat.mod_eq_of_lt hd]; rfl
    rcases h with h | h | h <;> simp only [edgeStart, hm, h] <;> rfl
  rw [e]
  refine ⟨?_, rfl⟩
  simp only [seatAt, feAt_modFe, seatOf]
  exact vget_vset_same _ _ _ _ (by decide)

theorem edgeStart_running {s : State} {d : Nat} {hand : W64} (hd : d < 8) (hf : (seatAt s (25600 + d) 0).st ≠ .free)
    (hr : (seatAt s (25600 + d) 0).st ≠ .retired) (hx : (seatAt s (25600 + d) 0).st ≠ .faulted) : edgeStart d hand s = s := by
  have hm : edgeBase + d % 8 = 25600 + d := by rw [Nat.mod_eq_of_lt hd]; rfl
  unfold edgeStart
  simp only [hm]

/-- Settles O47: each event is one named update, read back by the laws of the object that it changes. -/
theorem checkpointsUnmapsAndEdgeCores : Obligations.CheckpointsUnmapsAndEdgeCores := by
  unfold Obligations.CheckpointsUnmapsAndEdgeCores
  intro s
  refine ⟨fun id c hc hp ho hn ha hr hk => ?_, fun c u us fe pl ix rest x q hu hn hp hq => ?_, fun c u hu => ?_, fun d hand hd => ?_⟩
  · refine ⟨_, congrArg Host.Outcome.next (checkpoint_stops hc hp ho hn ha (atBoundary_of_copy hk hr)), ?_, rfl⟩
    exact (cardAt_modCard id _ s).trans (congrArg (Option.map _) hc)
  · obtain ⟨hport, hctxs, hmem⟩ := dropLatch_port (s := modCtx c (fun x => { x with unmaps := { u with tokens := rest } :: us }) s) hp hq
    refine ⟨_, congrArg Host.Outcome.next (relatchToken_head hu hn), ?_, hport, hmem⟩
    unfold ctxAt
    rw [hctxs]
    exact congrArg Ctx.unmaps (ctxAt_modCtx c _ s)
  · obtain ⟨f, r, e⟩ := unmapComplete_of_ready hu
    have hctx : ctxAt (unmapComplete c s) c = endUnmap u (ctxAt s c) := by
      rw [e]
      exact ctxAt_modCtx c _ s
    refine ⟨_, rfl, congrArg Ctx.unmaps hctx, fun e => ?_, ?_, ?_⟩
    · rw [hctx]
      exact mem_ranges_endUnmap
    · rw [e]
      exact rdBytes_wrBytes_same _ _ 4 0
    · rw [e]
      exact tagFull_putTag _ true _
  · have e : exec (.edgeCoreStart d hand) s = .next (edgeStart d hand s) := congrArg Host.Outcome.next (if_pos hd)
    refine ⟨fun h => ?_, fun hf hr hx => by rw [e, edgeStart_running hd hf hr hx]⟩
    obtain ⟨hseat, hmem⟩ := edgeStart_stopped (hand := hand) hd h
    exact ⟨_, e, by rw [hseat]; rfl, by rw [hseat]; rfl, by rw [hseat]; rfl, hmem⟩

end Sys2Proof
end

section
/-!
SUPPORT. The spill redirection (04 R71, 15 R244): how a slot ends that works on its hand or stalls, what the checks of a global
access find where it reaches its address, and the value of a redirected load.
-/

namespace Sys2Proof
open Machine

/-! ### How a slot ends -/

theorem modHand_at {s : State} {h : Hand} (hh : (cur s).hand = some h) (g : Hand → Hand) : modHand g s = modHand (fun _ => g h) s :=
  modCur_congr _ _ _ (by simp only [hh, Option.map_some])

theorem hand_seen {s : State} {h : Hand} {q : Sel} {w : Nat} (hi : Issues s h q w) :
    (cur (seen w s h)).hand = some { h with counted := true } := by
  rw [cur_seen w s h hi.seat hi.hand]

/-- A slot whose instruction works on its hand alone, which it leaves counted. -/
theorem issueGen_hand {wt : State → Hand → Nat} {base : Nat} {q : Sel} {bl : Bool} {f : State → State × Ans} {s : State} {h : Hand}
    {w : Nat} (hw : wt s h = w) (hi : Issues s h q w) (hb : h.flt = none) {g : Hand → Hand}
    (hf : f (seen w s h) = (modHand g (seen w s h), .done)) (hc : (g { h with counted := true }).counted = true) :
    issueGen wt base q bl f s = slotDone w s h (g { h with counted := true }) := by
  subst hw
  rw [issueGen_done wt base q bl f s h hi (fun _ => hb) _ hf, modHand_at (hand_seen hi), ← counted_eta _ hc,
    nextSlot_eq _ s h _ hi.seat hi.hand]
  rfl

/-- A slot that stalls (15 R244). -/
theorem issueGen_stall {wt : State → Hand → Nat} {base : Nat} {q : Sel} {bl : Bool} {f : State → State × Ans} {s u : State} {h : Hand}
    {w : Nat} (hw : wt s h = w) (hi : Issues s h q w) (hb : h.flt = none) (hf : f (seen w s h) = (u, .stall)) :
    issueGen wt base q bl f s = modHand (fun h => { h with stalled := true }) (cacheWalked u) := by
  subst hw
  have hx : (if h.counted = true then (s, true) else addWeight (wt s h) s) = (seen (wt s h) s h, true) := by
    by_cases hc : h.counted = true
    · simp [hc, seen]
    · rw [if_neg hc]
      exact addWeight_ok _ s h hi.seat hi.hand (by simpa using hc) (hi.room.resolve_left hc)
  simp only [issueGen, hi.hand, hi.on, if_true, hx, Bool.not_true, Bool.false_eq_true, if_false, hb, Option.isSome_none,
    Bool.and_false, Bool.or_self, hf]

/-! ### A state whose slot has been counted -/

section
variable (s : State) (f : KV FE)

/-- No FE has a part in what an address, a table or a way is: the translation of an access does not depend on them (09 R148). -/
theorem paBad_fes (pa : Nat) : paBad { s with fes := f } pa = paBad s pa := by
  show paRefused (if ownModule s pa = true then _ else _) pa = paRefused (if ownModule s pa = true then _ else _) pa
  split <;> rfl

theorem tableEntry_fes (table idx : Nat) : tableEntry { s with fes := f } table idx = tableEntry s table idx := by
  simp only [tableEntry, paBad_fes]
  rfl

theorem walkPath_fes (root va : Nat) : walkPath { s with fes := f } root va = walkPath s root va := by
  simp only [walkPath, tableEntry_fes]

theorem walkTlb_fes (c va : Nat) : walkTlb { s with fes := f } c va = walkTlb s c va := by
  simp only [walkTlb, walkPage, tableEntry_fes]
  rfl

theorem walkMeets_fes (tlb : List Tlb) (d c va : Nat) : walkMeets { s with fes := f } tlb d c va = walkMeets s tlb d c va := by
  simp only [walkMeets, walkPath_fes, paBad_fes]
  rfl

theorem dataXlat_fes (tlb : List Tlb) (c va : Nat) (need : Need) (bar : Bool) :
    dataXlat { s with fes := f } tlb c va need bar = dataXlat s tlb c va need bar := by
  simp only [dataXlat, xlate, walkTlb_fes]
  rfl

end

theorem Reaches.modCur {s : State} {va : W64} {al : Nat} {need : Need} {bar : Bool} {pa : Nat} {new : List Tlb}
    (h : Reaches s va al need bar pa new) (g : Seat → Seat) (hg : (g (cur s)).ctx = (cur s).ctx) (hk : s.curSeat < 4) :
    Reaches (modCur g s) va al need bar pa new := by
  obtain ⟨ha, hw, hd⟩ := h
  have ef : feAt (Machine.modCur g s) s.curFe = { feAt s s.curFe with
      seats := vset (feAt s s.curFe).seats s.curSeat (g (seatOf (feAt s s.curFe) s.curSeat)) } := feAt_modFe ..
  have ec : (cur (Machine.modCur g s)).ctx = (cur s).ctx := (congrArg Seat.ctx (cur_modCur g s hk)).trans hg
  refine ⟨ha, ?_, ?_⟩
  · unfold walkOf
    rw [modCur_curFe, ef, ec]
    exact (walkMeets_fes s _ _ _ _ _).trans hw
  · rw [modCur_curFe, ef, ec]
    exact (dataXlat_fes s _ _ _ _ _ _).trans hd

/-- The slot's weight does not matter to the checks of its access. -/
theorem Reaches.seen {s : State} {va : W64} {al : Nat} {need : Need} {bar : Bool} {pa : Nat} {new : List Tlb}
    (h : Reaches s va al need bar pa new) (w : Nat) (hd : Hand) (hk : s.curSeat < 4) : Reaches (seen w s hd) va al need bar pa new := by
  unfold Sys2Proof.seen
  split
  · exact h
  · exact h.modCur _ rfl hk

theorem waitsG_of_reaches {s : State} {va : W64} {al : Nat} {need : Need} {bar : Bool} {pa : Nat} {new : List Tlb}
    (h : Reaches s va al need bar pa new) : waitsG s va al = false := by
  have hw : walkMeets s (feAt s s.curFe).tlb (feDie s.curFe) (cur s).ctx va.toNat = .go := h.2.1
  simp only [waitsG, walkWaits, hw]
  exact Bool.and_false _

theorem chkGlobal_of_reaches {s : State} {va : W64} {al : Nat} {need : Need} {bar : Bool} {pa : Nat} {new : List Tlb}
    (h : Reaches s va al need bar pa new) (g : Nat → Hand → Hand) (hd : Hand) :
    chkGlobal s va al need bar g hd = g pa { hd with walked := hd.walked ++ new } := by
  obtain ⟨ha, hw, hx⟩ := h
  have hw : walkMeets s (feAt s s.curFe).tlb (feDie s.curFe) (cur s).ctx va.toNat = .go := hw
  simp only [chkGlobal, ha, bne_self_eq_false, Bool.false_eq_true, if_false, hw, refusal, hx]

theorem watch_unwatched {h : Hand} (hu : Unwatched h) (a n : Nat) (ld st loc : Bool) : watch a n ld st loc h = h := by
  have hk : fld h.work.dbgctl 11 10 = 0 := by
    have := congrArg BitVec.toNat hu
    rw [BitVec.extractLsb'_toNat, Nat.shiftRight_eq_div_pow] at this
    exact this
  simp [watch, watchHit, hk]

/-! ### A redirected load -/

/-- The value that a redirected load of `n` bytes at `va` puts in its register, of what its request brought (17 R285). -/
def spillValue (h : Hand) (va : W64) (n : Nat) (nz : Bool) (v : Nat) : W64 := w64 (extend (spillOver h va.toNat v n) (8 * n) 64 nz)

section
variable {s : State} {h : Hand} {d : Reg} {va : W64} {n : Nat} {nz : Bool} (hh : (cur s).hand = some h)
include hh

theorem spillLoad_of_grant {v : W64} {st : Nat} (hg : h.grant = some (v, st)) :
    spillLoad d va n nz s = (modHand (setS d (spillValue h va n nz v.toNat)) s, .done) := by
  simp only [spillLoad, hh, hg]
  rw [modHand_at hh, modHand_at hh (setS _ _)]
  rfl

theorem spillLoad_overflows (hg : h.grant = none) (he : h.entered = false) (hv : va < (cur s).ovflim) :
    spillLoad d va n nz s = (modHand (hFault Code.spillOverflow 0 va) s, .done) := by
  simp only [spillLoad, hh, hg, he, hv, Bool.false_eq_true, if_false, if_true]

/-- 04 R71: the request of a redirected load is sent at once, and issue stalls; no fence holds it (12 R187). -/
theorem spillLoad_sends {pa : Nat} {new : List Tlb} (hg : h.grant = none) (he : h.entered = false) (hv : ¬ va < (cur s).ovflim)
    (hr : Reaches s va (n + 1) { r := true } false pa new) (hu : Unwatched h) (hb : h.gbytes = []) :
    let r := { stamp s (mkReq s s.curFe s.curSeat h.addr va pa (.read (n + 1) true) none) with after := 0 }
    spillLoad d va (n + 1) nz s = (sendReq r (modHand (fun _ =>
      { h with walked := h.walked ++ new, entered := true, asked := some r }) { s with nextId := s.nextId + 1 }), .stall) := by
  have hw : chkGlobal s va (n + 1) { r := true } false (fun _ => watch va.toNat (n + 1) true false false) h =
      { h with walked := h.walked ++ new } :=
    (chkGlobal_of_reaches hr _ h).trans (watch_unwatched (h := { h with walked := h.walked ++ new }) hu _ _ _ _ _)
  have hs : spillHas h va.toNat (n + 1) = false := by simp [spillHas, hb, KV.find]
  simp only [spillLoad, hh, hg, he, hv, waitsG_of_reaches hr, hw, bne_self_eq_false, hs, hr.2.2, Bool.false_eq_true, if_false]

end

/-! ### The bytes of a value -/

/-- A hand's stores to redirected bytes decide what its loads make of a value. -/
theorem spillOver_congr {h h' : Hand} (e : h.gbytes = h'.gbytes) (va v n : Nat) : spillOver h va v n = spillOver h' va v n := by
  induction n generalizing va v with
  | zero => rfl
  | succ n ih => rw [spillOver, spillOver, ih, e]

/-- Each byte is the one that the hand has stored at its address, or that of the value read. -/
theorem spillOver_byte (h : Hand) (va v n i : Nat) (hi : i < n) :
    BitVec.ofNat 8 (spillOver h va v n / 256 ^ i) = (KV.find (va + i) h.gbytes).getD (BitVec.ofNat 8 (v / 256 ^ i)) := by
  induction n generalizing va v i with
  | zero => exact absurd hi (Nat.not_lt_zero i)
  | succ n ih =>
    cases i with
    | zero =>
      apply BitVec.eq_of_toNat_eq
      simpa [spillOver, Nat.add_mul_mod_self_left] using BitVec.isLt _
    | succ i =>
      have e : spillOver h va v (n + 1) / 256 ^ (i + 1) = spillOver h (va + 1) (v / 256) n / 256 ^ i := by
        rw [spillOver, Nat.pow_succ', ← Nat.div_div_eq_div_mul, Nat.add_mul_div_left _ _ (by decide),
          Nat.div_eq_of_lt (BitVec.isLt _), Nat.zero_add]
      rw [e, ih _ _ _ (by omega), Nat.div_div_eq_div_mul, ← Nat.pow_succ', Nat.add_assoc, Nat.add_comm 1 i]

/-- The value of a load is its bytes extended with zeros or with their sign (17 R285). -/
theorem w64_extend (x w : Nat) (nz : Bool) (hw : w ≤ 64) :
    w64 (extend x w 64 nz) = if nz then (BitVec.ofNat w x).setWidth 64 else (BitVec.ofNat w x).signExtend 64 := by
  have hp : 2 ^ w ≤ 2 ^ 64 := Nat.pow_le_pow_right (by decide) hw
  have hx : x % 2 ^ w < 2 ^ w := Nat.mod_lt _ (Nat.two_pow_pos w)
  apply BitVec.eq_of_toNat_eq
  cases nz with
  | true => simp [w64, extend]
  | false =>
    rw [if_neg Bool.false_ne_true, BitVec.toNat_signExtend, BitVec.msb_eq_decide, BitVec.toNat_setWidth, BitVec.toNat_ofNat,
      Nat.mod_eq_of_lt (Nat.lt_of_lt_of_le hx hp)]
    by_cases hs : x % 2 ^ w < 2 ^ (w - 1)
    · simp only [w64, extend, hs, Nat.not_le.2 hs, decide_true, decide_false, Bool.or_true, if_true, Bool.false_eq_true, if_false,
        Nat.add_zero, BitVec.toNat_ofNat]
      exact Nat.mod_eq_of_lt (by omega)
    · simp only [w64, extend, hs, Nat.not_lt.1 hs, decide_true, decide_false, Bool.or_false, if_true, Bool.false_eq_true, if_false,
        BitVec.toNat_ofNat]
      rw [Nat.mod_eq_of_lt (by omega)]
      omega

/-- Its bits: those of the low `w` bits, and above them zeros or copies of the sign. -/
theorem getLsbD_w64_extend (x w i : Nat) (nz : Bool) (h0 : 0 < w) (hw : w ≤ 64) (hi : i < 64) :
    (w64 (extend x w 64 nz)).getLsbD i = if i < w then x.testBit i else !nz && x.testBit (w - 1) := by
  have hl : ∀ j, (BitVec.ofNat w x).getLsbD j = (decide (j < w) && x.testBit j) := fun j => BitVec.getLsbD_ofNat w x j
  rw [w64_extend x w nz hw]
  cases nz with
  | true =>
    simp only [if_true, BitVec.getLsbD_setWidth, hl, hi, decide_true, Bool.true_and, Bool.not_true, Bool.false_and]
    split <;> simp [*]
  | false =>
    have hm : (BitVec.ofNat w x).msb = x.testBit (w - 1) := by
      rw [BitVec.msb_eq_getLsbD_last, hl, decide_eq_true (by omega), Bool.true_and]
    simp only [Bool.false_eq_true, if_false, BitVec.getLsbD_signExtend, hl, hi, decide_true, Bool.true_and, Bool.not_false, hm]
    split <;> simp [*]

/-- Byte `i` of the low `w` bits. -/
theorem extractLsb'_w64_extend (x w i : Nat) (nz : Bool) (hi : 8 * i + 8 ≤ w) (hw : w ≤ 64) :
    (w64 (extend x w 64 nz)).extractLsb' (8 * i) 8 = BitVec.ofNat 8 (x / 256 ^ i) := by
  have hp : 256 ^ i = 2 ^ (8 * i) := by rw [Nat.pow_mul]
  apply BitVec.eq_of_getLsbD_eq
  intro j hj
  rw [BitVec.getLsbD_extractLsb', getLsbD_w64_extend x w _ nz (by omega) hw (by omega), if_pos (by omega), BitVec.getLsbD_ofNat, hp,
    Nat.testBit_div_two_pow, Nat.add_comm j]

/-- The bytes of a redirected load: those that its hand has stored there, over those that its request brought. -/
theorem extractLsb'_spillValue {h : Hand} {va v : W64} {n i : Nat} {nz : Bool} (hi : i < n) (hn : n ≤ 8) :
    (spillValue h va n nz v.toNat).extractLsb' (8 * i) 8 = (KV.find (va.toNat + i) h.gbytes).getD (v.extractLsb' (8 * i) 8) := by
  have hv : v.extractLsb' (8 * i) 8 = BitVec.ofNat 8 (v.toNat / 256 ^ i) := by
    rw [BitVec.extractLsb', Nat.shiftRight_eq_div_pow, Nat.pow_mul]
  rw [spillValue, extractLsb'_w64_extend _ _ _ _ (by omega) (by omega), spillOver_byte h va.toNat v.toNat n i hi, hv]

theorem getLsbD_spillValue {h : Hand} {va : W64} {n i v : Nat} {nz : Bool} (h0 : 0 < n) (hn : n ≤ 8) (hi : i < 64) (hni : 8 * n ≤ i) :
    (spillValue h va n nz v).getLsbD i = (!nz && (spillValue h va n nz v).getLsbD (8 * n - 1)) := by
  rw [spillValue, getLsbD_w64_extend _ _ _ _ (by omega) (by omega) hi, if_neg (by omega),
    getLsbD_w64_extend _ _ _ _ (by omega) (by omega) (by omega), if_pos (by omega)]

/-! ### Page-table walks where no line is about to fail (13 R205) -/

/-- No line of a gather unit is about to report an error. -/
def NoEcc (s : State) : Prop := ∀ e ∈ s.gus, e.2.ecc = []

/-- `u` differs from `s` in its gather units alone, none of which has a line that is about to fail. -/
def CacheOnly (s u : State) : Prop := NoEcc u ∧ ∃ g, u = { s with gus := g }

theorem CacheOnly.trans {s t u : State} (h : CacheOnly s t) (h' : CacheOnly t u) : CacheOnly s u := by
  obtain ⟨-, g, rfl⟩ := h
  obtain ⟨hu, g', rfl⟩ := h'
  exact ⟨hu, g', rfl⟩

theorem CacheOnly.each {α : Type} {f : α → State → State} (hf : ∀ x s, NoEcc s → CacheOnly s (f x s)) (l : List α) {s : State}
    (h : NoEcc s) : CacheOnly s (each l f s) :=
  each_keeps (P := CacheOnly s) (fun x u hu => hu.trans (hf x u hu.1)) l ⟨h, _, rfl⟩

theorem NoEcc.guAt {s : State} (h : NoEcc s) (n : Nat) : (guAt s n).ecc = [] := by
  rcases KV.get_default_or_mem {} n s.gus with e | hm
  · exact congrArg Gu.ecc e
  · exact h _ hm

theorem CacheOnly.modGu {s : State} (h : NoEcc s) (n : Nat) {g : Gu → Gu} (hg : ∀ x : Gu, x.ecc = [] → (g x).ecc = []) :
    CacheOnly s (modGu n g s) := by
  refine ⟨fun e he => ?_, _, rfl⟩
  have hu : e ∈ KV.upd {} n g s.gus := he
  rcases KV.mem_upd hu with rfl | ⟨hm, -⟩
  · exact hg _ (h.guAt n)
  · exact h e hm

theorem ecc_activate (key : Nat) (g : Gu) : (activate key g).ecc = g.ecc := by
  unfold activate
  dsimp only
  split <;> rfl

theorem ecc_install (seg : Nat) (g : Gu) : (install seg g).ecc = g.ecc := by
  unfold install
  dsimp only
  split
  · split
    · rfl
    · split
      · exact ecc_activate _ _
      · rfl
  · rfl

theorem ecc_fillEcc (seg : Nat) (g : Gu) (h : g.ecc = []) : (fillEcc seg g).ecc = [] := by
  unfold fillEcc
  rw [h]
  exact h

/-- An access to a line of HBM changes the gather units alone. -/
theorem CacheOnly.edgeTouch {s : State} (h : NoEcc s) (c pa : Nat) (w : Bool) : CacheOnly s (edgeTouch c pa w s) := by
  have hb : badFill (Machine.guAt s (guOfPa pa)) pa = false := by
    unfold badFill
    rw [h.guAt]
    rfl
  unfold Machine.edgeTouch
  simp only [hb, Bool.false_eq_true, if_false]
  split
  · exact ⟨h, _, rfl⟩
  · split
    · exact .modGu h _ fun x hx => hx
    · exact .modGu h _ fun x hx => (ecc_install _ _).trans ((ecc_activate _ _).trans (ecc_fillEcc _ _ hx))

theorem CacheOnly.walkTouch {s : State} (h : NoEcc s) (c va : Nat) : CacheOnly s (walkTouch c va s) :=
  .each (fun _ _ h => .edgeTouch h ..) _ h

theorem CacheOnly.cur {s u : State} (h : CacheOnly s u) : Machine.cur u = Machine.cur s := by
  obtain ⟨-, g, rfl⟩ := h
  rfl

/-- What an FE caches is no part of its seats. -/
theorem cur_modFe_tlb (l : List Tlb → List Tlb) (s : State) : cur (modFe s.curFe (fun f => { f with tlb := l f.tlb }) s) = cur s := by
  show seatOf (feAt (modFe s.curFe (fun f => { f with tlb := l f.tlb }) s) s.curFe) s.curSeat = _
  rw [feAt_modFe]
  rfl

/-- The hand of the seat in turn with no walk left, its FE having cached the walks `l`. -/
def walksCached (l : List Tlb) (s : State) : State :=
  modFe s.curFe (fun f => { f with tlb := cacheXlat l f.tlb }) (modHand (fun h => { h with walked := [] }) s)

theorem walksCached_frame (l : List Tlb) (s : State) : ∃ f, walksCached l s = { s with fes := f } := ⟨_, rfl⟩

theorem cur_walksCached {s : State} {h : Hand} (l : List Tlb) (hk : s.curSeat < 4) (hh : (cur s).hand = some h) :
    cur (walksCached l s) = { cur s with hand := some { h with walked := [] } } := by
  have e : cur (walksCached l s) = cur (modHand (fun h => { h with walked := [] }) s) := cur_modFe_tlb (cacheXlat l) _
  rw [e, cur_modHand _ _ hk, hh]
  rfl

/-- The caching of a slot's walks, where no line is about to fail: the hand of the seat in turn has none left, and beside that seat
the FE in turn and the gather units alone change. -/
theorem cacheWalked_frame {s : State} {h : Hand} (hk : s.curSeat < 4) (hh : (cur s).hand = some h) (he : NoEcc s) :
    cur (cacheWalked s) = { cur s with hand := some { h with walked := [] } } ∧ ∃ f g, cacheWalked s = { s with fes := f, gus := g } := by
  by_cases hw : h.walked = []
  · have e : cacheWalked s = s := by simp only [cacheWalked, hh, hw, List.isEmpty_nil, if_true]
    rw [e]
    refine ⟨?_, _, _, rfl⟩
    rw [← hw, ← hh]
  · have e : cacheWalked s = each h.walked (fun t => walkTouch t.ctx t.base.toNat) (walksCached h.walked s) := by
      simp only [cacheWalked, hh, List.isEmpty_iff, hw, if_false]
      rfl
    have hc : CacheOnly (walksCached h.walked s) (cacheWalked s) := by
      rw [e]
      exact .each (fun t u (hu : NoEcc u) => .walkTouch hu t.ctx t.base.toNat) _ he
    refine ⟨hc.cur.trans (cur_walksCached _ hk hh), ?_⟩
    obtain ⟨f, ef⟩ := walksCached_frame h.walked s
    obtain ⟨-, g, eg⟩ := hc
    exact ⟨f, g, by rw [eg, ef]⟩

end Sys2Proof
end

section
/-!
SUPPORT. LD and ST below the spill floor (04 R71), and O20.
-/

namespace Sys2Proof
open Machine

section
variable {w : BitVec 2} {d : Reg} {off : BitVec 16} {nz : Bool} {q : Sel} {s u : State} {h : Hand}

/-- The counting of a slot's weight leaves what the redirection reads of the seat. -/
theorem redirected_seen (n : Nat) (hk : s.curSeat < 4) (hh : (cur s).hand = some h) (a : Reg) (ea : W64) :
    redirected (cur (seen n s h)) a ea = redirected (cur s) a ea ∧ spillAddr (cur (seen n s h)) ea = spillAddr (cur s) ea ∧
      (cur (seen n s h)).ovflim = (cur s).ovflim := by
  rw [cur_seen n s h hk hh]
  exact ⟨rfl, rfl, rfl⟩

/-- 15 R244: a redirected LD weighs 160, and its slot ends as the access to the overflow area does. -/
theorem exec_ld_redirected_done (hi : Issues s h q 160) (hb : h.flt = none) (hr : redirected (cur s) 62 (ea16 h 62 off) = true)
    {g : Hand → Hand} (hf : spillLoad d (spillAddr (cur s) (ea16 h 62 off)) (widthBytes w) nz (seen 160 s h) =
      (modHand g (seen 160 s h), .done)) (hc : (g { h with counted := true }).counted = true) :
    exec (.ld w d 62 off nz q) s = .next (slotDone 160 s h (g { h with counted := true })) := by
  obtain ⟨er, ea, -⟩ := redirected_seen 160 hi.seat hi.hand 62 (ea16 h 62 off)
  refine congrArg Host.Outcome.next (issueGen_hand (if_pos hr) hi hb ?_ hc)
  simp only [hand_seen hi]
  exact (if_pos (er.trans hr)).trans ((congrArg (fun va => spillLoad d va (widthBytes w) nz (seen 160 s h)) ea).trans hf)

theorem exec_ld_redirected_stall (hi : Issues s h q 160) (hb : h.flt = none) (hr : redirected (cur s) 62 (ea16 h 62 off) = true)
    (hf : spillLoad d (spillAddr (cur s) (ea16 h 62 off)) (widthBytes w) nz (seen 160 s h) = (u, .stall)) :
    exec (.ld w d 62 off nz q) s = .next (modHand (fun h => { h with stalled := true }) (cacheWalked u)) := by
  obtain ⟨er, ea, -⟩ := redirected_seen 160 hi.seat hi.hand 62 (ea16 h 62 off)
  refine congrArg Host.Outcome.next (issueGen_stall (if_pos hr) hi hb ?_)
  simp only [hand_seen hi]
  exact (if_pos (er.trans hr)).trans ((congrArg (fun va => spillLoad d va (widthBytes w) nz (seen 160 s h)) ea).trans hf)

/-- A redirected LD below OVFLIM (04 R71). -/
theorem exec_ld_overflows (hi : Issues s h q 160) (hb : h.flt = none) (hr : redirected (cur s) 62 (ea16 h 62 off) = true)
    (hg : h.grant = none) (he : h.entered = false) (hv : spillAddr (cur s) (ea16 h 62 off) < (cur s).ovflim) :
    exec (.ld w d 62 off nz q) s =
      .next (slotDone 160 s h (recorded h Code.spillOverflow 0 (spillAddr (cur s) (ea16 h 62 off)))) := by
  obtain ⟨-, -, ev⟩ := redirected_seen 160 hi.seat hi.hand 62 (ea16 h 62 off)
  have hx : hFault Code.spillOverflow 0 (spillAddr (cur s) (ea16 h 62 off)) { h with counted := true } =
      { recorded h Code.spillOverflow 0 (spillAddr (cur s) (ea16 h 62 off)) with counted := true } := by
    simp only [hFault, recorded, hb, Option.none_or]
  rw [exec_ld_redirected_done hi hb hr (spillLoad_overflows (hand_seen hi) hg he (by rw [ev]; exact hv)) (by rw [hx]), hx,
    slotDone_counted]

/-- The answer of a redirected LD. -/
theorem exec_ld_granted (hi : Issues s h q 160) (hb : h.flt = none) (hr : redirected (cur s) 62 (ea16 h 62 off) = true)
    {v : W64} {st : Nat} (hg : h.grant = some (v, st)) :
    exec (.ld w d 62 off nz q) s =
      .next (slotDone 160 s h (setS d (spillValue h (spillAddr (cur s) (ea16 h 62 off)) (widthBytes w) nz v.toNat) h)) := by
  have hv : ∀ va, spillValue { h with counted := true } va (widthBytes w) nz v.toNat = spillValue h va (widthBytes w) nz v.toNat :=
    fun va => congrArg (fun x => w64 (extend x (8 * widthBytes w) 64 nz)) (spillOver_congr (h := { h with counted := true }) (h' := h) rfl ..)
  rw [exec_ld_redirected_done hi hb hr (spillLoad_of_grant (hand_seen hi) hg) rfl, hv]
  exact congrArg Host.Outcome.next (slotDone_counted 160 s h (setS d _ h) true)

/-- A request of the seat in turn is stamped alike when the weight of its slot has been counted. -/
theorem stamp_seen (n : Nat) (hk : s.curSeat < 4) (hh : (cur s).hand = some h) {r : Req} (hf : r.fe = s.curFe)
    (hs : r.seat = s.curSeat) : stamp (seen n s h) r = stamp s r := by
  have hseat : seatAt (seen n s h) r.fe r.seat = { cur s with belayCnt := counts s h n, hand := some { h with counted := true } } := by
    rw [hf, hs, ← seen_curFe n s h, ← seen_curSeat n s h]
    exact cur_seen n s h hk hh
  have hcur : seatAt s r.fe r.seat = cur s := by rw [hf, hs]; rfl
  have hid : (seen n s h).nextId = s.nextId := by unfold seen; split <;> rfl
  have hfr : jobFrozen (seen n s h) r.ctx = jobFrozen s r.ctx := by unfold seen; split <;> rfl
  simp only [stamp, hseat, hcur, hid, hfr]

theorem mkReq_seen (n : Nat) (hk : s.curSeat < 4) (hh : (cur s).hand = some h) (va : W64) (pa : Nat) (op : ReqOp) (land : Option Nat) :
    mkReq (seen n s h) (seen n s h).curFe (seen n s h).curSeat h.addr va pa op land = request s h va pa op land := by
  have hctx : (seatAt (seen n s h) s.curFe s.curSeat).ctx = (cur s).ctx := by
    rw [← seen_curFe n s h, ← seen_curSeat n s h]
    exact (congrArg Seat.ctx (cur_seen n s h hk hh)).trans rfl
  have hid : (seen n s h).nextId = s.nextId := by unfold seen; split <;> rfl
  simp only [mkReq, request, seen_curFe, seen_curSeat, hctx, hid]

/-- The seat in turn when the slot of its hand, which is now `h'`, has sent a request. -/
theorem cur_sendReq_modHand {r : Req} {h' : Hand} {n : Nat} (hk : s.curSeat < 4) (hh : (cur s).hand = some h) :
    cur (sendReq r (modHand (fun _ => h') { s with nextId := n })) = { cur s with hand := some h' } := by
  refine (cur_modHand (fun _ => h') { s with nextId := n } hk).trans ?_
  show { cur s with hand := (cur s).hand.map fun _ => h' } = _
  rw [hh]
  rfl

/-- The hand whose slot has sent `r` after the walks `new`. -/
def sentHand (h : Hand) (new : List Tlb) (r : Req) : Hand :=
  { h with counted := true, walked := h.walked ++ new, entered := true, asked := some r }

/-- A redirected LD from OVFLIM on whose hand has stored nothing there sends its request and stalls. -/
theorem exec_ld_sends {pa : Nat} {new : List Tlb} (hi : Issues s h q 160) (hb : h.flt = none)
    (hr : redirected (cur s) 62 (ea16 h 62 off) = true) (hu : Unwatched h) (hg : h.grant = none) (he : h.entered = false)
    (hy : h.gbytes = []) (hv : ¬ spillAddr (cur s) (ea16 h 62 off) < (cur s).ovflim) (hn : NoEcc s)
    (hx : Reaches s (spillAddr (cur s) (ea16 h 62 off)) (widthBytes w) { r := true } false pa new) :
    let r := { stamp s (request s h (spillAddr (cur s) (ea16 h 62 off)) pa (.read (widthBytes w) true) none) with after := 0 }
    ∃ t, exec (.ld w d 62 off nz q) s = .next t ∧ t.reqs = s.reqs ++ [r] ∧ t.mem = s.mem ∧
      cur t = { cur s with belayCnt := counts s h 160, hand := some { h with
        counted := true, entered := true, asked := some r, stalled := true } } := by
  intro r
  obtain ⟨-, -, ev⟩ := redirected_seen 160 hi.seat hi.hand 62 (ea16 h 62 off)
  obtain ⟨m, hm⟩ : ∃ m, widthBytes w = m + 1 := ⟨_, (Nat.succ_pred_eq_of_pos (Nat.two_pow_pos _)).symm⟩
  have hk : (seen 160 s h).curSeat < 4 := by rw [seen_curSeat]; exact hi.seat
  have hsend := spillLoad_sends (d := d) (nz := nz) (n := m) (hand_seen hi) hg he (by rw [ev]; exact hv)
    (hm ▸ hx.seen 160 h hi.seat) hu hy
  rw [← hm] at hsend
  have hreq : { stamp (seen 160 s h) (mkReq (seen 160 s h) (seen 160 s h).curFe (seen 160 s h).curSeat h.addr
      (spillAddr (cur s) (ea16 h 62 off)) pa (.read (widthBytes w) true) none) with after := 0 } = r := by
    rw [mkReq_seen 160 hi.seat hi.hand, stamp_seen 160 hi.seat hi.hand rfl rfl]
  simp only [hreq] at hsend
  have hgus : (seen 160 s h).gus = s.gus := by unfold seen; split <;> rfl
  have hreqs : (seen 160 s h).reqs = s.reqs := by unfold seen; split <;> rfl
  have hcur := cur_sendReq_modHand (r := r) (h' := sentHand h new r) (n := (seen 160 s h).nextId + 1) hk (hand_seen hi)
  obtain ⟨hc, f, g, hfr⟩ := cacheWalked_frame
    (s := sendReq r (modHand (fun _ => sentHand h new r) { seen 160 s h with nextId := (seen 160 s h).nextId + 1 })) hk
    (congrArg Seat.hand hcur) (show ∀ e ∈ (seen 160 s h).gus, e.2.ecc = [] from hgus ▸ hn)
  refine ⟨_, exec_ld_redirected_stall hi hb hr hsend, ?_, ?_, ?_⟩
  · show (cacheWalked (sendReq r (modHand (fun _ => sentHand h new r) _))).reqs = _
    rw [hfr]
    exact congrArg (· ++ [r]) hreqs
  · show (cacheWalked (sendReq r (modHand (fun _ => sentHand h new r) _))).mem = _
    rw [hfr]
    exact seen_mem 160 s h
  · have hk' : (cacheWalked (sendReq r (modHand (fun _ => sentHand h new r)
        { seen 160 s h with nextId := (seen 160 s h).nextId + 1 }))).curSeat < 4 := by
      rw [hfr]
      exact hk
    refine (cur_modHand _ _ hk').trans ?_
    rw [hc, hcur, cur_seen 160 s h hi.seat hi.hand]
    simp only [sentHand, Option.map_some, hi.walks]

/-! ### A redirected store -/

/-- What an ST of `n` bytes to the overflow address `va` makes of its hand in the state `u` (04 R71). -/
def spillStore (u : State) (d : Reg) (va : W64) (n : Nat) (h : Hand) : Hand :=
  if va < (cur u).ovflim then hFault Code.spillOverflow 0 va h
  else chkGlobal u va n { w := true } false (fun pa x =>
    hEff (.gstore pa va n (lowBytes (rdS h d) n) u.nextId)
      { watch va.toNat n false true false x with
        gbytes := shadow (watch va.toNat n false true false x).gbytes va.toNat n (lowBytes (rdS h d) n).toNat }) h

/-- A slot that works on its hand and need not wait for what it reads. -/
theorem issueRead_hand {n : Nat} {wait : State → Hand → Bool} {g : State → Hand → Hand} (hi : Issues s h q n) (hb : h.flt = none)
    (hw : wait (seen n s h) { h with counted := true } = false) (hc : (g (seen n s h) { h with counted := true }).counted = true) :
    issueRead n q wait g s = slotDone n s h (g (seen n s h) { h with counted := true }) := by
  refine issueGen_hand rfl hi hb ?_ hc
  simp only [hand_seen hi, hw, Bool.false_eq_true, if_false]

/-- A redirected ST works on its hand when it need not wait for a walk. -/
theorem exec_st_redirected (hi : Issues s h q 8) (hb : h.flt = none) (hr : redirected (cur s) 62 (ea16 h 62 off) = true)
    (hw : spillAddr (cur s) (ea16 h 62 off) < (cur s).ovflim ∨
      waitsG (seen 8 s h) (spillAddr (cur s) (ea16 h 62 off)) (widthBytes w) = false)
    (hc : (spillStore (seen 8 s h) d (spillAddr (cur s) (ea16 h 62 off)) (widthBytes w) { h with counted := true }).counted = true) :
    exec (.st w d 62 off q) s = .next (slotDone 8 s h
      (spillStore (seen 8 s h) d (spillAddr (cur s) (ea16 h 62 off)) (widthBytes w) { h with counted := true })) := by
  obtain ⟨er, ea, ev⟩ := redirected_seen 8 hi.seat hi.hand 62 (ea16 h 62 off)
  have hr' := er.trans hr
  have hwait : (redirected (cur (seen 8 s h)) 62 (ea16 h 62 off) &&
      !decide (spillAddr (cur (seen 8 s h)) (ea16 h 62 off) < (cur (seen 8 s h)).ovflim) &&
      waitsG (seen 8 s h) (spillAddr (cur (seen 8 s h)) (ea16 h 62 off)) (widthBytes w)) = false := by
    rw [ea, ev]
    rcases hw with hw | hw
    · simp only [decide_eq_true hw, Bool.not_true, Bool.and_false, Bool.false_and]
    · simp only [hw, Bool.and_false]
  have hstore : ∀ b : Hand, (if redirected (cur (seen 8 s h)) 62 (ea16 h 62 off) = true then
      spillStore (seen 8 s h) d (spillAddr (cur (seen 8 s h)) (ea16 h 62 off)) (widthBytes w) { h with counted := true } else b) =
      spillStore (seen 8 s h) d (spillAddr (cur s) (ea16 h 62 off)) (widthBytes w) { h with counted := true } := by
    intro b
    rw [if_pos hr', ea]
  refine congrArg Host.Outcome.next ((issueRead_hand hi hb ?_ ?_).trans ?_)
  · exact hwait
  · exact (congrArg Hand.counted (hstore _)).trans hc
  · exact congrArg (slotDone 8 s h) (hstore _)

/-- A redirected ST below OVFLIM (04 R71). -/
theorem exec_st_overflows (hi : Issues s h q 8) (hb : h.flt = none) (hr : redirected (cur s) 62 (ea16 h 62 off) = true)
    (hv : spillAddr (cur s) (ea16 h 62 off) < (cur s).ovflim) :
    exec (.st w d 62 off q) s =
      .next (slotDone 8 s h (recorded h Code.spillOverflow 0 (spillAddr (cur s) (ea16 h 62 off)))) := by
  obtain ⟨-, -, ev⟩ := redirected_seen 8 hi.seat hi.hand 62 (ea16 h 62 off)
  have hx : spillStore (seen 8 s h) d (spillAddr (cur s) (ea16 h 62 off)) (widthBytes w) { h with counted := true } =
      { recorded h Code.spillOverflow 0 (spillAddr (cur s) (ea16 h 62 off)) with counted := true } := by
    rw [spillStore, if_pos (by rw [ev]; exact hv)]
    simp only [hFault, recorded, hb, Option.none_or]
  rw [exec_st_redirected hi hb hr (.inl hv) (by rw [hx]), hx, slotDone_counted]

/-- A redirected ST from OVFLIM on queues its bytes for the commit, and its hand's own loads see them (04 R57). -/
theorem exec_st_queues {pa : Nat} {new : List Tlb} (hi : Issues s h q 8) (hb : h.flt = none)
    (hr : redirected (cur s) 62 (ea16 h 62 off) = true) (hu : Unwatched h) (hv : ¬ spillAddr (cur s) (ea16 h 62 off) < (cur s).ovflim)
    (hx : Reaches s (spillAddr (cur s) (ea16 h 62 off)) (widthBytes w) { w := true } false pa new) :
    exec (.st w d 62 off q) s = .next (slotDone 8 s h
      (queued { h with
        walked := h.walked ++ new
        gbytes := shadow h.gbytes (spillAddr (cur s) (ea16 h 62 off)).toNat (widthBytes w) (lowBytes (rdS h d) (widthBytes w)).toNat }
        (.gstore pa (spillAddr (cur s) (ea16 h 62 off)) (widthBytes w) (lowBytes (rdS h d) (widthBytes w)) s.nextId))) := by
  obtain ⟨-, -, ev⟩ := redirected_seen 8 hi.seat hi.hand 62 (ea16 h 62 off)
  have hreach := hx.seen 8 h hi.seat
  have hid : (seen 8 s h).nextId = s.nextId := by unfold seen; split <;> rfl
  have hst : spillStore (seen 8 s h) d (spillAddr (cur s) (ea16 h 62 off)) (widthBytes w) { h with counted := true } =
      { queued { h with
        walked := h.walked ++ new
        gbytes := shadow h.gbytes (spillAddr (cur s) (ea16 h 62 off)).toNat (widthBytes w) (lowBytes (rdS h d) (widthBytes w)).toNat }
        (.gstore pa (spillAddr (cur s) (ea16 h 62 off)) (widthBytes w) (lowBytes (rdS h d) (widthBytes w)) s.nextId) with
        counted := true } := by
    rw [spillStore, if_neg (by rw [ev]; exact hv), chkGlobal_of_reaches hreach,
      watch_unwatched (h := { h with counted := true, walked := h.walked ++ new }) hu, hid]
    rfl
  rw [exec_st_redirected hi hb hr (.inr (waitsG_of_reaches hreach)) (by rw [hst]), hst, slotDone_counted]

end

/-- Settles O20: the access goes to the overflow area, and each way in which the slot ends there is a lemma above. -/
theorem spillRedirection : Obligations.SpillRedirection := by
  unfold Obligations.SpillRedirection
  intro w d off nz q s h hb hu ea floor va n hlt
  have hr : redirected (cur s) 62 (ea16 h 62 off) = true := by
    rw [redirected, show ((62 : Reg) == 62#6) = true from rfl, Bool.true_and]
    exact decide_eq_true hlt
  refine ⟨fun hv => ⟨fun hi he hg => exec_ld_overflows hi hb hr hg he hv, fun hi => exec_st_overflows hi hb hr hv⟩,
    fun pa new hv hi hx => ⟨_, exec_st_queues hi hb hr hu (BitVec.not_lt.2 hv) hx⟩,
    fun pa new hv hi hx he hg hy hst hn => ?_, fun v st hg hi => ?_⟩
  · obtain ⟨t, ht, hreqs, hmem, hcur⟩ := exec_ld_sends (d := d) (nz := nz) hi hb hr hu hg he hy (BitVec.not_lt.2 hv) hn hx
    exact ⟨t, ht, hreqs, hmem, by rw [hcur]; exact hst, by rw [hcur]; rfl⟩
  · have h0 : 0 < n := Nat.two_pow_pos _
    have h8 : n ≤ 8 := Nat.pow_le_pow_right (by decide) (Nat.le_of_lt_succ w.isLt)
    exact ⟨_, exec_ld_granted hi hb hr hg, fun i hin => extractLsb'_spillValue hin h8,
      fun i h64 hni => getLsbD_spillValue h0 h8 h64 hni⟩

end Sys2Proof
end

section
/-!
SUPPORT. Contexts (04 R54, R63 to R69): binding, unbinding, the pre-emption request and the kill.
-/

namespace Sys2Proof
open Machine

/-! ### Binding and unbinding -/

/-- A context with the registers of its image. -/
def boundCtx (img : BindImage) (x : Ctx) : Ctx :=
  { x with st := .bound, job := img.job, ranges := bindRanges img, ptRoot := img.ptRoot, fltvec := img.fltvec }

/-- The binding of a FREE context changes it and the queues (04 R54). -/
theorem bindCtx_of_free {s : State} {c : Nat} {img : BindImage} (h : (ctxAt s c).st = .free) :
    ∃ q l, bindCtx c img s = { modCtx c (boundCtx img) s with queues := q, slots := l } := by
  unfold bindCtx
  rw [if_neg (by rw [h]; decide)]
  refine each_keeps (P := fun u => ∃ q l, u = { modCtx c (boundCtx img) s with queues := q, slots := l }) ?_ _ ⟨_, _, rfl⟩
  rintro x _ ⟨q, l, rfl⟩
  dsimp only
  split <;> exact ⟨_, _, rfl⟩

theorem bindCtx_refused {s : State} {c : Nat} {img : BindImage} (h : (ctxAt s c).st ≠ .free) :
    bindCtx c img s = report (.contextError c) s := if_pos (bne_iff_ne.2 h)

/-- A context with nothing but what CTXCTL has set. -/
def freedCtx (x : Ctx) : Ctx := { belayEn := x.belayEn, meldWin := x.meldWin }

theorem unbindCtx_of_bound {s : State} {c : Nat} (h : (ctxAt s c).st = .bound) (hu : (ctxAt s c).unmaps = []) :
    unbindCtx c s = modCtx c freedCtx (dropTlbs c (discardWork c s)) := by
  simp only [unbindCtx, h, hu, bne_self_eq_false, Bool.false_eq_true, if_false, each, List.foldl_nil]
  rfl

theorem unbindCtx_refused {s : State} {c : Nat} (h : (ctxAt s c).st ≠ .bound) : unbindCtx c s = report (.contextError c) s :=
  if_pos (bne_iff_ne.2 h)

/-- What is left of a context's work when it is discarded. -/
theorem discardWork_leaves (c : Nat) (s : State) : (∀ e ∈ (discardWork c s).launches, e.2.ctx ≠ c) ∧
    (∀ e ∈ (discardWork c s).cards, e.2.ctx ≠ c) ∧ ∀ e ∈ (discardWork c s).cascades, e.2.ctx ≠ c :=
  ⟨fun _ he => bne_iff_ne.1 (List.mem_filter.1 he).2, fun _ he => bne_iff_ne.1 (List.mem_filter.1 he).2,
    fun _ he => bne_iff_ne.1 (List.mem_filter.1 he).2⟩

/-! ### The pre-emption request (04 R63, R64) -/

/-- A context that is being pre-empted. -/
def preemptedCtx (x : Ctx) : Ctx := { x with st := .preempting, pend := false }

/-- A context that has been told why it is to be pre-empted. -/
def causedCtx (cause : BitVec 2) (x : Ctx) : Ctx := { x with cause := cause }

theorem preemptSeat_between_hands {s : State} {fe k : Nat} (hr : (seatAt s fe k).st = .running) (hh : (seatAt s fe k).hand = none) :
    preemptSeat fe k s = s := by
  simp only [preemptSeat, hr, hh]

/-- A context none of whose seats is in a hand begins to be pre-empted. -/
theorem preemptNow_between_hands {s : State} {c : Nat}
    (h : ∀ e ∈ seatsOf s c, (seatAt s e.1 e.2).st = .running ∧ (seatAt s e.1 e.2).hand = none) :
    preemptNow c s = modCtx c preemptedCtx s :=
  each_id fun e he => preemptSeat_between_hands (h e he).1 (h e he).2

/-- A cause that is noted does not matter to whether a hitch holds the context. -/
theorem hitched_cause (s : State) (c : Nat) (cause : BitVec 2) :
    hitched (modCtx c (causedCtx cause) s) c = hitched s c := by
  have e : (ctxAt (modCtx c (causedCtx cause) s) c).job = (ctxAt s c).job := by rw [ctxAt_modCtx, causedCtx]
  unfold hitched jobFrozen
  rw [e]
  rfl

theorem preemptRequest_running {s : State} {c : Nat} {cause : BitVec 2} (hr : (ctxAt s c).st = .running) (hp : (ctxAt s c).pend = false) :
    preemptRequest c cause s = if hitched s c then modCtx c (fun x => { x with pend := true }) (modCtx c (causedCtx cause) s)
      else preemptNow c (modCtx c (causedCtx cause) s) := by
  rw [← hitched_cause s c cause]
  simp only [preemptRequest, hr, hp, Bool.false_eq_true, if_false]
  rfl

theorem preemptRequest_again {s : State} {c : Nat} {cause : BitVec 2} (h : (ctxAt s c).st = .preempting) :
    preemptRequest c cause s = s := by
  simp only [preemptRequest, h]

theorem preemptRequest_refused {s : State} {c : Nat} {cause : BitVec 2} (hr : (ctxAt s c).st ≠ .running)
    (hp : (ctxAt s c).st ≠ .preempting) : preemptRequest c cause s = report (.contextError c) s := by
  unfold preemptRequest
  simp only

/-! ### The kill of a SAVED context (04 R54) -/

/-- A context that owes no PREEMPT its result. -/
def unowedCtx (x : Ctx) : Ctx := { x with owed := [] }

theorem settleOwed_of_none {s : State} {c : Nat} {v : W32} (h : (ctxAt s c).owed = []) :
    settleOwed c v s = modCtx c unowedCtx s := by
  simp only [settleOwed, h, each, List.foldl_nil]
  rfl

/-- A context that has been killed. -/
def killedCtx (x : Ctx) : Ctx :=
  { x with st := .bound, blocks := [], savedOn := [], children := 0, pend := false, stopAfter := false, cause := 0 }

theorem killCtx_of_saved {s : State} {c : Nat} (h : (ctxAt s c).st = .saved) (ho : (ctxAt s c).owed = [])
    (hf : ∀ fe ∈ ctxFes s c, isSaved fe = true) (hg : ∀ n ∈ s.graph, n.ctx ≠ c) :
    ∃ f r, killCtx c s = modCtx c unowedCtx (modCtx c killedCtx (discardWork c { s with fes := f, recs := r })) := by
  have hfes : (ctxFes s c).filter (fun fe => !isSaved fe) = [] := List.filter_eq_nil_iff.2 fun fe he => by simp [hf fe he]
  have hbusy : s.graph.filter (fun n => n.ctx == c) = [] := List.filter_eq_nil_iff.2 fun n hn => by simp [hg n hn]
  have hs : ((CtxState.saved == CtxState.stopped) && (ctxAt s c).blocks.isEmpty) = false := rfl
  refine ⟨s.fes.filter fun e => !((ctxAt s c).blocks.map (·.key)).contains e.1,
    s.recs.filter fun r => !((ctxAt s c).blocks.map (·.key)).contains r.fe, ?_⟩
  simp only [killCtx, h, hfes, hbusy, hs, setIdle, each, List.foldl_nil, List.map_nil, List.eraseDups_nil, bne_self_eq_false,
    Bool.false_and, Bool.false_eq_true, if_false]
  exact settleOwed_of_none ((congrArg Ctx.owed (ctxAt_modCtx ..)).trans ho)

theorem killCtx_refused {s : State} {c : Nat} (hs : (ctxAt s c).st ≠ .saved) (ht : (ctxAt s c).st ≠ .stopped) :
    killCtx c s = report (.contextError c) s :=
  if_pos (by rw [bne_iff_ne.2 hs, bne_iff_ne.2 ht]; rfl)

end Sys2Proof
end

section
/-!
SUPPORT. Contexts (04 R65 to R70): what the save and the resume of a context leave of its FEs and of its own entry.
-/

namespace Sys2Proof
open Machine

/-! ### Maps and vectors under a function -/

theorem KV.get_map_at {α : Type} (d : α) (k : Nat) (g : α → α) (hg : g d = d) (m : KV α) :
    KV.get d k (m.map fun e => (e.1, g e.2)) = g (KV.get d k m) := by
  induction m with
  | nil => exact hg.symm
  | cons e r ih =>
    obtain ⟨j, v⟩ := e
    by_cases hj : j = k <;> simp [KV.get, hj, ih]

theorem KV.get_drop_other {α : Type} (d : α) (j k : Nat) (m : KV α) (h : j ≠ k) : KV.get d j (KV.drop k m) = KV.get d j m := by
  simp only [KV.get_eq_find, KV.find_drop_other j k m h]

theorem vget_map {α : Type} {n : Nat} (d : α) (g : α → α) (v : Vector α n) (k : Nat) (h : k < n) :
    vget d (v.map g) k = g (vget d v k) := by
  simp [vget, h]

/-! ### The requests of a context, and the number of an FE -/

/-- A request where `mapReqs c g` has been. -/
def movedReq (c : Nat) (g : Req → Req) (r : Req) : Req := if r.ctx == c then g r else r

/-- A context where the requests have changed by `q`. -/
def movedCtx (q : Req → Req) (x : Ctx) : Ctx := { x with
  parked := x.parked.map q
  blocks := x.blocks.map fun b => { b with held := b.held.map q, lands := b.lands.map fun x => (x.1, q x.2.1, x.2.2) } }

/-- An FE where the requests have changed by `q`. -/
def movedFe (q : Req → Req) (f : FE) : FE := { f with waits := f.waits.map fun w => match w with
  | .remote r => .remote (q r)
  | _ => w }

theorem ctxAt_mapReqs (c : Nat) (g : Req → Req) (s : State) (d : Nat) :
    ctxAt (mapReqs c g s) d = movedCtx (movedReq c g) (ctxAt s d) :=
  KV.get_map_at ({} : Ctx) d (movedCtx (movedReq c g)) rfl s.ctxs

theorem fes_mapReqs (c : Nat) (g : Req → Req) (s : State) :
    (mapReqs c g s).fes = s.fes.map fun e => (e.1, movedFe (movedReq c g) e.2) := rfl

theorem ctxAt_renameFe (c old new : Nat) (s : State) (d : Nat) : ∃ q, ctxAt (renameFe c old new s) d = movedCtx q (ctxAt s d) :=
  ⟨_, ctxAt_mapReqs c _ s d⟩

/-- Everything but what an FE waits for and what is held on it. -/
def SameSeats (f g : FE) : Prop := f.seats = g.seats ∧ f.holder = g.holder

theorem feAt_mapReqs (c : Nat) (g : Req → Req) (s : State) (fe : Nat) : SameSeats (feAt (mapReqs c g s) fe) (feAt s fe) := by
  have e : feAt (mapReqs c g s) fe = movedFe (movedReq c g) (feAt s fe) :=
    KV.get_map_at ({} : FE) fe (movedFe (movedReq c g)) rfl s.fes
  rw [e]
  exact ⟨rfl, rfl⟩

/-- An FE where the holds of FE `old` have become those of FE `new`. -/
def renamedHolds (old new : Nat) (f : FE) : FE :=
  { f with holds := f.holds.map fun h => { h with fe := if h.fe == old then new else h.fe } }

theorem fes_renameFe (c old new : Nat) (s : State) : (renameFe c old new s).fes =
    (mapReqs c (fun r => { r with fe := if r.fe == old then new else r.fe }) s).fes.map fun e => (e.1, renamedHolds old new e.2) := rfl

theorem feAt_renameFe (c old new : Nat) (s : State) (fe : Nat) : SameSeats (feAt (renameFe c old new s) fe) (feAt s fe) := by
  have e : feAt (renameFe c old new s) fe = renamedHolds old new (feAt (mapReqs c (fun r => { r with
      fe := if r.fe == old then new else r.fe }) s) fe) :=
    KV.get_map_at ({} : FE) fe (renamedHolds old new) rfl (mapReqs c (fun r => { r with fe := if r.fe == old then new else r.fe }) s).fes
  rw [e]
  exact feAt_mapReqs ..

/-- A context has the seats that it had, when each FE keeps its seats. -/
theorem seatsOf_map {s u : State} {g : FE → FE} (hu : u.fes = s.fes.map fun e => (e.1, g e.2)) (hg : ∀ f, (g f).seats = f.seats)
    (c : Nat) : seatsOf u c = seatsOf s c := by
  have hs (f : FE) (k : Nat) : seatOf (g f) k = seatOf f k := by unfold seatOf; rw [hg f]
  simp only [seatsOf, hu, List.flatMap_map, hs]

theorem seatsOf_mapReqs (c : Nat) (g : Req → Req) (s : State) (d : Nat) : seatsOf (mapReqs c g s) d = seatsOf s d :=
  seatsOf_map (fes_mapReqs c g s) (fun _ => rfl) d

theorem seatsOf_renameFe (c old new : Nat) (s : State) (d : Nat) : seatsOf (renameFe c old new s) d = seatsOf s d := by
  rw [seatsOf_map (fes_renameFe c old new s) (fun _ => rfl), seatsOf_mapReqs]

/-! ### The restore of a block (04 R68, R69) -/

/-- Only the contents of memory and the tags have changed. -/
def BytesOnly (s u : State) : Prop := ∃ m t, u = { s with mem := m, tags := t }

theorem BytesOnly.wrPa {s u : State} (h : BytesOnly s u) (pa n v : Nat) : BytesOnly s (wrPa pa n v u) := by
  obtain ⟨m, t, rfl⟩ := h
  exact ⟨_, t, rfl⟩

theorem BytesOnly.putTag {s u : State} (h : BytesOnly s u) (pa : Nat) (full : Bool) : BytesOnly s (putTag pa full u) := by
  obtain ⟨m, t, rfl⟩ := h
  exact ⟨m, _, rfl⟩

theorem BytesOnly.putRange {s u : State} (h : BytesOnly s u) (n : Nat) (r : Nat × List Byte × List Bool) :
    BytesOnly s (putRange n r u) :=
  each_keeps (P := BytesOnly s) (fun _ _ h => h.putTag _ _) _ (each_keeps (P := BytesOnly s) (fun _ _ h => h.wrPa _ _ _) _ h)

/-- The FE of a block is taken from its key to its place. -/
theorem restoreFe_moves (c : Nat) (x : Ctx) (moves : List (Nat × Nat)) (b : SaveBlock) (s : State) : ∃ m t f,
    f.seats = (feAt s b.key).seats.map (restoreSeat (ctxAt s c).belayEn) ∧ f.holder = some c ∧
    restoreFe c x moves b s = renameFe c b.key (moveOf moves b) { s with
      mem := m, tags := t, fes := KV.drop b.key (KV.set (moveOf moves b) f s.fes) } := by
  obtain ⟨m, t, e⟩ := each_keeps (P := BytesOnly s) (f := putRange (moveOf moves b)) (fun r _ h => h.putRange _ r) b.ranges
    (show BytesOnly s (clearPad (moveOf moves b) s) from ⟨_, _, rfl⟩)
  unfold restoreFe
  simp only [e]
  exact ⟨m, t, _, rfl, rfl, rfl⟩

theorem ctxAt_restoreFe (c : Nat) (x : Ctx) (moves : List (Nat × Nat)) (b : SaveBlock) (s : State) :
    ∃ q, ctxAt (restoreFe c x moves b s) c = movedCtx q (ctxAt s c) := by
  obtain ⟨m, t, f, -, -, e⟩ := restoreFe_moves c x moves b s
  rw [e]
  exact ctxAt_renameFe ..

/-- What was held for an FE of which nothing was held. -/
theorem performHeld_of_none {n : Nat} {b : SaveBlock} {s : State} (hh : b.held = []) (hl : b.lands = []) : performHeld n b s = s := by
  simp only [performHeld, hh, hl]
  rfl

/-- A saved seat with no stub is loaded at its hand. -/
theorem restoreSeat_of_saved {t : Seat} {en : Bool} (hs : t.st = .saved) (hf : t.faulted = false) (hb : hdrStub t.hdr = 0) :
    (restoreSeat en t).st = .loaded ∧ (restoreSeat en t).pc = t.pc ∧ (restoreSeat en t).belayCnt = 0 := by
  simp [restoreSeat, hs, hf, hb]

/-! ### The resume of a context of one block -/

/-- The one block `b` of context `c`, of which nothing is held, may be restored to its place. -/
structure Resumes (s : State) (c : Nat) (b : SaveBlock) : Prop where
  saved : (ctxAt s c).st = .saved
  blocks : (ctxAt s c).blocks = [b]
  held : b.held = []
  lands : b.lands = []
  launches : s.launches = []
  fused : s.fused = []
  place : b.fe < 25600
  key : 2 ^ 20 ≤ b.key
  idle : (feAt s b.fe).idle = true
  keyed : ∀ e ∈ seatsOf s c, e.1 = b.key

/-- A context that runs again, its ranges under `g`. -/
def runningCtx (g : Range → Range) (y : Ctx) : Ctx :=
  { y with st := .running, blocks := [], savedOn := [], ranges := y.ranges.map fun e => (e.1, g e.2) }

theorem Resumes.movesOk {s : State} {c : Nat} {b : SaveBlock} (h : Resumes s c b) : movesOk s c [] = true := by
  have hp : decide (b.fe < edgeBase) = true := decide_eq_true h.place
  simp [Machine.movesOk, h.blocks, moveOf, noRepeat, hp, feFree, h.fused, h.idle, h.launches]

/-- The context runs again, on its FEs and with its cards as they are now. -/
def awake (c : Nat) (g : Range → Range) (q : Req → Req) (r : KV Card) (s : State) : State :=
  { modCtx c (runningCtx g) (mapReqs c q s) with cards := r }

theorem ctxAt_awake (c : Nat) (g : Range → Range) (q : Req → Req) (r : KV Card) (s : State) :
    ctxAt (awake c g q r s) c = runningCtx g (movedCtx (movedReq c q) (ctxAt s c)) := by
  rw [← ctxAt_mapReqs]
  exact ctxAt_modCtx c (runningCtx g) (mapReqs c q s)

theorem feAt_awake (c : Nat) (g : Range → Range) (q : Req → Req) (r : KV Card) (s : State) (fe : Nat) :
    SameSeats (feAt (awake c g q r s) fe) (feAt s fe) := feAt_mapReqs c q s fe

theorem seatsOf_awake (c : Nat) (g : Range → Range) (q : Req → Req) (r : KV Card) (s : State) (d : Nat) :
    seatsOf (awake c g q r s) d = seatsOf s d := seatsOf_mapReqs c q s d

/-- 04 R68, R69: the block is restored, the requests follow it, and the seats that are FAULTED go on. -/
theorem Resumes.resumeCtx {s : State} {c : Nat} {b : SaveBlock} (h : Resumes s c b) : ∃ cs g q r v,
    v = awake c g q r (restoreFe c (ctxAt s c) [] b { s with launches := [], cascades := cs }) ∧
    resumeCtx c [] s = each (seatsOf v c) (fun e => proceedFaulted e.1 e.2) v := by
  have hg : ((ctxAt s c).st != .saved || !Machine.movesOk s c []) = false := by rw [h.saved, h.movesOk]; rfl
  unfold Machine.resumeCtx
  rw [if_neg (by rw [hg]; exact Bool.false_ne_true)]
  rw [h.launches, List.map_nil]
  extract_lets s1 s2 s3 held s4 s5 s6 s7
  have h3 : s3 = restoreFe c (ctxAt s c) [] b s1 := congrArg (fun l => each l (restoreFe c (ctxAt s c) []) s1) h.blocks
  have hheld : ∀ b' ∈ held, b'.held = [] ∧ b'.lands = [] := by
    obtain ⟨q, hq⟩ := ctxAt_restoreFe c (ctxAt s c) [] b s1
    have hb : held = (movedCtx q (ctxAt s c)).blocks := congrArg Ctx.blocks ((congrArg (ctxAt · c) h3).trans hq)
    rw [hb]
    simp [movedCtx, h.blocks, h.held, h.lands]
  have h6 : s6 = s5 := each_id fun b' hb => performHeld_of_none (hheld b' hb).1 (hheld b' hb).2
  have h7 : s7 = awake c (moveRange s4 (ctxAt s c) []) (fun r => { r with pa := movePa s3 (ctxAt s c) [] r.pa }) s7.cards s3 :=
    congrArg (fun u => { u with cards := s7.cards }) h6
  exact ⟨_, _, _, _, s7, h7.trans (congrArg (awake c _ _ _) h3), rfl⟩

theorem SameSeats.trans {f g h : FE} (a : SameSeats f g) (b : SameSeats g h) : SameSeats f h := ⟨a.1.trans b.1, a.2.trans b.2⟩

/-- The FE of the restored block, at its place. -/
theorem Resumes.feAt_restoreFe {s : State} {c : Nat} {b : SaveBlock} (h : Resumes s c b) (x : Ctx) : ∃ f,
    f.seats = (feAt s b.key).seats.map (restoreSeat (ctxAt s c).belayEn) ∧ f.holder = some c ∧
    SameSeats (feAt (restoreFe c x [] b s) b.fe) f := by
  obtain ⟨m, t, f, hs, hh, e⟩ := restoreFe_moves c x [] b s
  have hne : b.fe ≠ b.key := by have := h.place; have := h.key; omega
  refine ⟨f, hs, hh, ?_⟩
  have hf : KV.get {} b.fe (KV.drop b.key (KV.set b.fe f s.fes)) = f := by rw [KV.get_drop_other _ _ _ _ hne, KV.get_set_same]
  rw [e]
  refine (feAt_renameFe ..).trans ?_
  show SameSeats (KV.get {} b.fe (KV.drop b.key (KV.set b.fe f s.fes))) f
  rw [hf]
  exact ⟨rfl, rfl⟩

/-- All seats of the context stand on the FE of the restored block. -/
theorem Resumes.seatsOf_restoreFe {s : State} {c : Nat} {b : SaveBlock} (h : Resumes s c b) (x : Ctx) {e : Nat × Nat}
    (he : e ∈ seatsOf (restoreFe c x [] b s) c) : e.1 = b.fe ∧ e.2 < 4 := by
  obtain ⟨m, t, f, -, -, er⟩ := restoreFe_moves c x [] b s
  rw [er, seatsOf_renameFe] at he
  obtain ⟨hk, f', hm, hc⟩ := mem_seatsOf.1 he
  refine ⟨?_, hk⟩
  obtain ⟨hm, hne⟩ := List.mem_filter.1 (show (e.1, f') ∈ KV.drop b.key (KV.set b.fe f s.fes) from hm)
  rcases KV.mem_insert hm with heq | hold
  · exact congrArg Prod.fst heq
  · exact absurd (h.keyed e (mem_seatsOf.2 ⟨hk, f', (List.mem_filter.1 hold).1, hc⟩)) (bne_iff_ne.1 hne)

theorem proceedFaulted_of_not_faulted {s : State} {fe k : Nat} (h : (seatAt s fe k).st ≠ .faulted) : proceedFaulted fe k s = s :=
  if_pos (bne_iff_ne.2 h)

/-- 04 R68: the context runs on the FE of its block, and its seats are loaded at their hands. -/
theorem Resumes.runs {s : State} {c : Nat} {b : SaveBlock} (h : Resumes s c b)
    (hs : ∀ k < 4, (seatOf (feAt s b.key) k).st = .saved ∧ (seatOf (feAt s b.key) k).faulted = false ∧
      hdrStub (seatOf (feAt s b.key) k).hdr = 0) :
    (ctxAt (Machine.resumeCtx c [] s) c).st = .running ∧ (ctxAt (Machine.resumeCtx c [] s) c).blocks = [] ∧
    (feAt (Machine.resumeCtx c [] s) b.fe).holder = some c ∧
    ∀ k < 4, (seatAt (Machine.resumeCtx c [] s) b.fe k).st = .loaded ∧
      (seatAt (Machine.resumeCtx c [] s) b.fe k).pc = (seatOf (feAt s b.key) k).pc ∧
      (seatAt (Machine.resumeCtx c [] s) b.fe k).belayCnt = 0 := by
  obtain ⟨cs, g, q, r, v, hv, e⟩ := h.resumeCtx
  have h' : Resumes { s with launches := [], cascades := cs } c b := { h with launches := rfl }
  obtain ⟨f, hfs, hfh, hf⟩ := h'.feAt_restoreFe (ctxAt s c)
  obtain ⟨p, hp⟩ := ctxAt_restoreFe c (ctxAt s c) [] b { s with launches := [], cascades := cs }
  have hfe : SameSeats (feAt v b.fe) f := by
    rw [hv]
    exact (feAt_awake ..).trans hf
  have hseat (k : Nat) (hk : k < 4) : seatAt v b.fe k = restoreSeat (ctxAt s c).belayEn (seatOf (feAt s b.key) k) := by
    unfold seatAt seatOf
    rw [hfe.1, hfs]
    exact vget_map _ _ _ _ hk
  have hload (k : Nat) (hk : k < 4) : (seatAt v b.fe k).st = .loaded ∧ (seatAt v b.fe k).pc = (seatOf (feAt s b.key) k).pc ∧
      (seatAt v b.fe k).belayCnt = 0 := by
    obtain ⟨hsv, hff, hst⟩ := hs k hk
    rw [hseat k hk]
    exact restoreSeat_of_saved hsv hff hst
  have hid : each (seatsOf v c) (fun e => proceedFaulted e.1 e.2) v = v := by
    refine each_id fun x hx => proceedFaulted_of_not_faulted ?_
    rw [hv, seatsOf_awake] at hx
    obtain ⟨hx1, hx2⟩ := h'.seatsOf_restoreFe (ctxAt s c) hx
    rw [hx1, (hload _ hx2).1]
    exact SeatState.noConfusion
  have hc : ctxAt v c = runningCtx g (movedCtx (movedReq c q) (movedCtx p (ctxAt s c))) := by
    rw [hv, ctxAt_awake, hp]
    rfl
  rw [e, hid]
  exact ⟨by rw [hc]; rfl, by rw [hc]; rfl, hfe.2.trans hfh, hload⟩

theorem resumeCtx_refused {s : State} {c : Nat} {moves : List (Nat × Nat)} (h : (ctxAt s c).st ≠ .saved) :
    resumeCtx c moves s = report (.contextError c) s :=
  if_pos (by rw [bne_iff_ne.2 h]; rfl)

end Sys2Proof
end

section
/-!
SUPPORT. The save of a context (04 R65, R69), and the statement about contexts.
-/

namespace Sys2Proof
open Machine

/-! ### What the halting of a seat keeps of a context that is saved -/

/-- Context `c` is to be saved, not stopped, no PREEMPT awaits it, and the module has no cascade. -/
def Saving (c : Nat) (s : State) : Prop := (ctxAt s c).stopAfter = false ∧ (ctxAt s c).owed = [] ∧ s.cascades = []

theorem Saving.dropHold {c : Nat} {s : State} (h : Saving c s) (home pa fe k : Nat) : Saving c (dropHold home pa fe k s) := by
  unfold Machine.dropHold
  extract_lets key s1
  obtain ⟨f, r, e⟩ := serveWord_frame home key s1
  rw [e]
  exact h

/-- A context in which request `r` is neither parked nor held. -/
def withoutReq (r : Req) (x : Ctx) : Ctx := { x with
  parked := x.parked.filter fun y => !isReq r y, blocks := x.blocks.map fun b => { b with held := b.held.filter fun y => !isReq r y } }

theorem ctxAt_takeBack (r : Req) (s : State) (c : Nat) : ctxAt (takeBack r s) c = withoutReq r (ctxAt s c) := by
  have hx := KV.get_map_at ({} : Ctx) c (withoutReq r) rfl s.ctxs
  unfold takeBack
  extract_lets out s1
  split <;> exact hx

theorem cascades_takeBack (r : Req) (s : State) : (takeBack r s).cascades = s.cascades := by
  unfold takeBack
  extract_lets out s1
  split <;> rfl

theorem Saving.takeBack {c : Nat} {s : State} (h : Saving c s) (r : Req) : Saving c (takeBack r s) := by
  unfold Saving
  rw [ctxAt_takeBack, cascades_takeBack]
  exact h

/-- Whatever is sent in place of a request, its context keeps what the taking back has left. -/
theorem Saving.withdraw {c : Nat} {s : State} (h : Saving c s) (r : Req) (granted : Option (W64 × Nat)) :
    Saving c (withdraw r granted s) := by
  have h1 := Saving.takeBack (s := { s with replies := s.replies.filter fun x => !isReq r x.req }) h r
  unfold Machine.withdraw
  dsimp only
  generalize Machine.takeBack r { s with replies := s.replies.filter (fun x => !isReq r x.req) } = u at h1 ⊢
  repeat' split
  all_goals exact h1

theorem Saving.abandon {c : Nat} {s : State} (h : Saving c s) (fe k : Nat) : Saving c (abandon fe k s) := by
  unfold Machine.abandon
  split
  · exact h
  · next hand _ =>
    extract_lets s1 s2 s3 s4 ends
    have h3 : Saving c s3 := by
      refine each_keeps (fun x u hu => ?_) hand.holds (show Saving c s2 from h)
      split
      · split
        · exact hu
        · exact hu.dropHold ..
      · exact hu
    have h4 : Saving c s4 := each_keeps (P := Saving c) (f := fun x => restoreReq x.1 x.2) (fun _ _ hu => hu) hand.popws h3
    split
    · exact h4.withdraw ..
    · exact each_keeps (fun x u hu => hu.dropHold ..) _ h4

theorem Saving.haltStub {c : Nat} {s : State} (h : Saving c s) (fe k : Nat) : Saving c (haltStub fe k s) := by
  unfold Machine.haltStub
  extract_lets t
  split
  · exact h.abandon fe k
  · exact h

/-- With no cascade, no emission is withdrawn. -/
theorem withdrawEmis_of_no_cascade {s : State} (h : s.cascades = []) (fe : Nat) : withdrawEmis fe s = s := by
  unfold withdrawEmis
  split
  · rfl
  · rw [cascAt, h]
    rfl

/-! ### The FE of a saved context -/

theorem Saving.saveFe {c : Nat} {s : State} (h : Saving c s) (fe : Nat) : 
    (ctxAt (saveFe c fe s) c).stopAfter = false ∧ (ctxAt (saveFe c fe s) c).owed = [] := by
  unfold Machine.saveFe
  extract_lets f ranges u block f' gone s1
  rw [ctxAt_modCtx]
  obtain ⟨q, hq⟩ := ctxAt_renameFe c fe u s1 c
  rw [hq]
  exact ⟨h.1, h.2.1⟩

/-- An FE that no context holds and no seat is on. -/
def Vacant (f : FE) : Prop := f.holder = none ∧ f.seats = Vector.replicate 4 {}

theorem saveFe_vacates (c fe : Nat) (s : State) : Vacant (feAt (saveFe c fe s) fe) := by
  unfold saveFe
  extract_lets f ranges u block f' gone s1
  have hne : fe ≠ u := by
    have : u = fe + 2 ^ 20 * (s.nextId + 1) := rfl
    omega
  have hf : feAt s1 fe = gone := by
    show KV.get {} fe (KV.set u f' (KV.set fe gone s.fes)) = gone
    rw [KV.get_set_other _ _ _ _ _ hne, KV.get_set_same]
  obtain ⟨hs, hh⟩ := hf ▸ feAt_renameFe c fe u s1 fe
  exact ⟨hh, hs⟩

theorem Vacant.setIdle {s : State} {fe : Nat} (h : Vacant (feAt s fe)) (idle : Bool) (l : List Nat) :
    Vacant (feAt (setIdle idle l s) fe) := by
  refine each_keeps (P := fun u => Vacant (feAt u fe)) (fun x u hu => ?_) l h
  by_cases hx : fe = x
  · subst hx
    rw [feAt_modFe]
    exact hu
  · rw [feAt_modFe_other _ _ _ _ hx]
    exact hu

theorem ctxs_setIdle (idle : Bool) (l : List Nat) (s : State) : (setIdle idle l s).ctxs = s.ctxs :=
  each_keeps (P := fun u => u.ctxs = s.ctxs) (f := fun fe => modFe fe fun f => { f with idle := idle }) (fun _ _ hu => hu) l rfl

/-- 04 R65, R69: a context on one FE is saved, and the FE is vacant. -/
theorem Saving.saveCtx {s : State} {c fe : Nat} (h : Saving c s) (hf : ctxFes s c = [fe]) :
    (ctxAt (saveCtx c s) c).st = .saved ∧ Vacant (feAt (saveCtx c s) fe) := by
  unfold Machine.saveCtx
  extract_lets fes s1 rects s2 s3 s4
  have h0 : Saving c (each (seatsOf s c) (fun e => Machine.haltStub e.1 e.2) s) :=
    each_keeps (fun e _ hu => hu.haltStub e.1 e.2) _ h
  have h1 : Saving c s1 := by
    have e : s1 = each (seatsOf s c) (fun e => Machine.haltStub e.1 e.2) s := each_id fun fe _ => withdrawEmis_of_no_cascade h0.2.2 fe
    rw [e]
    exact h0
  have e2 : s2 = Machine.saveFe c fe s1 := congrArg (fun l => each l (Machine.saveFe c) s1) hf
  have hv : Vacant (feAt s4 fe) := by
    refine Vacant.setIdle (s := s3) ?_ true (fes ++ rects)
    show Vacant (feAt s2 fe)
    rw [e2]
    exact saveFe_vacates ..
  have hc : ctxAt s4 c = ctxAt s2 c := congrArg (KV.get ({} : Ctx) c) (ctxs_setIdle true (fes ++ rects) s3)
  obtain ⟨hstop, howed⟩ := h1.saveFe fe
  rw [← e2, ← hc] at hstop howed
  rw [if_neg (by rw [hstop]; exact Bool.false_ne_true), settleOwed_of_none (by rw [ctxAt_modCtx]; exact howed)]
  refine ⟨?_, hv⟩
  rw [ctxAt_modCtx, ctxAt_modCtx]
  rfl

/-- Settles O46: each operation's equation on a context in the state it asks for, and the report on any other. -/
theorem contextsChangeState : Obligations.ContextsChangeState := by
  unfold Obligations.ContextsChangeState
  refine ⟨fun s c img cause hc => ?_, fun s fe k hk hedge hfree => ⟨fun hr => ?_, fun hr hstop howed hf hcasc _ => ?_⟩⟩
  · have hx : isCtx c = true := decide_eq_true hc
    have hbind : exec (.contextBind c img) s = .next (bindCtx c img s) := congrArg Host.Outcome.next (if_pos hx)
    have hunbind : exec (.contextUnbind c) s = .next (unbindCtx c s) := congrArg Host.Outcome.next (if_pos hx)
    have hpreempt : exec (.preemptionRequest c cause) s = .next (preemptRequest c cause s) := congrArg Host.Outcome.next (if_pos hx)
    have hresume : exec (.contextResume c []) s = .next (resumeCtx c [] s) := congrArg Host.Outcome.next (if_pos hx)
    have hkill : exec (.contextKill c) s = .next (killCtx c s) := congrArg Host.Outcome.next (if_pos hx)
    rw [hbind, hunbind, hpreempt, hresume, hkill]
    refine ⟨fun h => ?_, fun h => by rw [bindCtx_refused h]; rfl, fun h hu => ?_, fun h => by rw [unbindCtx_refused h]; rfl,
      fun h hp => ⟨fun hh => by rw [preemptRequest_running h hp, if_pos hh]; rfl, fun hh hs => ?_⟩, fun h => by rw [preemptRequest_again h],
      fun h hp => by rw [preemptRequest_refused h hp]; rfl,
      fun b h hb hh hl hn hfu hp hkey hi hs hff hst => ?_, fun h => by rw [resumeCtx_refused h]; rfl,
      fun h ho hf hg => ?_, fun h ht => by rw [killCtx_refused h ht]; rfl⟩
    · obtain ⟨q, l, e⟩ := bindCtx_of_free (img := img) h
      have ex := ctxAt_modCtx c (boundCtx img) s
      rw [e]
      exact ⟨_, rfl, congrArg Ctx.st ex, congrArg Ctx.job ex, congrArg Ctx.ptRoot ex, congrArg Ctx.fltvec ex, rfl, rfl⟩
    · obtain ⟨hl, hcd, -⟩ := discardWork_leaves c s
      have ex := ctxAt_modCtx c freedCtx (dropTlbs c (discardWork c s))
      rw [unbindCtx_of_bound h hu]
      exact ⟨_, rfl, congrArg Ctx.st ex, congrArg Ctx.ranges ex, hl, hcd, rfl⟩
    · have ex := (ctxAt_modCtx c preemptedCtx (modCtx c (causedCtx cause) s)).trans (congrArg preemptedCtx (ctxAt_modCtx ..))
      rw [preemptRequest_running h hp, if_neg (by rw [hh]; exact Bool.false_ne_true),
        preemptNow_between_hands (s := modCtx c (causedCtx cause) s) hs]
      exact ⟨_, rfl, congrArg Ctx.st ex, congrArg Ctx.cause ex, rfl, rfl⟩
    · exact ⟨_, rfl, Resumes.runs ⟨h, hb, hh, hl, hn, hfu, hp, hkey, hi, hs⟩ fun k hk => ⟨(hst k hk).1, hff k hk, (hst k hk).2.1⟩⟩
    · obtain ⟨f, r, e⟩ := killCtx_of_saved h ho hf hg
      obtain ⟨hl, hcd, hcs⟩ := discardWork_leaves c { s with fes := f, recs := r }
      have ex := (ctxAt_modCtx c unowedCtx (modCtx c killedCtx (discardWork c { s with fes := f, recs := r }))).trans
        (congrArg unowedCtx (ctxAt_modCtx ..))
      rw [e]
      exact ⟨_, rfl, congrArg Ctx.st ex, congrArg Ctx.blocks ex, hl, hcd, hcs, rfl⟩
  · have e : seatSave fe k s = s := by
      unfold seatSave
      simp only [beq_iff_eq, hfree, if_false, hr, Bool.and_false, Bool.false_eq_true]
    exact congrArg Host.Outcome.next e
  · have e : seatSave fe k s = saveCtx (seatAt s fe k).ctx s := by
      unfold seatSave
      simp only [beq_iff_eq, hfree, if_false, hedge, hr, Bool.not_false, Bool.and_self, if_true]
    obtain ⟨hst, hh, hs⟩ := Saving.saveCtx ⟨hstop, howed, hcasc⟩ hf
    exact ⟨_, congrArg Host.Outcome.next e, hst, hh, hs⟩

end Sys2Proof
end

section
/-!
SUPPORT. What the accesses of the command processor leave alone: its queues and its task graph, and the words that it
writes for a queue (05 R79, R87).
-/

namespace Sys2Proof
open Machine

/-! ### What no access of an agent changes -/

/-- The queues, their slots and the task graph of `t` are those of `s`. -/
structure SameTables (s t : State) : Prop where
  queues : t.queues = s.queues := by rfl
  slots : t.slots = s.slots := by rfl
  graph : t.graph = s.graph := by rfl

/-- Nor do the launches, the cards, memory and what a free value is drawn from differ. -/
structure Passes (s t : State) : Prop extends SameTables s t where
  launches : t.launches = s.launches := by rfl
  cards : t.cards = s.cards := by rfl
  mem : t.mem = s.mem := by rfl
  moduleId : t.moduleId = s.moduleId := by rfl
  fresh : t.fresh = s.fresh := by rfl

/-- Where moreover no line is about to fail, none is afterwards, and no identity has been taken. -/
structure Accesses (s t : State) : Prop extends Passes s t where
  calm : NoEcc s → NoEcc t ∧ t.nextId = s.nextId := by exact fun h => ⟨h, rfl⟩

theorem SameTables.trans {s t u : State} (h : SameTables s t) (h' : SameTables t u) : SameTables s u where
  queues := h'.queues.trans h.queues
  slots := h'.slots.trans h.slots
  graph := h'.graph.trans h.graph

theorem Passes.trans {s t u : State} (h : Passes s t) (h' : Passes t u) : Passes s u where
  toSameTables := h.toSameTables.trans h'.toSameTables
  launches := h'.launches.trans h.launches
  cards := h'.cards.trans h.cards
  mem := h'.mem.trans h.mem
  moduleId := h'.moduleId.trans h.moduleId
  fresh := h'.fresh.trans h.fresh

theorem Accesses.trans {s t u : State} (h : Accesses s t) (h' : Accesses t u) : Accesses s u where
  toPasses := h.toPasses.trans h'.toPasses
  calm hs := ⟨(h'.calm (h.calm hs).1).1, (h'.calm (h.calm hs).1).2.trans (h.calm hs).2⟩

/-! ### The stop of a context (04 R54, R73) -/

section
variable {s t : State}

theorem Passes.dropHold (h : Passes s t) (home pa fe k : Nat) : Passes s (dropHold home pa fe k t) := by
  unfold Machine.dropHold
  extract_lets key t1
  obtain ⟨f, r, e⟩ := serveWord_frame home key t1
  rw [e]
  exact h.trans {}

theorem Passes.takeBack (h : Passes s t) (r : Req) : Passes s (takeBack r t) := by
  unfold Machine.takeBack
  extract_lets out t1
  split <;> exact h.trans {}

theorem Passes.withdraw (h : Passes s t) (r : Req) (granted : Option (W64 × Nat)) : Passes s (withdraw r granted t) := by
  have h1 := Passes.takeBack (t := { t with replies := t.replies.filter fun x => !isReq r x.req }) (h.trans {}) r
  unfold Machine.withdraw
  dsimp only
  generalize Machine.takeBack r { t with replies := t.replies.filter (fun x => !isReq r x.req) } = u at h1 ⊢
  repeat' split
  all_goals exact h1.trans {}

theorem Passes.abandon (h : Passes s t) (fe k : Nat) : Passes s (abandon fe k t) := by
  unfold Machine.abandon
  split
  · exact h
  · next hand _ =>
    extract_lets t1 t2 t3 t4 ends
    have h3 : Passes s t3 := by
      refine each_keeps (fun x u hu => ?_) hand.holds (show Passes s t2 from h.trans {})
      split
      · split
        · exact hu.trans {}
        · exact hu.dropHold ..
      · exact hu
    have h4 : Passes s t4 := each_keeps (P := Passes s) (fun _ _ hu => hu.trans {}) hand.popws h3
    split
    · exact h4.withdraw ..
    · exact each_keeps (fun x u hu => hu.dropHold ..) _ h4

theorem Passes.stopCtx (h : Passes s t) (c : Nat) : Passes s (stopCtx c t) := by
  unfold Machine.stopCtx
  split
  · refine each_keeps (fun e u hu => ?_) _ (h.trans {})
    split
    · exact (hu.abandon e.1 e.2).trans {}
    · exact hu
  · exact h.trans {}
  · split
    · exact h.trans {}
    · exact h

/-! ### The accesses of the command processor (Machine/Access.lean) -/

theorem Accesses.ite {c : Prop} [Decidable c] {u : State} (ht : Accesses s t) (hu : Accesses s u) :
    Accesses s (if c then t else u) := by
  split
  · exact ht
  · exact hu

theorem Accesses.modLink (h : Accesses s t) (k : Nat) (f : Link → Link) : Accesses s (modLink k f t) := h.trans {}
theorem Accesses.report (h : Accesses s t) (r : Report) : Accesses s (report r t) := h.trans {}

theorem Accesses.frameSent (h : Accesses s t) (k : Nat) : Accesses s (frameSent k t) :=
  .ite ((h.modLink ..).report ..) (.ite ((h.modLink ..).modLink ..) (h.modLink ..))

theorem Accesses.sendFlit (h : Accesses s t) (k : Nat) : Accesses s (sendFlit k t) :=
  .ite ((h.modLink ..).modLink ..) (.ite (((h.modLink ..).modLink ..).frameSent ..) ((h.modLink ..).modLink ..))

theorem Accesses.crossLink (h : Accesses s t) (c k : Nat) : Accesses s (crossLink c k t) :=
  have h1 : Accesses s (passFlit k t) := .ite (h.sendFlit k) ((h.sendFlit k).modLink ..)
  .ite h1 (h1.modLink ..)

theorem Accesses.takeWay (h : Accesses s t) (d c pa : Nat) : Accesses s (takeWay d c pa t) := by
  unfold Machine.takeWay
  split
  · exact each_keeps (fun _ _ hu => hu.crossLink ..) _ h
  · exact h
  · exact .ite (h.report ..) h

theorem Passes.edgeTouch (h : Passes s t) (c pa : Nat) (w : Bool) : Passes s (edgeTouch c pa w t) := by
  unfold Machine.edgeTouch
  dsimp only
  split
  · exact h
  · split
    · exact h.trans {}
    · split
      · exact (h.trans {}).stopCtx c
      · exact h.trans {}

theorem Accesses.edgeTouch (h : Accesses s t) (c pa : Nat) (w : Bool) : Accesses s (edgeTouch c pa w t) := by
  refine h.trans { toPasses := Passes.edgeTouch {} c pa w, calm := fun he => ?_ }
  obtain ⟨hu, g, e⟩ := CacheOnly.edgeTouch he c pa w
  exact ⟨hu, by rw [e]⟩

theorem Accesses.walkTouch (h : Accesses s t) (c va : Nat) : Accesses s (walkTouch c va t) :=
  each_keeps (fun _ _ hu => hu.edgeTouch ..) _ h

theorem Accesses.xlateTouch (h : Accesses s t) (c va : Nat) : Accesses s (xlateTouch c va t) := .ite h (h.walkTouch ..)

theorem Accesses.refusedAt (h : Accesses s t) (d c va : Nat) (pa : Option Nat) (code : BitVec 8) :
    Accesses s (refusedAt d c va pa code t) := by
  unfold Machine.refusedAt
  split
  · exact .ite ((h.takeWay ..).edgeTouch ..) (h.takeWay ..)
  · exact .ite (h.walkTouch ..) h

theorem Accesses.spanGo (h : Accesses s t) (d c : Nat) (write : Bool) (p : Span) : Accesses s (spanGo d c write p t) := by
  have hp : Accesses s (each p.parts (fun a u =>
      Machine.edgeTouch c a.pa write (Machine.takeWay d c a.pa (if a.fresh then Machine.xlateTouch c a.va u else u))) t) :=
    each_keeps (P := Accesses s) (fun _ _ hu => ((Accesses.ite (hu.xlateTouch ..) hu).takeWay ..).edgeTouch ..) _ h
  unfold Machine.spanGo
  split
  · exact hp.refusedAt ..
  · exact hp

theorem Accesses.readsGo (h : Accesses s t) (d c : Nat) (l : List Span) : Accesses s (readsGo d c l t) :=
  each_keeps (fun _ _ hu => hu.spanGo ..) _ h

end

/-! ### The words that a queue is written (05 R79, R87) -/

/-- A write of the CP changes memory, and no table of its own. -/
theorem SameTables.of_ctxWrite {s t : State} {c va v : Nat} (e : ctxWrite c va v s = some t) : SameTables s t := by
  have h : Accesses s s := {}
  unfold ctxWrite at e
  split at e
  · cases e
  · cases e
    exact (h.refusedAt ..).toSameTables
  · split at e
    · cases e
      exact {}
    · split at e
      · cases e
      · cases e
        exact (h.refusedAt ..).toSameTables
      · next pa _ _ _ =>
        have h1 := (((h.xlateTouch c va).takeWay cpDie c pa).edgeTouch c pa true).toSameTables
        cases e
        split
        · exact h1.trans {}
        · exact h1

theorem SameTables.queueAt {s t : State} (h : SameTables s t) (q : Nat) : queueAt t q = queueAt s q :=
  congrArg (KV.get ({} : Queue) q) h.queues

/-- What the CP writes for queue `q` changes, of the queues, what that queue owes, and neither slots nor graph. -/
structure Settles (q : Nat) (s t : State) : Prop where
  queues : ∃ l, t.queues = KV.upd {} q (fun x => { x with owes := l }) s.queues
  slots : t.slots = s.slots
  graph : t.graph = s.graph

theorem Settles.writeOwed (q : Nat) (l : List (W64 × W64)) (s : State) : Settles q s (writeOwed q l s) := by
  induction l generalizing s with
  | nil => exact ⟨⟨_, rfl⟩, rfl, rfl⟩
  | cons x l ih =>
    unfold Machine.writeOwed
    split
    · next u e =>
      have h := SameTables.of_ctxWrite e
      obtain ⟨hq, hs, hg⟩ := ih u
      exact ⟨h.queues ▸ hq, hs.trans h.slots, hg.trans h.graph⟩
    · exact ⟨⟨_, rfl⟩, rfl, rfl⟩

theorem Settles.cpWrite (q : Nat) (va v : W64) (s : State) : Settles q s (cpWrite q va v s) := .writeOwed ..

theorem Settles.queueAt {q : Nat} {s t : State} (h : Settles q s t) : ∃ l, queueAt t q = { queueAt s q with owes := l } := by
  obtain ⟨l, e⟩ := h.queues
  refine ⟨l, ?_⟩
  unfold Machine.queueAt
  rw [e, KV.get_upd_same]

end Sys2Proof
end

section
/-!
SUPPORT. The states of a queue (05 R78 to R81, R87), and the statement about them.
-/

namespace Sys2Proof
open Machine

/-! ### Queues after an update -/

theorem queueAt_modQueue (q : Nat) (f : Queue → Queue) (s : State) : queueAt (modQueue q f s) q = f (queueAt s q) :=
  KV.get_upd_same ..

/-- A queue in ERROR with its error word. -/
def erroredQueue (w : W64) (x : Queue) : Queue := { x with st := .error, errWord := w, stalled := false }

/-- A queue whose EN is cleared. -/
def disabledQueue (x : Queue) : Queue := { x with en := false, st := .disabled, stalled := false }

/-- Queue `q` in ERROR with the error word of 05 R87, its slot free. -/
structure InError (s t : State) (q code tag index op : Nat) : Prop where
  st : (queueAt t q).st = .error
  errWord : (queueAt t q).errWord = w64 (tag % 2 ^ 16 * 2 ^ 48 + index % 2 ^ 32 * 2 ^ 16 + op % 256 * 256 + code)
  slots : t.slots = s.slots.filter (· != q)
  graph : t.graph = s.graph

theorem InError.queueError (s : State) (q code tag index op : Nat) : InError s (queueError q code tag index op s) q code tag index op := by
  unfold Machine.queueError
  extract_lets w x
  have h := Settles.cpWrite q x.errAddr w (freeSlot q (modQueue q (erroredQueue w) s))
  obtain ⟨l, e⟩ := h.queueAt
  have hq : queueAt (freeSlot q (modQueue q (erroredQueue w) s)) q = erroredQueue w (queueAt s q) := queueAt_modQueue ..
  rw [hq] at e
  exact ⟨congrArg Queue.st e, congrArg Queue.errWord e, h.slots, h.graph⟩

theorem InError.unslotted {s t : State} {q code tag index op : Nat} (h : InError s t q code tag index op) : q ∉ t.slots := by
  simp [h.slots]

/-- The low byte of the error word is the code. -/
theorem InError.code {s t : State} {q code tag index op : Nat} (h : InError s t q code tag index op) :
    (queueAt t q).errWord.toNat % 256 = code % 256 := by
  rw [h.errWord, w64, BitVec.toNat_ofNat]
  omega

/-- A queue in which a knock is heard (05 R78). -/
def Live (x : Queue) : Prop := x.st ≠ .disabled ∧ x.st ≠ .error

theorem knockQueue_deaf {s : State} {q : Nat} {w : W32} (h : ¬ Live (queueAt s q) ∨ w = (queueAt s q).wptr) : knockQueue q w s = s := by
  refine if_pos ?_
  simp only [Bool.or_eq_true, beq_iff_eq]
  exact h.imp_left fun h => by simpa [Live, Decidable.or_iff_not_imp_left] using h

theorem knockQueue_live {s : State} {q : Nat} {w : W32} (h : Live (queueAt s q)) (hw : w ≠ (queueAt s q).wptr) :
    knockQueue q w s =
      if (w - (queueAt s q).rptr).toNat ≤ 2 ^ (queueAt s q).log2u.toNat ∧
          (w - (queueAt s q).wptr).toNat ≤ 2 ^ (queueAt s q).log2u.toNat then
        (if (queueAt s q).st = .idle then toPending q (modQueue q (fun x => { x with wptr := w }) s)
          else modQueue q (fun x => { x with wptr := w }) s)
      else queueError q 5 0 w.toNat 0 s := by
  obtain ⟨hd, he⟩ := h
  unfold knockQueue
  simp only [beq_iff_eq, hd, he, hw, Bool.or_eq_true, or_self, if_false, Bool.and_eq_true, decide_eq_true_eq]

/-- A queue that begins to wait behind `n` others (05 R81). -/
def pendingQueue (n : Nat) (x : Queue) : Queue := { x with st := .pending, eff := x.prio, since := n }

theorem toPending_modQueue (q : Nat) (f : Queue → Queue) (s : State) :
    toPending q (modQueue q f s) = { modQueue q (fun x => pendingQueue s.nextId (f x)) s with nextId := s.nextId + 1 } := by
  simp only [toPending, modQueue, KV.upd_upd, pendingQueue]

theorem bestPending_alone {s : State} {q : Nat} {x : Queue} (hq : s.queues = [(q, x)]) (hx : x.st = .pending) : bestPending s = some q := by
  simp [bestPending, hq, hx]

theorem mapperBind_alone {s : State} {q : Nat} {x : Queue} (hq : s.queues = [(q, x)]) (hx : x.st = .pending) (hs : s.slots.length < 32) :
    mapperBind s = { s with queues := [(q, { x with st := .active, quantum := 0 })], slots := s.slots ++ [q] } := by
  unfold mapperBind
  rw [if_neg (by omega), bestPending_alone hq hx]
  simp [modQueue, hq, KV.upd, KV.set, KV.drop, KV.insert, KV.get]

theorem queueDisable_spec (q : Nat) (s : State) : (queueAt (queueDisable q s) q).st = .disabled ∧
    (queueAt (queueDisable q s) q).en = false ∧ q ∉ (queueDisable q s).slots ∧ (queueDisable q s).graph = s.graph := by
  have hq : queueAt (queueDisable q s) q = disabledQueue (queueAt s q) := queueAt_modQueue q disabledQueue s
  exact ⟨congrArg Queue.st hq, congrArg Queue.en hq, by simp [queueDisable, freeSlot], rfl⟩

theorem queueReset_of_error {s : State} {q : Nat} {w : W32} (h : (queueAt s q).st = .error) : queueReset q w s =
    if w = (queueAt s q).wptr then modQueue q (fun x => { x with rptr := w, errWord := 0, st := .idle }) s
    else toPending q (modQueue q (fun x => { x with rptr := w, errWord := 0, st := .idle }) s) := by
  simp only [queueReset, h, bne_self_eq_false, Bool.false_eq_true, if_false, beq_iff_eq]

theorem queueReset_ignored {s : State} {q : Nat} {w : W32} (h : (queueAt s q).st ≠ .error) : queueReset q w s = s :=
  if_pos (by simpa using h)

theorem quantumEnd_yields {s : State} {q : Nat} (h : (queueAt s q).st = .active) (hp : ∃ e ∈ s.queues, e.2.st = .pending) :
    quantumEnd q s = freeSlot q (toPending q s) := by
  refine if_pos ?_
  simpa [h] using hp

/-- Settles O48: each event's equation on a queue in the state it asks for, and that it is ignored in any other. -/
theorem queuesChangeState : Obligations.QueuesChangeState := by
  unfold Obligations.QueuesChangeState
  intro s q w x cap set pended live
  have hpended (f : Queue → Queue) (hf : (f x).prio = x.prio) : toPending q (modQueue q f s) = pended (f x) := by
    rw [toPending_modQueue]
    simp only [pended, ← hf]
    rfl
  refine ⟨fun hl hw h1 h2 => ?_, fun hl hw hc => ?_, fun h => congrArg Host.Outcome.next (knockQueue_deaf h),
    fun h => congrArg (fun y => Host.Outcome.next (set y)) (if_pos (beq_iff_eq.2 h)),
    fun h => congrArg (fun y => Host.Outcome.next (set y)) (if_neg (mt beq_iff_eq.1 h)),
    ⟨_, rfl, queueDisable_spec q s⟩, fun h => congrArg Host.Outcome.next ?_, fun h => congrArg Host.Outcome.next (queueReset_ignored h),
    fun h hp => ⟨_, congrArg Host.Outcome.next (quantumEnd_yields h hp), ?_⟩, fun h => congrArg Host.Outcome.next ?_,
    fun h => congrArg Host.Outcome.next (if_neg (mt beq_iff_eq.1 h)),
    fun hq hx hs => congrArg Host.Outcome.next (mapperBind_alone hq hx hs)⟩
  · refine congrArg Host.Outcome.next ((knockQueue_live hl hw).trans ((if_pos ⟨h1, h2⟩).trans ?_))
    rw [hpended _ rfl]
    rfl
  · have hn : ¬ ((w - x.rptr).toNat ≤ cap ∧ (w - x.wptr).toNat ≤ cap) := by omega
    refine ⟨_, congrArg Host.Outcome.next ((knockQueue_live hl hw).trans (if_neg hn)), ?_⟩
    have h := InError.queueError s q 5 0 w.toNat 0
    refine ⟨h.st, h.errWord.trans (congrArg w64 ?_), h.unslotted, h.graph⟩
    omega
  · rw [queueReset_of_error h, hpended _ rfl]
    rfl
  · have hq : queueAt (freeSlot q (toPending q s)) q = pendingQueue s.nextId x := queueAt_modQueue q (pendingQueue s.nextId) s
    exact ⟨congrArg Queue.st hq, congrArg Queue.eff hq, rfl⟩
  · refine (if_pos (beq_iff_eq.2 h)).trans (congrArg (fun e => set { x with eff := e }) ?_)
    simp only [beq_iff_eq]
    rfl

end Sys2Proof
end

section
/-!
SUPPORT. Reads of the command processor do not depend on its task graph.
-/

namespace Sys2Proof
open Machine

section
variable (s : State) (g : List Node)

theorem paBad_graph (pa : Nat) : paBad { s with graph := g } pa = paBad s pa := by
  show paRefused (if ownModule s pa = true then _ else _) pa = paRefused (if ownModule s pa = true then _ else _) pa
  split <;> rfl

theorem tableEntry_graph (table idx : Nat) : tableEntry { s with graph := g } table idx = tableEntry s table idx := by
  simp only [tableEntry, paBad_graph]
  rfl

theorem walkMeets_graph (tlb : List Tlb) (d c va : Nat) : walkMeets { s with graph := g } tlb d c va = walkMeets s tlb d c va := by
  simp only [walkMeets, walkPath, tableEntry_graph, paBad_graph]
  rfl

theorem xlate_graph (tlb : List Tlb) (c va : Nat) : xlate { s with graph := g } tlb c va = xlate s tlb c va := by
  simp only [xlate, walkTlb, walkPage, tableEntry_graph]
  rfl

theorem latched_graph (fe d c : Nat) (l : Option PaLatch) (va : Nat) (need : Need) :
    latched { s with graph := g } fe d c l va need = latched s fe d c l va need := by
  simp only [latched, latchNew, latchFor, dataXlat, walkMeets_graph, xlate_graph]
  rfl

theorem meets_graph (d c pa : Nat) : meets { s with graph := g } d c pa = meets s d c pa := by
  simp only [meets, paBad_graph]
  rfl

theorem spanOf_graph (fe d c : Nat) (need : Need) (l : Option PaLatch) (ps : List (Nat × Nat)) :
    spanOf { s with graph := g } fe d c need l ps = spanOf s fe d c need l ps := by
  induction ps generalizing l with
  | nil => rfl
  | cons p ps ih => simp only [spanOf, latched_graph, meets_graph, ih]

theorem engineSpan_graph (d c va n : Nat) (need : Need) (l : Option PaLatch) :
    engineSpan { s with graph := g } d c va n need l = engineSpan s d c va n need l := spanOf_graph ..

theorem homeBytes_graph (pa n : Nat) : homeBytes { s with graph := g } pa n = homeBytes s pa n := rfl

theorem readBytes_graph (d c va n : Nat) : readBytes { s with graph := g } d c va n = readBytes s d c va n := by
  simp only [readBytes, engineSpan_graph, spanBytes, homeBytes_graph]

theorem readWords_graph (d c va n : Nat) : readWords { s with graph := g } d c va n = readWords s d c va n :=
  congrArg (Reads.map (words64 n)) (readBytes_graph ..)

theorem readCascs_graph (c cid va n : Nat) : readCascs { s with graph := g } c cid va n = readCascs s c cid va n := by
  induction n generalizing cid va with
  | zero => rfl
  | succ n ih => simp only [readCascs, readWords_graph, ih]

theorem readImage_graph (c va : Nat) : readImage { s with graph := g } c va = readImage s c va := by
  simp only [readImage, readWords_graph, readCascs_graph]

theorem checkWords_graph (c : Nat) (o : Origin) (prio : BitVec 2) (w : List W64) :
    checkWords { s with graph := g } c o prio w = checkWords s c o prio w := by
  simp only [checkWords, readBytes_graph, readImage_graph]
  rfl

theorem checkLaunch_graph (c : Nat) (o : Origin) (prio : BitVec 2) (va : Nat) :
    checkLaunch { s with graph := g } c o prio va = checkLaunch s c o prio va := by
  simp only [checkLaunch, readWords_graph, checkWords_graph]

end

end Sys2Proof
end

section
/-!
SUPPORT. What the front end does with the packet at RPTR (05 R79, R82 to R88).
-/

namespace Sys2Proof
open Machine

/-! ### RPTR moves past a packet (05 R79) -/

/-- A queue `n` units further on. -/
def passedQueue (n : Nat) (x : Queue) : Queue := { x with rptr := x.rptr + w32 n, quantum := x.quantum + 1, stalled := false }

/-- RPTR of queue `q` has moved `n` units, no WAIT stalls it, and the graph is as it was. -/
structure Moved (q n : Nat) (s t : State) : Prop where
  rptr : (queueAt t q).rptr = (queueAt s q).rptr + w32 n
  stalled : (queueAt t q).stalled = false
  graph : t.graph = s.graph

/-- A queue whose ring is empty. -/
def idleQueue (x : Queue) : Queue := { x with st := .idle }

theorem Moved.advance (q n : Nat) (s : State) : Moved q n s (Machine.advance q n s) := by
  unfold Machine.advance
  extract_lets s1 x s2
  have hw : Settles q s1 s2 := .cpWrite ..
  obtain ⟨l, hq⟩ := hw.queueAt
  have hpass : queueAt s1 q = passedQueue n (queueAt s q) := queueAt_modQueue ..
  have hidle : queueAt (modQueue q idleQueue s2) q = idleQueue (queueAt s2 q) := queueAt_modQueue ..
  rw [hpass] at hq
  have h2 : Moved q n s s2 := ⟨congrArg Queue.rptr hq, congrArg Queue.stalled hq, hw.graph⟩
  split
  · exact h2
  · split
    · exact ⟨(congrArg Queue.rptr hidle).trans h2.rptr, (congrArg Queue.stalled hidle).trans h2.stalled, h2.graph⟩
    · exact ⟨h2.rptr, h2.stalled, h2.graph⟩

theorem Moved.trans_tables {q n : Nat} {s t u : State} (h : SameTables s t) (h' : Moved q n t u) : Moved q n s u := by
  have hq : queueAt t q = queueAt s q := h.queueAt q
  obtain ⟨hr, hs, hg⟩ := h'
  exact ⟨hq ▸ hr, hs, hg.trans h.graph⟩

/-! ### The packet at RPTR (05 R82 to R87) -/

theorem packetReads_of_packetAt {s : State} {q : Nat} {p : Packet} (h : packetAt s q = some p) : (packetReads s q).out = .ok (some p) := by
  unfold packetAt at h
  split at h
  · next e => rw [e, h]
  · cases h

/-- The front end has read the packet at RPTR. -/
def packetRead (s : State) (q : Nat) : State := readsGo cpDie (queueAt s q).ctx.toNat (packetReads s q).spans s

theorem packetRead_accesses (s : State) (q : Nat) : Accesses s (packetRead s q) := Accesses.readsGo {} ..

/-- What the front end does with a packet that is in order, by its OP. -/
def takePacket (q : Nat) (p : Packet) (s : State) : State :=
  match p.op with
  | 0 => Machine.advance q p.units s
  | 1 => Machine.advance q 3 (enterNode q p (.launch (nth p.w 1)) s)
  | 2 => Machine.advance q 3 (enterNode q p (.transform (p.w.take 8)) s)
  | 3 => Machine.advance q 3 (enterNode q p (.copy (nth p.w 1) (nth p.w 2) (nth p.w 3)) s)
  | 4 => waitGo q p s
  | _ => Machine.advance q 1 (enterNode q p (.signal (nth p.w 1) (nth p.w 2) (bit (nth p.w 3) 0)) s)

section
variable {s : State} {q : Nat} {p : Packet} {ops : Nat → Bool} (hr : frontReady s q = true) (hp : packetAt s q = some p)
  (ho : ops p.op = true)
include hr hp ho

theorem packetGo_good (hb : packetBad (queueAt s q) p = 0) : packetGo q ops s = takePacket q p (packetRead s q) := by
  unfold packetGo
  simp only [hr, packetReads_of_packetAt hp, ho, hb, bne_self_eq_false, Bool.not_true, Bool.false_eq_true, if_false]
  rfl

theorem packetGo_bad (hb : packetBad (queueAt s q) p ≠ 0) :
    packetGo q ops s = queueError q (packetBad (queueAt s q) p) p.tag p.index.toNat p.op (packetRead s q) := by
  unfold packetGo
  simp only [hr, packetReads_of_packetAt hp, ho, bne_iff_ne.2 hb, Bool.not_true, Bool.false_eq_true, if_false, if_true]
  rfl

end

/-- Queue `q` has entered one node of `kind` for packet `p`, the graph of `s` before it, and moved `n` units. -/
structure Entered (q n : Nat) (p : Packet) (kind : NodeKind) (s t : State) (m : Node) : Prop where
  rptr : (queueAt t q).rptr = (queueAt s q).rptr + w32 n
  stalled : (queueAt t q).stalled = false
  graph : t.graph = s.graph ++ [m]
  id : m.id = s.nextId
  queue : m.queue = q
  ctx : m.ctx = (queueAt s q).ctx.toNat
  kind : m.kind = kind
  tag : m.tag = BitVec.ofNat 16 p.tag
  waits : m.dispatched = false

theorem enterNode_adds (q : Nat) (p : Packet) (kind : NodeKind) (s : State) : ∃ m : Node,
    (enterNode q p kind s).graph = s.graph ++ [m] ∧ m.id = s.nextId ∧ m.queue = q ∧ m.ctx = (queueAt s q).ctx.toNat ∧
    m.kind = kind ∧ m.tag = BitVec.ofNat 16 p.tag ∧ m.dispatched = false := ⟨_, rfl, rfl, rfl, rfl, rfl, rfl, rfl⟩

/-- A packet that has been read becomes one node, and RPTR moves past it; no identity goes to the reading where no line fails. -/
theorem Entered.advance {s t : State} (h : Accesses s t) (he : NoEcc s) (q n : Nat) (p : Packet) (kind : NodeKind) :
    ∃ m, Entered q n p kind s (Machine.advance q n (enterNode q p kind t)) m := by
  obtain ⟨m, hm, hid, hq, hc, hk, ht, hd⟩ := enterNode_adds q p kind t
  have hx : queueAt t q = queueAt s q := h.queueAt q
  have hx' : queueAt (enterNode q p kind t) q = queueAt s q := hx
  obtain ⟨hr, hs, hg⟩ := Moved.advance q n (enterNode q p kind t)
  exact ⟨m, hx' ▸ hr, hs, by rw [hg, hm, h.graph], hid.trans (h.calm he).2, hq, hx ▸ hc, hk, ht, hd⟩

/-! ### WAIT (05 R86) -/

theorem cpLoad_tables (x : Span) (s : State) : SameTables s (cpLoad x s).2 := by
  unfold cpLoad
  split
  · split <;> exact {}
  · exact {}

theorem cpLoad_of_passes {s t : State} (h : Passes s t) (x : Span) : (cpLoad x t).1 = (cpLoad x s).1 := by
  unfold cpLoad
  split
  · next a _ _ =>
    have ho : ownModule t a.pa = ownModule s a.pa := by simp only [ownModule, h.moduleId]
    have hm : rdPa t a.pa 8 = rdPa s a.pa 8 := by simp only [rdPa, h.mem]
    have hf : (freeWord t).1 = (freeWord s).1 := by simp only [freeWord, h.fresh]
    rw [ho]
    split
    · exact hm
    · exact congrArg BitVec.toNat hf
  · rfl

theorem waitGo_met {s : State} {q : Nat} {p : Packet} (h : waitMet s (queueAt s q).ctx.toNat p = true) :
    Moved q p.units s (waitGo q p s) := by
  unfold waitMet at h
  simp only [Bool.and_eq_true] at h
  unfold waitGo
  extract_lets c x s1 stall
  have h1 : Accesses s s1 := Accesses.spanGo {} ..
  have hv : waitHolds p (cpLoad x s1).1 = true := (congrArg (waitHolds p) (cpLoad_of_passes h1.toPasses x)).trans h.2
  have hg : (x.stop != .go) = false := by simpa using h.1
  simp only [hg, Bool.false_eq_true, if_false, hv, if_true]
  exact (Moved.advance ..).trans_tables (h1.toSameTables.trans (cpLoad_tables x s1))

/-- A queue whose WAIT is not met. -/
def stalledQueue (x : Queue) : Queue := { x with stalled := true }

theorem waitGo_unmet {s : State} {q : Nat} {p : Packet} (h : waitMet s (queueAt s q).ctx.toNat p = false) :
    queueAt (waitGo q p s) q = stalledQueue (queueAt s q) ∧ (waitGo q p s).graph = s.graph := by
  unfold waitMet at h
  unfold waitGo
  extract_lets c x s1 stall
  have h1 : Accesses s s1 := Accesses.spanGo {} ..
  have hstall (u : State) (hu : SameTables s u) : queueAt (stall u) q = stalledQueue (queueAt s q) ∧ (stall u).graph = s.graph :=
    ⟨(queueAt_modQueue ..).trans (congrArg stalledQueue (hu.queueAt q)), hu.graph⟩
  split
  · exact hstall s1 h1.toSameTables
  · next hg =>
    have hgo : (x.stop == .go) = true := by simpa using hg
    have hm : (x.stop == .go && waitHolds p (cpLoad x s).1) = false := h
    have hv : waitHolds p (cpLoad x s1).1 = false := by
      rw [cpLoad_of_passes h1.toPasses x]
      simpa only [hgo, Bool.true_and] using hm
    simp only [hv, Bool.false_eq_true, if_false]
    exact hstall _ (h1.toSameTables.trans (cpLoad_tables x s1))

theorem owesReady_of_nothing {s : State} {q : Nat} (h : (queueAt s q).owes = []) : owesReady s q = false := by
  unfold owesReady
  rw [h]

theorem waitReread_stalled {s : State} {q : Nat} {p : Packet} (ha : (queueAt s q).st = .active) (hs : (queueAt s q).stalled = true)
    (hp : packetAt s q = some p) (h4 : p.op = 4) (hq : overQuantum s q = false) (ho : (queueAt s q).owes = []) :
    waitReread q s = waitGo q p s := by
  unfold waitReread
  simp [owesReady_of_nothing ho, ha, hs, hp, h4, hq]

/-! ### What the front end's turn comes to, by the packet's OP (05 R82, R83, R86) -/

section
variable {s : State} {q : Nat} {p : Packet} {ops : Nat → Bool} (hr : frontReady s q = true) (hp : packetAt s q = some p)
  (ho : ops p.op = true) (hb : packetBad (queueAt s q) p = 0)
include hr hp ho hb

theorem packetGo_nop (h : p.op = 0) : Moved q p.units s (packetGo q ops s) := by
  rw [packetGo_good hr hp ho hb]
  simp only [takePacket, h]
  exact (Moved.advance ..).trans_tables (packetRead_accesses s q).toSameTables

theorem packetGo_wait (h : p.op = 4) : packetGo q ops s = waitGo q p (packetRead s q) := by
  rw [packetGo_good hr hp ho hb]
  simp only [takePacket, h]

theorem packetGo_enters (he : NoEcc s) {n : Nat} {kind : NodeKind}
    (h : takePacket q p (packetRead s q) = Machine.advance q n (enterNode q p kind (packetRead s q))) :
    ∃ m, Entered q n p kind s (packetGo q ops s) m := by
  rw [packetGo_good hr hp ho hb, h]
  exact Entered.advance (packetRead_accesses s q) he ..

theorem packetGo_launch (he : NoEcc s) (h : p.op = 1) : ∃ m, Entered q 3 p (.launch (nth p.w 1)) s (packetGo q ops s) m :=
  packetGo_enters hr hp ho hb he (by simp only [takePacket, h])

theorem packetGo_transform (he : NoEcc s) (h : p.op = 2) : ∃ m, Entered q 3 p (.transform (p.w.take 8)) s (packetGo q ops s) m :=
  packetGo_enters hr hp ho hb he (by simp only [takePacket, h])

theorem packetGo_copy (he : NoEcc s) (h : p.op = 3) :
    ∃ m, Entered q 3 p (.copy (nth p.w 1) (nth p.w 2) (nth p.w 3)) s (packetGo q ops s) m :=
  packetGo_enters hr hp ho hb he (by simp only [takePacket, h])

theorem packetGo_signal (he : NoEcc s) (h : p.op = 5) :
    ∃ m, Entered q 1 p (.signal (nth p.w 1) (nth p.w 2) (bit (nth p.w 3) 0)) s (packetGo q ops s) m :=
  packetGo_enters hr hp ho hb he (by simp only [takePacket, h])

end

end Sys2Proof
end

section
/-!
SUPPORT. The dispatch and the completion of a node (05 R88, R89), and the statement about packets and nodes.
-/

namespace Sys2Proof
open Machine

/-! ### One node alone in the graph (05 R88, R89) -/

theorem nodeAt_alone {s : State} {n : Node} (h : s.graph = [n]) : nodeAt s n.id = some n := by
  simp [nodeAt, h]

theorem nodeLeave_alone {s : State} {n : Node} (h : s.graph = [n]) : nodeLeave n.id true s = { s with graph := [] } := by
  simp [nodeLeave, nodeAt_alone h, h]

/-- A node that fails leaves the graph, and its ACTIVE queue enters ERROR. -/
theorem nodeLeave_fails {s : State} {n : Node} (h : s.graph = [n]) (hq : (queueAt s n.queue).st = .active) :
    nodeLeave n.id false s = queueError n.queue 8 n.tag.toNat n.index.toNat (nodeOp n) { s with graph := [] } := by
  have hg : dependents 1 [n] [n.id] = [n.id] := by simp [dependents]
  have hq' : (queueAt { s with graph := [] } n.queue).st = .active := hq
  simp [nodeLeave, nodeAt_alone h, h, hg, hq']

/-- The node of `s` has been dispatched. -/
def dispatchedAlone (n : Node) (s : State) : State := { s with graph := [{ n with dispatched := true }] }

theorem modNode_alone {s : State} {n : Node} (h : s.graph = [n]) :
    modNode n.id (fun n => { n with dispatched := true }) s = dispatchedAlone n s := by
  simp [modNode, h, dispatchedAlone]

/-- What a dispatch does with a launch record that the CP has read: a good one starts a launch, another one fails the node. -/
def startLaunch (id : Nat) (o : Option Launch) (s : State) : State :=
  match o with
  | some l => enterLaunch l s
  | none => nodeLeave id false s

section
variable {s : State} {n : Node} (hg : s.graph = [n]) (hr : nodeReady s n = true)
include hg hr

theorem nodeDispatch_launch {va : W64} {o : Option Launch} (hk : n.kind = .launch va)
    (ho : (checkLaunch s n.ctx (.node n.id) (queueAt s n.queue).prio va.toNat).out = .ok o) : nodeDispatch n.id s = startLaunch n.id o
      (readsGo cpDie n.ctx (checkLaunch s n.ctx (.node n.id) (queueAt s n.queue).prio va.toNat).spans (dispatchedAlone n s)) := by
  have hc : checkLaunch (dispatchedAlone n s) n.ctx (.node n.id) (queueAt (dispatchedAlone n s) n.queue).prio va.toNat =
      checkLaunch s n.ctx (.node n.id) (queueAt s n.queue).prio va.toNat := checkLaunch_graph ..
  unfold nodeDispatch
  simp only [nodeAt_alone hg, hr, hk, modNode_alone hg, hc, ho, Bool.not_true, Bool.false_eq_true, if_false]
  cases o <;> rfl

theorem nodeDispatch_copy {src dst len : W64} (hk : n.kind = .copy src dst len) : ∃ e, nodeDispatch n.id s =
    nodeCard n e (nodeCardWords n.tag 0 src dst len 0) (dispatchedAlone n s) := by
  unfold nodeDispatch
  simp only [nodeAt_alone hg, hr, hk, modNode_alone hg, Bool.not_true, Bool.false_eq_true, if_false]
  exact ⟨_, rfl⟩

theorem nodeDispatch_signal {va v : W64} {add : Bool} (hk : n.kind = .signal va v add) : nodeDispatch n.id s =
    nodeLeave n.id (signalGo n.ctx va v add (dispatchedAlone n s)).2 (signalGo n.ctx va v add (dispatchedAlone n s)).1 := by
  unfold nodeDispatch
  simp only [nodeAt_alone hg, hr, hk, modNode_alone hg, Bool.not_true, Bool.false_eq_true, if_false]

end

theorem forward_of_no_remote {s : State} {l : Launch} (h : l.remote = []) : forward s l = l := by
  simp [forward, h]

/-- The KIND of a node's card, and that it names one receiver (05 R84). -/
theorem nodeCardWords_kind (tag : BitVec 16) (src dst len : W64) : cardKind (nodeCardWords tag 0 src dst len 0) = 1 ∧
    fld (nth (nodeCardWords tag 0 src dst len 0) 0) 39 36 = 0 := by
  have h0 : nth (nodeCardWords tag 0 src dst len 0) 0 = w64 (tag.toNat * 2 ^ 48 + 2 ^ 44 + 0 * 2 ^ 40) := rfl
  have ht : tag.toNat < 2 ^ 16 := tag.isLt
  unfold cardKind fld
  rw [h0, w64, BitVec.toNat_ofNat]
  omega

/-- The card that a COPY posts, as its node's words say. -/
theorem newCard_copy (id : Nat) (o : Poster) (c e : Nat) (tag : BitVec 16) (src dst len : W64) :
    let x := newCard id o c 1 (nodeCardWords tag 0 src dst len 0) e
    nth x.w 1 = src ∧ nth x.w 2 = len ∧ x.rcv.map (·.dest) = [dst] := by
  obtain ⟨hk, hn⟩ := nodeCardWords_kind tag src dst len
  refine ⟨rfl, rfl, ?_⟩
  simp only [newCard, hk, hn]
  rfl

/-- Memory after a write of `n` bytes. -/
theorem memByte_wrBytes (m : List Host.Cell) (a n v x : Nat) : memByte (wrBytes m a n v) x =
    if a ≤ x ∧ x < a + n then BitVec.ofNat 8 (v / 256 ^ (x - a)) else memByte m x := by
  induction n generalizing m a v with
  | zero => rw [if_neg (by omega)]; rfl
  | succ n ih =>
    rw [wrBytes, ih]
    by_cases hx : x = a
    · subst hx
      rw [if_neg (by omega), if_pos (by omega), Nat.sub_self, Nat.pow_zero, Nat.div_one]
      exact KV.get_put_same ..
    · by_cases hin : a + 1 ≤ x ∧ x < a + 1 + n
      · rw [if_pos hin, if_pos (by omega), Nat.div_div_eq_div_mul, ← Nat.pow_succ', show (x - (a + 1)).succ = x - a by omega]
      · rw [if_neg hin, if_neg (by omega)]
        exact KV.get_put_other _ _ _ _ _ hx

/-- A SIGNAL whose access goes on stores its value at its word's home. -/
theorem signalGo_stores {s : State} {c : Nat} {va v : W64} {a : Machine.Part} (hgo : (signalSpan s c va false).stop = .go)
    (ha : (signalSpan s c va false).parts = [a]) (ho : ownModule s a.pa = true) : ∃ u, Accesses s u ∧
      signalGo c va v false s = (wrPa a.pa 8 v.toNat u, true) := by
  have h : Accesses s (spanGo cpDie c true (signalSpan s c va false) s) := Accesses.spanGo {} ..
  have ho' : ownModule (spanGo cpDie c true (signalSpan s c va false) s) a.pa = true := by
    simpa only [ownModule, h.moduleId] using ho
  have hv : (0 + v.toNat) % 2 ^ 64 = v.toNat := by have := v.isLt; omega
  refine ⟨_, h, ?_⟩
  simp only [signalGo, hgo, cpStore, ha, ho', hv, bne_self_eq_false, Bool.false_eq_true, if_false, if_true]

theorem nodeComplete_copy {s : State} {n : Node} {c : Card} {src dst len : W64} (hg : s.graph = [n]) (hk : n.kind = .copy src dst len)
    (hd : n.dispatched = true) (hc : s.cards = [(c.id, c)]) (hp : c.poster = .node n.id) (ho : c.done = true) (hs : c.status = 0) :
    nodeComplete n.id true s = { s with
        graph := [], cards := [], launches := s.launches.filter (fun e => e.2.origin != .node n.id)
        cascades := s.cascades.filter (fun e =>
          !((s.launches.filter fun e => e.2.origin == .node n.id).map (·.1)).contains e.2.launch) } := by
  have hover : nodeOver s n = some true := by simp [nodeOver, hk, hc, hp, ho, hs]
  have hcards : s.cards.filter (fun e => e.2.poster != .node n.id) = [] := by simp [hc, hp]
  unfold nodeComplete
  simp only [nodeAt_alone hg, hd, hover, hcards, Bool.and_self]
  exact nodeLeave_alone (n := n) hg

/-- The event that takes a packet by its OP asks for that OP, an unknown one going with NOP (05 R82). -/
theorem exec_of_op {s : State} {q : Nat} {p : Packet} {i : Instr} (h0 : p.op = 0 ∨ 5 < p.op → i = .nopPacket q)
    (h1 : p.op = 1 → i = .launchPacket q) (h2 : p.op = 2 → i = .transformPacket q) (h3 : p.op = 3 → i = .copyPacket q)
    (h4 : p.op = 4 → i = .waitPacket q) (h5 : p.op = 5 → i = .signalPacket q) :
    ∃ ops : Nat → Bool, exec i s = .next (packetGo q ops s) ∧ ops p.op = true := by
  by_cases hn : p.op = 0 ∨ 5 < p.op
  · exact ⟨fun op => op == 0 || decide (5 < op), congrArg (exec · s) (h0 hn), by simpa using hn⟩
  · obtain e | e | e | e | e : p.op = 1 ∨ p.op = 2 ∨ p.op = 3 ∨ p.op = 4 ∨ p.op = 5 := by omega
    · exact ⟨(· == 1), congrArg (exec · s) (h1 e), beq_iff_eq.2 e⟩
    · exact ⟨(· == 2), congrArg (exec · s) (h2 e), beq_iff_eq.2 e⟩
    · exact ⟨(· == 3), congrArg (exec · s) (h3 e), beq_iff_eq.2 e⟩
    · exact ⟨(· == 4), congrArg (exec · s) (h4 e), beq_iff_eq.2 e⟩
    · exact ⟨(· == 5), congrArg (exec · s) (h5 e), beq_iff_eq.2 e⟩

/-- A launch whose record is good is entered, and its node goes on in the graph (05 R88). -/
theorem nodeDispatch_starts {s : State} {n : Node} {va : W64} {l : Launch} (hg : s.graph = [n]) (hr : nodeReady s n = true)
    (hk : n.kind = .launch va) (ho : (checkLaunch s n.ctx (.node n.id) (queueAt s n.queue).prio va.toNat).out = .ok (some l))
    (hl : l.remote = []) : (nodeDispatch n.id s).graph = [{ n with dispatched := true }] ∧
    KV.find l.id (nodeDispatch n.id s).launches = some l ∧ (nodeDispatch n.id s).mem = s.mem := by
  rw [nodeDispatch_launch hg hr hk ho]
  generalize (checkLaunch s n.ctx (.node n.id) (queueAt s n.queue).prio va.toNat).spans = spans
  have h : Accesses (dispatchedAlone n s) (readsGo cpDie n.ctx spans (dispatchedAlone n s)) := Accesses.readsGo {} ..
  exact ⟨h.graph, (KV.find_set_same ..).trans (congrArg some (forward_of_no_remote hl)), h.mem⟩

/-- A bad record fails its node (05 R89). -/
theorem nodeDispatch_fails {s : State} {n : Node} {va : W64} (hg : s.graph = [n]) (hr : nodeReady s n = true)
    (hk : n.kind = .launch va) (ho : (checkLaunch s n.ctx (.node n.id) (queueAt s n.queue).prio va.toNat).out = .ok none)
    (hq : (queueAt s n.queue).st = .active) :
    InError { s with graph := [] } (nodeDispatch n.id s) n.queue 8 n.tag.toNat n.index.toNat (nodeOp n) := by
  rw [nodeDispatch_launch hg hr hk ho]
  generalize (checkLaunch s n.ctx (.node n.id) (queueAt s n.queue).prio va.toNat).spans = spans
  have h : Accesses (dispatchedAlone n s) (readsGo cpDie n.ctx spans (dispatchedAlone n s)) := Accesses.readsGo {} ..
  have hf := nodeLeave_fails (n := { n with dispatched := true }) h.graph ((congrArg Queue.st (h.queueAt n.queue)).trans hq)
  obtain ⟨hst, hw, hs, hgr⟩ := InError.queueError { readsGo cpDie n.ctx spans (dispatchedAlone n s) with graph := [] }
    n.queue 8 n.tag.toNat n.index.toNat (nodeOp n)
  rw [startLaunch, hf]
  exact ⟨hst, hw, hs.trans (congrArg _ h.slots), hgr⟩

/-- A SIGNAL stores its value and leaves (05 R86). -/
theorem nodeDispatch_stores {s : State} {n : Node} {va v : W64} {a : Machine.Part} (hg : s.graph = [n]) (hr : nodeReady s n = true)
    (hk : n.kind = .signal va v false) (hgo : (signalSpan s n.ctx va false).stop = .go) (ha : (signalSpan s n.ctx va false).parts = [a])
    (ho : ownModule s a.pa = true) : Wrote s (nodeDispatch n.id s) (paKey a.pa) 8 v.toNat ∧ (nodeDispatch n.id s).graph = [] := by
  have hspan : signalSpan (dispatchedAlone n s) n.ctx va false = signalSpan s n.ctx va false := engineSpan_graph ..
  obtain ⟨u, hu, e⟩ := signalGo_stores (s := dispatchedAlone n s) (v := v) (hspan ▸ hgo) (hspan ▸ ha) ho
  have hl : nodeLeave n.id true (wrPa a.pa 8 v.toNat u) = { wrPa a.pa 8 v.toNat u with graph := [] } :=
    nodeLeave_alone (n := { n with dispatched := true }) hu.graph
  have hm : u.mem = s.mem := hu.mem
  rw [nodeDispatch_signal hg hr hk, e, hl]
  exact ⟨fun y => (memByte_wrBytes ..).trans (by rw [hm]), rfl⟩

/-- Settles O49: what the front end does with the packet at RPTR by its OP, then what the dispatch and the completion of a node that
is alone in the graph come to. -/
theorem packetsAndNodes : Obligations.PacketsAndNodes := by
  unfold Obligations.PacketsAndNodes
  refine ⟨fun s q p hr hp he => ?_, fun s id n => ⟨fun q p ha hs hp h4 hm hq ho => ?_, fun hg hid hn => ?_,
    fun c src dst len hg hid hk hd hc hpo hdo hst => ?_⟩⟩
  · extract_lets x moved node w
    have hread := packetRead_accesses s q
    refine ⟨fun hb => ?_, fun hb i h0 h1 h2 h3 h4 h5 => ?_⟩
    · have hnode {i : Instr} {t : State} {n : Nat} {k : NodeKind} (hi : exec i s = .next t) (h : ∃ m, Entered q n p k s t m) :
          node i n k := by
        obtain ⟨m, h⟩ := h
        exact ⟨t, m, hi, ⟨h.rptr, h.stalled⟩, h.graph, h.id, h.queue, h.ctx, h.kind, h.tag, h.waits⟩
      have hq : queueAt (packetRead s q) q = x := hread.queueAt q
      have hgo (h : p.op = 4) : exec (.waitPacket q) s = .next (waitGo q p (packetRead s q)) :=
        congrArg Host.Outcome.next (packetGo_wait (ops := (· == 4)) hr hp (beq_iff_eq.2 h) hb h)
      have hop {k : Nat} (h : p.op = k) : (p.op == k) = true := beq_iff_eq.2 h
      refine ⟨fun h => ?_, fun h => hnode rfl (packetGo_launch hr hp (hop h) hb he h),
        fun h => hnode rfl (packetGo_transform hr hp (hop h) hb he h), fun h => hnode rfl (packetGo_copy hr hp (hop h) hb he h),
        fun h => hnode rfl (packetGo_signal hr hp (hop h) hb he h), fun h => ⟨fun hm => ?_, fun hm => ?_⟩⟩
      · obtain ⟨hrp, hst, hgr⟩ := packetGo_nop (ops := fun op => op == 0 || decide (5 < op)) hr hp (by simp [h]) hb h
        exact ⟨_, rfl, ⟨hrp, hst⟩, hgr⟩
      · obtain ⟨hrp, hst, hgr⟩ := (waitGo_met (hq ▸ hm)).trans_tables hread.toSameTables
        exact ⟨_, hgo h, ⟨hrp, hst⟩, hgr⟩
      · obtain ⟨hst, hgr⟩ := waitGo_unmet (hq ▸ hm)
        exact ⟨_, hgo h, hst.trans (congrArg stalledQueue hq), hgr.trans hread.graph⟩
    · obtain ⟨ops, hi, ho⟩ := exec_of_op (s := s) h0 h1 h2 h3 h4 h5
      have h := InError.queueError (packetRead s q) q (packetBad x p) p.tag p.index.toNat p.op
      exact ⟨_, hi.trans (congrArg Host.Outcome.next (packetGo_bad hr hp ho hb)), h.st, h.graph.trans hread.graph, h.code⟩
  · have h := waitGo_met hm
    rw [← waitReread_stalled ha hs hp h4 hq ho] at h
    exact ⟨_, rfl, h.rptr, h.stalled⟩
  · subst hid
    refine ⟨fun va l hk ho hl => ⟨_, rfl, nodeDispatch_starts hg hn hk ho hl⟩, fun va hk ho hq => ?_, fun src dst len hk => ?_,
      fun va v a hk hgo ha ho _ => ⟨_, rfl, nodeDispatch_stores hg hn hk hgo ha ho⟩⟩
    · have h := nodeDispatch_fails hg hn hk ho hq
      exact ⟨_, rfl, h.graph, h.st, h.code⟩
    · obtain ⟨e, h⟩ := nodeDispatch_copy hg hn hk
      obtain ⟨h1, h2, h3⟩ := newCard_copy s.nextId (.node n.id) n.ctx e n.tag src dst len
      exact ⟨_, _, congrArg Host.Outcome.next h, rfl, KV.find_set_same .., rfl, rfl, h1, h2, h3, rfl⟩
  · subst hid
    exact congrArg Host.Outcome.next (nodeComplete_copy hg hk hd hc hpo hdo hst)

end Sys2Proof
end

section
/-!
SUPPORT. Groups (06 R93 to R98, R104): what the placement of a group and of a unit and the retirement of an FE leave of the FE and
of the launch, and the statement about them.
-/

namespace Sys2Proof
open Machine

/-! ### The launch in the table -/

theorem find_modLaunch (id : Nat) (g : Launch → Launch) (s : State) :
    KV.find id (modLaunch id g s).launches = (KV.find id s.launches).map g := KV.find_map_at id g s.launches

/-- An update that leaves the launch as it is leaves the table as it is. -/
theorem modLaunch_self (id : Nat) (s : State) : modLaunch id (fun x => x) s = s := by
  have h : (s.launches.map fun e => if e.1 == id then (e.1, e.2) else e) = s.launches :=
    (List.map_congr_left fun e _ => ite_self e).trans (List.map_id _)
  unfold modLaunch
  rw [h]

theorem find_launch_alone {s : State} {id : Nat} {l : Launch} (h : s.launches = [(id, l)]) : KV.find id s.launches = some l := by
  rw [h]
  exact if_pos rfl

theorem nextSet_alone {l : Launch} {u : Nat} (h : l.waiting = [u]) : nextSet l = [u] := by
  simp [nextSet, h]

/-- After the one unit that waited is placed, none waits. -/
theorem find_unwait_alone {s : State} {id u : Nat} {l : Launch} (h : KV.find id s.launches = some l) (hw : l.waiting = [u]) :
    KV.find id (unwait id [u] s).launches = some { l with waiting := [] } := by
  rw [unwait, find_modLaunch, h, Option.map_some, hw]
  simp

/-! ### Seats at their first hand (06 R93) -/

/-- Seats of an FE-level group of a launch. -/
def groupSeats (l : Launch) : Nat := (l.levels.getLast?.map (·.count)).getD 0

/-- FE `fe` runs FE-level group `g` of launch `l`, whose seats have not begun yet. -/
def Seated (l : Launch) (t : State) (fe g : Nat) : Prop :=
  (feAt t fe).holder = some l.ctx ∧ (feAt t fe).idle = false ∧
    ∀ k < groupSeats l, (seatAt t fe k).st = .loaded ∧ (seatAt t fe k).pc = l.entry ∧
      (seatAt t fe k).index = g * groupSeats l + k ∧
      rdS { addr := 0, next := 0, slots := [], work := (seatAt t fe k).arch } 62 = BitVec.ofNat 64 (0x60000 - k * l.spillSz)

/-- Only the FEs matter to a group's seats. -/
theorem Seated.of_fes {l : Launch} {t u : State} {fe g : Nat} (h : Seated l t fe g) (hf : u.fes = t.fes) : Seated l u fe g := by
  unfold Seated seatAt feAt at *
  rw [hf]
  exact h

/-- sp is SPILLLIM at the first hand, however many levels there are. -/
theorem sp_firstSeat (l : Launch) (en : Bool) (k i : Nat) (hand : W64) :
    rdS { addr := 0, next := 0, slots := [], work := (firstSeat l en k i hand).arch } 62 = w64 (0x60000 - k * l.spillSz) :=
  vget_vset_same _ _ _ _ (by decide)

/-- Seats that are set in turn are each read back. -/
theorem seatAt_each_modSeat {n k : Nat} (hn : n ≤ 4) (hk : k < n) (fe : Nat) (f : Nat → Seat) (s : State) :
    seatAt (each (List.range n) (fun j => modSeat fe j fun _ => f j) s) fe k = f k := by
  induction n with
  | zero => omega
  | succ n ih =>
    simp only [each, List.range_succ, List.foldl_append, List.foldl_cons, List.foldl_nil]
    rcases Nat.lt_succ_iff_lt_or_eq.1 hk with h | rfl
    · rw [seatAt_modSeat_seat _ _ _ _ _ (by omega)]
      exact ih (by omega) h
    · exact seatAt_modSeat _ _ _ _ (by omega)

/-! ### The placement of a group -/

/-- An FE stands with context `c`, not with the placer. -/
def HeldBy (c fe : Nat) (s : State) : Prop := (feAt s fe).holder = some c ∧ (feAt s fe).idle = false

theorem HeldBy.giveFe (c fe : Nat) (s : State) : HeldBy c fe (giveFe c fe s) := by
  unfold HeldBy Machine.giveFe
  dsimp only
  split <;> rw [feAt_modFe] <;> exact ⟨rfl, rfl⟩

theorem HeldBy.modSeat {c fe : Nat} {s : State} (h : HeldBy c fe s) (k : Nat) (g : Seat → Seat) : HeldBy c fe (modSeat fe k g s) := by
  unfold HeldBy Machine.modSeat
  rw [feAt_modFe]
  exact h

theorem launches_giveFe (c fe : Nat) (s : State) : (giveFe c fe s).launches = s.launches := by
  unfold giveFe
  dsimp only
  split <;> rfl

/-- The FE of a group with its seats LOADED (06 R93): the placement before the launch and the context are told of it. -/
def seatGroup (l : Launch) (g fe : Nat) (hand : Nat → Option W64) (s : State) : State :=
  each (List.range (groupSeats l)) (fun k => modSeat fe k fun _ =>
    firstSeat l (ctxAt s l.ctx).belayEn k (g * groupSeats l + k) ((hand k).getD l.entry)) (giveFe l.ctx fe s)

/-- The placement of a group changes the FEs as `seatGroup` does, and the launches by listing the group. -/
theorem placeGroup_tables (l : Launch) (g fe : Nat) (hand : Nat → Option W64) (s : State) :
    (placeGroup l g fe hand s).fes = (seatGroup l g fe hand s).fes ∧ (placeGroup l g fe hand s).launches =
      (modLaunch l.id (fun x => { x with placed := x.placed ++ [(g, fe)] }) (seatGroup l g fe hand s)).launches := by
  cases h : l.levels.getLast? <;>
    · simp only [placeGroup, seatGroup, groupSeats, h, Option.map_some, Option.map_none, Option.getD_some, Option.getD_none]
      split <;> exact ⟨rfl, rfl⟩

theorem launches_seatGroup (l : Launch) (g fe : Nat) (hand : Nat → Option W64) (s : State) :
    (seatGroup l g fe hand s).launches = s.launches := by
  refine each_keeps (P := fun t => t.launches = s.launches) ?_ _ (launches_giveFe ..)
  exact fun _ _ h => h

/-- A group none of whose seats is a stage's is seated at ENTRY. -/
theorem Seated.placeGroup {l : Launch} {g fe : Nat} {hand : Nat → Option W64} (s : State) (hn : groupSeats l ≤ 4)
    (hh : ∀ k, hand k = none) : Seated l (placeGroup l g fe hand s) fe g := by
  refine Seated.of_fes ?_ (placeGroup_tables ..).1
  obtain ⟨ho, hi⟩ : HeldBy l.ctx fe (seatGroup l g fe hand s) := by
    unfold seatGroup
    exact each_keeps (fun _ _ h => h.modSeat ..) _ (.giveFe ..)
  refine ⟨ho, hi, fun k hk => ?_⟩
  rw [seatGroup, seatAt_each_modSeat hn hk, hh]
  exact ⟨rfl, rfl, rfl, sp_firstSeat ..⟩

theorem find_placeGroup {s : State} {l x : Launch} (h : KV.find l.id s.launches = some x) (g fe : Nat) (hand : Nat → Option W64) :
    KV.find l.id (placeGroup l g fe hand s).launches = some { x with placed := x.placed ++ [(g, fe)] } := by
  rw [(placeGroup_tables ..).2, find_modLaunch, launches_seatGroup, h]
  rfl

/-! ### REGION_PLACE (06 R94, R95) -/

theorem stageHand_no_cascade (p : Nat × Nat) (k : Nat) : stageHand [] p k = none := rfl

/-- A launch that waits for the placer is not read again: its first set is placed, or waits on. -/
theorem regionPlace_waiting {s : State} {id u : Nat} {l : Launch} (hf : KV.find id s.launches = some l) (hu : l.unread = none)
    (hd : l.dealMode = false) (hw : l.waiting = [u]) (hm : mayPlace s l = true) :
    regionPlace id s = ((placeRegion id u s).map (unwait id [u])).getD s := by
  simp only [regionPlace, hf, hu, hd, nextSet_alone hw, hm, placeAll, Option.isSome_none, hw, List.isEmpty_cons, Bool.not_true,
    Bool.or_self, Bool.false_eq_true, if_false]
  cases placeRegion id u s <;> rfl

theorem placeRegion_of_no_base {s : State} {id u : Nat} {l : Launch} (hf : KV.find id s.launches = some l)
    (hb : findBase s l false u = none) : placeRegion id u s = none := by
  simp only [placeRegion, hf, hb]

/-- The placer has taken the rectangle of region `u` at a base, and the launch lists it. -/
def claimRegion (l : Launch) (u d x y : Nat) (s : State) : State :=
  modLaunch l.id (fun z => { z with regions := z.regions ++ [(u, d, x, y)] })
    (setIdle false ((List.range (regionLevel l).h).flatMap fun v => (List.range (regionLevel l).w).map fun w =>
      feAtXY d (x + w) (y + v)) s)

theorem launches_setIdle (idle : Bool) (fes : List Nat) (s : State) : (setIdle idle fes s).launches = s.launches := by
  refine each_keeps (P := fun t => t.launches = s.launches) ?_ fes rfl
  exact fun _ _ h => h

theorem find_claimRegion {s : State} {l : Launch} (h : KV.find l.id s.launches = some l) (u d x y : Nat) :
    KV.find l.id (claimRegion l u d x y s).launches = some { l with regions := l.regions ++ [(u, d, x, y)] } := by
  rw [claimRegion, find_modLaunch, launches_setIdle, h]
  rfl

/-- A region of one group, in a launch without cascades, is claimed at its base and its group placed on it. -/
theorem placeRegion_one {s : State} {u d x y : Nat} {l : Launch} {p : Nat × Nat} (hf : KV.find l.id s.launches = some l)
    (hc : l.cascs = []) (hp : l.pos = [p]) (hb : findBase s l false u = some (d, x, y)) :
    placeRegion l.id u s = some (placeGroup l u (feAtXY d (x + p.1) (y + p.2)) (stageHand [] p) (claimRegion l u d x y s)) := by
  simp only [placeRegion, hf, hb, hc, hp, List.zipIdx_cons, List.zipIdx_nil, List.length_singleton, Nat.mul_one]
  rfl

/-! ### DEAL (06 R97) -/

/-- The die and the cluster that group `u` was dealt to tie the groups that follow it. -/
def tieGroup (l : Launch) (u d fe : Nat) (x : Launch) : Launch :=
  { x with
    dieOf := match levelAt l 2 with
      | some i => if x.dieOf.any (fun e => e.1 == u / unitsUnder l i) then x.dieOf else x.dieOf ++ [(u / unitsUnder l i, d)]
      | none => x.dieOf
    clusterOf := match levelAt l 4 with
      | some i => if x.clusterOf.any (fun e => e.1 == u / unitsUnder l i) then x.clusterOf
        else x.clusterOf ++ [(u / unitsUnder l i, clusterId fe)]
      | none => x.clusterOf }

/-- The first group of a deal. -/
theorem dealOne_first {s : State} {id u d fe : Nat} {l : Launch} (hf : KV.find id s.launches = some l)
    (hp : dealPlace s l none u = some (d, fe)) : dealOne id u none s =
      some (modLaunch id (tieGroup l u d fe) (placeGroup l u fe (fun _ => none) s), some (d, 1)) := by
  simp only [dealOne, hf, hp]
  rfl

/-- A deal ends when no group waits. -/
theorem dealGo_of_none_waiting {s : State} {id : Nat} {l : Launch} (hf : KV.find id s.launches = some l) (hw : l.waiting = [])
    (n : Nat) (cur : Option (Nat × Nat)) : dealGo id n cur s = s := by
  cases n with
  | zero => rfl
  | succ n => simp only [dealGo, hf, hw, List.isEmpty_nil, if_true]

/-- A deal of the one group that waits is over when it is placed. -/
theorem dealGo_one {s t : State} {id u : Nat} {now : Nat × Nat} {l x : Launch} (hf : KV.find id s.launches = some l)
    (hw : l.waiting = [u]) (h : dealOne id u none s = some (t, some now)) (hx : KV.find id t.launches = some x)
    (hxw : x.waiting = [u]) (n : Nat) : dealGo id (n + 1) none s = unwait id [u] t := by
  rw [dealGo]
  simp only [hf, hw, nextSet_alone hw, dealSet, h, List.isEmpty_cons, Bool.false_eq_true, if_false, if_true]
  exact dealGo_of_none_waiting (find_unwait_alone hx hxw) rfl ..

theorem deal_waiting {s : State} {id : Nat} {l : Launch} (hf : KV.find id s.launches = some l) (hd : l.dealMode = true)
    (hm : mayPlace s l = true) : deal id s = dealGo id 64 none s := by
  simp only [deal, hf, hd, hm, Bool.not_true, Bool.or_self, Bool.false_eq_true, if_false]

/-! ### GROUP_RETIRE (06 R104) -/

/-- An FE that has returned to the placer, its seats FREE. -/
def vacatedFe (f : FE) : FE :=
  { f with opm := f.opm.map (fun o => { o with claim := none }), seats := Vector.replicate 4 {}, bight := none, idle := true }

/-- The state in which an FE without planes and barrier objects has returned to the placer. -/
def vacate (fe : Nat) (s : State) : State := { modFe fe vacatedFe s with recs := s.recs.filter (fun r => r.fe != fe) }

/-- A launch none of whose groups is on FE `fe`. -/
def withoutFe (fe : Nat) (x : Launch) : Launch := { x with placed := x.placed.filter fun p => p.2 != fe }

/-- The planes that the groups of an FE own are turned off. -/
def planesOff (fe : Nat) (s : State) : State :=
  each (List.range 4) (fun pl u =>
    if (planeAt (feAt s fe) pl).owner.isSome then planeOff fe pl (portsReset fe pl u) else u) s

theorem planesOff_of_unowned {s : State} {fe : Nat} (hp : ∀ pl : Fin 4, (feAt s fe).planes[pl].owner = none) : planesOff fe s = s :=
  each_id fun pl hm => by
    have h4 := List.mem_range.1 hm
    have ho : (planeAt (feAt s fe) pl).owner = none := by
      rw [planeAt, vget, Vector.getElem?_eq_getElem h4]
      exact hp ⟨pl, h4⟩
    simp only [ho, Option.isSome_none, Bool.false_eq_true, if_false]

theorem freeBars_of_none {s : State} {fe : Nat} (hb : (feAt s fe).barriers = []) : freeBars fe s = s := by
  rw [freeBars, hb]
  rfl

/-- The seats of an FE that a group uses. -/
def usedSeats (s : State) (fe : Nat) : List Nat := (List.range 4).filter fun k => (seatOf (feAt s fe) k).st != .free

theorem mem_usedSeats {s : State} {fe k : Nat} : k ∈ usedSeats s fe ↔ k < 4 ∧ (seatAt s fe k).st ≠ .free := by
  simp [usedSeats, seatAt]

/-- Every seat of an FE is FREE or equals `t`, and one does. -/
def OneGroup (s : State) (fe : Nat) (t : Seat) : Prop :=
  (∃ k < 4, seatAt s fe k = t) ∧ ∀ j < 4, seatAt s fe j = t ∨ (seatAt s fe j).st = .free

/-- An FE whose one group is done, and that owns neither planes nor barrier objects, returns to the placer as it is. -/
theorem groupRetire_done {s : State} {fe : Nat} {t : Seat} (hfe : fe < 25600) (hr : OneGroup s fe t) (ht : t.st ≠ .free)
    (hd : ∀ j < 4, seatAt s fe j = t → seatDone s fe j = true) (hz : jobFrozen s t.ctx = false)
    (hp : ∀ pl : Fin 4, (feAt s fe).planes[pl].owner = none) (hb : (feAt s fe).barriers = []) :
    groupRetire fe s = launchRetire t.launch (endRegions t.launch (modLaunch t.launch (withoutFe fe) (vacate fe s))) := by
  obtain ⟨⟨k, hk, hkt⟩, hall⟩ := hr
  have hm (j : Nat) (hj : j ∈ usedSeats s fe) : j < 4 ∧ seatAt s fe j = t := by
    obtain ⟨h4, hs⟩ := mem_usedSeats.1 hj
    exact ⟨h4, (hall j h4).resolve_right hs⟩
  have he : isEdge fe = false := decide_eq_false (by show ¬ 25600 ≤ _; omega)
  have hs : isSaved fe = false := decide_eq_false (by omega)
  have hfree : freeBars fe (planesOff fe s) = s := by rw [planesOff_of_unowned hp, freeBars_of_none hb]
  cases hu : usedSeats s fe with
  | nil => exact absurd (hu ▸ mem_usedSeats.2 ⟨hk, fun h => ht (hkt ▸ h)⟩) List.not_mem_nil
  | cons j rest =>
    have hdone : (j :: rest).all (seatDone s fe) = true := List.all_eq_true.2 fun i hi => by
      obtain ⟨h4, hit⟩ := hm i (hu ▸ hi)
      exact hd i h4 hit
    have hj : seatOf (feAt s fe) j = t := (hm j (hu ▸ List.mem_cons_self)).2
    unfold usedSeats at hu
    simp only [groupRetire, hu, hj, he, hs, hdone, hz, Bool.not_true, Bool.or_self, Bool.false_eq_true, if_false]
    exact congrArg (fun u => launchRetire t.launch (endRegions t.launch (modLaunch t.launch (withoutFe fe) (vacate fe u)))) hfree

theorem endRegions_of_none {s : State} {id : Nat} {l : Launch} (hf : KV.find id s.launches = some l) (hr : l.regions = []) :
    endRegions id s = s := by
  have hkeep : (fun x : Launch => { x with regions := x.regions.filter fun e => !([].contains e) }) = fun x => x :=
    funext fun x => congrArg (fun r => { x with regions := r }) (List.filter_eq_self.2 fun _ _ => rfl)
  simp only [endRegions, hf, hr, List.filter_nil, List.flatMap_nil]
  exact (congrArg (modLaunch id · s) hkeep).trans (modLaunch_self ..)

/-- A launch in which a group still runs does not retire. -/
theorem launchRetire_still_placed {s : State} {id : Nat} {l : Launch} (hf : KV.find id s.launches = some l) (hp : l.placed ≠ []) :
    launchRetire id s = s := by
  have hover : launchOver l = false := by simp [launchOver, hp]
  simp only [launchRetire, hf, hover, Bool.not_false, if_true]

/-- A seat that is RETIRED on an FE without a bight unit is done when nothing that it sent is under way. -/
theorem seatDone_of_retired {s : State} {fe j : Nat} (hs : (seatAt s fe j).st = .retired) (hc : (seatAt s fe j).cards = [])
    (hp : (seatAt s fe j).splits = []) (hu : ∀ x ∈ unperformed s, x.fe ≠ fe) (hb : (feAt s fe).bight = none) :
    seatDone s fe j = true := by
  have hn : (unperformed s).any (sameSeat · fe j) = false := List.any_eq_false.2 fun x hx h =>
    hu x hx (beq_iff_eq.1 (Bool.and_eq_true_iff.1 h).1)
  have e : seatOf (feAt s fe) j = seatAt s fe j := rfl
  simp only [seatDone, e, hs, hc, hp, hn, hb, beq_self_eq_true, List.isEmpty_nil, Bool.not_false, Bool.and_self]

/-- Settles O50: a region of one group, a deal of one group and the retirement of an FE each come to one named update, whose FE and
launch are read back by the lemmas above. -/
theorem groupsArePlacedAndRetire : Obligations.GroupsArePlacedAndRetire := by
  unfold Obligations.GroupsArePlacedAndRetire
  intro s id l n seated hl hid hu hc hn _ hm
  have hf := find_launch_alone hl
  subst hid
  refine ⟨fun u d x y p hd hw hp hb => ?_, fun u hd hw hb => ?_, fun u d fe hd hw hp => ?_, ?_⟩
  · -- a region with a base
    have hplace := regionPlace_waiting hf hu hd hw hm
    rw [placeRegion_one hf hc hp hb] at hplace
    have hx := find_placeGroup (find_claimRegion hf u d x y) u (feAtXY d (x + p.1) (y + p.2)) (stageHand [] p)
    exact ⟨_, congrArg Host.Outcome.next hplace, (Seated.placeGroup _ hn fun k => stageHand_no_cascade p k).of_fes rfl,
      _, find_unwait_alone hx hw, rfl, rfl⟩
  · -- a region with none
    have hplace := regionPlace_waiting hf hu hd hw hm
    rw [placeRegion_of_no_base hf hb] at hplace
    exact congrArg Host.Outcome.next hplace
  · -- a deal
    have hx := (find_modLaunch l.id (tieGroup l u d fe) _).trans (congrArg _ (find_placeGroup hf u fe fun _ => none))
    have hdeal := (deal_waiting hf hd hm).trans (dealGo_one hf hw (dealOne_first hf hp) hx hw 63)
    exact ⟨_, congrArg Host.Outcome.next hdeal, (Seated.placeGroup _ hn fun _ => rfl).of_fes rfl, _, find_unwait_alone hx hw, rfl, rfl⟩
  · -- the retirement of an FE
    intro fe k hk hfe ht hid hall hcards hsplits hun hbi hz hp hb hr _ he
    have hd (j : Nat) (_ : j < 4) (hj : seatAt s fe j = seatAt s fe k) : seatDone s fe j = true :=
      seatDone_of_retired (hj ▸ ht) (hj ▸ hcards) (hj ▸ hsplits) hun hbi
    have hret := groupRetire_done hfe ⟨⟨k, hk, rfl⟩, hall⟩ (by rw [ht]; exact SeatState.noConfusion) hd hz hp hb
    rw [hid] at hret
    have hx := (find_modLaunch l.id (withoutFe fe) (vacate fe s)).trans (congrArg _ hf)
    have hleft : (withoutFe fe l).placed ≠ [] := by
      obtain ⟨p, hpm, hpe⟩ := he
      exact List.ne_nil_of_mem (List.mem_filter.2 ⟨hpm, bne_iff_ne.2 hpe⟩)
    rw [endRegions_of_none hx hr, launchRetire_still_placed hx hleft] at hret
    have hfar : ¬ 2 ^ 24 ≤ fe := by omega
    have hvac : feAt (vacate fe s) fe = vacatedFe (feAt s fe) := feAt_modFe ..
    have hrecs (r : RecMsg) (hm : r ∈ (vacate fe s).recs) : r.fe ≠ fe := bne_iff_ne.1 (List.mem_filter.1 hm).2
    exact ⟨_, congrArg Host.Outcome.next ((if_neg hfar).trans hret), congrArg FE.seats hvac, congrArg FE.idle hvac, hrecs, rfl,
      _, hx, rfl⟩

end Sys2Proof
end

section
/-!
SUPPORT. Barrier objects (08 R133, R134): what an arrival makes of its object, what the release of its waiters leaves alone and how
it wakes a seat, and the statement about arrivals.
-/

namespace Sys2Proof
open Machine

/-! ### The object after an update -/

theorem barAt_setBar (fe n : Nat) (b : Barrier) (s : State) : barAt (feAt (setBar fe n b s) fe) n = b := by
  rw [setBar, feAt_modFe]
  exact KV.get_put_same ..

theorem barriers_answerBar (fe : Nat) (w : Waiter) (v : W64) (ovr : Bool) (s : State) :
    (feAt (answerBar fe w v ovr s) fe).barriers = (feAt s fe).barriers := by
  cases w with
  | bar k _ _ => simp only [answerBar, grantSeat, modSeat, feAt_modFe]
  | remote _ | ldf _ _ | ldx _ _ | stf _ _ => rfl

/-- The release of waiters changes no object, whoever waits. -/
theorem barAt_releaseBar (fe n : Nat) (b : Barrier) (m : Nat) (s : State) :
    barAt (feAt (releaseBar fe n b s) fe) m = barAt (feAt s fe) m := by
  suffices h : (feAt (releaseBar fe n b s) fe).barriers = (feAt s fe).barriers by rw [barAt, barAt, h]
  unfold releaseBar
  extract_lets f go t
  refine each_keeps (P := fun u => (feAt u fe).barriers = (feAt s fe).barriers) (fun w u hu => ?_) _ (by simp only [t, feAt_modFe])
  split
  · rwa [barriers_answerBar]
  · exact hu

theorem fes_postFor (fe k : Nat) (tag : BitVec 16) (status source : BitVec 8) (mask bytes : Nat) (s : State) :
    (postFor fe k tag status source mask bytes s).fes = s.fes := by
  unfold postFor postOrphan
  dsimp only
  split
  · split
    · rfl
    · split <;> rfl
  · rfl

/-- The record of an OVERRUN changes no object. -/
theorem barAt_overrunRec (fe n : Nat) (b : Barrier) (e m : Nat) (s : State) :
    barAt (feAt (overrunRec fe n b s) e) m = barAt (feAt s e) m :=
  congrArg (fun l => barAt (KV.get {} e l) m) (fes_postFor ..)

/-! ### An arrival by the state of its object (08 R133) -/

section
variable {s : State} {fe n amount : Nat}

theorem arriveBar_below (ho : (barAt (feAt s fe) n).st = .opened)
    (hs : (barAt (feAt s fe) n).arrived.toNat + amount < (barAt (feAt s fe) n).expect.toNat) :
    (arriveBar fe n amount s).1 = setBar fe n { barAt (feAt s fe) n with
      arrived := BitVec.ofNat 48 ((barAt (feAt s fe) n).arrived.toNat + amount) } s := by
  simp only [arriveBar, ho, if_pos hs]

theorem arriveBar_completes (ho : (barAt (feAt s fe) n).st = .opened)
    (hs : (barAt (feAt s fe) n).arrived.toNat + amount = (barAt (feAt s fe) n).expect.toNat) :
    (arriveBar fe n amount s).1 = releaseBar fe n (completeBar (barAt (feAt s fe) n) .ok)
      (setBar fe n (completeBar (barAt (feAt s fe) n) .ok) s) := by
  simp only [arriveBar, ho, if_neg (Nat.not_lt.2 (Nat.le_of_eq hs.symm)), if_pos hs]

theorem arriveBar_overruns (ho : (barAt (feAt s fe) n).st = .opened)
    (hs : (barAt (feAt s fe) n).expect.toNat < (barAt (feAt s fe) n).arrived.toNat + amount) :
    (arriveBar fe n amount s).1 = overrunRec fe n (completeBar (barAt (feAt s fe) n) .overrun)
      (releaseBar fe n (completeBar (barAt (feAt s fe) n) .overrun)
        (setBar fe n (completeBar (barAt (feAt s fe) n) .overrun) s)) := by
  simp only [arriveBar, ho, if_neg (Nat.not_lt.2 (Nat.le_of_lt hs)), if_neg (Nat.ne_of_gt hs)]

theorem arriveBar_ignored (ho : (barAt (feAt s fe) n).st ≠ .opened) : (arriveBar fe n amount s).1 = s := by
  cases h : (barAt (feAt s fe) n).st with
  | opened => exact absurd h ho
  | free | error => simp only [arriveBar, h]

theorem errorBar_opened (ho : (barAt (feAt s fe) n).st = .opened) :
    errorBar fe n s = releaseBar fe n { completeBar (barAt (feAt s fe) n) .error with st := .error }
      (setBar fe n { completeBar (barAt (feAt s fe) n) .error with st := .error } s) :=
  if_pos (beq_iff_eq.2 ho)

theorem errorBar_ignored (ho : (barAt (feAt s fe) n).st ≠ .opened) : errorBar fe n s = s := if_neg (mt beq_iff_eq.1 ho)

end

/-! ### The seat that waits for the phase (08 R134) -/

/-- What a BWAIT returns of a phase of an OPEN object that has completed OK. -/
theorem bwaitNow_completed {b : Barrier} (ho : b.st = .opened) :
    bwaitNow (completeBar b .ok) b.phase = some (w64 ((b.phase + 1).toNat * 256), false) := by
  simp [bwaitNow, completeBar, ho]

/-- The one waiter of an FE, a BWAIT whose condition holds, is answered and leaves the list. -/
theorem releaseBar_one {s : State} {fe n k : Nat} {b : Barrier} {ph : BitVec 8} {v : W64} {ovr : Bool}
    (hw : (feAt s fe).waits = [.bar k n ph]) (hb : bwaitNow b ph = some (v, ovr)) :
    releaseBar fe n b s = grantSeat fe k v (if ovr then 1 else 0) (modFe fe (fun f => { f with waits := [] }) s) := by
  simp only [releaseBar, hw, waiterBar, beq_self_eq_true, if_true, hb, each, List.foldl_cons, List.foldl_nil, answerBar]
  exact congrArg _ (modFe_congr _ _ _ _ (by simp [hw, hb]))

/-- A WAITING seat that is given a value goes on with it. -/
theorem seatAt_grantSeat {s : State} {fe k : Nat} {h : Hand} (hk : k < 4) (hst : (seatAt s fe k).st = .waiting)
    (hh : (seatAt s fe k).hand = some h) (v : W64) (st : Nat) :
    seatAt (grantSeat fe k v st s) fe k = { seatAt s fe k with hand := some { h with grant := some (v, st) }, st := .running } := by
  rw [grantSeat, seatAt_modSeat _ _ _ _ hk, hst, hh]
  rfl

theorem waits_grantSeat (fe k : Nat) (v : W64) (st : Nat) (s : State) : (feAt (grantSeat fe k v st s) fe).waits = (feAt s fe).waits := by
  simp only [grantSeat, modSeat, feAt_modFe]

/-- An arrival that completes the phase which the FE's one waiter waits for gives its seat the new PHASE and LAST = OK. -/
theorem arriveBar_wakes {s : State} {fe n amount k : Nat} (ho : (barAt (feAt s fe) n).st = .opened)
    (hs : (barAt (feAt s fe) n).arrived.toNat + amount = (barAt (feAt s fe) n).expect.toNat)
    (hw : (feAt s fe).waits = [.bar k n (barAt (feAt s fe) n).phase]) :
    (arriveBar fe n amount s).1 = grantSeat fe k (w64 (((barAt (feAt s fe) n).phase + 1).toNat * 256)) 0
      (modFe fe (fun f => { f with waits := [] }) (setBar fe n (completeBar (barAt (feAt s fe) n) .ok) s)) := by
  have hw' : (feAt (setBar fe n (completeBar (barAt (feAt s fe) n) .ok) s) fe).waits = [.bar k n (barAt (feAt s fe) n).phase] := by
    rw [setBar, feAt_modFe, hw]
  rw [arriveBar_completes ho hs, releaseBar_one hw' (bwaitNow_completed ho)]
  rfl

/-- The bytes of what a BWAIT returns: PHASE above LAST (17 R297). -/
theorem bwait_value_fields (p : BitVec 8) : (w64 (p.toNat * 256)).toNat % 256 = 0 ∧ (w64 (p.toNat * 256)).extractLsb' 8 8 = p := by
  have hp : p.toNat < 2 ^ 8 := p.isLt
  have hv : (w64 (p.toNat * 256)).toNat = p.toNat * 256 := Nat.mod_eq_of_lt (by omega)
  refine ⟨by omega, BitVec.eq_of_toNat_eq ?_⟩
  rw [BitVec.extractLsb'_toNat, hv, Nat.shiftRight_eq_div_pow]
  omega

/-- Settles O45: each case of the object is one equation of the arrival, read back through the release of the waiters. -/
theorem barrierArrivals : Obligations.BarrierArrivals := by
  unfold Obligations.BarrierArrivals
  intro s fe n amount b set done sum
  refine ⟨fun ho => ⟨fun hs => congrArg Host.Outcome.next (arriveBar_below ho hs), fun _ => ⟨fun hs => ?_, fun hs => ?_, ?_⟩,
    fun k h hw hk hst hh hs => ?_⟩, fun ho => ⟨congrArg Host.Outcome.next (arriveBar_ignored ho),
    congrArg Host.Outcome.next (errorBar_ignored ho)⟩⟩
  · -- the phase completes
    exact ⟨_, congrArg Host.Outcome.next (arriveBar_completes ho hs), by rw [barAt_releaseBar, barAt_setBar]; rfl⟩
  · -- more has arrived than was expected
    exact ⟨_, congrArg Host.Outcome.next (arriveBar_overruns ho hs), by
      rw [barAt_overrunRec, barAt_releaseBar, barAt_setBar]; rfl⟩
  · -- an error arrival
    exact ⟨_, congrArg Host.Outcome.next (errorBar_opened ho), by rw [barAt_releaseBar, barAt_setBar]; rfl⟩
  · -- a seat waits for the phase
    let t := modFe fe (fun f => { f with waits := [] }) (setBar fe n (completeBar b .ok) s)
    have ht : seatAt t fe k = seatAt s fe k := by simp only [t, setBar, seatAt, seatOf, feAt_modFe]
    have hwoken := seatAt_grantSeat hk (ht ▸ hst) (ht ▸ hh) (w64 ((b.phase + 1).toNat * 256)) 0
    refine ⟨_, _, congrArg Host.Outcome.next (arriveBar_wakes ho hs hw), ?_, congrArg Seat.st hwoken, congrArg Seat.hand hwoken,
      bwait_value_fields _⟩
    rw [waits_grantSeat, feAt_modFe]

end Sys2Proof
end

section
/-!
SUPPORT. A request that goes over no link to the bank units of an FE (04 R69, 08 R129), what a pile operation does there (08 R137
to R140), and the statement about piles at their homes.
-/

namespace Sys2Proof
open Machine

/-! ### The way of a request to a bank -/

/-- The state without request `n` in flight. -/
def reqTaken (n : Nat) (s : State) : State := { s with reqs := removeAt n s.reqs }

@[simp] theorem reqTaken_mem (n : Nat) (s : State) : (reqTaken n s).mem = s.mem := rfl

section
variable {s : State} {n : Nat} {r : Req} {fe : Nat}

/-- A request that is ready meets the event that comes next for it. -/
theorem reqGo_ready {e : ReqEvent} {ok : ReqEvent → Bool} (hr : s.reqs[n]? = some r) (he : reqEvent s r = e) (hok : ok e = true)
    (hready : reqReady s r = true) : reqGo n ok s = reqStep r e (reqTaken n s) := by
  simp only [reqGo, hr, he, hok, hready, Bool.and_self, if_true]
  rfl

theorem nextRoute_of_no_meld {e : ReqEvent} (he : reqEvent s r = e) (hm : ∀ p, e ≠ .meld p) : nextRoute s r = reqRoute s r := by
  unfold nextRoute
  rw [he]
  cases e with
  | meld p => exact absurd rfl (hm p)
  | bank | wait | take | release | gu | pile | rigging => rfl

/-- The bank units of the FE perform a request of the context that holds it. -/
theorem homeArrive_of_atBank (h : AtBank s n r fe) {u : State} (hu : (feAt u fe).holder = some r.ctx) :
    homeArrive r u = bankPerform fe r u := by
  simp [homeArrive, h.here, h.home.1, h.home.2, bankArrive, hu]

/-- A request that has only to reach the bank units of an FE, over no link, is performed there. -/
theorem reqGo_of_atBank (h : AtBank s n r fe) {e : ReqEvent} {ok : ReqEvent → Bool} (he : reqEvent s r = e) (hok : ok e = true)
    (hm : ∀ p, e ≠ .meld p) (hr : e ≠ .rigging) : reqGo n ok s = bankPerform fe r (reqTaken n s) := by
  have hready : reqReady s r = true := by
    simp [reqReady, h.free, h.next, nextRoute_of_no_meld he hm, h.near, takesReq, routeClear]
  have hroute : reqRoute (reqTaken n s) r = [] := h.near
  have htravel : travel r (homeArrive r) (reqTaken n s) = bankPerform fe r (reqTaken n s) := by
    simp [travel, hroute, routeDead, each, homeArrive_of_atBank h (u := reqTaken n s) h.holder]
  rw [reqGo_ready h.flight he hok hready]
  cases e with
  | meld p => exact absurd rfl (hm p)
  | rigging => exact absurd rfl hr
  | bank | wait | take | release | gu | pile => exact htravel

theorem meldLeft_of_passed {op : PileOp} (ho : r.op = .pile op) (hp : (meldPath r.fe r.pa).drop r.hops = []) : meldLeft s r = [] := by
  simp only [meldLeft, ho]
  cases op with
  | restore _ => rfl
  | pinit _ _ | push _ | pop | popw =>
    dsimp only
    rw [hp, ite_self]

/-- A pile operation that has passed its meld points is performed at the bank of its header. -/
theorem exec_pileOpAtHome (h : AtBank s n r fe) {op : PileOp} (ho : r.op = .pile op)
    (hp : (meldPath r.fe r.pa).drop r.hops = []) : exec (.pileOpAtHome n) s = .next (pileAtHome r op (reqTaken n s)) := by
  have he : reqEvent s r = .pile := by simp [reqEvent, h.own, meldLeft_of_passed ho hp, ho]
  have hgo := reqGo_of_atBank (ok := (· == .pile)) h he rfl (fun _ => ReqEvent.noConfusion) ReqEvent.noConfusion
  exact congrArg Host.Outcome.next (hgo.trans (by simp only [bankPerform, ho]))

end

/-! ### Memory from an address on -/

/-- Offsets that stay below 2^19 from the address of their FE leave its other fields. -/
theorem paKey_add {pa k : Nat} (h : pa % 2 ^ 19 + k < 2 ^ 19) : paKey (pa + k) = paKey pa + k := by
  unfold paKey
  omega

theorem rdPa_wrPa_same (pa n v : Nat) (s : State) : rdPa (wrPa pa n v s) pa n = v % 256 ^ n := rdBytes_wrBytes_same ..

theorem rdPa_wrPa_other {a b n k : Nat} (h : paKey b + k ≤ paKey a ∨ paKey a + n ≤ paKey b) (v : Nat) (s : State) :
    rdPa (wrPa a n v s) b k = rdPa s b k := rdBytes_wrBytes_other _ _ _ _ _ _ h

theorem rdPa_sendReply (r : Req) (b : ReplyBody) (s : State) (pa n : Nat) : rdPa (sendReply r b s) pa n = rdPa s pa n := rfl

theorem rdPa_reqTaken (m : Nat) (s : State) (pa n : Nat) : rdPa (reqTaken m s) pa n = rdPa s pa n := rfl

theorem sendReply_replies (r : Req) (b : ReplyBody) (s : State) : (sendReply r b s).replies = s.replies ++ [replyTo r b] := rfl

/-! ### Pile operations at their home (08 R138, R139) -/

/-- The landing words of the answer to a pile operation (08 R139). -/
def pileWords (op : PileOp) (v : W64) (st : Nat) : List W32 :=
  if op = .pop then [lo32 v.toNat, hi32 v.toNat, w32 st, 0] else [w32 st]

/-- The value of a pop as its two landing words. -/
theorem pileWords_pop (v : Nat) : pileWords .pop (w64 v) pileDone = [BitVec.ofNat 32 v, BitVec.ofNat 32 (v / 2 ^ 32), 0, 0] := by
  have hlo : lo32 (w64 v).toNat = BitVec.ofNat 32 v := BitVec.eq_of_toNat_eq (by simp [lo32, w32, w64])
  have hhi : hi32 (w64 v).toNat = BitVec.ofNat 32 (v / 2 ^ 32) := BitVec.eq_of_toNat_eq (by simp [hi32, w32, w64]; omega)
  rw [pileWords, if_pos rfl, hlo, hhi]
  rfl

/-- The header that PINIT writes. -/
def headerWritten (pa cap base : Nat) (s : State) : State :=
  wrPa (pa + 24) 8 0 (wrPa (pa + 16) 8 base (wrPa (pa + 8) 8 0 (wrPa pa 8 cap s)))

theorem headerWritten_replies (pa cap base : Nat) (s : State) : (headerWritten pa cap base s).replies = s.replies := by
  simp only [headerWritten, wrPa_replies]

theorem headerWritten_tags (pa cap base : Nat) (s : State) : (headerWritten pa cap base s).tags = s.tags := by
  simp only [headerWritten, wrPa_tags]

theorem headerWritten_words {pa cap base : Nat} (hpa : pa % 2 ^ 19 + 32 ≤ 0x60000) (hc : cap < 2 ^ 64) (hb : base < 2 ^ 64) (s : State) :
    let t := headerWritten pa cap base s
    rdPa t pa 8 = cap ∧ rdPa t (pa + 8) 8 = 0 ∧ rdPa t (pa + 16) 8 = base ∧ rdPa t (pa + 24) 8 = 0 ∧
      ∀ a, (a < paKey pa ∨ paKey pa + 32 ≤ a) → memByte t.mem a = memByte s.mem a := by
  have h8 : paKey (pa + 8) = paKey pa + 8 := paKey_add (by omega)
  have h16 : paKey (pa + 16) = paKey pa + 16 := paKey_add (by omega)
  have h24 : paKey (pa + 24) = paKey pa + 24 := paKey_add (by omega)
  dsimp only [headerWritten]
  refine ⟨?_, ?_, ?_, ?_, fun a ha => ?_⟩
  · rw [rdPa_wrPa_other (by omega), rdPa_wrPa_other (by omega), rdPa_wrPa_other (by omega), rdPa_wrPa_same]
    exact Nat.mod_eq_of_lt hc
  · rw [rdPa_wrPa_other (by omega), rdPa_wrPa_other (by omega), rdPa_wrPa_same, Nat.zero_mod]
  · rw [rdPa_wrPa_other (by omega), rdPa_wrPa_same]
    exact Nat.mod_eq_of_lt hb
  · rw [rdPa_wrPa_same, Nat.zero_mod]
  · simp only [wrPa]
    rw [memByte_wrBytes_other _ _ _ _ _ (by omega), memByte_wrBytes_other _ _ _ _ _ (by omega),
      memByte_wrBytes_other _ _ _ _ _ (by omega), memByte_wrBytes_other _ _ _ _ _ (by omega)]

section
variable {s : State} {r : Req} {fe : Nat}

theorem pileAnswer_lands {op : PileOp} (ho : r.op = .pile op) (hw : op ≠ .popw) {off : Nat} (hl : r.land = some off) (v : W64) (st : Nat)
    (s : State) : pileAnswer r v st s = sendReply r (.land (pileWords op v st)) s := by
  simp only [pileAnswer, ho]
  cases op with
  | popw => exact absurd rfl hw
  | pinit _ _ | push _ | restore _ | pop => simp [landReply, hl, pileWords]

/-- The cells of a pile in scratchpad are at its home when they end inside it. -/
theorem cellsAtHome_of_scratchpad {hdr first last : Nat} (hk : paClass hdr = 1) :
    cellsAtHome hdr first last = decide (hdr % 2 ^ 19 + (last - hdr) ≤ 0x60000) := by
  simp only [cellsAtHome, hk]
  rfl

/-- PINIT writes the header when R137 and R138 allow it. -/
theorem pileAtHome_pinit {cap base : W32} (hc : cap ≠ 0) (h8 : base.toNat % 8 = 0) (h32 : 32 ≤ base.toNat) (hk : paClass r.pa = 1)
    (hin : r.pa % 2 ^ 19 + base.toNat + 8 * cap.toNat ≤ 0x60000) :
    pileAtHome r (.pinit cap base) s = pileAnswer r 0 pileDone (headerWritten r.pa cap.toNat base.toNat s) := by
  have hcells : cellsAtHome r.pa (r.pa + base.toNat) (r.pa + base.toNat + 8 * cap.toNat) = true := by
    rw [cellsAtHome_of_scratchpad hk, decide_eq_true_eq]
    omega
  unfold pileAtHome
  exact if_neg (by simpa [h8, Nat.not_lt.2 h32, hcells] using hc)

theorem pileAtHome_bad {op : PileOp} (hi : ∀ cap base, op ≠ .pinit cap base) (hh : pileHeader s r.pa = none) :
    pileAtHome r op s = pileAnswer r 0 pileBad s := by
  unfold pileAtHome
  split
  · next cap base => exact absurd rfl (hi cap base)
  · rw [hh]

/-! ### Operations on a header that keeps R137 -/

section
variable {cap count base : Nat} (hh : pileHeader s r.pa = some (cap, count, base))
include hh

/-- What holds of the header and the cells of a pile in scratchpad. -/
theorem pileHeader_bounds (hk : paClass r.pa = 1) : count < 2 ^ 32 ∧ 32 ≤ base ∧ r.pa % 2 ^ 19 + base + 8 * cap ≤ 0x60000 := by
  simp only [pileHeader, cellsAtHome_of_scratchpad hk] at hh
  split at hh
  · cases hh
  · next hno =>
    simp only [Option.some.injEq, Prod.mk.injEq] at hh
    obtain ⟨hcap, hcount, hbase⟩ := hh
    simp only [hcap, hcount, hbase, Bool.or_eq_true, decide_eq_true_eq, not_or, Bool.not_eq_true', decide_eq_false_iff_not] at hno
    omega

theorem pileAtHome_push (v : W64) : pileAtHome r (.push v) s = pilePush r v cap count base s := by
  unfold pileAtHome
  simp only [hh]

theorem pileAtHome_pop (hc : 0 < count) : pileAtHome r .pop s =
    pileAnswer r (w64 (rdPa s (r.pa + base + 8 * (count - 1)) 8)) pileDone (wrPa (r.pa + 8) 8 (count - 1) s) := by
  unfold pileAtHome
  simp only [hh, if_pos hc]

theorem pileAtHome_pop_empty (hc : count = 0) : pileAtHome r .pop s = pileAnswer r 0 pileEmpty s := by
  unfold pileAtHome
  simp [hh, hc]

theorem pileAtHome_popw_empty (hc : count = 0) : pileAtHome r .popw s = park r s := by
  unfold pileAtHome
  simp [hh, hc]

end

theorem parkedAt_of_no_waits {pa : Nat} (hf : feOfPa pa = some fe) (hw : (feAt s fe).waits = []) : parkedAt s pa = [] := by
  simp [parkedAt, hf, hw]

theorem pilePush_room (hp : parkedAt s r.pa = []) {cap count : Nat} (hc : count < cap) (v : W64) (base : Nat) :
    pilePush r v cap count base s =
      pileAnswer r 0 pileDone (wrPa (r.pa + 8) 8 (count + 1) (wrPa (r.pa + base + 8 * count) 8 v.toNat s)) := by
  simp only [pilePush, hp, if_pos hc]

theorem pilePush_full (hp : parkedAt s r.pa = []) (v : W64) (cap base : Nat) :
    pilePush r v cap cap base s = pileAnswer r 0 pileFull s := by
  simp only [pilePush, hp, if_neg (Nat.lt_irrefl cap)]

/-- A bank whose list is empty has room for a POPW. -/
theorem park_of_no_waits (hf : feOfPa r.pa = some fe) (hw : (feAt s fe).waits = []) :
    park r s = modFe fe (fun f => { f with waits := f.waits ++ [.remote r] }) s := by
  simp [park, hf, enterBank, sharedUsed, hw]

end

/-- Settles O36: the operation reaches its bank, and each row of the table of R138 is one equation of `pileAtHome`. -/
theorem pilesAtHome : Obligations.PilesAtHome := by
  unfold Obligations.PilesAtHome
  intro s n r fe op off h hw ho hp hland lands
  have hex := exec_pileOpAtHome h ho hp
  have hk := h.home.1
  have hpark : parkedAt (reqTaken n s) r.pa = [] := parkedAt_of_no_waits h.home.2 hw
  have hans (hne : op ≠ .popw) := pileAnswer_lands ho hne (hland hne)
  refine ⟨fun cap base hop hc h8 h32 hin => ?_, fun hi hh hne => ?_, fun cap count base hh => ?_⟩
  · -- PINIT
    subst hop
    rw [pileAtHome_pinit hc h8 h32 hk hin, hans PileOp.noConfusion] at hex
    refine ⟨_, hex, ⟨?_, ?_⟩, ?_⟩
    · rw [sendReply_replies, headerWritten_replies]
      rfl
    · rw [sendReply_tags, headerWritten_tags]
      rfl
    · have hwords := headerWritten_words (pa := r.pa) (cap := cap.toNat) (base := base.toNat) (by omega) (by omega) (by omega)
        (reqTaken n s)
      simpa only [rdPa_sendReply, sendReply_mem, reqTaken_mem] using hwords
  · -- a header that breaks R137
    rw [pileAtHome_bad (s := reqTaken n s) hi hh, hans hne] at hex
    refine ⟨_, hex, ⟨?_, rfl⟩, rfl⟩
    by_cases hpop : op = .pop <;> simp only [pileWords, hpop, if_true, if_false] <;> rfl
  · have hh' : pileHeader (reqTaken n s) r.pa = some (cap, count, base) := hh
    obtain ⟨hcount, hbase, hin⟩ := pileHeader_bounds hh hk
    have h8 : paKey (r.pa + 8) = paKey r.pa + 8 := paKey_add (by omega)
    refine ⟨fun v hop hc => ?_, fun v hop hc => ?_, fun hop hc => ?_, fun hop hc => ?_, fun hop hc => ?_⟩ <;> subst hop
    · -- a push below CAP
      have hcell : paKey (r.pa + base + 8 * count) = paKey r.pa + (base + 8 * count) := by
        rw [Nat.add_assoc]
        exact paKey_add (by omega)
      rw [pileAtHome_push hh', pilePush_room hpark hc, hans PileOp.noConfusion] at hex
      refine ⟨_, hex, ⟨rfl, rfl⟩, ?_, ?_⟩
      · rw [rdPa_sendReply, rdPa_wrPa_other (by omega), rdPa_wrPa_same]
        exact Nat.mod_eq_of_lt v.isLt
      · rw [rdPa_sendReply, rdPa_wrPa_same]
        exact Nat.mod_eq_of_lt (by omega)
    · -- a push at CAP
      rw [pileAtHome_push hh', hc, pilePush_full hpark, hans PileOp.noConfusion] at hex
      exact ⟨_, hex, ⟨rfl, rfl⟩, rfl⟩
    · -- a pop of the last value
      rw [pileAtHome_pop hh' hc, hans PileOp.noConfusion, pileWords_pop, rdPa_reqTaken] at hex
      refine ⟨_, hex, ⟨rfl, rfl⟩, ?_⟩
      rw [rdPa_sendReply, rdPa_wrPa_same]
      exact Nat.mod_eq_of_lt (by omega)
    · -- a pop of an empty pile
      rw [pileAtHome_pop_empty hh' hc, hans PileOp.noConfusion] at hex
      exact ⟨_, hex, ⟨rfl, rfl⟩, rfl⟩
    · -- a POPW of an empty pile
      rw [pileAtHome_popw_empty hh' hc, park_of_no_waits (s := reqTaken n s) h.home.2 hw] at hex
      refine ⟨_, hex, ?_, rfl, rfl⟩
      rw [feAt_modFe]
      exact congrArg (· ++ [Waiter.remote r]) hw

end Sys2Proof
end

section
/-!
SUPPORT. Melds (08 R141 to R143): what the crossing of links leaves alone, what an operation does at a meld point, and the statement
about melds and resends.
-/

namespace Sys2Proof
open Machine

/-! ### Crossing links -/

/-- Only links and reports have changed. -/
def LinksOnly (s u : State) : Prop := ∃ l r, u = { s with links := l, reports := r }

theorem LinksOnly.modLink {s u : State} (h : LinksOnly s u) (k : Nat) (f : Link → Link) : LinksOnly s (modLink k f u) := by
  obtain ⟨l, r, rfl⟩ := h
  exact ⟨_, r, rfl⟩

theorem LinksOnly.report {s u : State} (h : LinksOnly s u) (x : Report) : LinksOnly s (report x u) := by
  obtain ⟨l, r, rfl⟩ := h
  exact ⟨l, _, rfl⟩

theorem LinksOnly.ite {s t u : State} {c : Prop} [Decidable c] (ht : LinksOnly s t) (hu : LinksOnly s u) :
    LinksOnly s (if c then t else u) := by
  split
  · exact ht
  · exact hu

theorem LinksOnly.frameSent {s u : State} (h : LinksOnly s u) (k : Nat) : LinksOnly s (frameSent k u) :=
  .ite ((h.modLink ..).report ..) (.ite ((h.modLink ..).modLink ..) (h.modLink ..))

theorem LinksOnly.sendFlit {s u : State} (h : LinksOnly s u) (k : Nat) : LinksOnly s (sendFlit k u) :=
  .ite ((h.modLink ..).modLink ..) (.ite (((h.modLink ..).modLink ..).frameSent ..) ((h.modLink ..).modLink ..))

theorem LinksOnly.crossLink {s u : State} (h : LinksOnly s u) (c k : Nat) : LinksOnly s (crossLink c k u) :=
  have h1 : LinksOnly s (passFlit k u) := .ite (h.sendFlit k) ((h.sendFlit k).modLink ..)
  .ite h1 (h1.modLink ..)

theorem LinksOnly.crossAll (c : Nat) (l : List Nat) (s : State) : LinksOnly s (each l (Machine.crossLink c) s) :=
  each_keeps (P := LinksOnly s) (fun k _ h => h.crossLink c k) l ⟨s.links, s.reports, rfl⟩

section
variable {s u : State} (h : LinksOnly s u)
include h

theorem LinksOnly.melds : u.melds = s.melds := by
  obtain ⟨l, r, rfl⟩ := h
  rfl

theorem LinksOnly.replies : u.replies = s.replies := by
  obtain ⟨l, r, rfl⟩ := h
  rfl

theorem LinksOnly.ctxAt (c : Nat) : ctxAt u c = ctxAt s c := by
  obtain ⟨l, r, rfl⟩ := h
  rfl

theorem LinksOnly.meldClock (c : Nat) : meldClock u c = meldClock s c := by
  obtain ⟨l, r, rfl⟩ := h
  rfl

/-- A way within the module is the same whatever its links do. -/
theorem LinksOnly.homeRoute {pa : Nat} (ho : ownModule s pa = true) (d : Nat) (back : Bool) :
    homeRoute u d pa back = homeRoute s d pa back := by
  obtain ⟨l, r, rfl⟩ := h
  have ho' : ownModule { s with links := l, reports := r } pa = true := ho
  simp only [Machine.homeRoute, ho, ho', if_true]
  rfl

/-- So is the way back of an operation of this module from a meld point. -/
theorem LinksOnly.beyondMeld {x : Req} (ho : ownModule s x.pa = true) (hf : x.far = none) (p : Nat) :
    beyondMeld u x p = beyondMeld s x p := by
  simp only [Machine.beyondMeld, replyWay, reqWay, reqDie, hf, h.homeRoute ho]

end

/-! ### At a meld point (08 R141) -/

/-- The answer to a melded operation, from the meld point on: its way before it is what lies beyond the point. -/
def meldReply (s : State) (p : Nat) (x : Req) (ws : List W32) : Reply :=
  { req := { x with hop := beyondMeld s x p, flit := none }, body := .land ws }

theorem landReply_lands {r : Req} (hl : r.land ≠ none) (ws : List W32) (s : State) : landReply r ws s = sendReply r (.land ws) s := by
  obtain ⟨off, e⟩ := Option.ne_none_iff_exists'.1 hl
  simp only [landReply, e]

/-- A pop and a push that meld are answered with the pushed value and MELDED. -/
theorem answerMeld_pop {s : State} {r q : Req} {v : W64} (hr : r.op = .pile .pop) (hq : q.op = .pile (.push v)) (hrl : r.land ≠ none)
    (hql : q.land ≠ none) (hs : s.replies = []) (p : Nat) : answerMeld r q p s =
      { s with replies := [meldReply s p r [v.extractLsb' 0 32, v.extractLsb' 32 32, 1, 0], meldReply s p q [1]] } := by
  have hlo : lo32 v.toNat = v.extractLsb' 0 32 := BitVec.eq_of_toNat_eq (by simp [lo32, w32])
  have hhi : hi32 v.toNat = v.extractLsb' 32 32 := BitVec.eq_of_toNat_eq (by simp [hi32, w32, Nat.shiftRight_eq_div_pow])
  have hpop (t : State) : pileAnswer r v pileMelded t =
      sendReply r (.land [v.extractLsb' 0 32, v.extractLsb' 32 32, 1, 0]) t := by
    simp only [pileAnswer, hr, landReply_lands hrl, hlo, hhi]
    rfl
  have hpush (t : State) : pileAnswer q 0 pileMelded t = sendReply q (.land [1]) t := by
    simp only [pileAnswer, hq, landReply_lands hql]
    rfl
  have hnone : pushValue r = none := by simp only [pushValue, hr]
  have hsome : pushValue q = some v := by simp only [pushValue, hq]
  simp only [answerMeld, hnone, hsome, Option.isSome_none, Bool.false_eq_true, if_false, Option.getD_some, hpop, hpush, sendReply,
    hs, List.nil_append, List.cons_append, List.map_cons, List.map_nil, isReq, beq_self_eq_true, Bool.or_true, Bool.true_or, if_true]
  rfl

/-- An operation whose partner waits at the point melds with it. -/
theorem meldArrive_meets {s : State} {r : Req} {p : Nat} {m : MeldWait} (hm : s.melds = [m]) (hp : m.point = p)
    (hmeld : meldable m.req r = true) : meldArrive r p s = answerMeld r m.req p { s with melds := [] } := by
  simp [meldArrive, hm, findIdx, hp, hmeld, removeAt]

/-- The pushes and pops that wait at a meld point. -/
def WaitsAtPoint (r : Req) : Prop := (∃ v, r.op = .pile (.push v)) ∨ r.op = .pile .pop ∨ r.op = .pile .popw

/-- An operation that meets nobody at its wait point waits there for the window of its context. -/
theorem meldArrive_waits {s : State} {r : Req} (hk : WaitsAtPoint r) (hm : s.melds = []) (hh : r.hops = 0)
    (hw : (ctxAt s r.ctx).meldWin ≠ 0) (p : Nat) : meldArrive r p s =
      { s with melds := [⟨p, { r with hops := 1 }, meldClock s r.ctx + (ctxAt s r.ctx).meldWin.toNat⟩] } := by
  have hcan : ((pushValue r).isSome || isPop r) = true := by
    rcases hk with ⟨v, e⟩ | e | e <;> simp [pushValue, isPop, e]
  have hopen : ((ctxAt s r.ctx).meldWin != 0) = true := bne_iff_ne.2 hw
  simp only [meldArrive, hm, findIdx, hh, hcan, hopen, List.filter_nil, List.length_nil, beq_self_eq_true, Bool.and_self,
    List.nil_append]
  rfl

/-- A request goes over the links before its next meld point and arrives there. -/
theorem exec_meldPointArrival {s : State} {n p : Nat} {r : Req} (h : InFlight s n r) (ho : ownModule s r.pa = true)
    (hp : (meldLeft s r).head? = some p) (hd : routeDead s (reqRoute s r) = false) (ht : takesReq s r (nextRoute s r) = true) :
    exec (.meldPointArrival n p) s = .next (meldArrive { r with hop := r.hop + (nextRoute s r).length } p
      (each (nextRoute s r) (crossLink r.ctx) (reqTaken n s))) := by
  obtain ⟨rest, hleft⟩ := List.head?_eq_some_iff.1 hp
  have he : reqEvent s r = .meld p := by simp [reqEvent, ho, hleft]
  have hready : reqReady s r = true := by simp [reqReady, h.free, h.next, ht]
  have hd' : routeDead (reqTaken n s) (reqRoute (reqTaken n s) r) = false := hd
  have hgo := reqGo_ready (ok := (· == .meld p)) h.flight he (beq_self_eq_true _) hready
  refine congrArg Host.Outcome.next (hgo.trans ?_)
  simp only [reqStep, hd', Bool.false_eq_true, if_false]
  rfl

/-! ### The obligation -/

/-- Settles O38: a resend and an expiry are one update each; an arrival crosses its links, which changes neither the melds, the answers
nor the ways, and then finds a partner or waits. -/
theorem meldsAndResends : Obligations.MeldsAndResends := by
  unfold Obligations.MeldsAndResends
  intro s n
  refine ⟨fun r hr hfree => ?_, fun m hm hf => ?_, ?_⟩
  · -- a refused request
    have hmay : mayResend s r = true := by simpa [mayResend] using hfree
    exact congrArg Host.Outcome.next (by simp only [resend, hr, hmay, if_true])
  · -- a window that expires
    exact congrArg Host.Outcome.next (by simp only [meldExpire, hm, hf, Bool.false_eq_true, if_false])
  intro r p h ho hp way there back hd ht
  let x : Req := { r with hop := r.hop + way.length }
  have hex : exec (.meldPointArrival n p) s = .next (meldArrive x p there) :=
    exec_meldPointArrival h ho hp hd ht
  have hl : LinksOnly (reqTaken n s) there := .crossAll r.ctx way _
  refine ⟨fun m v hm hmp hop hpush hctx hpa hne hland hmland hfar hreplies => ?_, fun hk hm hh hw => ?_⟩
  · -- a partner waits
    have hmeld : meldable m.req x = true := by
      have hseat : m.req.fe ≠ r.fe ∨ m.req.seat ≠ r.seat := Decidable.not_and_iff_not_or_not.1 fun e => hne (Prod.ext e.1 e.2)
      simpa [meldable, pushValue, isPop, hpush, x, hop, hctx, hpa] using hseat
    rw [meldArrive_meets (hl.melds.trans hm) hmp hmeld,
      answerMeld_pop (s := { there with melds := [] }) (r := x) hop hpush hland hmland (hl.replies.trans hreplies)] at hex
    have hback (y : Req) (hy : ownModule s y.pa = true) (hf : y.far = none) (ws : List W32) :
        meldReply { there with melds := [] } p y ws = back y ws := by
      have hb : beyondMeld { there with melds := [] } y p = beyondMeld s y p := hl.beyondMeld hy hf p
      rw [meldReply, hb]
    rw [hback x ho h.here, hback _ (hpa ▸ ho) hfar] at hex
    exact hex
  · -- nobody waits
    rw [meldArrive_waits (s := there) (r := x) hk (hl.melds.trans hm) hh (by rwa [hl.ctxAt])] at hex
    rw [hex, hl.ctxAt, hl.meldClock]
    rfl

end Sys2Proof
end

section
/-!
SUPPORT. What a fetch reads (09 R155, 14 R224, R225): the bytes of a page of code that is not cached, the hand that lies there, and
that neither depends on the seats, the turns and the melds.
-/

namespace Sys2Proof
open Machine

/-! ### Bytes of one page, from memory -/

/-- The view `v` of code begins in a page that translates to `pa` in this module's memory, with room there for a whole hand: no hand
is longer than 2,048 bytes (09 R155, 14 R225). -/
structure OnPage (s : State) (v : CodeView) (pa : Nat) : Prop where
  first : v.first = .ok pa
  own : ownModule s pa = true
  offset : pa % 4096 = v.va % 4096
  room : v.va % 4096 + 2048 ≤ 4096

section
variable {s : State} {v : CodeView} {pa : Nat} (h : OnPage s v pa)
include h

/-- A byte of the page that is not cached is read from memory. -/
theorem OnPage.codeByte {i : Nat} (hi : i < 2048) : codeByte s [] v i = some (memByte s.mem (paKey pa + i)) := by
  obtain ⟨hfirst, hown, hoff, hroom⟩ := h
  have hin : i < 4096 - v.va % 4096 := by omega
  have hkey : paKey (pa + i) = paKey pa + i := paKey_add (by omega)
  have hmod : paModule (pa + i) = paModule pa := by
    unfold paModule
    omega
  have hown' : ownModule s (pa + i) = true := by rw [ownModule, hmod, ← ownModule, hown]
  simp only [Machine.codeByte, hin, if_true, hfirst, KV.find, hown', hkey]

theorem OnPage.codeNat {i n : Nat} (hn : i + n ≤ 2048) : codeNat s [] v i n = some (rdBytes s.mem (paKey pa + i) n) := by
  induction n generalizing i with
  | zero => rfl
  | succ n ih => simp only [Machine.codeNat, h.codeByte (i := i) (by omega), ih (i := i + 1) (by omega), rdBytes, Nat.add_assoc]

end

/-! ### The instruction words of a hand (14 R225) -/

/-- A first word is long by its major, which is its top six bits (14 R217). -/
theorem isLong_iff (x : W32) : isLong x = true ↔ 0x28 ≤ x.toNat / 2 ^ 26 := by
  have hx := x.isLt
  rw [isLong, decide_eq_true_iff, majorOf, BitVec.extractLsb'_toNat, Nat.shiftRight_eq_div_pow, Nat.mod_eq_of_lt (by omega)]

theorem slotsAt_long {m : List Host.Cell} {a lo hi : Nat} {l : List SlotWords} (hl : isLong (w32 lo) = true)
    (hlo : lo = rdBytes m a 4) (hhi : hi = rdBytes m (a + 4) 4) (hs : SlotsAt m (a + 8) l) :
    SlotsAt m a ({ lo := w32 lo, hi := w32 hi } :: l) := by
  refine ⟨congrArg w32 hlo, ?_⟩
  rw [if_pos ((isLong_iff _).1 hl)]
  exact ⟨congrArg w32 hhi, hs⟩

theorem slotsAt_short {m : List Host.Cell} {a lo : Nat} {l : List SlotWords} (hl : ¬ isLong (w32 lo) = true)
    (hlo : lo = rdBytes m a 4) (hs : SlotsAt m (a + 4) l) : SlotsAt m a ({ lo := w32 lo } :: l) := by
  refine ⟨congrArg w32 hlo, ?_⟩
  rw [if_neg fun h => hl ((isLong_iff _).2 h)]
  exact ⟨rfl, hs⟩

/-- Slots that memory holds can be read: `n` of them, of one or two words each. -/
theorem readSlots_slotsAt {m : List Host.Cell} {a top : Nat} {rd : Nat → Option Nat}
    (hrd : ∀ off, off + 4 ≤ top → rd off = some (rdBytes m (a + off) 4)) (n : Nat) {off : Nat} (ht : off + 8 * n ≤ top) :
    ∃ l e, readSlots rd n off = .ok (l, e) ∧ l.length = n ∧ SlotsAt m (a + off) l ∧ off ≤ e ∧ e ≤ off + 8 * n := by
  induction n generalizing off with
  | zero => exact ⟨[], off, rfl, rfl, trivial, Nat.le_refl _, Nat.le_refl _⟩
  | succ n ih =>
    have hlo := hrd off (by omega)
    by_cases hl : isLong (w32 (rdBytes m (a + off) 4)) = true
    · obtain ⟨l, e, hr, hlen, hs, he, he'⟩ := ih (off := off + 8) (by omega)
      have hhi : rd (off + 4) = some (rdBytes m (a + off + 4) 4) := hrd (off + 4) (by omega)
      exact ⟨_ :: l, e, by simp only [readSlots, hlo, hl, if_true, hhi, hr], congrArg (· + 1) hlen, slotsAt_long hl rfl rfl hs,
        by omega, by omega⟩
    · obtain ⟨l, e, hr, hlen, hs, he, he'⟩ := ih (off := off + 4) (by omega)
      exact ⟨_ :: l, e, by simp only [readSlots, hlo, hl, hr]; rfl, congrArg (· + 1) hlen, slotsAt_short hl rfl hs,
        by omega, by omega⟩

/-! ### The hand of a page -/

@[simp] theorem codeView_va (s : State) (fe c va : Nat) : (codeView s fe c va).va = va := by
  unfold codeView
  generalize codeXlat s fe c va = x, codeXlat s fe c (va / 4096 * 4096 + 4096) = y
  rfl

@[simp] theorem codeView_first (s : State) (fe c va : Nat) : (codeView s fe c va).first = (codeXlat s fe c va).1 := by
  unfold codeView
  generalize codeXlat s fe c va = x, codeXlat s fe c (va / 4096 * 4096 + 4096) = y
  rfl

/-- A hand of which every part can be read. -/
theorem readHand_of_parts {s : State} {fe c va hd bl e pad : Nat} {l : List SlotWords} {last : Byte} {ic : KV Byte} {v : CodeView}
    (hic : (feAt s fe).icache = ic) (hv : codeView s fe c va = v) (hhd : codeNat s ic v 0 8 = some hd)
    (hbl : (if hdrBelay (w64 hd) then codeNat s ic v 8 8 else some 0) = some bl)
    (hl : readSlots (fun off => codeNat s ic v off 4) (hdrCount (w64 hd)) (if hdrBelay (w64 hd) then 16 else 8) = .ok (l, e))
    (hpad : (if e % 8 == 4 then codeNat s ic v e 4 else some 0) = some pad)
    (hlast : codeByte s ic v (roundUp e 8 + 4 * hdrPoolWords (w64 hd) - 1) = some last) :
    ∃ r, readHand s fe c va = .ok r ∧ r.hdr = w64 hd ∧ r.slots = l ∧ r.len = roundUp e 8 + 4 * hdrPoolWords (w64 hd) := by
  unfold readHand
  rw [hic, hv]
  simp only [hhd, hbl, hl, hpad, hlast, Option.isNone_some, Bool.false_eq_true, if_false]
  exact ⟨_, rfl, rfl, rfl, rfl⟩

theorem hdrCount_eq (h : W64) : hdrCount h = h.toNat % 128 + 1 := by simp [hdrCount, fld]

theorem hdrPoolWords_le (h : W64) : hdrPoolWords h ≤ 64 := by
  unfold hdrPoolWords fld
  split <;> omega

/-- Nothing of what is read is in an empty cache. -/
theorem codeMiss_nil (va : Nat) {n : Nat} (hn : 0 < n) : codeMiss [] va n = true :=
  List.any_eq_true.2 ⟨0, List.mem_range.2 hn, rfl⟩

/-- A hand of a page of which nothing is cached is what memory holds there. -/
theorem readHand_onPage {s : State} {fe c va pa : Nat} (hic : (feAt s fe).icache = []) (h : OnPage s (codeView s fe c va) pa) :
    ∃ r, readHand s fe c va = .ok r ∧ 0 < r.len ∧ r.hdr = BitVec.ofNat 64 (rdBytes s.mem (paKey pa) 8) ∧
      r.slots.length = r.hdr.toNat % 128 + 1 ∧ SlotsAt s.mem (paKey pa + if r.hdr.getLsbD 7 then 16 else 8) r.slots := by
  obtain ⟨hdr, ehdr⟩ : ∃ x, w64 (rdBytes s.mem (paKey pa) 8) = x := ⟨_, rfl⟩
  have hhd : codeNat s [] (codeView s fe c va) 0 8 = some (rdBytes s.mem (paKey pa) 8) := h.codeNat (by omega)
  have hcount := hdrCount_eq hdr
  have hpool := hdrPoolWords_le hdr
  obtain ⟨start, hstart, h8, h16⟩ : ∃ n, (if hdrBelay hdr then 16 else 8) = n ∧ 8 ≤ n ∧ n ≤ 16 := by
    cases hdrBelay hdr <;> exact ⟨_, rfl, by decide⟩
  obtain ⟨l, e, hslots, hlen, hat, he, he'⟩ := readSlots_slotsAt (fun off ho => h.codeNat (i := off) ho) (hdrCount hdr)
    (off := start) (by omega)
  have hbelay : ∃ b, (if hdrBelay hdr then codeNat s [] (codeView s fe c va) 8 8 else some 0) = some b := by
    rw [h.codeNat (by omega)]
    split <;> exact ⟨_, rfl⟩
  have hpad : ∃ p, (if e % 8 == 4 then codeNat s [] (codeView s fe c va) e 4 else some 0) = some p := by
    rw [h.codeNat (by omega)]
    split <;> exact ⟨_, rfl⟩
  have hbody : 8 ≤ roundUp e 8 ∧ roundUp e 8 ≤ e + 7 := by
    unfold roundUp
    omega
  obtain ⟨b, hbelay⟩ := hbelay
  obtain ⟨p, hpad⟩ := hpad
  subst hstart ehdr
  obtain ⟨r, hr, hhdr, rfl, hrlen⟩ := readHand_of_parts hic rfl hhd hbelay hslots hpad (h.codeByte (by omega))
  refine ⟨r, hr, by omega, hhdr, ?_, ?_⟩
  · rw [hlen, hhdr, hcount]
  · rw [hhdr]
    exact hat

/-! ### The page of a hand (09 R155) -/

/-- An address of this module that an access translates to is not refused (09 R146). -/
theorem paBad_of_dataXlat {s : State} {tlb new : List Tlb} {c va pa : Nat} {need : Need} (ho : ownModule s pa = true)
    (h : dataXlat s tlb c va need false = (.ok pa, new)) : paBad s pa = false := by
  simp only [paBad, ho, if_true]
  simp only [dataXlat, Bool.false_eq_true, if_false] at h
  split at h
  · cases h
  · split at h
    · cases h
    · next hx =>
      split at h
      · cases h
        rw [ho, Bool.true_and, Bool.or_eq_true, not_or, Bool.not_eq_true] at hx
        exact hx.1
      · cases h

/-- The code at an address that translates to `pa` of this module, where its page leaves room. -/
theorem onPage_of_dataXlat {s : State} {fe c va pa : Nat} {new : List Tlb} (ho : ownModule s pa = true)
    (h : dataXlat s (feAt s fe).tlb c va { x := true } false = (.ok pa, new)) (hoff : pa % 4096 = va % 4096)
    (hroom : va % 4096 + 2048 ≤ 4096) : OnPage s (codeView s fe c va) pa where
  first := by simp only [codeView_first, codeXlat, h, paBad_of_dataXlat ho h, Bool.false_eq_true, if_false]
  own := ho
  offset := by rw [codeView_va, hoff]
  room := by rwa [codeView_va]

/-! ### What a fetch sees of the state -/

/-- The state `s` with other FEs, turns and melds: no translation and no way depends on them. -/
def aside (f : KV FE) (n : Nat) (m : List MeldWait) (s : State) : State := { s with fes := f, turns := n, melds := m }

section
variable (s : State) (f : KV FE) (n : Nat) (m : List MeldWait)

theorem paBad_aside (pa : Nat) : paBad (aside f n m s) pa = paBad s pa := by
  show paRefused (if ownModule s pa = true then _ else _) pa = paRefused (if ownModule s pa = true then _ else _) pa
  split <;> rfl

theorem tableEntry_aside (table idx : Nat) : tableEntry (aside f n m s) table idx = tableEntry s table idx := by
  simp only [tableEntry, paBad_aside]
  rfl

theorem walkTlb_aside (c va : Nat) : walkTlb (aside f n m s) c va = walkTlb s c va := by
  simp only [walkTlb, walkPage, tableEntry_aside]
  rfl

theorem walkMeets_aside (tlb : List Tlb) (d c va : Nat) : walkMeets (aside f n m s) tlb d c va = walkMeets s tlb d c va := by
  simp only [walkMeets, walkPath, tableEntry_aside, paBad_aside]
  rfl

theorem dataXlat_aside (tlb : List Tlb) (c va : Nat) (need : Need) (bar : Bool) :
    dataXlat (aside f n m s) tlb c va need bar = dataXlat s tlb c va need bar := by
  simp only [dataXlat, xlate, walkTlb_aside]
  rfl

end

/-- `t` differs from `s` in nothing that a fetch of FE `fe` reads: in FEs, turns and melds alone, and not in what that FE caches. -/
structure SameCode (fe : Nat) (s t : State) : Prop where
  frame : ∃ f n m, t = aside f n m s
  tlb : (feAt t fe).tlb = (feAt s fe).tlb
  icache : (feAt t fe).icache = (feAt s fe).icache

section
variable {fe : Nat} {s t : State}

theorem sameCode_passTurn (fe : Nat) (s : State) : SameCode fe s (passTurn s) := ⟨⟨_, _, _, rfl⟩, rfl, rfl⟩

/-- What happens to the seats of an FE is no part of what it caches. -/
theorem SameCode.modSeat (h : SameCode fe s t) (k : Nat) (g : Seat → Seat) : SameCode fe s (modSeat fe k g t) := by
  obtain ⟨⟨f, n, m, rfl⟩, ht, hi⟩ := h
  refine ⟨⟨_, n, m, rfl⟩, ?_, ?_⟩
  · rw [Machine.modSeat, feAt_modFe]
    exact ht
  · rw [Machine.modSeat, feAt_modFe]
    exact hi

theorem SameCode.codeXlat (h : SameCode fe s t) (c va : Nat) : codeXlat t fe c va = codeXlat s fe c va := by
  obtain ⟨⟨f, n, m, rfl⟩, ht, -⟩ := h
  simp only [Machine.codeXlat, ht, dataXlat_aside, paBad_aside]

theorem SameCode.codeView (h : SameCode fe s t) (c va : Nat) : codeView t fe c va = codeView s fe c va := by
  unfold Machine.codeView
  rw [h.codeXlat, h.codeXlat]

theorem SameCode.codeByte (h : SameCode fe s t) : codeByte t = codeByte s := by
  obtain ⟨⟨f, n, m, rfl⟩, -, -⟩ := h
  rfl

theorem SameCode.codeNat (h : SameCode fe s t) (ic : KV Byte) (v : CodeView) (i n : Nat) : codeNat t ic v i n = codeNat s ic v i n := by
  induction n generalizing i with
  | zero => rfl
  | succ n ih => simp only [Machine.codeNat, h.codeByte, ih]

theorem SameCode.readHand (h : SameCode fe s t) (c va : Nat) : readHand t fe c va = readHand s fe c va := by
  unfold Machine.readHand
  simp only [h.icache, h.codeView, h.codeNat, h.codeByte]

theorem SameCode.codeMeets (h : SameCode fe s t) (c va n : Nat) : codeMeets t fe c va n = codeMeets s fe c va n := by
  unfold Machine.codeMeets
  simp only [h.icache, h.tlb, h.codeXlat]
  obtain ⟨⟨f, n, m, rfl⟩, -, -⟩ := h
  simp only [walkMeets_aside]
  rfl

end

end Sys2Proof
end

section
/-!
SUPPORT. HAND_FETCH of the seat in turn: a fetch that nothing is in the way of, its three ends (a halt, a fault, the start of issue),
and the statement about them (04 R60, R63, R66, 09 R155, 14 R224, R225).
-/

namespace Sys2Proof
open Machine

/-! ### A fetch that nothing is in the way of -/

/-- The seat in turn stands at a hand boundary and nothing is in the way of its fetch: no freeze, no deferred fault, no LASTH and no
LOOP to look at, no walk and no link to wait for (04 R73, 10 R166, 11 R173, 16 R261). -/
structure FetchReady (s : State) : Prop where
  hand : (cur s).hand = none
  live : (cur s).st = .running ∨ (cur s).st = .loaded
  hdrOnly : (cur s).hdrOnly = false
  deferred : (cur s).deferred = []
  loops : (cur s).loopCheck = []
  ctx : (ctxAt s (cur s).ctx).st ≠ .stopped
  job : jobFrozen s (cur s).ctx = false
  go : codeMeets s s.curFe (cur s).ctx (cur s).pc.toNat (fetchLen s s.curFe (cur s)) = .go

theorem FetchReady.passTurn {s : State} (h : FetchReady s) : FetchReady (passTurn s) where
  hand := h.hand
  live := h.live
  hdrOnly := h.hdrOnly
  deferred := h.deferred
  loops := h.loops
  ctx := h.ctx
  job := h.job
  go := by
    have hc := sameCode_passTurn s.curFe s
    have hl : fetchLen (Machine.passTurn s) s.curFe (cur s) = fetchLen s s.curFe (cur s) := by
      simp only [fetchLen, h.hdrOnly, Bool.false_eq_true, if_false, hc.readHand]
    show codeMeets (Machine.passTurn s) s.curFe (cur s).ctx (cur s).pc.toNat (fetchLen (Machine.passTurn s) s.curFe (cur s)) = .go
    rw [hl, hc.codeMeets, h.go]

/-- A seat that takes its turn. -/
def turnTaken (t : Seat) : Seat := { t with passed := false }

theorem FetchReady.fetchHand {s : State} (h : FetchReady s) : fetchHand s = fetchGo s.curFe s.curSeat 0 (modCur turnTaken s) := by
  have hlive : ((cur s).st == .running || (cur s).st == .loaded) = true := by
    rcases h.live with e | e <;> rw [e] <;> rfl
  have hctx : ((ctxAt s (cur s).ctx).st == .stopped) = false := beq_eq_false_iff_ne.2 h.ctx
  have hseat : seatAt s s.curFe s.curSeat = cur s := rfl
  have hwait : (Meets.go == Meets.wait) = false := rfl
  unfold Machine.fetchHand
  simp only [hseat, h.hand, hlive, hctx, h.job, h.hdrOnly, h.deferred, h.go, hwait, codeRefused, refusal, spanDue, h.loops,
    Option.isSome_none, Bool.not_true, Bool.not_false, Bool.or_self, Bool.and_false, Bool.false_and, Bool.false_eq_true, if_false,
    List.isEmpty_nil, List.find?_nil]
  rfl

/-- The state in which the hand is read: the turn has been counted and taken. -/
def atFetch (s : State) : State := modCur turnTaken (passTurn s)

theorem cur_atFetch {s : State} (hk : s.curSeat < 4) : cur (atFetch s) = turnTaken (cur s) := cur_modCur _ (passTurn s) hk

theorem sameCode_atFetch (s : State) : SameCode s.curFe s (atFetch s) := by
  rw [atFetch, modCur]
  exact (sameCode_passTurn s.curFe s).modSeat ..

theorem FetchReady.exec {s : State} (h : FetchReady s) : exec .handFetch s = .next (fetchGo s.curFe s.curSeat 0 (atFetch s)) :=
  congrArg Host.Outcome.next h.passTurn.fetchHand

/-! ### A pre-emption at a belay hand (04 R63) -/

/-- A seat of a context that is being pre-empted, which is not in its rebuild stub, halts at a belay hand. -/
theorem fetchGo_halts {s : State} {fe k : Nat} {r : RawHand} (he : isEdge fe = false)
    (hr : readHand s fe (seatAt s fe k).ctx (seatAt s fe k).pc.toNat = .ok r) (hb : r.hdr.getLsbD 7 = true)
    (hp : (ctxAt s (seatAt s fe k).ctx).st = .preempting) (hs : (seatAt s fe k).arch.stub = false)
    (hd : (seatAt s fe k).stepping = false) : fetchGo fe k 0 s = haltAt fe k r.hdr r.belay s := by
  have hbelay : hdrBelay r.hdr = true := hb
  unfold fetchGo
  simp only [hr, hbelay, he, hp, hs, hd, bne_self_eq_false, beq_self_eq_true, Bool.not_false, Bool.false_and, Bool.and_self,
    Bool.false_eq_true, if_false, if_true]

/-- The seat `t` that has halted at the start of the belay hand `r`. -/
def belayedSeat (r : RawHand) (t : Seat) : Seat := { t with st := .belayed, hand := none, hdr := r.hdr, belayDw := r.belay }

theorem seatAt_haltAt {s : State} {fe k : Nat} {r : RawHand} (hk : k < 4) (ho : (seatAt s fe k).orig = none) :
    seatAt (haltAt fe k r.hdr r.belay s) fe k = belayedSeat r (seatAt s fe k) := by
  rw [haltAt, seatAt_modSeat _ _ _ _ hk]
  simp only [ho, belayedSeat]

/-! ### A decode fault (00 R8, 04 R73) -/

/-- A hand with a decode fault of a seat whose context is not being pre-empted. -/
theorem fetchGo_faults {s : State} {fe k : Nat} {r : RawHand} {x : FaultRec}
    (hr : readHand s fe (seatAt s fe k).ctx (seatAt s fe k).pc.toNat = .ok r)
    (hp : (ctxAt s (seatAt s fe k).ctx).st ≠ .preempting) (hx : decodeFault r = some x) : fetchGo fe k 0 s = faultHere fe k x s := by
  unfold fetchGo
  simp only [hr, beq_eq_false_iff_ne.2 hp, hx, bne_self_eq_false, Bool.and_false, Bool.false_and, Bool.false_eq_true, if_false]

/-- The fault of the hand at the PC, none being in flight, of a seat with a vector that is in no handler. -/
theorem faultHere_of_no_hand {s : State} {f : FaultRec} (hk : s.curSeat < 4) (hh : (cur s).hand = none)
    (hc : Calm s (cur s).arch f.code) (hv : (cur s).arch.fltvec ≠ 0) (hi : (cur s).arch.hndl = false) :
    faultHere s.curFe s.curSeat f s = modCur (handledSeat f false (cur s).pc (cur s).pc) s := by
  obtain ⟨hd, hcode, hpre, hstep⟩ := hc
  have hh' : (seatAt s s.curFe s.curSeat).hand = none := hh
  simp only [faultHere, hh']
  exact takeFault_enters hk (abandon_of_no_hand hh) hd hcode hstep hpre hv hi

/-! ### The start of issue (04 R60, 15 R244) -/

theorem fetchGo_begins {s : State} {fe k : Nat} {r : RawHand}
    (hr : readHand s fe (seatAt s fe k).ctx (seatAt s fe k).pc.toNat = .ok r)
    (hp : (ctxAt s (seatAt s fe k).ctx).st ≠ .preempting) (hx : decodeFault r = none) :
    fetchGo fe k 0 s = beginHand fe k r (codeMiss (feAt s fe).icache (seatAt s fe k).pc.toNat r.len) s := by
  unfold fetchGo
  simp only [hr, beq_eq_false_iff_ne.2 hp, hx, bne_self_eq_false, Bool.and_false, Bool.false_and, Bool.false_eq_true, if_false]

/-- The lines that a fetch reads change the gather units alone. -/
theorem CacheOnly.codeTouch {s : State} (h : NoEcc s) (s0 : State) (fe c va n : Nat) : CacheOnly s (codeTouch s0 fe c va n s) := by
  refine .each (fun i u hu => ?_) _ h
  generalize (if i == 0 then va else (va / 256 + i) * 256) = a
  dsimp only
  split
  · exact ⟨hu, _, rfl⟩
  · split
    · exact .edgeTouch hu ..
    · exact ⟨hu, _, rfl⟩

/-- Without enforcement no path is too heavy. -/
theorem distanceNow_unenforced {s : State} {fe k : Nat} {h : Hand} (hh : (seatAt s fe k).hand = some h) (he : h.work.belayEn = false) :
    distanceNow fe k s = s := by
  simp only [distanceNow, hh, he, Bool.not_false, if_true]

/-- A seat whose fetch has missed counts 160; the count stops at 0xFFFF (04 R61, 15 R244). -/
def missed (t : Seat) : Seat := { t with belayCnt := BitVec.ofNat 16 (Nat.min (t.belayCnt.toNat + 160) 0xFFFF) }

/-- The weight of a miss, of a hand that is not enforced and has then its first slot still to count. -/
theorem addWeight_miss {s : State} {h : Hand} (hk : s.curSeat < 4) (hh : (cur s).hand = some h) (hc : h.counted = false)
    (he : h.work.belayEn = false) :
    modHand (fun h => { h with counted := false }) (addWeight 160 s).1 = modCur missed s := by
  have hh' : some ({ h with counted := false } : Hand) = (cur s).hand := by rw [hh, ← hc]
  rw [addWeight_ok 160 s h hk hh hc (.inl he), seen, hc, if_neg Bool.false_ne_true, modHand, modCur_modCur _ _ _ hk]
  refine modCur_congr _ _ _ ?_
  simp only [Option.map_some, hh', counts, hc, Bool.false_eq_true, if_false, missed]

/-- What an FE keeps beside its seats is no part of them. -/
theorem cur_modFe_seats {g : FE → FE} (hg : ∀ f, (g f).seats = f.seats) (s : State) : cur (modFe s.curFe g s) = cur s := by
  show seatOf (feAt (modFe s.curFe g s) s.curFe) s.curSeat = seatOf (feAt s s.curFe) s.curSeat
  rw [feAt_modFe, seatOf, hg]
  rfl

/-- An FE that keeps the bytes and the translations of the hand `r` that it has fetched (09 R151, R155). -/
def keepsHand (s : State) (r : RawHand) (f : FE) : FE :=
  { f with icache := codeKeep s r.view r.len f.icache, tlb := cacheXlat (codeTlb r.view r.len) f.tlb }

/-- What a fetch leaves beside its seat: what the FE keeps, and the lines that the gather units have read (13 R200). -/
def fetched (fe k : Nat) (r : RawHand) (s : State) : State :=
  codeTouch s fe (seatAt s fe k).ctx r.view.va r.len
    (each (codeTlb r.view r.len) (fun t => walkTouch t.ctx t.base.toNat) (modFe fe (keepsHand s r) s))

/-- The hand `r` as it begins to issue in the seat `t` of the FE `f`. -/
def begunHand (r : RawHand) (f : FE) (t : Seat) : Hand :=
  { addr := t.pc, next := t.pc + w64 r.span, belay := hdrBelay r.hdr, slots := r.slots, work := t.arch
    arrMark := f.arrIn, cfgMark := t.cfgSent, claims := f.opm.toList.map (·.claim), cnt0 := if hdrBelay r.hdr then 0 else t.belayCnt }

/-- The seat `t` that begins it. -/
def begunSeat (r : RawHand) (f : FE) (t : Seat) : Seat :=
  { t with
    st := .running
    orig := if t.arch.stub then t.orig else none
    hdr := if t.arch.stub then t.hdr else r.hdr
    belayDw := if t.arch.stub then t.belayDw else r.belay
    belayCnt := if hdrBelay r.hdr then 0 else t.belayCnt
    loopCheck := t.loopCheck.filter fun n => some n != spanDue t
    hand := some (begunHand r f t) }

theorem beginHand_eq (fe k : Nat) (r : RawHand) (s : State) : beginHand fe k r true s =
    distanceNow fe k (modHand (fun h => { h with counted := false })
      (addWeight 160 (modSeat fe k (begunSeat r (feAt s fe)) (fetched fe k r s))).1) := rfl

/-- The seat in turn, its turn and memory are after the fetch what they were, where no line is about to fail. -/
theorem fetched_frame {s : State} (hn : NoEcc s) (r : RawHand) :
    cur (fetched s.curFe s.curSeat r s) = cur s ∧ (fetched s.curFe s.curSeat r s).curFe = s.curFe ∧
      (fetched s.curFe s.curSeat r s).curSeat = s.curSeat ∧ (fetched s.curFe s.curSeat r s).mem = s.mem := by
  have hw : CacheOnly (modFe s.curFe (keepsHand s r) s) (each (codeTlb r.view r.len) (fun t => walkTouch t.ctx t.base.toNat) _) :=
    .each (fun t _ hu => .walkTouch hu t.ctx t.base.toNat) _ hn
  have hc : CacheOnly (modFe s.curFe (keepsHand s r) s) (fetched s.curFe s.curSeat r s) := hw.trans (.codeTouch hw.1 ..)
  refine ⟨hc.cur.trans (cur_modFe_seats (g := keepsHand s r) (fun _ => rfl) s), ?_⟩
  obtain ⟨-, g, e⟩ := hc
  rw [e]
  exact ⟨rfl, rfl, rfl⟩

/-- A hand that is not enforced and has missed the cache begins to issue, and memory stays. -/
theorem beginHand_miss {s : State} (hk : s.curSeat < 4) (he : (cur s).arch.belayEn = false) (hn : NoEcc s) (r : RawHand) :
    cur (beginHand s.curFe s.curSeat r true s) = missed (begunSeat r (feAt s s.curFe) (cur s)) ∧
      (beginHand s.curFe s.curSeat r true s).mem = s.mem := by
  obtain ⟨hcur, hfe, hseat, hmem⟩ := fetched_frame hn r
  rw [beginHand_eq]
  generalize fetched s.curFe s.curSeat r s = u at hcur hfe hseat hmem
  generalize feAt s s.curFe = f
  rw [← hfe, ← hseat, ← hcur, ← hmem]
  rw [← hseat] at hk
  rw [← hcur] at he
  let begun : State := modCur (begunSeat r f) u
  have hb : cur begun = begunSeat r f (cur u) := cur_modCur _ _ hk
  have hm : cur (modCur missed begun) = missed (begunSeat r f (cur u)) := (cur_modCur _ begun hk).trans (congrArg missed hb)
  have hw : modHand (fun h => { h with counted := false }) (addWeight 160 begun).1 = modCur missed begun :=
    addWeight_miss (h := begunHand r f (cur u)) hk (congrArg Seat.hand hb) rfl he
  have hd : distanceNow u.curFe u.curSeat (modCur missed begun) = modCur missed begun :=
    distanceNow_unenforced (h := begunHand r f (cur u)) (congrArg Seat.hand hm) he
  show cur (distanceNow _ _ (modHand _ (addWeight 160 begun).1)) = _ ∧ (distanceNow _ _ (modHand _ (addWeight 160 begun).1)).mem = _
  rw [hw, hd]
  exact ⟨hm, rfl⟩

theorem belayCnt_missed_begunSeat (r : RawHand) (f : FE) (t : Seat) : (missed (begunSeat r f t)).belayCnt =
    BitVec.ofNat 16 (Nat.min ((if (begunHand r f t).belay then 0 else t.belayCnt.toNat) + 160) 0xFFFF) := by
  have hc : (begunSeat r f t).belayCnt.toNat = if hdrBelay r.hdr then 0 else t.belayCnt.toNat := apply_ite BitVec.toNat ..
  rw [missed, hc]
  rfl

/-! ### The three ends of a fetch -/

/-- The hand at the PC of the seat in turn is the one that its turn reads. -/
theorem readHand_atFetch {s : State} {r : RawHand} (hk : s.curSeat < 4) (hr : readHand s s.curFe (cur s).ctx (cur s).pc.toNat = .ok r) :
    readHand (atFetch s) s.curFe (seatAt (atFetch s) s.curFe s.curSeat).ctx (seatAt (atFetch s) s.curFe s.curSeat).pc.toNat = .ok r := by
  have hc : seatAt (atFetch s) s.curFe s.curSeat = turnTaken (cur s) := cur_atFetch hk
  rw [hc, (sameCode_atFetch s).readHand]
  exact hr

section
variable {s : State} {r : RawHand} (hk : s.curSeat < 4) (h : FetchReady s)
  (hr : readHand s s.curFe (cur s).ctx (cur s).pc.toNat = .ok r)
include hk h hr

theorem exec_handFetch_halts (he : isEdge s.curFe = false) (hb : r.hdr.getLsbD 7 = true)
    (hp : (ctxAt s (cur s).ctx).st = .preempting) (hs : (cur s).arch.stub = false) (hd : (cur s).stepping = false)
    (ho : (cur s).orig = none) :
    ∃ u, exec .handFetch s = .next u ∧ u.mem = s.mem ∧ cur u = belayedSeat r (turnTaken (cur s)) := by
  have hc : seatAt (atFetch s) s.curFe s.curSeat = turnTaken (cur s) := cur_atFetch hk
  have hgo := fetchGo_halts he (readHand_atFetch hk hr) hb (by rw [hc]; exact hp) (by rw [hc]; exact hs) (by rw [hc]; exact hd)
  have hhalt := seatAt_haltAt (r := r) hk (by rw [hc]; exact ho)
  rw [hc] at hhalt
  exact ⟨_, h.exec.trans (congrArg Host.Outcome.next hgo), rfl, hhalt⟩

theorem exec_handFetch_faults {x : FaultRec} (hx : decodeFault r = some x) (hc : Calm s (cur s).arch x.code)
    (hv : (cur s).arch.fltvec ≠ 0) (hi : (cur s).arch.hndl = false) :
    ∃ u, exec .handFetch s = .next u ∧ cur u = handledSeat x false (cur s).pc (cur s).pc (turnTaken (cur s)) := by
  have e := cur_atFetch hk
  have es : seatAt (atFetch s) s.curFe s.curSeat = turnTaken (cur s) := e
  have hcalm : Calm (atFetch s) (cur (atFetch s)).arch x.code := by
    unfold Calm
    rw [e]
    exact hc
  have hgo := fetchGo_faults (readHand_atFetch hk hr) (by rw [es]; exact hc.2.2.1) hx
  have hf := faultHere_of_no_hand (s := atFetch s) (f := x) hk (by rw [e]; exact h.hand) hcalm (by rw [e]; exact hv) (by rw [e]; exact hi)
  rw [e] at hf
  exact ⟨_, h.exec.trans (congrArg Host.Outcome.next (hgo.trans hf)), (cur_modCur _ (atFetch s) hk).trans (congrArg _ e)⟩

theorem exec_handFetch_begins (hx : decodeFault r = none) (hp : (ctxAt s (cur s).ctx).st ≠ .preempting)
    (hic : (feAt s s.curFe).icache = []) (hl : 0 < r.len) (he : (cur s).arch.belayEn = false) (hn : NoEcc s) :
    ∃ u f, exec .handFetch s = .next u ∧ u.mem = s.mem ∧ cur u = missed (begunSeat r f (turnTaken (cur s))) := by
  have e := cur_atFetch hk
  have es : seatAt (atFetch s) s.curFe s.curSeat = turnTaken (cur s) := e
  have hgo := fetchGo_begins (readHand_atFetch hk hr) (by rw [es]; exact hp) hx
  rw [(sameCode_atFetch s).icache, hic, codeMiss_nil _ hl] at hgo
  obtain ⟨hcur, hmem⟩ := beginHand_miss (s := atFetch s) hk (by rw [e]; exact he) hn r
  rw [e] at hcur
  exact ⟨_, _, h.exec.trans (congrArg Host.Outcome.next hgo), hmem, hcur⟩

end

/-! ### The obligation -/

/-- Settles O40: a hand of a page that is not cached is what memory holds there; of the ways in which its fetch ends, it meets the start
of issue or the fault of its decode, and a seat that is being pre-empted meets the halt. -/
theorem handFetchAndBelayHalt : Obligations.HandFetchAndBelayHalt := by
  unfold Obligations.HandFetchAndBelayHalt
  constructor
  · intro s pa new f t hk hh hst hho hd hl hc hj hic hecc hgo hx ho hroom hoff
    have hready : FetchReady s := ⟨hh, hst, hho, hd, hl, by rw [hc]; exact CtxState.noConfusion, hj, hgo⟩
    obtain ⟨r, hr, hlen, hhdr, hcount, hslots⟩ := readHand_onPage hic (onPage_of_dataXlat ho hx hoff hroom)
    refine ⟨r, hr, hhdr, hcount, hslots, fun hdec hen => ?_, fun x hdec hcalm hv hi _ => ?_⟩
    · -- the hand begins to issue
      obtain ⟨u, g, hu, hmem, hcur⟩ := exec_handFetch_begins hk hready hr hdec
        (by rw [hc]; exact CtxState.noConfusion) hic hlen hen hecc
      refine ⟨u, begunHand r g (turnTaken t), hu, ?_⟩
      rw [hcur]
      exact ⟨rfl, rfl, rfl, rfl, rfl, rfl, rfl, rfl, rfl, rfl, hmem, belayCnt_missed_begunSeat ..⟩
    · -- a decode fault
      obtain ⟨u, hu, hcur⟩ := exec_handFetch_faults hk hready hr hdec hcalm hv hi
      refine ⟨u, hu, ?_⟩
      rw [hcur]
      exact ⟨hh, rfl, rfl⟩
  · -- a halt at a belay hand
    intro s r t hk he hh hst hho hd hl hstep hgo hc hj hstub horig hr hb
    have hready : FetchReady s := ⟨hh, .inl hst, hho, hd, hl, by rw [hc]; exact CtxState.noConfusion, hj, hgo⟩
    obtain ⟨u, hu, hmem, hcur⟩ := exec_handFetch_halts hk hready hr he hb hc hstub hstep horig
    refine ⟨u, hu, ?_⟩
    rw [hcur]
    exact ⟨rfl, rfl, rfl, rfl, rfl, hmem⟩

end Sys2Proof
end

section
/-!
SUPPORT. The state machine of a link (10 R158, R162): a link after an update, the flits that a splice deals, what training, a replay, an
acknowledgement and a marker make of a link, and the statement about training and replay.
-/

namespace Sys2Proof
open Machine

/-! ### A link after an update -/

@[simp] theorem linkAt_modLink (k : Nat) (f : Link → Link) (s : State) : linkAt (modLink k f s) k = f (linkAt s k) := by
  rw [linkAt, modLink, KV.find_set_same, Option.getD_some]

theorem linkAt_modLink_other {j k : Nat} (h : j ≠ k) (f : Link → Link) (s : State) : linkAt (modLink k f s) j = linkAt s j := by
  rw [linkAt, modLink, KV.find_set_other _ _ _ _ h]
  rfl

@[simp] theorem linkAt_report (r : Report) (s : State) (k : Nat) : linkAt (report r s) k = linkAt s k := rfl

theorem modLink_modLink (k : Nat) (f g : Link → Link) (s : State) :
    modLink k g (modLink k f s) = modLink k (fun l => g (f l)) s := by
  rw [modLink, linkAt_modLink]
  simp only [modLink, KV.set_set]

theorem modLink_congr {k : Nat} {f g : Link → Link} {s : State} (h : f (linkAt s k) = g (linkAt s k)) :
    modLink k f s = modLink k g s := by
  simp only [modLink, h]

theorem LinksOnly.mem {s u : State} (h : LinksOnly s u) : u.mem = s.mem := by
  obtain ⟨l, r, rfl⟩ := h
  rfl

theorem LinksOnly.refl (s : State) : LinksOnly s s := ⟨s.links, s.reports, rfl⟩

/-- A link that owes no marker sends none. -/
theorem sendOwed_of_none {k : Nat} {s : State} (h : (linkAt s k).owesMarks = []) : sendOwed k s = s := by
  rw [sendOwed, h]
  rfl

theorem isUp_iff {l : Link} : isUp l = true ↔ l.st = .upFull ∨ l.st = .upDegraded := by
  simp only [isUp, Bool.or_eq_true, beq_iff_eq]

theorem carries_of_isUp {l : Link} (h : isUp l = true) : carries l = true := by
  rcases isUp_iff.1 h with h | h <;> simp [carries, h]

/-! ### The flits of a splice are dealt to its modules (25 R389) -/

/-- `l'` is `l` with other flits on their way. -/
def Dealt (l l' : Link) : Prop := ∃ f t o, l' = { l with flying := f, turn := t, odd := o }

theorem Dealt.refl (l : Link) : Dealt l l := ⟨_, _, _, rfl⟩

theorem Dealt.trans {l m n : Link} (h : Dealt l m) (h' : Dealt m n) : Dealt l n := by
  obtain ⟨_, _, _, rfl⟩ := h
  obtain ⟨_, _, _, rfl⟩ := h'
  exact ⟨_, _, _, rfl⟩

theorem dealt_dealFlit (n : Nat) (l : Link) : Dealt l (dealFlit n l).2 := by
  induction n generalizing l with
  | zero => exact .refl l
  | succ n ih =>
    rw [dealFlit]
    split
    · exact .trans ⟨_, _, _, rfl⟩ (ih _)
    · split
      · exact ⟨_, _, _, rfl⟩
      · split
        · exact .trans ⟨_, _, _, rfl⟩ (ih _)
        · exact ⟨_, _, _, rfl⟩

theorem dealt_fly (q : Nat) (l : Link) : Dealt l (fly q l) := (dealt_dealFlit 9 l).trans ⟨_, _, _, rfl⟩

theorem dealt_resendFlits (rigging : Bool) (l : Link) : Dealt l (resendFlits rigging l) := by
  unfold resendFlits
  split
  · exact .refl l
  · have h (b : List Nat) (x : Link) : Dealt x (b.foldl (fun l q => fly q l) x) := by
      induction b generalizing x with
      | nil => exact .refl x
      | cons q b ih => exact (dealt_fly q x).trans (ih _)
    exact .trans ⟨_, _, _, rfl⟩ (h _ _)

/-! ### Training (10 R158) -/

/-- The UCIe modules at ×32 after training, and the UP state that training leads to. -/
def halfAfter (rigging : Bool) (d : BitVec 4) (l : Link) : BitVec 4 := if rigging = true then l.half else l.half ||| d
def upAfter (rigging : Bool) (d : BitVec 4) (l : Link) : LinkState :=
  if halfAfter rigging d l ≠ 0 ∨ (rigging = true ∧ d ≠ 0) then .upDegraded else .upFull

/-- What training has measured is in the link. -/
def measured (rigging : Bool) (d : BitVec 4) (rtt : Nat) (l : Link) : Link :=
  { l with rtt := rtt, timeoutUs := if l.lr = true then 2 * rtt else l.timeoutUs, trainFails := 0, half := halfAfter rigging d l }

theorem trained_eq {l : Link} (h : l.st = .training) (rigging : Bool) (d : BitVec 4) (rtt : Nat) : trained rigging d rtt l =
    if l.buf = [] then { measured rigging d rtt l with st := upAfter rigging d l, wasFrozen := false }
    else resendFlits rigging { measured rigging d rtt l with st := .replay, held := upAfter rigging d l, mark := l.seq } := by
  have hup : (if (rigging && d != 0) = true then LinkState.upDegraded else upState (measured rigging d rtt l)) = upAfter rigging d l := by
    have hs : upState (measured rigging d rtt l) = if halfAfter rigging d l ≠ 0 then .upDegraded else .upFull := by
      simp only [upState, measured, bne_iff_ne]
    rw [hs, upAfter]
    by_cases hh : halfAfter rigging d l = 0
    · simp [hh]
    · simp only [ne_eq, hh, not_false_eq_true, if_true, ite_self, true_or]
  simp only [trained, h, beq_self_eq_true, if_true, List.isEmpty_iff, ← hup]
  rfl

theorem trained_other {l : Link} (h : l.st ≠ .training) (rigging : Bool) (d : BitVec 4) (rtt : Nat) : trained rigging d rtt l = l := by
  rw [trained, if_neg (by simpa using h)]

/-- What a link has after training. -/
theorem trained_fields {l : Link} (h : l.st = .training) (rigging : Bool) (d : BitVec 4) (rtt : Nat) :
    let l' := trained rigging d rtt l
    l'.trainFails = 0 ∧ l'.half = halfAfter rigging d l ∧ l'.rtt = rtt ∧
      l'.timeoutUs = (if l.lr = true then 2 * rtt else l.timeoutUs) ∧
      if l.buf = [] then l'.st = upAfter rigging d l else l'.st = .replay ∧ l'.held = upAfter rigging d l ∧ l'.mark = l.seq := by
  dsimp only
  rw [trained_eq h]
  by_cases hb : l.buf = []
  · rw [if_pos hb, if_pos hb]
    exact ⟨rfl, rfl, rfl, rfl, rfl⟩
  · obtain ⟨_, _, _, e⟩ := dealt_resendFlits rigging
      { measured rigging d rtt l with st := .replay, held := upAfter rigging d l, mark := l.seq }
    rw [if_neg hb, if_neg hb, e]
    exact ⟨rfl, rfl, rfl, rfl, rfl, rfl, rfl⟩

theorem trained_owesMarks (rigging : Bool) (d : BitVec 4) (rtt : Nat) (l : Link) : (trained rigging d rtt l).owesMarks = l.owesMarks := by
  by_cases h : l.st = .training
  · rw [trained_eq h]
    split
    · rfl
    · obtain ⟨_, _, _, e⟩ := dealt_resendFlits rigging
        { measured rigging d rtt l with st := .replay, held := upAfter rigging d l, mark := l.seq }
      rw [e]
      rfl
  · rw [trained_other h]

/-- The link that LINK_TRAINED leaves, but for the markers that it owes. -/
def comesUp (id : BitVec 32) (rigging : Bool) (d : BitVec 4) (rtt : Nat) (l : Link) : Link :=
  { trained rigging d rtt l with dir := some (id.getLsbD 0) }

theorem exec_linkTrained_of_none {s : State} {id : BitVec 32} (h : (linkAt s (linkKey s id)).owesMarks = []) (d : BitVec 4) (rtt : Nat) :
    exec (.linkTrained id ⟨d, rtt⟩) s =
      .next (modLink (linkKey s id) (comesUp id (isRigging (linkKey s id)) d rtt) s) := by
  refine congrArg Host.Outcome.next (sendOwed_of_none ?_)
  rw [linkAt_modLink]
  exact (trained_owesMarks ..).trans h

/-- A third attempt fails the link; where nothing is on its way, nothing is cut. -/
theorem failLink_idle {s : State} (hu : unperformed s = []) (hw : waitingReqs s = []) (hr : s.replies = []) (hf : s.fes = []) (k : Nat)
    (c : BitVec 4) : failLink k c s = { modLink k (fun l => { l with st := .failed, cause := c }) s with
      reports := s.reports ++ [.link (linkId s k) c] } := by
  unfold failLink
  generalize hl : (fun l : Link => { l with st := .failed, cause := c }) = f
  generalize hx : Report.link (linkId s k) c = x
  have hu' : unperformed (report x (modLink k f s)) = [] := hu
  have hw' : waitingReqs (report x (modLink k f s)) = [] := hw
  have hr' : (report x (modLink k f s)).replies = [] := hr
  have hf' : (report x (modLink k f s)).fes = [] := hf
  simp only [cutLink, hu', hw', hr', List.filter_nil, List.map_nil, List.append_nil, each, List.foldl_nil, dropRemoteHolds, hf']
  obtain ⟨⟩ := s
  cases hr
  cases hf
  rfl

/-! ### Replay and acknowledgement (10 R162) -/

/-- A replay of a link that was up, short of the eighth. -/
theorem replayLink_up {s : State} {k : Nat} {p : Bool} (hu : isUp (linkAt s k) = true) (hr : (linkAt s k).replays < 7) :
    ∃ l', replayLink k p s = modLink k (fun _ => l') s ∧ l'.st = .replay ∧ l'.held = (linkAt s k).st ∧
      l'.replays = (if p = true then 0 else (linkAt s k).replays) + 1 ∧ l'.buf = (linkAt s k).buf ∧ l'.mark = (linkAt s k).seq ∧
      l'.owesMarks = (linkAt s k).owesMarks := by
  have hnr : ((linkAt s k).st == .replay) = false := by
    rcases isUp_iff.1 hu with h | h <;> rw [h] <;> rfl
  have hnf : ((linkAt s k).st == .frozen) = false := by
    rcases isUp_iff.1 hu with h | h <;> rw [h] <;> rfl
  refine ⟨resendFlits (isRigging k) { linkAt s k with
    held := (linkAt s k).st, wasFrozen := false, mark := (linkAt s k).seq, st := .replay
    replays := (if p = true then 0 else (linkAt s k).replays) + 1, runs := if p = true then 0 else (linkAt s k).runs }, ?_, ?_⟩
  · have h8 : (if p = true then 0 else (linkAt s k).replays) + 1 < 8 := by split <;> omega
    cases p <;> simp only [Bool.false_eq_true, if_false, if_true] at h8 <;>
      simp only [replayLink, carries_of_isUp hu, hnr, hnf, h8, Bool.not_true, Bool.false_eq_true, if_false, if_true]
  · obtain ⟨_, _, _, e⟩ := dealt_resendFlits (isRigging k) { linkAt s k with
      held := (linkAt s k).st, wasFrozen := false, mark := (linkAt s k).seq, st := .replay
      replays := (if p = true then 0 else (linkAt s k).replays) + 1, runs := if p = true then 0 else (linkAt s k).runs }
    rw [e]
    exact ⟨rfl, rfl, rfl, rfl, rfl, rfl⟩

/-- The eighth replay without progress trains the link again. -/
theorem replayLink_eighth {s : State} {k : Nat} (hst : (linkAt s k).st = .replay) (hr : (linkAt s k).replays = 7)
    (hruns : (linkAt s k).runs < 2) : replayLink k false s =
      modLink k (fun l => { l with replays := 0, runs := l.runs + 1, st := .training, trainFails := 0 }) s := by
  have hc : carries (linkAt s k) = true := by simp [carries, hst]
  have h3 : ¬ 3 ≤ (linkAt s k).runs + 1 := by omega
  simp only [replayLink, hc, hst, hr, h3, Bool.not_true, Bool.false_eq_true, if_false, beq_self_eq_true, if_true, Nat.reduceAdd,
    Nat.lt_irrefl]
  exact modLink_congr rfl

/-- The flits that an acknowledgement of `a` leaves in the replay buffer. -/
def stillHeld (m a : Nat) (l : Link) : List Nat := l.buf.filter fun q => decide (m / 2 ≤ (a + m - q) % m)

theorem freeAcked_eq (m a : Nat) (l : Link) :
    freeAcked m a l = ({ l with buf := stillHeld m a l }, decide ((stillHeld m a l).length < l.buf.length)) := by
  have h : l.buf.filter (fun q => !acked m a q) = stillHeld m a l :=
    List.filter_congr fun q _ => by simp only [acked, ← decide_not, Nat.not_lt]
  simp only [freeAcked, h]

/-- A NAK frees what it acknowledges, and begins a replay. -/
theorem nak_eq {s : State} {k a : Nat} (hc : carries (linkAt s k) = true) : ∃ p, nak k a s =
    replayLink k p (modLink k (fun l => { l with buf := stillHeld (seqMod k) a l, owesNak := none }) s) := by
  have hc' : carries ({ linkAt s k with buf := stillHeld (seqMod k) a (linkAt s k) } : Link) = true := hc
  refine ⟨decide ((stillHeld (seqMod k) a (linkAt s k)).length < (linkAt s k).buf.length), ?_⟩
  simp only [nak, freeAcked_eq, hc', if_true]
  exact congrArg _ (modLink_congr rfl)

/-- The link that an acknowledgement of `a` leaves. -/
def acknowledged (m a : Nat) (l : Link) : Link :=
  let p := decide ((stillHeld m a l).length < l.buf.length)
  let l' : Link := { l with
    buf := stillHeld m a l, owesAck := none, replays := if p then 0 else l.replays, runs := if p then 0 else l.runs }
  if l.st = .replay ∧ ∀ q ∈ stillHeld m a l, acked m ((l.mark + m - 1) % m) q = false then
    { l' with st := if l.wasFrozen then .frozen else l.held } else l'

theorem ackLink_eq {s : State} {k : Nat} (hc : carries (linkAt s k) = true) (a : Nat) :
    ackLink k a s = modLink k (acknowledged (seqMod k) a) s := by
  simp only [ackLink, hc, freeAcked_eq, Bool.not_true, Bool.false_eq_true, if_false]
  refine modLink_congr ?_
  unfold acknowledged
  by_cases hp : (stillHeld (seqMod k) a (linkAt s k)).length < (linkAt s k).buf.length <;> simp [hp]

theorem acknowledged_buf (m a : Nat) (l : Link) : (acknowledged m a l).buf = stillHeld m a l := by
  simp only [acknowledged]
  split <;> rfl

theorem acknowledged_owesMarks (m a : Nat) (l : Link) : (acknowledged m a l).owesMarks = l.owesMarks := by
  simp only [acknowledged]
  split <;> rfl

theorem acknowledged_st_of_not_replay {l : Link} (h : l.st ≠ .replay) (m a : Nat) : (acknowledged m a l).st = l.st := by
  simp only [acknowledged, h, false_and, if_false]

/-- An acknowledgement that leaves no flit ends the replay. -/
theorem acknowledged_st_of_empty {m a : Nat} {l : Link} (h : l.st = .replay) (hf : l.wasFrozen = false) (hb : stillHeld m a l = []) :
    (acknowledged m a l).st = l.held := by
  simp [acknowledged, h, hf, hb]

theorem stillHeld_of_all {m a : Nat} {l : Link} (h : l.buf.all (fun q => decide ((a + m - q) % m < m / 2)) = true) :
    stillHeld m a l = [] := by
  refine List.filter_eq_nil_iff.2 fun q hq => ?_
  have := List.all_eq_true.1 h q hq
  simp only [decide_eq_true_eq] at this ⊢
  omega

/-- ACK_RECEIVE at a link that owes no marker. -/
theorem ackLink_owes {s : State} {k : Nat} (hc : carries (linkAt s k) = true) (ho : (linkAt s k).owesMarks = []) (a : Nat) :
    sendOwed k (ackLink k a s) = modLink k (acknowledged (seqMod k) a) s := by
  rw [ackLink_eq hc]
  refine sendOwed_of_none ?_
  rw [linkAt_modLink, acknowledged_owesMarks, ho]

/-! ### A flit is sent, and a marker in one (10 R164, 11 R172) -/

/-- `l'` is `l` with one more flit sent. -/
structure OneSent (l l' : Link) : Prop where
  st : l'.st = l.st
  held : l'.held = l.held
  frozenJobs : l'.frozenJobs = l.frozenJobs
  owesMarks : l'.owesMarks = l.owesMarks
  buf : l'.buf = l.buf ++ [l.seq]

/-- The end of a frame concerns its count and the keys alone. -/
theorem linkAt_frameSent (k : Nat) (s : State) : ∃ n p a b w,
    linkAt (frameSent k s) k = { linkAt s k with frames := n, keyPh := p, key0 := a, key1 := b, keyWait := w } := by
  have hkeys (l : Link) : ∃ n p a b w, switchKey l = { l with frames := n, keyPh := p, key0 := a, key1 := b, keyWait := w } := by
    unfold switchKey
    extract_lets next
    split
    · split <;> exact ⟨_, _, _, _, _, rfl⟩
    · exact ⟨_, _, _, _, _, rfl⟩
  unfold frameSent
  dsimp only
  split
  · rw [linkAt_report]
    exact ⟨_, _, _, _, _, linkAt_modLink ..⟩
  · split
    · obtain ⟨n, p, a, b, w, e⟩ := hkeys { linkAt s k with frames := (linkAt s k).frames + 1 }
      rw [linkAt_modLink, linkAt_modLink, e]
      exact ⟨_, _, _, _, _, rfl⟩
    · exact ⟨_, _, _, _, _, linkAt_modLink ..⟩

/-- A splice sends a flit. -/
theorem linkAt_sendFlit_splice {k : Nat} (hk : isRigging k = false) (s : State) : linkAt (sendFlit k s) k =
    fly (linkAt s k).seq { linkAt s k with seq := ((linkAt s k).seq + 1) % 1024, buf := (linkAt s k).buf ++ [(linkAt s k).seq] } := by
  simp only [sendFlit, hk, Bool.not_false, if_true, linkAt_modLink, seqMod, Bool.false_eq_true, if_false]

theorem oneSent_sendFlit (k : Nat) (s : State) : OneSent (linkAt s k) (linkAt (sendFlit k s) k) := by
  cases hk : isRigging k with
  | false =>
    rw [linkAt_sendFlit_splice hk]
    obtain ⟨_, _, _, e⟩ := dealt_fly (linkAt s k).seq
      { linkAt s k with seq := ((linkAt s k).seq + 1) % 1024, buf := (linkAt s k).buf ++ [(linkAt s k).seq] }
    rw [e]
    exact ⟨rfl, rfl, rfl, rfl, rfl⟩
  | true =>
    simp only [sendFlit, hk, Bool.not_true, Bool.false_eq_true, if_false]
    split
    · obtain ⟨_, _, _, _, _, e⟩ := linkAt_frameSent k _
      rw [e, linkAt_modLink, linkAt_modLink]
      exact ⟨rfl, rfl, rfl, rfl, rfl⟩
    · rw [linkAt_modLink, linkAt_modLink]
      exact ⟨rfl, rfl, rfl, rfl, rfl⟩

theorem oneSent_passFlit (k : Nat) (s : State) : OneSent (linkAt s k) (linkAt (passFlit k s) k) := by
  obtain ⟨hst, hheld, hjobs, hmarks, hbuf⟩ := oneSent_sendFlit k s
  unfold passFlit
  dsimp only
  split
  · exact ⟨hst, hheld, hjobs, hmarks, hbuf⟩
  · rw [linkAt_modLink]
    exact ⟨hst, hheld, hjobs, hmarks, hbuf⟩

/-- The marker of a job goes out on a link that is up and owes it alone: the link is FROZEN for the job. -/
theorem sendOwed_marker {s : State} {k : Nat} {job : BitVec 16} (hu : isUp (linkAt s k) = true) (hs : sends k (linkAt s k) = true)
    (ho : (linkAt s k).owesMarks = [job]) (hj : job ∉ (linkAt s k).frozenJobs) (hr : s.reqs = []) :
    (sendOwed k s).mem = s.mem ∧
    (linkAt (sendOwed k s) k).st = .frozen ∧ (linkAt (sendOwed k s) k).owesMarks = [] ∧
      (linkAt (sendOwed k s) k).held = (linkAt s k).st ∧
      (linkAt (sendOwed k s) k).frozenJobs = job :: (linkAt s k).frozenJobs ∧
      (linkAt (sendOwed k s) k).buf = (linkAt s k).buf ++ [(linkAt s k).seq] := by
  have hcross : crossJob job s = s := by
    rw [crossJob, hr]
    rfl
  have hclear : behindMarker s job k = false := by
    rw [behindMarker, hr]
    rfl
  have hnf : ((linkAt s k).st == .frozen) = false := by
    rcases isUp_iff.1 hu with h | h <;> simp [h]
  obtain ⟨u, hsent, hlo, he⟩ : ∃ u, OneSent (linkAt s k) (linkAt u k) ∧ LinksOnly s u ∧ sendOwed k s = modLink k (fun l => { l with
      st := .frozen, held := if l.st == .frozen then l.held else l.st, frozenJobs := job :: l.frozenJobs
      owesMarks := l.owesMarks.filter (· != job) }) u := by
    have hlo : LinksOnly s (sendFlit k s) := (LinksOnly.refl s).sendFlit k
    refine ⟨if upToDate k (linkAt s k) then passFlit k s else sendFlit k s, ?_, ?_, ?_⟩
    · split
      · exact oneSent_passFlit k s
      · exact oneSent_sendFlit k s
    · exact .ite (.ite hlo (hlo.modLink ..)) hlo
    · simp only [sendOwed, ho, each, List.foldl_cons, List.foldl_nil, hcross, sendMarker, List.contains_eq_mem, hj, decide_false,
        Bool.false_eq_true, if_false, hs, hclear, Bool.not_false, Bool.and_self, if_true]
  obtain ⟨hst, -, hjobs, hmarks, hbuf⟩ := hsent
  rw [he, linkAt_modLink]
  refine ⟨hlo.mem, rfl, ?_, ?_, congrArg _ hjobs, hbuf⟩
  · simp only [hmarks, ho, List.filter_cons, List.filter_nil, bne_self_eq_false, Bool.false_eq_true, if_false]
  · simp only [hst, hnf, Bool.false_eq_true, if_false]

/-- A link that is up, holds no flit, has its key and no module retraining takes a flit. -/
theorem sends_of_up {k : Nat} {l : Link} (hu : isUp l = true) (hb : l.buf = []) (hlr : l.lr = false) (hw : l.keyWait = false)
    (hr : l.retrain ≠ 15) : sends k l = true := by
  have hcap : 0 < bufCap k l := by
    simp only [bufCap, hlr, Bool.false_eq_true, if_false]
    split <;> decide
  have hre : (l.retrain != 15) = true := bne_iff_ne.2 hr
  simp only [sends, hasRoom, hu, hw, hlr, hb, hre, hcap, List.length_nil, Bool.true_or, Bool.and_true, Bool.or_true, Bool.not_false,
    Bool.and_false, Bool.false_eq_true, if_false, decide_true]

/-! ### The obligation -/

/-- Settles O56: each event is one update of its link, and the marker that a link owes goes out when the update has brought it up. -/
theorem linksTrainAndReplay : Obligations.LinksTrainAndReplay := by
  unfold Obligations.LinksTrainAndReplay
  intro s id k l m set turned
  refine ⟨fun d rtt ht ho => ?_, fun d rtt ht ho => ?_, fun rtt job ht ho hb hlr hkw hre hreq hj => ?_,
    fun ht => ⟨fun hn => ?_, fun hn hu hw hr hf => ?_⟩, fun hu => ⟨?_, fun hr => ?_⟩, fun hst hr hruns => ?_,
    fun a hu ho hr => ?_, fun a hst ho hf hall => ?_, fun a hu ho => ?_⟩
  · -- training ends
    refine ⟨_, exec_linkTrained_of_none ho d rtt, ?_, rfl⟩
    rw [linkAt_modLink]
    exact trained_fields ht ..
  · -- no training was under way
    rw [exec_linkTrained_of_none ho]
    refine congrArg Host.Outcome.next (modLink_congr (g := fun l => { l with dir := some (id.getLsbD 0) }) ?_)
    rw [comesUp, trained_other ht]
  · -- a marker is owed
    let u := modLink k (comesUp id (isRigging k) 0 rtt) s
    have hl : linkAt u k = { measured (isRigging k) 0 rtt l with
        st := upAfter (isRigging k) 0 l, wasFrozen := false, dir := some (id.getLsbD 0) } := by
      rw [linkAt_modLink, comesUp, trained_eq ht, if_pos hb]
    have hhalf : halfAfter (isRigging k) 0 l = l.half := by
      rw [halfAfter]
      split <;> simp
    have hst : upAfter (isRigging k) 0 l = if l.half ≠ 0 then .upDegraded else .upFull := by
      simp only [upAfter, hhalf, ne_eq, not_true_eq_false, and_false, or_false]
    have hup : isUp (linkAt u k) = true := by
      rw [isUp_iff, hl]
      simp only [hst]
      split <;> simp
    obtain ⟨hmem, h1, h2, h3, h4, h5⟩ := sendOwed_marker (s := u) (k := k) (job := job) hup
      (sends_of_up hup (by rw [hl]; exact hb) (by rw [hl]; exact hlr) (by rw [hl]; exact hkw) (by rw [hl]; exact hre))
      (by rw [hl]; exact ho) (by rw [hl]; exact hj) hreq
    refine ⟨_, rfl, ⟨h1, h2, h3.trans ?_, h4.trans ?_, h5.trans ?_⟩, hmem⟩
    · rw [hl]
      exact hst
    · rw [hl]
      rfl
    · rw [hl]
      exact congrArg (· ++ [l.seq]) hb
  · -- an attempt fails
    refine congrArg Host.Outcome.next (?_ : trainFail k s = _)
    have h3 : ¬ 3 ≤ l.trainFails + 1 := by omega
    rw [trainFail, if_neg (by simp [ht, l]), if_neg h3]
    rfl
  · -- the third attempt in a row fails
    refine congrArg Host.Outcome.next (?_ : trainFail k s = _)
    rw [trainFail, if_neg (by simp [ht, l]), if_pos (Nat.succ_le_succ hn), failLink_idle hu hw hr hf]
    rfl
  · -- the signal is lost
    exact congrArg Host.Outcome.next (modLink_congr (g := fun l => { l with st := .training, trainFails := 0 }) (if_pos hu))
  · -- a replay timeout
    obtain ⟨l', he, hst, hheld, hcount, hbuf, hmark, -⟩ := replayLink_up (p := false) hu hr
    refine ⟨_, congrArg Host.Outcome.next he, ?_, rfl⟩
    rw [linkAt_modLink]
    exact ⟨hst, hheld, hcount, hbuf, hmark⟩
  · -- the eighth
    refine ⟨_, congrArg Host.Outcome.next (replayLink_eighth hst hr hruns), ?_, rfl⟩
    rw [linkAt_modLink]
    exact ⟨rfl, rfl, rfl⟩
  · -- a NAK
    obtain ⟨p, he⟩ := nak_eq (a := a) (carries_of_isUp hu)
    obtain ⟨l', he', hst, -, -, hbuf, -, hmarks⟩ := replayLink_up (k := k) (p := p)
      (s := modLink k (fun l => { l with buf := stillHeld (seqMod k) a l, owesNak := none }) s)
      (by rw [linkAt_modLink]; exact hu) (by rw [linkAt_modLink]; exact hr)
    rw [linkAt_modLink] at hbuf hmarks
    have hgo : sendOwed k (nak k a s) = modLink k (fun _ => l') s := by
      rw [he, he', modLink_modLink]
      refine sendOwed_of_none ?_
      rw [linkAt_modLink, hmarks]
      exact ho
    refine ⟨_, congrArg Host.Outcome.next hgo, ?_, rfl⟩
    rw [linkAt_modLink]
    exact ⟨hst, hbuf⟩
  · -- the acknowledgement of all that is held, in a replay
    have hc : carries l = true := by simp [carries, hst]
    have hb : stillHeld (seqMod k) a l = [] := stillHeld_of_all hall
    refine ⟨_, congrArg Host.Outcome.next (ackLink_owes hc ho a), ?_, rfl⟩
    rw [linkAt_modLink]
    exact ⟨acknowledged_st_of_empty hst hf hb, (acknowledged_buf ..).trans hb⟩
  · -- an acknowledgement while up
    have hne : l.st ≠ .replay := by rcases isUp_iff.1 hu with h | h <;> simp [h]
    refine ⟨_, congrArg Host.Outcome.next (ackLink_owes (carries_of_isUp hu) ho a), ?_, rfl⟩
    rw [linkAt_modLink]
    exact ⟨acknowledged_st_of_not_replay hne .., acknowledged_buf ..⟩

end Sys2Proof
end

section
/-!
SUPPORT. The receivers of splices (10 R160, R161, R165, 25 R389, R390): what a splice sends before a flit arrives, what a receiver does
with a sequence number, what a bad header loses, and what a lane that fails does.
-/

namespace Sys2Proof
open Machine

/-! ### What stands before a splice sets out -/

/-- `l'` is `l` with flits sent since, which a receiver does not look at. -/
def Sent (l l' : Link) : Prop := ∃ q b f t o j, l' = { l with seq := q, buf := b, flying := f, turn := t, odd := o, jobs := j }

theorem Sent.refl (l : Link) : Sent l l := ⟨_, _, _, _, _, _, rfl⟩

theorem Sent.trans {l m n : Link} (h : Sent l m) (h' : Sent m n) : Sent l n := by
  obtain ⟨_, _, _, _, _, _, rfl⟩ := h
  obtain ⟨_, _, _, _, _, _, rfl⟩ := h'
  exact ⟨_, _, _, _, _, _, rfl⟩

theorem Dealt.sent {l l' : Link} (h : Dealt l l') : Sent l l' := by
  obtain ⟨_, _, _, rfl⟩ := h
  exact ⟨_, _, _, _, _, _, rfl⟩

theorem Sent.spares {l l' : Link} (h : Sent l l') : l'.spares = l.spares := by
  obtain ⟨_, _, _, _, _, _, rfl⟩ := h
  rfl

theorem Sent.st {l l' : Link} (h : Sent l l') : l'.st = l.st := by
  obtain ⟨_, _, _, _, _, _, rfl⟩ := h
  rfl

/-- In `t`, flits have been sent on link `k` since `s`. -/
structure SentOn (k : Nat) (s t : State) : Prop where
  mem : t.mem = s.mem
  link : Sent (linkAt s k) (linkAt t k)

theorem SentOn.refl (k : Nat) (s : State) : SentOn k s s := ⟨rfl, .refl _⟩

theorem SentOn.trans {k : Nat} {s t u : State} (h : SentOn k s t) (h' : SentOn k t u) : SentOn k s u :=
  ⟨h'.mem.trans h.mem, h.link.trans h'.link⟩

theorem sentOn_noteJob (c k : Nat) (s : State) : SentOn k s (noteJob c k s) := by
  unfold noteJob
  extract_lets job
  split
  · exact .refl k s
  · exact ⟨rfl, by rw [linkAt_modLink]; exact ⟨_, _, _, _, _, _, rfl⟩⟩

section
variable {k : Nat} (hk : isRigging k = false)
include hk

theorem sentOn_sendFlit (s : State) : SentOn k s (sendFlit k s) where
  mem := ((LinksOnly.refl s).sendFlit k).mem
  link := by
    rw [linkAt_sendFlit_splice hk]
    exact .trans ⟨_, _, _, _, _, _, rfl⟩ (dealt_fly ..).sent

theorem sentOn_loadReq (n : Nat) (s : State) : SentOn k s (loadReq k n s) := by
  unfold loadReq
  split
  · next r _ =>
    have h (l : List Req) : SentOn k s (sendFlit k { s with reqs := l }) := ⟨(sentOn_sendFlit hk _).mem, (sentOn_sendFlit hk _).link⟩
    exact (h _).trans (sentOn_noteJob ..)
  · exact .refl k s

theorem sentOn_loadReply (n : Nat) (s : State) : SentOn k s (loadReply k n s) := by
  unfold loadReply
  split
  · next x _ =>
    have h (l : List Reply) : SentOn k s (sendFlit k { s with replies := l }) := ⟨(sentOn_sendFlit hk _).mem, (sentOn_sendFlit hk _).link⟩
    exact (h _).trans (sentOn_noteJob ..)
  · exact .refl k s

theorem sentOn_fillFlit (s : State) : SentOn k s (fillFlit k s) := by
  unfold fillFlit
  split
  · exact sentOn_loadReq hk ..
  · split
    · exact sentOn_loadReply hk ..
    · exact sentOn_sendFlit hk s

theorem sentOn_fillAll (n : Nat) (s : State) : SentOn k s (fillAll k n s) := by
  induction n generalizing s with
  | zero => exact .refl k s
  | succ n ih =>
    rw [fillAll]
    split
    · exact (sentOn_fillFlit hk s).trans (ih _)
    · exact .refl k s

end

/-! ### What a receiver does with a flit (10 R161, R162) -/

/-- What a receiver with sequence numbers below `m` has made of link `l`: it has rejected a flit by its CRC, accepted the one that it
expects, acknowledged a duplicate again, or asked for a replay after a jump ahead. -/
def Rejected (m : Nat) (l l' : Link) : Prop := l'.expect = l.expect ∧ l'.discard = true ∧
  l'.owesNak = some ((l.expect + m - 1) % m) ∧ l'.crcErr = if l.crcErr = 255 then 255 else l.crcErr + 1
def Accepted (m : Nat) (l l' : Link) : Prop := l'.expect = (l.expect + 1) % m ∧ l'.discard = false ∧ l'.st = l.st ∧
  (l.sinceAck = 127 → l'.sinceAck = 0 ∧ l'.owesAck = some l.expect)
def AckedAgain (m : Nat) (l l' : Link) : Prop := l'.expect = l.expect ∧ l'.sinceAck = 0 ∧
  l'.owesAck = some ((l.expect + m - 1) % m) ∧ l'.owesNak = l.owesNak
def AskedAgain (m : Nat) (l l' : Link) : Prop := l'.expect = l.expect ∧ l'.discard = true ∧
  l'.owesNak = some ((l.expect + m - 1) % m)

/-- The sequence numbers of duplicates. -/
def Behind (m : Nat) (l : Link) (q : Nat) : Prop := q ≠ l.expect ∧ (((l.expect + m - 1) % m) + m - q) % m < m / 2

theorem rejected_crcBad {m : Nat} {l u : Link} (h : Sent l u) : Rejected m l (crcBad m u) := by
  obtain ⟨_, _, _, _, _, _, rfl⟩ := h
  refine ⟨rfl, rfl, rfl, ?_⟩
  simp only [crcBad, satInc, beq_iff_eq]
  split
  · assumption
  · rfl

/-- The link after the flit that it expects. -/
def nextTaken (m : Nat) (l : Link) : Link :=
  let l' : Link := { l with expect := (l.expect + 1) % m, discard := false, sinceAck := l.sinceAck + 1 }
  if 127 ≤ l.sinceAck then ackNow m l' else l'

theorem takeSeq_next {m : Nat} {l : Link} (h : l.expect < m) : takeSeq m l.expect l = (nextTaken m l, true) := by
  simp only [takeSeq, Nat.mod_eq_of_lt h, beq_self_eq_true, if_true, nextTaken, Nat.reduceLeDiff]

theorem takeSeq_behind {m q : Nat} {l : Link} (hq : q < m) (h : Behind m l q) : takeSeq m q l = (ackNow m l, false) := by
  have hne : (q == l.expect) = false := beq_eq_false_iff_ne.2 h.1
  simp only [takeSeq, Nat.mod_eq_of_lt hq, hne, acked, decide_eq_true h.2, Bool.false_eq_true, if_false, if_true]

theorem takeSeq_ahead {m q : Nat} {l : Link} (hq : q < m) (hne : q ≠ l.expect) (h : ¬ Behind m l q) (hd : l.discard = false) :
    takeSeq m q l = ({ l with discard := true, owesNak := some ((l.expect + m - 1) % m) }, false) := by
  have hne' : (q == l.expect) = false := beq_eq_false_iff_ne.2 hne
  have hlt : ¬ (((l.expect + m - 1) % m) + m - q) % m < m / 2 := fun h' => h ⟨hne, h'⟩
  simp only [takeSeq, Nat.mod_eq_of_lt hq, hne', acked, hlt, hd, decide_false, Bool.false_eq_true, if_false]

theorem succ_mod_add_pred {m e : Nat} (h : e < m) : ((e + 1) % m + m - 1) % m = e := by
  by_cases he : e + 1 = m
  · subst he
    simp only [Nat.mod_self, Nat.zero_add, Nat.add_sub_cancel, Nat.mod_eq_of_lt (Nat.lt_succ_self e)]
  · have hlt : e + 1 < m := by omega
    rw [Nat.mod_eq_of_lt hlt, show e + 1 + m - 1 = e + m by omega, Nat.add_mod_right, Nat.mod_eq_of_lt h]

theorem accepted_nextTaken {m : Nat} {l u : Link} (h : Sent l u) (he : l.expect < m) : Accepted m l (nextTaken m u) := by
  obtain ⟨_, _, _, _, _, _, rfl⟩ := h
  unfold nextTaken Accepted
  dsimp only
  split
  · exact ⟨rfl, rfl, rfl, fun _ => ⟨rfl, congrArg some (succ_mod_add_pred he)⟩⟩
  · exact ⟨rfl, rfl, rfl, fun h => by omega⟩

/-! ### A flit reaches the receiver of a splice (25 R389) -/

/-- The state in which flit `q` has reached the receiver of splice `k`. -/
def arrived (k q : Nat) (s : State) : State :=
  modLink k (fun l => { l with flying := l.flying.filter (·.1 != q) }) (if q == (linkAt s k).seq then fillFlit k s else s)

theorem arrived_of_sent {k q : Nat} {s : State} (h : q ≠ (linkAt s k).seq) :
    arrived k q s = modLink k (fun l => { l with flying := l.flying.filter (·.1 != q) }) s := by
  rw [arrived, if_neg (by simpa using h)]

theorem sentOn_arrived {k : Nat} (hk : isRigging k = false) (q : Nat) (s : State) : SentOn k s (arrived k q s) := by
  have h (t : State) : SentOn k t (modLink k (fun l => { l with flying := l.flying.filter (·.1 != q) }) t) :=
    ⟨rfl, by rw [linkAt_modLink]; exact ⟨_, _, _, _, _, _, rfl⟩⟩
  unfold arrived
  split
  · exact (sentOn_fillFlit hk s).trans (h _)
  · exact h s

/-- Flit `q` of splice `k` can reach its receiver: it is on its way, or the link takes it now. -/
structure FlitComes (k q : Nat) (s : State) : Prop where
  carries : carries (linkAt s k) = true
  splice : isRigging k = false
  lt : q < 1024
  sent : q ≠ (linkAt s k).seq ∨ sends k (linkAt s k) = true

section
variable {k q : Nat} {s : State} (h : FlitComes k q s)
include h

theorem FlitComes.arrives : (!Machine.carries (linkAt s k) || isRigging k || (q == (linkAt s k).seq && !sends k (linkAt s k))) = false := by
  rw [h.carries, h.splice]
  rcases h.sent with h | h <;> simp [h]

theorem FlitComes.crcBad (hdrOk : Bool) : spliceFlit k q false hdrOk s = modLink k (crcBad 1024) (arrived k q s) := by
  simp only [spliceFlit, Nat.mod_eq_of_lt h.lt, h.arrives, Bool.false_eq_true, if_false, Bool.not_false, if_true]
  rfl

theorem FlitComes.notTaken (hdrOk : Bool) {l : Link} (ht : takeSeq 1024 q (linkAt (arrived k q s) k) = (l, false)) :
    spliceFlit k q true hdrOk s = modLink k (fun _ => l) (arrived k q s) := by
  unfold arrived at ht ⊢
  simp only [spliceFlit, Nat.mod_eq_of_lt h.lt, h.arrives, Bool.false_eq_true, if_false, Bool.not_true, ht, Bool.not_false, if_true]

theorem FlitComes.taken (hdrOk : Bool) {l : Link} (ht : takeSeq 1024 q (linkAt (arrived k q s) k) = (l, true)) :
    spliceFlit k q true hdrOk s =
      let u := modLink k (fun _ => { l with owesAck := some q }) (arrived k q s)
      if hdrOk then passOver k q u else headerDrop k q u := by
  unfold arrived at ht ⊢
  simp only [spliceFlit, Nat.mod_eq_of_lt h.lt, h.arrives, Bool.false_eq_true, if_false, Bool.not_true, ht, if_true]

end

/-- The state in which the receiver has accepted the flit that it expects, before it looks at the packet. -/
def acceptedAt (k : Nat) (s : State) : State :=
  modLink k (fun l => { nextTaken 1024 l with owesAck := some (linkAt s k).expect }) (arrived k (linkAt s k).expect s)

/-- A flit that the receiver expects is accepted, whatever has set out before it. -/
theorem FlitComes.accepted {k : Nat} {s : State} (h : FlitComes k (linkAt s k).expect s) (hdrOk : Bool) :
    spliceFlit k (linkAt s k).expect true hdrOk s =
      if hdrOk then passOver k (linkAt s k).expect (acceptedAt k s) else headerDrop k (linkAt s k).expect (acceptedAt k s) := by
  have he : (linkAt (arrived k (linkAt s k).expect s) k).expect = (linkAt s k).expect := by
    obtain ⟨_, _, _, _, _, _, e⟩ := (sentOn_arrived h.splice (linkAt s k).expect s).link
    rw [e]
  have ht := takeSeq_next (m := 1024) (l := linkAt (arrived k (linkAt s k).expect s) k) (by rw [he]; exact h.lt)
  rw [he] at ht
  rw [h.taken hdrOk ht]
  exact congrArg (fun u => if hdrOk then passOver k _ u else headerDrop k _ u) (modLink_congr rfl)

/-- The receiver's own part of that. -/
theorem accepted_acceptedAt {k : Nat} {s : State} (hk : isRigging k = false) (he : (linkAt s k).expect < 1024) :
    Accepted 1024 (linkAt s k) (linkAt (acceptedAt k s) k) := by
  obtain ⟨h1, h2, h3, h4⟩ := accepted_nextTaken (sentOn_arrived hk (linkAt s k).expect s).link he
  rw [acceptedAt, linkAt_modLink]
  exact ⟨h1, h2, h3, fun h => ⟨(h4 h).1, rfl⟩⟩

/-- A flit that has been sent already is accepted by an update of the link alone. -/
theorem acceptedAt_of_sent {k : Nat} {s : State} (h : (linkAt s k).expect ≠ (linkAt s k).seq) : ∃ f, acceptedAt k s = modLink k f s := by
  rw [acceptedAt, arrived_of_sent h, modLink_modLink]
  exact ⟨_, rfl⟩

/-! ### A packet whose header is bad (10 R165) -/

theorem linkId_modLink_splice {k : Nat} (hk : isRigging k = false) (f : Link → Link) (s : State) :
    linkId (modLink k f s) k = linkId s k := by
  simp only [linkId, hk, Bool.false_eq_true, if_false]
  rfl

theorem reqs_takeBack (r : Req) (s : State) : (takeBack r s).reqs = s.reqs.filter fun x => !isReq r x := by
  unfold takeBack
  extract_lets out t
  split <;> rfl

theorem reports_takeBack (r : Req) (s : State) : (takeBack r s).reports = s.reports := by
  unfold takeBack
  extract_lets out t
  split <;> rfl

theorem mem_takeBack (r : Req) (s : State) : (takeBack r s).mem = s.mem := by
  unfold takeBack
  extract_lets out t
  split <;> rfl

/-- Waiting requests may go: no seat changes. -/
theorem seatAt_modFe_of_seats {g : FE → FE} (hg : ∀ f, (g f).seats = f.seats) (home fe k : Nat) (s : State) :
    seatAt (modFe home g s) fe k = seatAt s fe k := by
  by_cases h : fe = home
  · subst h
    rw [seatAt, feAt_modFe, seatOf, hg]
    rfl
  · rw [seatAt, feAt_modFe_other _ _ _ _ h]
    rfl

theorem seatAt_takeBack (r : Req) (s : State) (fe k : Nat) : seatAt (takeBack r s) fe k = seatAt s fe k := by
  unfold takeBack
  extract_lets out t
  split
  · refine seatAt_modFe_of_seats ?_ ..
    exact fun _ => rfl
  · rfl

/-- What 17 R287 keeps of a refused request for its seat: the fault that the seat takes at its next hand boundary. -/
def refusalOf (r : Req) (code : BitVec 8) : Deferred := { flt := { code := code, info := r.hand ||| 1, addr := r.va } }

/-- The write of a running seat is lost: its seat takes the fault later. -/
theorem failReq_write {s : State} {r : Req} {b : Nat} {v : W64} {code : BitVec 8} (hop : r.op = .write b v) (hf : r.far = none)
    (hc : code ≠ Code.memoryUncorrectable) (hk : r.seat < 4) (hst : (seatAt s r.fe r.seat).st = .running)
    (hctx : (seatAt s r.fe r.seat).ctx = r.ctx) : failReq r code s = modSeat r.fe r.seat (fun t => { t with
      splits := t.splits.filter (· != r.id), deferred := t.deferred ++ [refusalOf r code] }) s := by
  have hasks : asksNothing r = false := by simp only [asksNothing, hop]
  have hspill : isSpillRead s r = false := by simp only [isSpillRead, hop]
  have hcode : (code != Code.memoryUncorrectable) = true := bne_iff_ne.2 hc
  have e := seatAt_modSeat r.fe r.seat (fun t => { t with splits := t.splits.filter (· != r.id) }) s hk
  have hlive : ((seatAt s r.fe r.seat).st == .retired || (seatAt s r.fe r.seat).st == .free ||
      (seatAt s r.fe r.seat).ctx != r.ctx) = false := by
    rw [hst, hctx, bne_self_eq_false]
    rfl
  have hnb : ((seatAt s r.fe r.seat).st == .belayed && !(seatAt s r.fe r.seat).faulted) = false := by
    rw [hst]
    rfl
  simp only [failReq, hasks, hf, hspill, Option.isSome_none, Bool.false_eq_true, if_false, refuseReq, hcode, if_true, deferFault, e,
    hlive, hnb]
  exact modSeat_modSeat _ _ _ _ _ hk

section
variable {k q : Nat} {s : State}

/-- A flit that carries no packet of the model's is reported, and nothing else is lost. -/
theorem headerDrop_empty (hk : isRigging k = false) (hr : ∀ r ∈ s.reqs, r.flit ≠ some (k, q))
    (hx : ∀ x ∈ s.replies, x.req.flit ≠ some (k, q)) : headerDrop k q s = report (.headerDrop (linkId s k) q) s := by
  have hr' : (report (.headerDrop (linkId s k) q) s).reqs.find? (inFlit k q) = none :=
    List.find?_eq_none.2 fun r hm => by simpa [inFlit] using hr r hm
  have hx' : (report (.headerDrop (linkId s k) q) s).replies.find? (fun x => inFlit k q x.req || (isRigging k &&
      (replyRoute (report (.headerDrop (linkId s k) q) s) x.req).head? == some k)) = none :=
    List.find?_eq_none.2 fun x hm => by simpa [inFlit, hk] using hx x hm
  simp only [headerDrop, hr', hx']

/-- The request in the flit is taken back, and ends in LINK_TIMEOUT. -/
theorem headerDrop_req {r : Req} (hr : s.reqs = [r]) (hf : r.flit = some (k, q)) :
    headerDrop k q s = failReq r Code.linkTimeout (takeBack r (report (.headerDrop (linkId s k) q) s)) := by
  have hr' : (report (.headerDrop (linkId s k) q) s).reqs.find? (inFlit k q) = some r := by
    rw [show (report (.headerDrop (linkId s k) q) s).reqs = [r] from hr]
    simp [inFlit, hf]
  simp only [headerDrop, hr']

end

/-! ### A lane fails (10 R160, 25 R390) -/

theorem ofNat_two_pow_getLsbD (u : BitVec 2) : (BitVec.ofNat 4 (2 ^ u.toNat)).getLsbD u.toNat = true := by
  revert u
  decide

/-- With no spare left, the module of the lane falls to half width and retrains. -/
theorem laneFail_halves {l : Link} {u : BitVec 2} (h : vget 0 l.spares u.toNat = 0) (hst : l.st = .upFull) :
    (laneFail u.toNat l).st = .upDegraded ∧ (laneFail u.toNat l).half.getLsbD u.toNat = true ∧
      (laneFail u.toNat l).retrain.getLsbD u.toNat = true := by
  rw [laneFail, if_neg (by rw [h]; exact Nat.lt_irrefl 0)]
  refine ⟨if_pos (beq_iff_eq.2 hst), ?_, ?_⟩ <;> simp only [BitVec.getLsbD_or, ofNat_two_pow_getLsbD, Bool.or_true]

/-- Flits that are lost with a lane are rejected by their CRC, one after the other. -/
theorem laneLost_eq (u : Nat) (l : Link) : ∃ c d o, laneLost u l = { l with
    flying := l.flying.filter (·.2 != u), crcErr := c, discard := d, owesNak := o } := by
  have hall (hit : List (Nat × Nat)) (x : Link) : ∃ c d o, hit.foldl (fun l _ => crcBad 1024 l) x =
      { x with crcErr := c, discard := d, owesNak := o } := by
    induction hit generalizing x with
    | nil => exact ⟨_, _, _, rfl⟩
    | cons _ hit ih =>
      obtain ⟨_, _, _, e⟩ := ih (crcBad 1024 x)
      exact ⟨_, _, _, e⟩
  unfold laneLost
  extract_lets hit
  split
  · next he =>
    have hkeep : l.flying.filter (·.2 != u) = l.flying := by
      refine List.filter_eq_self.2 fun x hx => ?_
      have := List.filter_eq_nil_iff.1 (List.isEmpty_iff.1 he) x hx
      simpa using this
    rw [hkeep]
    exact ⟨_, _, _, rfl⟩
  · obtain ⟨c, d, o, e⟩ := hall hit { l with flying := l.flying.filter (·.2 != u) }
    exact ⟨c, d, o, e⟩

/-- LANE_FAILURE at a splice that carries flits: the link that it leaves, from one on which everything has set out. -/
theorem laneFailure_turns {k : Nat} {s : State} (hk : isRigging k = false) (hc : carries (linkAt s k) = true) (u : Nat) :
    ∃ l', Sent (linkAt s k) l' ∧ (laneFailure k u s).mem = s.mem ∧ linkAt (laneFailure k u s) k =
      (if vget 0 l'.spares u == 0 then laneLost u else id) (laneFail u l') := by
  have hsent := sentOn_fillAll hk (s.reqs.length + s.replies.length) s
  have e : laneFailure k u s = modLink k (fun l => (if vget 0 l.spares u == 0 then laneLost u else id) (laneFail u l))
      (fillAll k (s.reqs.length + s.replies.length) s) := by
    simp only [laneFailure, hk, hc, Bool.not_true, Bool.or_self, Bool.false_eq_true, if_false]
  exact ⟨_, hsent.link, by rw [e]; exact hsent.mem, by rw [e, linkAt_modLink]⟩

end Sys2Proof
end

section
/-!
SUPPORT. Rigging ports (10 R162, R164, 04 R69, 10 R406): the acknowledgement in a flit, the packets of other modules, and the frames of
a receiver and of a transmitter.
-/

namespace Sys2Proof
open Machine

/-! ### The direction back (10 R162) -/

/-- The direction back is a rigging port of this module, and another link. -/
theorem reverseOf_port {s : State} {k b : Nat} (h : reverseOf s k = some b) : b ≠ k ∧ isRigging b = true := by
  unfold reverseOf at h
  split at h
  · cases h
  · obtain ⟨p, hp, rfl⟩ := Option.map_eq_some_iff.1 h
    have hlt : p < 24 := by
      simp only [routePort, Option.ite_none_right_eq_some, Bool.and_eq_true, decide_eq_true_eq, Option.some.injEq] at hp
      obtain ⟨⟨-, hlt⟩, rfl⟩ := hp
      exact hlt
    have hx : (if p < 12 then 0 else 1) < 2 := by split <;> decide
    simp only [riggingKey, isRigging, beq_iff_eq]
    omega

/-- What `t` has of link `k` and of memory is what `s` has. -/
structure SameLink (k : Nat) (s t : State) : Prop where
  link : linkAt t k = linkAt s k
  mem : t.mem = s.mem

theorem SameLink.refl (k : Nat) (s : State) : SameLink k s s := ⟨rfl, rfl⟩

/-- The acknowledgement in a sequenced flit concerns the direction back. -/
theorem sameLink_flitAck {s : State} {k : Nat} {f : Flit} (hk : f.kind.toNat ≤ 2)
    (hb : ∀ b, reverseOf s k = some b → (linkAt s b).owesMarks = []) : SameLink k s (flitAck k f s) := by
  have h4 : (f.kind == 4) = false := beq_eq_false_iff_ne.2 fun h => by simp [h] at hk
  have h5 : (f.kind == 5) = false := beq_eq_false_iff_ne.2 fun h => by simp [h] at hk
  unfold flitAck
  split
  · exact .refl k s
  · next b hr =>
    simp only [h4, h5, Bool.false_eq_true, if_false, Bool.false_or]
    split
    · cases hc : carries (linkAt s b) with
      | false =>
        have e : ackLink b f.ackSeq s = s := by simp only [ackLink, hc, Bool.not_false, if_true]
        rw [e, sendOwed_of_none (hb b hr)]
        exact .refl k s
      | true =>
        rw [ackLink_owes hc (hb b hr)]
        exact ⟨linkAt_modLink_other (reverseOf_port hr).1.symm .., rfl⟩
    · exact .refl k s

theorem flitAck_of_no_ackV {s : State} {k : Nat} {f : Flit} (hk : f.kind.toNat ≤ 2) (hv : f.ackV = false) : flitAck k f s = s := by
  have h4 : (f.kind == 4) = false := beq_eq_false_iff_ne.2 fun h => by simp [h] at hk
  have h5 : (f.kind == 5) = false := beq_eq_false_iff_ne.2 fun h => by simp [h] at hk
  unfold flitAck
  split
  · rfl
  · simp only [h4, h5, hv, Bool.or_self, Bool.false_eq_true, if_false]

/-! ### What a rigging flit comes to -/

section
variable {s : State} {k : Nat} {f : Flit} (hc : carries (linkAt s k) = true) (hk : isRigging k = true)
include hc hk

theorem riggingFlit_crcBad (tagOk hdrOk : Bool) : riggingFlit k f false tagOk hdrOk s = modLink k (crcBad (2 ^ 24)) s := by
  simp only [riggingFlit, hc, hk, Bool.not_true, Bool.or_self, Bool.false_eq_true, if_false, Bool.not_false, Bool.true_or, if_true]

theorem riggingFlit_sequenced (hkind : f.kind.toNat ≤ 2) (tagOk hdrOk : Bool) :
    riggingFlit k f true tagOk hdrOk s = sequencedFlit k f tagOk hdrOk (flitAck k f s) := by
  have h7 : ¬ 7 ≤ f.kind.toNat := by omega
  simp only [riggingFlit, hc, hk, h7, sequenced, hkind, decide_true, decide_false, Bool.not_true, Bool.or_self, Bool.false_eq_true,
    if_false, if_true]

/-- An ACK flit acknowledges what the direction back holds. -/
theorem riggingFlit_ack {b : Nat} (hkind : f.kind = 4) (hr : reverseOf s k = some b) (hb : carries (linkAt s b) = true)
    (ho : (linkAt s b).owesMarks = []) (tagOk hdrOk : Bool) :
    riggingFlit k f true tagOk hdrOk s = modLink b (acknowledged (seqMod b) f.ackSeq) s := by
  have e : riggingFlit k f true tagOk hdrOk s = sendOwed b (ackLink b f.ackSeq s) := by
    simp only [riggingFlit, hc, hk, hkind, sequenced, flitAck, hr, Bool.not_true, Bool.or_self, Bool.false_eq_true, if_false]
    rfl
  rw [e, ackLink_owes hb ho]

end

section
variable {s : State} {k : Nat} {f : Flit}

theorem sequencedFlit_notTaken {l : Link} (ht : takeSeq (2 ^ 24) f.seq (linkAt s k) = (l, false)) (tagOk hdrOk : Bool) :
    sequencedFlit k f tagOk hdrOk s = modLink k (fun _ => l) s := by
  simp only [sequencedFlit, ht, Bool.not_false, if_true]

variable (hq : f.seq = (linkAt s k).expect) (he : (linkAt s k).expect < 2 ^ 24)
include hq he

/-- Without encryption the packets of an accepted flit are delivered. -/
theorem sequencedFlit_delivers (henc : (linkAt s k).enc = false) (tagOk : Bool) :
    sequencedFlit k f tagOk true s = each f.body deliver (modLink k (nextTaken (2 ^ 24)) s) := by
  have hn : (nextTaken (2 ^ 24) (linkAt s k)).enc = false := by
    simp only [nextTaken]
    split <;> exact henc
  simp only [sequencedFlit, hq, takeSeq_next he, Bool.not_true, Bool.false_eq_true, if_false, hn, Bool.not_false, if_true]
  rfl

/-- The last flit of a frame whose tag is bad, before the fourth failure: the frame is asked for again. -/
theorem sequencedFlit_tagBad (henc : (linkAt s k).enc = true) (hlast : (linkAt s k).expect % 16 = 15)
    (hfails : (linkAt s k).frameFails < 3) : ∃ l', sequencedFlit k f false true s = modLink k (fun _ => l') s ∧
      l'.expect = (linkAt s k).expect - 15 ∧ l'.discard = true ∧ l'.frameFails = (linkAt s k).frameFails + 1 := by
  obtain ⟨n, a, e⟩ : ∃ n a, nextTaken (2 ^ 24) (linkAt s k) = { linkAt s k with
      expect := ((linkAt s k).expect + 1) % 2 ^ 24, discard := false, sinceAck := n, owesAck := a } := by
    unfold nextTaken
    extract_lets l'
    split <;> exact ⟨_, _, rfl⟩
  have hseq : f.seq % 16 = 15 := hq ▸ hlast
  have h4 : ¬ 4 ≤ (linkAt s k).frameFails + 1 := by omega
  have hfirst : (((linkAt s k).expect + 1) % 2 ^ 24 + 2 ^ 24 - 16) % 2 ^ 24 = (linkAt s k).expect - 15 := by omega
  have ht : takeSeq (2 ^ 24) f.seq (linkAt s k) = (nextTaken (2 ^ 24) (linkAt s k), true) := hq ▸ takeSeq_next he
  simp only [sequencedFlit, ht, e, henc, hseq, Bool.not_true, Bool.false_eq_true, if_false, if_true, beq_self_eq_true, frameEnd,
    linkAt_modLink, h4, modLink_modLink, hfirst]
  exact ⟨_, rfl, rfl, rfl, rfl⟩

end

/-! ### Packets of other modules (04 R69, 10 R406) -/

theorem sameLink_deliver (k : Nat) (p : FarPacket) (s : State) : SameLink k s (deliver p s) := by
  unfold deliver
  extract_lets far
  split
  · exact ⟨rfl, rfl⟩
  · split
    · exact ⟨rfl, rfl⟩
    · split <;> exact ⟨rfl, rfl⟩

theorem sameLink_deliverAll (k : Nat) (l : List FarPacket) (s : State) : SameLink k s (each l deliver s) :=
  each_keeps (P := SameLink k s) (fun p _ h => ⟨(sameLink_deliver k p _).link.trans h.link, (sameLink_deliver k p _).mem.trans h.mem⟩)
    l (.refl k s)

/-- A packet for a third module goes on. -/
theorem deliver_third {p : FarPacket} {s : State} (h : p.dst ≠ s.moduleId.toNat) :
    ∃ r, (deliver p s).reqs = s.reqs ++ [r] ∧ r.op = .pass ∧ r.pa = p.dst * 2 ^ 46 := by
  rw [deliver, if_pos (bne_iff_ne.2 h)]
  exact ⟨_, rfl, rfl, rfl⟩

/-- A packet of a job that holds no context here is reported. -/
theorem deliver_stray {p : FarPacket} {s : State} (h : p.dst = s.moduleId.toNat) (hj : jobCtx s p.job = none) :
    deliver p s = report (.strayPacket p.src p.job) s := by
  simp only [deliver, h, hj, bne_self_eq_false, Bool.false_eq_true, if_false]

/-- A request arrives with the context of its job. -/
theorem deliver_request {p : FarPacket} {s : State} {c fe j pa : Nat} {op : ReqOp} {va : W64} {lands : Bool}
    (h : p.dst = s.moduleId.toNat) (hj : jobCtx s p.job = some c) (hb : p.body = .request op fe j pa va lands) :
    ∃ r, (deliver p s).reqs = s.reqs ++ [r] ∧ r.ctx = c ∧ r.op = op ∧ r.seat = j ∧ r.far = some p.src ∧
      r.pa = s.moduleId.toNat * 2 ^ 46 + paKey pa := by
  simp only [deliver, h, hj, hb, bne_self_eq_false, Bool.false_eq_true, if_false]
  exact ⟨_, rfl, rfl, rfl, rfl, rfl, rfl⟩

/-! ### Frames that are sent (10 R164) -/

/-- A rigging port sends a flit that ends no frame. -/
theorem linkAt_sendFlit_within {k : Nat} {s : State} (hk : isRigging k = true) (he : (linkAt s k).enc = true)
    (hn : ((linkAt s k).seq + 1) % 2 ^ 24 % 16 ≠ 0) : linkAt (sendFlit k s) k = { linkAt s k with
      seq := ((linkAt s k).seq + 1) % 2 ^ 24, buf := (linkAt s k).buf ++ [(linkAt s k).seq]
      inFrame := ((linkAt s k).seq + 1) % 2 ^ 24 % 16 } := by
  have hn' : (((linkAt s k).seq + 1) % 2 ^ 24 % 16 == 0) = false := beq_eq_false_iff_ne.2 hn
  simp only [sendFlit, seqMod, hk, he, hn', Bool.not_true, Bool.and_false, Bool.false_eq_true, if_false, if_true, linkAt_modLink]

/-- A rigging port sends the last flit of a frame, after which no key is due. -/
theorem linkAt_sendFlit_last {k : Nat} {s : State} (hk : isRigging k = true) (he : (linkAt s k).enc = true)
    (hn : ((linkAt s k).seq + 1) % 2 ^ 24 % 16 = 0) (hf : (linkAt s k).frames + 1 < 2 ^ 28) :
    linkAt (sendFlit k s) k = { linkAt s k with
      seq := ((linkAt s k).seq + 1) % 2 ^ 24, buf := (linkAt s k).buf ++ [(linkAt s k).seq], inFrame := 0
      frames := (linkAt s k).frames + 1 } := by
  have hf' : ¬ 2 ^ 28 ≤ (linkAt s k).frames + 1 := by omega
  have hframe (t : State) (ht : (linkAt t k).frames = (linkAt s k).frames) :
      linkAt (frameSent k t) k = { linkAt t k with frames := (linkAt t k).frames + 1 } := by
    simp only [frameSent, ht, hf', if_false]
    split
    · rw [linkAt_report, linkAt_modLink]
    · rw [linkAt_modLink]
  simp only [sendFlit, seqMod, hk, he, hn, Bool.not_true, Bool.false_eq_true, if_false, if_true, beq_self_eq_true, Bool.and_self,
    ite_self]
  rw [hframe _ (by rw [linkAt_modLink, linkAt_modLink]), linkAt_modLink, linkAt_modLink]
  simp only [he]

/-- A begun frame of an encrypted port can be completed: the port goes on, and `n` more flits end the frame and have room. -/
structure Completes (n : Nat) (l : Link) : Prop where
  goes : isUp l = true ∨ l.st = .frozen
  enc : l.enc = true
  key : l.keyWait = false
  short : l.lr = false
  room : l.buf.length + n ≤ 1024
  lt : l.seq < 2 ^ 24
  left : l.seq % 16 + n = 16
  frames : l.frames + 1 < 2 ^ 28

theorem Completes.of_frame {l : Link} (goes : isUp l = true ∨ l.st = .frozen) (enc : l.enc = true) (key : l.keyWait = false)
    (short : l.lr = false) (room : l.buf.length + 16 ≤ 1024) (lt : l.seq < 2 ^ 24) (hin : l.seq % 16 = l.inFrame)
    (frames : l.frames + 1 < 2 ^ 28) : Completes (16 - l.inFrame) l :=
  ⟨goes, enc, key, short, by omega, lt, by omega, frames⟩

theorem Completes.sends {n k : Nat} {l : Link} (h : Completes (n + 1) l) (hk : isRigging k = true) : sends k l = true := by
  have hgo : (isUp l || l.st == .frozen) = true := by
    rcases h.goes with h | h <;> simp [h]
  have hroom : l.buf.length < 1024 := by have := h.room; omega
  simp only [Machine.sends, hgo, h.key, hasRoom, hk, h.short, bufCap, hroom, Bool.true_or, Bool.not_false, Bool.not_true, Bool.and_false,
    Bool.false_eq_true, if_false, decide_true, Bool.and_self]

/-- PAD flits complete a frame. -/
theorem linkAt_padFrame {k : Nat} (hk : isRigging k = true) (n : Nat) (s : State) (h : Completes (n + 1) (linkAt s k)) :
    let l' := linkAt (padFrame k (n + 1) s) k
    l'.st = (linkAt s k).st ∧ l'.inFrame = 0 ∧ l'.frames = (linkAt s k).frames + 1 ∧ l'.buf.length = (linkAt s k).buf.length + (n + 1) := by
  have hlt := h.lt
  have hleft := h.left
  induction n generalizing s with
  | zero =>
    have e := linkAt_sendFlit_last hk h.enc (by omega) h.frames
    rw [padFrame, if_pos (h.sends hk), padFrame, e]
    exact ⟨rfl, rfl, rfl, List.length_append⟩
  | succ n ih =>
    have hseq : ((linkAt s k).seq + 1) % 2 ^ 24 = (linkAt s k).seq + 1 := Nat.mod_eq_of_lt (by omega)
    have e := linkAt_sendFlit_within hk h.enc (by omega)
    rw [hseq] at e
    have hroom := h.room
    have h' : Completes (n + 1) (linkAt (sendFlit k s) k) := by
      rw [e]
      exact ⟨h.goes, h.enc, h.key, h.short, by simp only [List.length_append, List.length_singleton]; omega,
        by dsimp only; omega, by dsimp only; omega, h.frames⟩
    rw [padFrame, if_pos (h.sends hk)]
    obtain ⟨h1, h2, h3, h4⟩ := ih (sendFlit k s) h' h'.lt h'.left
    refine ⟨h1.trans ?_, h2, h3.trans ?_, h4.trans ?_⟩ <;> rw [e]
    simp only [List.length_append, List.length_singleton]
    omega

theorem mem_padFrame (k n : Nat) (s : State) : (padFrame k n s).mem = s.mem := by
  induction n generalizing s with
  | zero => rfl
  | succ n ih =>
    rw [padFrame]
    split
    · exact (ih _).trans ((LinksOnly.refl s).sendFlit k).mem
    · rfl

end Sys2Proof
end

section
/-!
SUPPORT. The statement about what the receiver of a link does, one family of events at a time: the flits of a splice, those of a rigging
port, keys and lanes.
-/

namespace Sys2Proof
open Machine

/-- An event leaves link `k` with property `p`, and memory as it is. -/
def Turns (k : Nat) (s : State) (i : Instr) (p : Link → Prop) : Prop := ∃ t, exec i s = .next t ∧ p (linkAt t k) ∧ t.mem = s.mem

theorem Turns.of_modLink {k : Nat} {s : State} {i : Instr} {p : Link → Prop} {f : Link → Link} (he : exec i s = .next (modLink k f s))
    (hp : p (f (linkAt s k))) : Turns k s i p :=
  ⟨_, he, (linkAt_modLink k f s).symm ▸ hp, rfl⟩

/-! ### Flits of a splice (10 R161, R165, 25 R389) -/

section
variable {s : State} {id : BitVec 32} (hc : carries (linkAt s (linkKey s id)) = true) (hk : isRigging (linkKey s id) = false)
include hc hk

/-- A duplicate is acknowledged again. -/
theorem spliceFlit_acksAgain {q : Nat} (hq : q < 1024) (hs : q ≠ (linkAt s (linkKey s id)).seq)
    (hb : Behind 1024 (linkAt s (linkKey s id)) q) :
    Turns (linkKey s id) s (.spliceFlitReceive id q true true) (AckedAgain 1024 (linkAt s (linkKey s id))) := by
  have h : FlitComes (linkKey s id) q s := ⟨hc, hk, hq, .inl hs⟩
  have ht := takeSeq_behind (l := linkAt (arrived (linkKey s id) q s) (linkKey s id)) hq
    (by rw [arrived_of_sent hs, linkAt_modLink]; exact hb)
  have e := h.notTaken true ht
  rw [arrived_of_sent hs, modLink_modLink, linkAt_modLink] at e
  exact .of_modLink (congrArg Host.Outcome.next e) ⟨rfl, rfl, rfl, rfl⟩

/-- A jump ahead asks for a replay. -/
theorem spliceFlit_asksAgain {q : Nat} (hq : q < 1024) (hs : q ≠ (linkAt s (linkKey s id)).seq)
    (hne : q ≠ (linkAt s (linkKey s id)).expect) (hb : ¬ Behind 1024 (linkAt s (linkKey s id)) q)
    (hd : (linkAt s (linkKey s id)).discard = false) :
    Turns (linkKey s id) s (.spliceFlitReceive id q true true) (AskedAgain 1024 (linkAt s (linkKey s id))) := by
  have h : FlitComes (linkKey s id) q s := ⟨hc, hk, hq, .inl hs⟩
  have ht := takeSeq_ahead (l := linkAt (arrived (linkKey s id) q s) (linkKey s id)) hq
    (by rw [arrived_of_sent hs, linkAt_modLink]; exact hne) (by rw [arrived_of_sent hs, linkAt_modLink]; exact hb)
    (by rw [arrived_of_sent hs, linkAt_modLink]; exact hd)
  have e := h.notTaken true ht
  rw [arrived_of_sent hs, modLink_modLink, linkAt_modLink] at e
  exact .of_modLink (congrArg Host.Outcome.next e) ⟨rfl, rfl, rfl⟩

variable (he : (linkAt s (linkKey s id)).expect < 1024)
include he

/-- The expected flit is rejected by its CRC, or accepted. -/
theorem spliceFlit_next (hs : (linkAt s (linkKey s id)).expect ≠ (linkAt s (linkKey s id)).seq ∨
      sends (linkKey s id) (linkAt s (linkKey s id)) = true) :
    Turns (linkKey s id) s (.spliceFlitReceive id (linkAt s (linkKey s id)).expect false true)
        (Rejected 1024 (linkAt s (linkKey s id))) ∧
      Turns (linkKey s id) s (.spliceFlitReceive id (linkAt s (linkKey s id)).expect true true)
        (Accepted 1024 (linkAt s (linkKey s id))) := by
  have h : FlitComes (linkKey s id) (linkAt s (linkKey s id)).expect s := ⟨hc, hk, he, hs⟩
  have hsent := sentOn_arrived hk (linkAt s (linkKey s id)).expect s
  refine ⟨⟨_, congrArg Host.Outcome.next (h.crcBad true), ?_, hsent.mem⟩,
    ⟨_, congrArg Host.Outcome.next (h.accepted true), ?_, hsent.mem⟩⟩
  · rw [linkAt_modLink]
    exact rejected_crcBad hsent.link
  · exact accepted_acceptedAt hk he

variable (hs : (linkAt s (linkKey s id)).expect ≠ (linkAt s (linkKey s id)).seq)
include hs

/-- The request in an accepted flit has crossed the link. -/
theorem spliceFlit_passes {r : Req} (hr : s.reqs = [r]) (hf : r.flit = some (linkKey s id, (linkAt s (linkKey s id)).expect)) :
    ∃ t, exec (.spliceFlitReceive id (linkAt s (linkKey s id)).expect true true) s = .next t ∧
      t.reqs = [{ r with hop := r.hop + 1, flit := none }] ∧ t.mem = s.mem := by
  have h : FlitComes (linkKey s id) (linkAt s (linkKey s id)).expect s := ⟨hc, hk, he, .inl hs⟩
  obtain ⟨f, e⟩ := acceptedAt_of_sent hs
  have hgo := h.accepted true
  rw [e] at hgo
  refine ⟨_, congrArg Host.Outcome.next hgo, ?_, rfl⟩
  have hin : inFlit (linkKey s id) (linkAt s (linkKey s id)).expect r = true := by simp [inFlit, hf]
  show s.reqs.map _ = _
  rw [hr, List.map_singleton, hin]
  rfl

/-- A bad header is reported, where no packet of the model's stands in the flit. -/
theorem spliceFlit_drops (hr : ∀ r ∈ s.reqs, r.flit ≠ some (linkKey s id, (linkAt s (linkKey s id)).expect))
    (hx : ∀ x ∈ s.replies, x.req.flit ≠ some (linkKey s id, (linkAt s (linkKey s id)).expect)) :
    ∃ t, exec (.spliceFlitReceive id (linkAt s (linkKey s id)).expect true false) s = .next t ∧
      t.reports = s.reports ++ [.headerDrop (linkId s (linkKey s id)) (linkAt s (linkKey s id)).expect] := by
  have h : FlitComes (linkKey s id) (linkAt s (linkKey s id)).expect s := ⟨hc, hk, he, .inl hs⟩
  obtain ⟨f, e⟩ := acceptedAt_of_sent hs
  have hgo := h.accepted false
  rw [e, if_neg Bool.false_ne_true, headerDrop_empty (s := modLink (linkKey s id) f s) hk hr hx, linkId_modLink_splice hk] at hgo
  exact ⟨_, congrArg Host.Outcome.next hgo, rfl⟩

/-- The write in a flit whose header is bad is lost, and its seat takes LINK_TIMEOUT. -/
theorem spliceFlit_drops_write {r : Req} {b : Nat} {v : W64} (hr : s.reqs = [r])
    (hf : r.flit = some (linkKey s id, (linkAt s (linkKey s id)).expect)) (hfar : r.far = none) (hop : r.op = .write b v) (hk4 : r.seat < 4)
    (hst : (seatAt s r.fe r.seat).st = .running) (hctx : (seatAt s r.fe r.seat).ctx = r.ctx) :
    ∃ t, exec (.spliceFlitReceive id (linkAt s (linkKey s id)).expect true false) s = .next t ∧
      t.reports = s.reports ++ [.headerDrop (linkId s (linkKey s id)) (linkAt s (linkKey s id)).expect] ∧ t.reqs = [] ∧ t.mem = s.mem ∧
      (seatAt t r.fe r.seat).deferred = (seatAt s r.fe r.seat).deferred ++ [refusalOf r Code.linkTimeout] := by
  have h : FlitComes (linkKey s id) (linkAt s (linkKey s id)).expect s := ⟨hc, hk, he, .inl hs⟩
  obtain ⟨f, e⟩ := acceptedAt_of_sent hs
  let u := report (.headerDrop (linkId s (linkKey s id)) (linkAt s (linkKey s id)).expect) (modLink (linkKey s id) f s)
  have hseat : seatAt (takeBack r u) r.fe r.seat = seatAt s r.fe r.seat := seatAt_takeBack ..
  have hgo := h.accepted false
  rw [e, if_neg Bool.false_ne_true, headerDrop_req (show (modLink (linkKey s id) f s).reqs = [r] from hr) hf, linkId_modLink_splice hk,
    failReq_write (s := takeBack r u) hop hfar (by decide) hk4 (by rw [hseat]; exact hst) (by rw [hseat]; exact hctx)] at hgo
  refine ⟨_, congrArg Host.Outcome.next hgo, reports_takeBack r u, ?_, mem_takeBack r u, ?_⟩
  · refine (reqs_takeBack r u).trans ?_
    rw [show u.reqs = [r] from hr]
    simp [isReq]
  · rw [seatAt_modSeat _ _ _ _ hk4, hseat]

end

/-! ### Flits of a rigging port (10 R162, R164) -/

section
variable {s : State} {id : BitVec 32} {f : Flit} (hc : carries (linkAt s (linkKey s id)) = true)
  (hk : isRigging (linkKey s id) = true) (hkind : f.kind.toNat ≤ 2)
  (hback : ∀ b, reverseOf s (linkKey s id) = some b → (linkAt s b).owesMarks = [])
include hc hk hkind hback

/-- A flit of a sequence number that the receiver does not take is an update of the link. -/
theorem riggingFlit_notTaken {l : Link} {p : Link → Prop} (ht : takeSeq (2 ^ 24) f.seq (linkAt s (linkKey s id)) = (l, false)) (hp : p l) :
    Turns (linkKey s id) s (.riggingFlitReceive id f true true true) p := by
  have hsame := sameLink_flitAck hkind hback
  refine ⟨_, congrArg Host.Outcome.next ((riggingFlit_sequenced hc hk hkind true true).trans
    (sequencedFlit_notTaken (by rw [hsame.link]; exact ht) true true)), ?_, hsame.mem⟩
  rw [linkAt_modLink]
  exact hp

variable (hq : f.seq = (linkAt s (linkKey s id)).expect) (he : (linkAt s (linkKey s id)).expect < 2 ^ 24)
include hq he

/-- The expected flit is accepted. -/
theorem riggingFlit_accepts (henc : (linkAt s (linkKey s id)).enc = false) :
    Turns (linkKey s id) s (.riggingFlitReceive id f true true true) (Accepted (2 ^ 24) (linkAt s (linkKey s id))) := by
  have hsame := sameLink_flitAck hkind hback
  have hall := sameLink_deliverAll (linkKey s id) f.body (modLink (linkKey s id) (nextTaken (2 ^ 24)) (flitAck (linkKey s id) f s))
  refine ⟨_, congrArg Host.Outcome.next ((riggingFlit_sequenced hc hk hkind true true).trans
    (sequencedFlit_delivers (by rw [hsame.link]; exact hq) (by rw [hsame.link]; exact he) (by rw [hsame.link]; exact henc) true)), ?_,
    hall.mem.trans hsame.mem⟩
  rw [hall.link, linkAt_modLink, hsame.link]
  exact accepted_nextTaken (.refl _) he

/-- A frame with a bad tag is asked for again. -/
theorem riggingFlit_tagBad (henc : (linkAt s (linkKey s id)).enc = true) (hlast : (linkAt s (linkKey s id)).expect % 16 = 15)
    (hfails : (linkAt s (linkKey s id)).frameFails < 3) :
    Turns (linkKey s id) s (.riggingFlitReceive id f true false true) fun l' =>
      l'.expect = (linkAt s (linkKey s id)).expect - 15 ∧ l'.discard = true ∧
        l'.frameFails = (linkAt s (linkKey s id)).frameFails + 1 := by
  have hsame := sameLink_flitAck hkind hback
  obtain ⟨l', e, h⟩ := sequencedFlit_tagBad (s := flitAck (linkKey s id) f s) (k := linkKey s id) (f := f) (by rw [hsame.link]; exact hq)
    (by rw [hsame.link]; exact he) (by rw [hsame.link]; exact henc) (by rw [hsame.link]; exact hlast) (by rw [hsame.link]; exact hfails)
  rw [hsame.link] at h
  refine ⟨_, congrArg Host.Outcome.next ((riggingFlit_sequenced hc hk hkind false true).trans e), ?_, hsame.mem⟩
  rw [linkAt_modLink]
  exact h

omit hback in
/-- The one packet of an accepted flit is delivered. -/
theorem riggingFlit_delivers (henc : (linkAt s (linkKey s id)).enc = false) (hv : f.ackV = false) {p : FarPacket} (hb : f.body = [p]) :
    exec (.riggingFlitReceive id f true true true) s = .next (deliver p (modLink (linkKey s id) (nextTaken (2 ^ 24)) s)) := by
  refine congrArg Host.Outcome.next ((riggingFlit_sequenced hc hk hkind true true).trans ?_)
  rw [flitAck_of_no_ackV hkind hv, sequencedFlit_delivers hq he henc, hb]
  rfl

end

/-! ### Frames, keys and lanes (10 R160, R164) -/

theorem exec_framePad_completes {s : State} {id : BitVec 32} (hk : isRigging (linkKey s id) = true)
    (h0 : 0 < (linkAt s (linkKey s id)).inFrame) (h : Completes (16 - (linkAt s (linkKey s id)).inFrame) (linkAt s (linkKey s id))) :
    Turns (linkKey s id) s (.framePad id) fun l' => l'.st = (linkAt s (linkKey s id)).st ∧ l'.inFrame = 0 ∧
      l'.frames = (linkAt s (linkKey s id)).frames + 1 ∧
      l'.buf.length = (linkAt s (linkKey s id)).buf.length + (16 - (linkAt s (linkKey s id)).inFrame) := by
  obtain ⟨n, hn⟩ : ∃ n, 16 - (linkAt s (linkKey s id)).inFrame = n + 1 := by
    have := h.left
    exact ⟨15 - (linkAt s (linkKey s id)).inFrame, by omega⟩
  have hne : ((linkAt s (linkKey s id)).inFrame != 0) = true := bne_iff_ne.2 (Nat.pos_iff_ne_zero.1 h0)
  have e : framePad (linkKey s id) s = padFrame (linkKey s id) (16 - (linkAt s (linkKey s id)).inFrame) s := by
    simp only [framePad, h.enc, hne, Bool.and_self, if_true]
  rw [hn] at h e ⊢
  exact ⟨_, congrArg Host.Outcome.next e, linkAt_padFrame hk n s h, mem_padFrame ..⟩

/-- KEY_SWITCH at a link that owes no marker and takes none by it. -/
theorem exec_keySwitch {s : State} {id : BitVec 32} {l' : Link} (e : keyDue (linkAt s (linkKey s id)) = l') (ho : l'.owesMarks = []) :
    exec (.keySwitch id) s = .next { s with links := KV.set (linkKey s id) l' s.links } := by
  have hm : modLink (linkKey s id) keyDue s = modLink (linkKey s id) (fun _ => l') s := modLink_congr e
  refine congrArg Host.Outcome.next ((congrArg _ hm).trans (sendOwed_of_none ?_))
  rw [linkAt_modLink]
  exact ho

theorem keyDue_at_boundary {l : Link} (h : l.enc = true) (h0 : l.inFrame = 0) : keyDue l = switchKey l := by
  simp only [keyDue, h, h0, Bool.not_true, Bool.false_eq_true, if_false, beq_self_eq_true, if_true]

theorem keyDue_in_frame {l : Link} (h : l.enc = true) (h0 : 0 < l.inFrame) : keyDue l = { l with frames := Nat.max l.frames (2 ^ 28) } := by
  have hne : (l.inFrame == 0) = false := beq_eq_false_iff_ne.2 (Nat.pos_iff_ne_zero.1 h0)
  simp only [keyDue, h, hne, Bool.not_true, Bool.false_eq_true, if_false]

theorem switchKey_loaded {l : Link} (hp : l.keyPh = false) (hn : l.key1 ≠ none) :
    switchKey l = { l with keyPh := true, key0 := none, frames := 0, keyWait := false } := by
  have hs : l.key1.isSome = true := Option.isSome_iff_ne_none.2 hn
  simp only [switchKey, hp, hs, Bool.false_eq_true, if_false, if_true]

theorem switchKey_waits {l : Link} (hp : l.keyPh = false) (hn : l.key1 = none) : switchKey l = { l with keyWait := true } := by
  simp only [switchKey, hp, hn, Option.isSome_none, Bool.false_eq_true, if_false]

section
variable {s : State} {id : BitVec 32} (hc : carries (linkAt s (linkKey s id)) = true) (hk : isRigging (linkKey s id) = false) (u : BitVec 2)
include hc hk

/-- A lane that fails takes a spare. -/
theorem laneFailure_spare (h : 0 < vget 0 (linkAt s (linkKey s id)).spares u.toNat) :
    Turns (linkKey s id) s (.laneFailure id u) fun l' =>
      vget 0 l'.spares u.toNat = vget 0 (linkAt s (linkKey s id)).spares u.toNat - 1 ∧ l'.st = (linkAt s (linkKey s id)).st := by
  obtain ⟨l, hsent, hmem, e⟩ := laneFailure_turns hk hc u.toNat
  rw [← hsent.spares] at h ⊢
  refine ⟨_, rfl, ?_, hmem⟩
  rw [e, if_neg (by simpa using Nat.pos_iff_ne_zero.1 h), laneFail, if_pos h, ← hsent.st]
  exact ⟨vget_vset_same _ _ _ _ u.isLt, rfl⟩

/-- A lane that fails with no spare left halves its module, whose flits on their way are lost. -/
theorem laneFailure_halves (h : vget 0 (linkAt s (linkKey s id)).spares u.toNat = 0) (hst : (linkAt s (linkKey s id)).st = .upFull) :
    Turns (linkKey s id) s (.laneFailure id u) fun l' => l'.st = .upDegraded ∧ l'.half.getLsbD u.toNat = true ∧
      l'.retrain.getLsbD u.toNat = true ∧ ∀ x ∈ l'.flying, x.2 ≠ u.toNat := by
  obtain ⟨l, hsent, hmem, e⟩ := laneFailure_turns hk hc u.toNat
  rw [← hsent.spares] at h
  rw [← hsent.st] at hst
  obtain ⟨_, _, _, el⟩ := laneLost_eq u.toNat (laneFail u.toNat l)
  obtain ⟨h1, h2, h3⟩ := laneFail_halves h hst
  refine ⟨_, rfl, ?_, hmem⟩
  rw [e, if_pos (beq_iff_eq.2 h), el]
  exact ⟨h1, h2, h3, fun x hx => by simpa using (List.mem_filter.1 hx).2⟩

end

/-! ### The obligation -/

/-- Settles O57: every event is taken by the lemma of its family, on the link that its id names. -/
theorem linksCarryFlits : Obligations.LinksCarryFlits := by
  unfold Obligations.LinksCarryFlits
  intro s id k l m set turned bad took again ahead behind
  refine ⟨fun hc hk _ he => ?_, fun f hc hk _ he hq hkind hback => ?_, fun f b hc hk hkind hr hu ho => ?_, fun hc => ?_,
    fun hk hgo henc h0 _ hw hlr hroom hlt hin hfr => ?_, fun henc => ⟨?_, fun h0 ho => ?_, fun h0 hp ho h1 => ?_, fun h0 hp ho h1 => ?_⟩,
    fun u hc hk => ⟨laneFailure_spare hc hk u, laneFailure_halves hc hk u⟩, fun u => ?_, fun hk hst => ?_, ?_⟩
  · -- flits of a splice
    have hm : m = 1024 := if_neg (by simp [hk])
    clear_value m
    subst hm
    exact ⟨fun q hlt hs => ⟨spliceFlit_acksAgain hc hk hlt hs, spliceFlit_asksAgain hc hk hlt hs⟩, spliceFlit_next hc hk he,
      fun hs => ⟨fun r => spliceFlit_passes hc hk he hs, spliceFlit_drops hc hk he hs, fun r b v hr hf hfar hop =>
        spliceFlit_drops_write hc hk he hs hr hf hfar hop⟩⟩
  · -- flits of a rigging port
    have hm : m = 2 ^ 24 := if_pos hk
    clear_value m
    subst hm
    refine ⟨Turns.of_modLink (p := Rejected (2 ^ 24) l) (congrArg Host.Outcome.next (riggingFlit_crcBad hc hk true true))
        (rejected_crcBad (.refl l)),
      fun hb => riggingFlit_notTaken hc hk hkind hback (takeSeq_behind hq hb) ⟨rfl, rfl, rfl, rfl⟩,
      fun hne hb hd => riggingFlit_notTaken hc hk hkind hback (takeSeq_ahead hq hne hb hd) ⟨rfl, rfl, rfl⟩,
      fun hnext henc => ⟨riggingFlit_accepts hc hk hkind hback hnext he henc, fun p hbody hv => ?_⟩,
      fun hnext henc hlast hfails => riggingFlit_tagBad hc hk hkind hback hnext he henc hlast hfails⟩
    let u := modLink k (nextTaken (2 ^ 24)) s
    refine ⟨_, riggingFlit_delivers hc hk hkind hnext he henc hv hbody, deliver_third (s := u), fun hd => ⟨fun hj => ?_, ?_⟩⟩
    · rw [deliver_stray (s := u) hd hj]
      exact ⟨rfl, rfl⟩
    · exact fun c op fe j pa va lands => deliver_request (s := u) hd
  · -- an ACK flit
    obtain ⟨hne, hrig⟩ := reverseOf_port hr
    refine ⟨_, congrArg Host.Outcome.next (riggingFlit_ack hc hk hkind hr (carries_of_isUp hu) ho true true), rfl,
      linkAt_modLink_other hne.symm .., ?_⟩
    rw [linkAt_modLink, acknowledged_buf, seqMod, if_pos hrig]
    rfl
  · -- the acknowledgement interval
    exact congrArg Host.Outcome.next (modLink_congr (g := fun l => ackNow (seqMod k) l) (if_pos hc))
  · -- PAD flits
    exact exec_framePad_completes hk h0 (.of_frame hgo henc hw hlr hroom (lt_of_lt_of_eq hlt (if_pos hk)) hin hfr)
  · -- the next key is due soon
    exact ⟨report (.keySoon id) (modLink k (fun l => { l with frames := 2 ^ 27 }) s), congrArg Host.Outcome.next (if_pos henc),
      rfl, rfl⟩
  · -- the key switch: within a frame, at a boundary with the next key, and without it
    exact exec_keySwitch (keyDue_in_frame henc h0) ho
  · exact exec_keySwitch ((keyDue_at_boundary henc h0).trans (switchKey_loaded hp h1)) ho
  · exact exec_keySwitch ((keyDue_at_boundary henc h0).trans (switchKey_waits hp h1)) ho
  · -- a module has retrained
    refine Turns.of_modLink (p := fun l' => l'.retrain.getLsbD u.toNat = false ∧ l'.half = l.half) rfl ⟨?_, rfl⟩
    simp only [BitVec.getLsbD_and, BitVec.getLsbD_not, ofNat_two_pow_getLsbD, Bool.not_true, Bool.and_false]
  · -- the margin of a port
    exact congrArg Host.Outcome.next (modLink_congr (g := fun l => { l with st := .upDegraded }) (if_pos (by simp [hk, hst, l, k])))
  · -- the host port
    rfl

end Sys2Proof
end

section
/-!
SUPPORT. The hitch wave and its release (11 R172 to R178): what a marker, the debugger's request and the two halves of a release do. These
are the clauses of O58; all hold of every state but the last, of the sender release, which asks that the keys of the map of FEs rise.
-/

namespace Sys2Proof
open Machine

/-! ### The seats that a context lists -/

/-- Where keys rise, what is listed under a key is what the key reads as. -/
theorem KV.get_of_mem {α : Type} {d : α} {m : KV α} (hm : KV.Rising m) {e : Nat × α} (h : e ∈ m) : KV.get d e.1 m = e.2 := by
  induction m with
  | nil => cases h
  | cons x r ih =>
    obtain ⟨hx, hr⟩ := List.pairwise_cons.1 hm
    rcases List.mem_cons.1 h with rfl | h
    · exact if_pos rfl
    · exact (if_neg (Nat.ne_of_lt (hx e h))).trans (ih hr h)

/-- Where the keys of FEs rise, a seat belongs to the context that lists it. -/
theorem seatAt_ctx_of_mem {s : State} {c : Nat} {e : Nat × Nat} (hm : KV.Rising s.fes) (h : e ∈ seatsOf s c) :
    (seatAt s e.1 e.2).ctx = c := by
  obtain ⟨-, f, hf, hc, -⟩ := mem_seatsOf.1 h
  rw [seatAt, feAt, KV.get_of_mem hm hf, hc]

/-! ### The freeze of a seat -/

theorem seatAt_freezeSeat {s : State} {fe k : Nat} (hk : k < 4) (hf : (seatAt s fe k).st ≠ .frozen) :
    seatAt (freezeSeat fe k s) fe k = { seatAt s fe k with st := .frozen, prev := (seatAt s fe k).st } :=
  (seatAt_modSeat _ _ _ _ hk).trans (if_neg (by simpa using hf))

/-- A seat of 11 R173 that freezes where it stands: it waits, or it is between hands. -/
def Standing (t : Seat) : Prop := t.st = .waiting ∨ (t.st = .running ∧ t.hand = none)

theorem Standing.not_frozen {t : Seat} (h : Standing t) : t.st ≠ .frozen := by
  rcases h with h | ⟨h, -⟩ <;> simp [h]

theorem hitchSeat_standing {s : State} {fe k : Nat} (h : Standing (seatAt s fe k)) : hitchSeat fe k s = freezeSeat fe k s := by
  rcases h with h | ⟨h, hh⟩
  · simp only [hitchSeat, h]
  · simp only [hitchSeat, h, hh, Option.isNone_none, if_true]

/-! ### The marker goes over the links -/

/-- Only packets on their way, links, reports and the markers still to be forwarded have changed. -/
def PacketsOnly (s u : State) : Prop :=
  ∃ q l r m, u = { s with reqs := q, links := l, reports := r, hitch := { s.hitch with spread := m } }

theorem PacketsOnly.refl (s : State) : PacketsOnly s s := ⟨_, _, _, _, rfl⟩

theorem PacketsOnly.links {s t u : State} (h : PacketsOnly s t) (hu : LinksOnly t u) : PacketsOnly s u := by
  obtain ⟨q, l, r, m, rfl⟩ := h
  obtain ⟨l', r', rfl⟩ := hu
  exact ⟨q, l', r', m, rfl⟩

theorem PacketsOnly.reqs {s t : State} (h : PacketsOnly s t) (q : List Req) : PacketsOnly s { t with reqs := q } := by
  obtain ⟨-, l, r, m, rfl⟩ := h
  exact ⟨q, l, r, m, rfl⟩

theorem PacketsOnly.crossJob {s t : State} (h : PacketsOnly s t) (job : BitVec 16) : PacketsOnly s (crossJob job t) := by
  refine each_keeps (fun x u hu => ?_) _ h
  dsimp only
  split
  · exact (hu.links (.crossAll ..)).reqs _
  · exact hu

theorem LinksOnly.sendMarker (job : BitVec 16) (k : Nat) (s : State) : LinksOnly s (Machine.sendMarker job k s) := by
  have hs : LinksOnly s (Machine.sendFlit k s) := (LinksOnly.refl s).sendFlit k
  have hp : LinksOnly s (Machine.passFlit k s) := .ite hs (hs.modLink ..)
  exact .ite (.refl s) (.ite ((LinksOnly.ite hp hs).modLink ..) (.ite (.refl s) ((LinksOnly.refl s).modLink ..)))

theorem PacketsOnly.hitchLinks {s t : State} (h : PacketsOnly s t) (job : BitVec 16) : PacketsOnly s (hitchLinks job t) :=
  each_keeps (fun k u hu => hu.links (.sendMarker job k u)) _ (h.crossJob job)

theorem PacketsOnly.spreadMarker (job : BitVec 16) (s : State) : PacketsOnly s (spreadMarker job s) := by
  unfold Machine.spreadMarker
  split
  · exact .refl s
  · exact PacketsOnly.hitchLinks ⟨_, _, _, _, rfl⟩ job

/-! ### A marker reaches the module (11 R172, R173) -/

/-- Where no marker is on its way in the module, that of a job takes none off. -/
theorem takeMarker_of_none {s : State} (job : BitVec 16) (hm : s.hitch.markers = []) :
    { s with hitch := { s.hitch with markers := s.hitch.markers.filter fun m => m.1 != job } } = s := by
  rw [hm, List.filter_nil, ← hm]

/-- A marker of a job that the module does not hold does nothing. -/
theorem exec_hitchMarker_unknown {s : State} {job : BitVec 16} (epoch : BitVec 8) (cause : CauseWords) (hc : ctxsOf s job = [])
    (hm : s.hitch.markers = []) : exec (.hitchMarker job epoch cause) s = .next s := by
  show Host.Outcome.next (marker job epoch cause s) = _
  simp only [marker, takeMarker_of_none job hm, hc, List.isEmpty_nil, if_true]

/-- What a marker of another module makes of the hitch registers, HITCHSTAT.STATE apart. -/
def markedHitch (s : State) (job : BitVec 16) (epoch : BitVec 8) (cause : CauseWords) : HitchState :=
  { s.hitch with
    epoch := epoch, job := job, loc := [], lost := 0, first := cause, frozen := job :: s.hitch.frozen
    spread := s.hitch.spread ++ [(job, epoch, cause)]
    wide := if fld cause.who 55 46 != s.moduleId.toNat && !s.hitch.wide.contains job then job :: s.hitch.wide else s.hitch.wide }

/-- The state that such a marker has marked, before a seat of the job freezes. -/
def marked (s : State) (job : BitVec 16) (epoch : BitVec 8) (cause : CauseWords) : State :=
  stopWindows (ctxsOf s job)
    { s with hitch := { markedHitch s job epoch cause with st := hitchStat (markedHitch s job epoch cause) } }

/-- The first marker of a job whose one seat stands freezes that seat, and then leaves over the links. -/
theorem marker_first {s : State} {job : BitVec 16} {epoch : BitVec 8} {cause : CauseWords} {c fe k : Nat} (hc : ctxsOf s job = [c])
    (hs : seatsOf s c = [(fe, k)]) (hf : job ∉ s.hitch.frozen) (hm : s.hitch.markers = []) (hst : Standing (seatAt s fe k)) :
    marker job epoch cause s = spreadMarker job (freezeSeat fe k (marked s job epoch cause)) := by
  have hf' : s.hitch.frozen.contains job = false := by simpa using hf
  have hs' : seatsOf (marked s job epoch cause) c = [(fe, k)] := hs
  have hseat : hitchSeat fe k (marked s job epoch cause) = freezeSeat fe k (marked s job epoch cause) := hitchSeat_standing hst
  calc marker job epoch cause s
      = spreadMarker job (each (ctxsOf s job) (fun x u => each (seatsOf u x) (fun e => hitchSeat e.1 e.2) u)
          (marked s job epoch cause)) := by
        simp only [marker, takeMarker_of_none job hm]
        simp only [marked, markedHitch, hc, hf', hm, List.any_nil, List.filter_nil, List.isEmpty_cons, Bool.false_eq_true, if_false]
    _ = _ := by simp only [hc, each, List.foldl_cons, List.foldl_nil, hs', hseat]

/-- 11 R173, R176: the seat of the job is FROZEN with its previous state kept, and the hitch registers name the wave. -/
theorem exec_hitchMarker_freezes {s : State} {job : BitVec 16} (epoch : BitVec 8) (cause : CauseWords) {c fe k : Nat}
    (hc : ctxsOf s job = [c]) (hs : seatsOf s c = [(fe, k)]) (hk : k < 4) (hf : job ∉ s.hitch.frozen) (hm : s.hitch.markers = [])
    (hr : s.hitch.rels = []) (hst : Standing (seatAt s fe k)) :
    ∃ t, exec (.hitchMarker job epoch cause) s = .next t ∧ (seatAt t fe k).st = .frozen ∧ (seatAt t fe k).prev = (seatAt s fe k).st ∧
      t.hitch.frozen = job :: s.hitch.frozen ∧ t.hitch.epoch = epoch ∧ t.hitch.first = cause ∧ t.hitch.st = 1 ∧ t.mem = s.mem := by
  refine ⟨_, congrArg Host.Outcome.next (marker_first hc hs hf hm hst), ?_⟩
  obtain ⟨q, l, r, m, e⟩ := PacketsOnly.spreadMarker job (freezeSeat fe k (marked s job epoch cause))
  have hseat := seatAt_freezeSeat (s := marked s job epoch cause) hk hst.not_frozen
  have hstat : hitchStat (markedHitch s job epoch cause) = 1 := by simp [hitchStat, markedHitch, hr]
  rw [e]
  exact ⟨congrArg Seat.st hseat, congrArg Seat.prev hseat, rfl, rfl, rfl, hstat, rfl⟩

/-! ### The debugger's request (11 R170, R176) -/

theorem exec_debuggerHitchRequest_unknown {s : State} {job : BitVec 16} (hc : ctxsOf s job = []) :
    exec (.debuggerHitchRequest job) s = .next s := congrArg Host.Outcome.next (if_pos (by rw [hc]; rfl))

/-- The fields of word 2 of a cause that the debugger raises: CODE, DBG and JOB. -/
theorem causeWho_debugger (s : State) (code epoch : BitVec 8) (job : BitVec 16) :
    (causeWho s code 0 0 true epoch job).extractLsb' 56 8 = code ∧ (causeWho s code 0 0 true epoch job).getLsbD 28 = true ∧
      (causeWho s code 0 0 true epoch job).extractLsb' 0 16 = job := by
  have hm := s.moduleId.isLt
  have hcode := code.isLt
  have he := epoch.isLt
  have hj := job.isLt
  have hv : (causeWho s code 0 0 true epoch job).toNat =
      code.toNat * 2 ^ 56 + s.moduleId.toNat * 2 ^ 46 + 2 ^ 28 + epoch.toNat * 2 ^ 16 + job.toNat := by
    have hdie : feDie 0 = 0 ∧ feCluster 0 = 0 ∧ feNum 0 = 0 := by decide
    simp only [causeWho, hdie, bitAt, w64, BitVec.toNat_ofNat, if_true]
    omega
  refine ⟨BitVec.eq_of_toNat_eq ?_, ?_, BitVec.eq_of_toNat_eq ?_⟩
  · rw [BitVec.extractLsb'_toNat, hv, Nat.shiftRight_eq_div_pow]
    omega
  · rw [BitVec.getLsbD, hv, Nat.testBit_eq_decide_div_mod_eq, decide_eq_true_eq]
    omega
  · rw [BitVec.extractLsb'_toNat, hv, Nat.shiftRight_eq_div_pow]
    omega

/-- The cause that the debugger raises for a job. -/
def debuggerCause (s : State) (job : BitVec 16) : CauseWords :=
  { ptime := w64 s.time, hand := 0, who := causeWho s Code.hitch 0 0 true (s.hitch.epoch + 1) job, valid := true }

/-- The debugger's request for a job of the module that is not frozen starts a wave under the next epoch, whose cause carries code 0x62
and the debugger's mark. -/
theorem exec_debuggerHitchRequest_starts {s : State} {job : BitVec 16} (hc : ctxsOf s job ≠ []) (hf : job ∉ s.hitch.frozen)
    (hm : s.hitch.markers = []) :
    ∃ t c1, exec (.debuggerHitchRequest job) s = .next t ∧ t.hitch.markers = [(job, s.hitch.epoch + 1, c1)] ∧
      t.hitch.epoch = s.hitch.epoch + 1 ∧ c1.valid = true ∧ c1.who.extractLsb' 56 8 = 0x62 ∧ c1.who.getLsbD 28 = true ∧
      c1.who.extractLsb' 0 16 = job ∧ t.fes = s.fes := by
  have hc' : (ctxsOf s job).isEmpty = false := by simpa using hc
  have hf' : s.hitch.frozen.contains job = false := by simpa using hf
  have he : exec (.debuggerHitchRequest job) s = .next (raiseHitch job 0 Code.hitch 0 0 true s) :=
    congrArg Host.Outcome.next (if_neg (by rw [hc']; exact Bool.false_ne_true))
  have hwave : (raiseHitch job 0 Code.hitch 0 0 true s).hitch.markers = [(job, s.hitch.epoch + 1, debuggerCause s job)] ∧
      (raiseHitch job 0 Code.hitch 0 0 true s).hitch.epoch = s.hitch.epoch + 1 := by
    simp only [raiseHitch, hf', hm, List.any_nil, Bool.or_self, Bool.false_eq_true, if_false, List.nil_append, debuggerCause, and_self]
  obtain ⟨hcode, hdbg, hjob⟩ := causeWho_debugger s Code.hitch (s.hitch.epoch + 1) job
  exact ⟨_, debuggerCause s job, he, hwave.1, hwave.2, rfl, hcode, hdbg, hjob, rfl⟩

/-! ### The two halves of a release (11 R178) -/

theorem nextRelease_of_one {s : State} {x : Release} (h : s.hitch.rels = [x]) : nextRelease s x.half = some x := by
  simp [nextRelease, h]

theorem nextRelease_of_none {s : State} {half : Bool} (h : ∀ x ∈ s.hitch.rels, x.half ≠ half) : nextRelease s half = none := by
  have e : s.hitch.rels.filter (·.half == half) = [] := List.filter_eq_nil_iff.2 fun x hx => by simpa using h x hx
  rw [nextRelease, e]
  rfl

/-- Where no operation waits in a window and nothing is held, the first half moves the time and marks the release. -/
theorem exec_receiverRelease {s : State} {x : Release} (h : s.hitch.rels = [x]) (hx : x.half = false) (hp : s.replies = [])
    (hr : s.recs = []) (hm : s.melds = []) :
    exec .receiverRelease s =
      .next { s with time := Nat.max s.time x.time.toNat, hitch := { s.hitch with rels := [{ x with half := true }] } } := by
  have hn := nextRelease_of_one h
  rw [hx] at hn
  have hw (cs : List Nat) : startWindows cs s = s := by rw [startWindows, hm, List.map_nil, ← hm]
  show Host.Outcome.next (receiverRelease s) = _
  simp only [receiverRelease, hn, hw, ite_self, hp, hr, h, List.filter_nil, List.map_cons, List.map_nil, if_true]

theorem exec_receiverRelease_none {s : State} (h : ∀ x ∈ s.hitch.rels, x.half = true) : exec .receiverRelease s = .next s := by
  have hn : nextRelease s false = none := nextRelease_of_none fun x hx => by simp [h x hx]
  show Host.Outcome.next (receiverRelease s) = _
  simp only [receiverRelease, hn]

theorem exec_senderRelease_none {s : State} (h : ∀ x ∈ s.hitch.rels, x.half = false) : exec .senderRelease s = .next s := by
  have hn : nextRelease s true = none := nextRelease_of_none fun x hx => by simp [h x hx]
  show Host.Outcome.next (senderRelease s) = _
  simp only [senderRelease, hn]

/-- A FROZEN seat that ran returns to RUNNING, where its own context is not STOPPED. -/
theorem unfreezeSeat_ran {s : State} {fe k : Nat} (hst : (seatAt s fe k).st = .frozen) (hp : (seatAt s fe k).prev = .running)
    (hs : (seatAt s fe k).stepping = false) (hc : (ctxAt s (seatAt s fe k).ctx).st ≠ .stopped) :
    unfreezeSeat fe k s = modSeat fe k (fun t => { t with st := t.prev }) s := by
  have hc' : ((ctxAt s (seatAt s fe k).ctx).st == .stopped) = false := by simpa using hc
  have hb : (SeatState.running == .belayed) = false := rfl
  simp only [unfreezeSeat, hs, hst, hc', hp, hb, bne_self_eq_false, Bool.false_and, Bool.false_eq_true, if_false]

/-- What the sender release makes of the hitch registers, HITCHSTAT.STATE apart. -/
def thawedHitch (h : HitchState) (x : Release) : HitchState :=
  { h with rels := h.rels.filter (· != x), frozen := h.frozen.filter (· != x.job), spread := h.spread.filter (·.1 != x.job) }

/-- The state once the release is over, before a seat of the job goes on. -/
def thawed (s : State) (x : Release) : State :=
  thawLinks x.job { s with
    time := Nat.max s.time (x.time.toNat + 100)
    hitch := { thawedHitch s.hitch x with st := hitchStat (thawedHitch s.hitch x) } }

/-- The sender release of a RUNNING context with one seat and no pre-emption request pending: that seat goes on as it was. -/
theorem senderRelease_one {s : State} {x : Release} {c fe k : Nat} (hn : nextRelease s true = some x) (hcs : ctxsOf s x.job = [c])
    (hss : seatsOf s c = [(fe, k)]) (hk : k < 4) (hst : (seatAt s fe k).st = .frozen) (hp : (seatAt s fe k).prev = .running)
    (hs : (seatAt s fe k).stepping = false) (hrun : (ctxAt s c).st = .running) (hpend : (ctxAt s c).pend = false)
    (hown : (seatAt s fe k).ctx = c) :
    senderRelease s = modSeat fe k (fun t => { t with st := t.prev }) (thawed s x) := by
  have hss' : seatsOf (thawed s x) c = [(fe, k)] := hss
  have hthaw : unfreezeSeat fe k (thawed s x) = modSeat fe k (fun t => { t with st := t.prev }) (thawed s x) :=
    unfreezeSeat_ran hst hp hs fun h => CtxState.noConfusion (hrun.symm.trans (show (ctxAt s c).st = .stopped from hown ▸ h))
  have hgo : proceedFaulted fe k (modSeat fe k (fun t => { t with st := t.prev }) (thawed s x)) =
      modSeat fe k (fun t => { t with st := t.prev }) (thawed s x) := by
    refine proceedFaulted_of_not_faulted ?_
    rw [seatAt_modSeat _ _ _ _ hk]
    exact fun h => SeatState.noConfusion (hp.symm.trans h)
  have hpend' : (ctxAt (modSeat fe k (fun t => { t with st := t.prev }) (thawed s x)) c).pend = false := hpend
  have hrun' : (ctxAt (modSeat fe k (fun t => { t with st := t.prev }) (thawed s x)) c).st = .running := hrun
  have hne : (CtxState.running == .preempting) = false := rfl
  simp only [senderRelease, hn, hcs]
  change each [c] _ (thawed s x) = _
  simp only [each, List.foldl_cons, List.foldl_nil, hss', hthaw, hpend', hrun', hne, Bool.false_and, Bool.false_eq_true, if_false, hgo]

/-- The second half ends the freeze of a job with one seat, where the keys of the map of FEs rise. -/
theorem exec_senderRelease_thaws {s : State} {job : BitVec 16} {c fe k : Nat} {x : Release} (h : s.hitch.rels = [x])
    (hx : x.half = true) (hj : x.job = job) (hf : s.hitch.frozen = [job]) (hcs : ctxsOf s job = [c]) (hss : seatsOf s c = [(fe, k)])
    (hk : k < 4) (hst : (seatAt s fe k).st = .frozen) (hp : (seatAt s fe k).prev = .running) (hs : (seatAt s fe k).stepping = false)
    (hrun : (ctxAt s c).st = .running) (hpend : (ctxAt s c).pend = false) (hm : KV.Rising s.fes) :
    ∃ t, exec .senderRelease s = .next t ∧ (seatAt t fe k).st = .running ∧ t.hitch.frozen = [] ∧ t.hitch.st = 0 ∧
      t.time = Nat.max s.time (x.time.toNat + 100) ∧ t.mem = s.mem := by
  subst hj
  have hown : (seatAt s fe k).ctx = c := seatAt_ctx_of_mem hm (e := (fe, k)) (hss ▸ List.mem_singleton_self _)
  have hn : nextRelease s true = some x := hx ▸ nextRelease_of_one h
  have hseat : (seatAt (modSeat fe k (fun t => { t with st := t.prev }) (thawed s x)) fe k).st = .running := by
    rw [seatAt_modSeat _ _ _ _ hk]
    exact hp
  have hfrozen : (thawedHitch s.hitch x).frozen = [] := by simp [thawedHitch, hf]
  have hstat : hitchStat (thawedHitch s.hitch x) = 0 := by simp [hitchStat, thawedHitch, h, hf]
  exact ⟨_, congrArg Host.Outcome.next (senderRelease_one hn hcs hss hk hst hp hs hrun hpend hown), hseat, hfrozen, hstat, rfl, rfl⟩

end Sys2Proof
end

section
/-!
SUPPORT. The counterexample to O58: a map of FEs that lists one FE twice.
-/

namespace Sys2Proof
open Machine

/-- A frozen seat of context 2, and a running one of context 1. -/
def strayFrozen : Seat := { st := .frozen, prev := .running, ctx := 2 }
def runningSeat : Seat := { st := .running, ctx := 1 }

/-- A state whose map lists FE 0 twice: `seatAt` reads the first entry, whose seat belongs to context 2, and `seatsOf` finds the
second among those of context 1. Job 7 is frozen and its receivers are released; context 2, of job 9, is STOPPED. -/
def twiceListed : State :=
  { State.reset with
    agenda := []
    fes := [(0, { seats := #v[strayFrozen, {}, {}, {}] }), (0, { seats := #v[runningSeat, {}, {}, {}] })]
    ctxs := [(1, { st := .running, job := 7 }), (2, { st := .stopped, job := 9 })]
    hitch := { st := 2, rels := [{ job := 7, time := 50, half := true }], frozen := [7] } }

/-- The sender release leaves the seat of the STOPPED context frozen (11 R179). -/
theorem senderRelease_twiceListed : (seatAt (senderRelease twiceListed) 0 0).st = .frozen := by decide

/-- Refutes O58: its last clause takes the seat that a context lists for one that belongs to it, which no hypothesis says. Where the map of
FEs lists an FE twice, as no canonical map does, the seat read may be one of a STOPPED context, and stays FROZEN at the sender release.
Where keys rise the clause holds (`exec_senderRelease_thaws`), and so do the other clauses everywhere: `exec_hitchMarker_unknown`,
`exec_hitchMarker_freezes`, `exec_debuggerHitchRequest_unknown`, `exec_debuggerHitchRequest_starts`, `exec_receiverRelease`,
`exec_receiverRelease_none` and `exec_senderRelease_none`. -/
theorem not_hitchFreezesAndReleases : ¬ Obligations.HitchFreezesAndReleases := by
  unfold Obligations.HitchFreezesAndReleases
  intro h
  obtain ⟨-, -, -, -, -, thaws⟩ := h twiceListed 7 0 { ptime := 0, hand := 0, who := 0, valid := false }
  obtain ⟨t, ht, hst, -⟩ := thaws 1 0 0 { job := 7, time := 50, half := true } rfl rfl rfl rfl (by decide) (by decide) (by decide)
    rfl rfl rfl rfl rfl rfl
  have e : senderRelease twiceListed = t := by injection ht
  rw [← e, senderRelease_twiceListed] at hst
  exact SeatState.noConfusion hst

end Sys2Proof
end

section
/-!
SUPPORT. Gather units (13 R200, R201): a unit after an update, its fills, and what it does with one request; a refused request of a
running seat (17 R287).
-/

namespace Sys2Proof
open Machine

/-! ### A gather unit after an update -/

@[simp] theorem guAt_modGu (n : Nat) (g : Gu → Gu) (s : State) : guAt (modGu n g s) n = g (guAt s n) := KV.get_upd_same ..

theorem modGu_modGu (n : Nat) (f g : Gu → Gu) (s : State) : modGu n g (modGu n f s) = modGu n (fun x => g (f x)) s := by
  simp only [modGu, KV.upd_upd]

/-- An update is what it makes of the one unit. -/
theorem modGu_eq {n : Nat} {g : Gu → Gu} {s : State} {x : Gu} (h : g (guAt s n) = x) :
    modGu n g s = { s with gus := KV.set n x s.gus } := by
  subst h
  rfl

theorem modGu_congr {n : Nat} {f g : Gu → Gu} {s : State} (h : f (guAt s n) = g (guAt s n)) : modGu n f s = modGu n g s :=
  modGu_eq h

/-! ### Fills (13 R201) -/

/-- A fill that is alone at its unit, with no request waiting for a row, has its merge window closed. -/
theorem closeEarly_alone {g : Gu} {seg : Nat} {w : Bool} {l : List Req} (hf : g.fills = [(seg, w, l)]) (hr : g.rowWait = []) :
    closeEarly g = { g with fills := [(seg, true, l)] } := by
  simp [closeEarly, hf, hr]

theorem closeEarly_of_no_fills {g : Gu} (hf : g.fills = []) : closeEarly g = g := by
  cases g
  subst hf
  rfl

/-- A window that closes changes neither a fill's segment nor its requests. -/
theorem requests_closeEarly (g : Gu) : (closeEarly g).fills.map (fun f => (f.1, f.2.2)) = g.fills.map fun f => (f.1, f.2.2) := by
  have h : g.fills.map (fun f => (f.1, f.2.2)) = g.fills.zipIdx.map fun x => (x.1.1, x.1.2.2) := by
    have hm := congrArg (List.map fun f => (f.1, f.2.2)) (List.zipIdx_map_fst 0 g.fills)
    rw [List.map_map] at hm
    exact hm.symm
  rw [h, closeEarly, List.map_map]
  rfl

/-- An activation is counted by the tracker alone. -/
theorem activate_hot (key : Nat) (g : Gu) : ∃ h, activate key g = { g with hot := h } := by
  unfold activate
  dsimp only
  split <;> exact ⟨_, rfl⟩

/-- A line that is written is dirty. -/
theorem touchLine_dirty (seg : Nat) (g : Gu) : KV.get false seg (touchLine seg true g).cached = true := by
  simp only [touchLine, KV.get_upd_same, Bool.or_true]

/-! ### One request at its unit (13 R200) -/

section
variable {s : State} {r : Req}

theorem guServe_of_no_fills (h : (guAt s (guOfPa r.pa)).fills = []) : guServe r s = guHit r s := by
  simp only [guServe, guBehind, h, findIdx]

/-- A write that hits changes its line, which is then dirty, and memory. -/
theorem guHit_write {b : Nat} {v : W64} (h : r.op = .write b v) :
    guHit r s = wrPa r.pa b v.toNat (modGu (guOfPa r.pa) (touchLine (segOf r.pa) true) s) := by
  simp only [guHit, guPerform, isWrite, h]

theorem guHit_read {b off : Nat} {z : Bool} (h : r.op = .read b z) (hl : r.land = some off) : guHit r s =
    sendReply r (.land (valueWords b (rdPa s r.pa b) z)) (modGu (guOfPa r.pa) (touchLine (segOf r.pa) false) s) := by
  simp only [guHit, guPerform, isWrite, h, hl]
  rfl

theorem guTake_hit (hc : keyOf r.pa ∉ (guAt s (guOfPa r.pa)).copying) (hf : (guAt s (guOfPa r.pa)).fills = [])
    (hm : KV.find (segOf r.pa) (guAt s (guOfPa r.pa)).cached ≠ none) : guTake r s = guHit r s := by
  have hline : (KV.find (segOf r.pa) (guAt s (guOfPa r.pa)).cached).isSome = true := Option.isSome_iff_ne_none.2 hm
  simp [guTake, hc, hf, hline, guServe_of_no_fills hf]

/-- A fill is begun for the request. -/
def fillBegun (r : Req) (g : Gu) : Gu := closeEarly (activate (keyOf r.pa) { g with fills := g.fills ++ [(segOf r.pa, false, [r])] })

theorem guTake_miss (hc : keyOf r.pa ∉ (guAt s (guOfPa r.pa)).copying) (hf : (guAt s (guOfPa r.pa)).fills = [])
    (hm : KV.find (segOf r.pa) (guAt s (guOfPa r.pa)).cached = none) : guTake r s = modGu (guOfPa r.pa) (fillBegun r) s := by
  simp only [guTake, List.contains_eq_mem, hc, hf, hm, findIdx, decide_false, Option.isSome_none, Bool.false_and, Bool.false_eq_true,
    if_false]
  rfl

theorem requests_fillBegun {g : Gu} (hf : g.fills = []) : (fillBegun r g).fills.map (fun f => (f.1, f.2.2)) = [(segOf r.pa, [r])] := by
  obtain ⟨h, e⟩ := activate_hot (keyOf r.pa) { g with fills := g.fills ++ [(segOf r.pa, false, [r])] }
  rw [fillBegun, requests_closeEarly, e, hf]
  rfl

theorem fills_fillBegun {g : Gu} (hf : g.fills = []) (hr : g.rowWait = []) : (fillBegun r g).fills = [(segOf r.pa, true, [r])] := by
  obtain ⟨h, e⟩ := activate_hot (keyOf r.pa) { g with fills := g.fills ++ [(segOf r.pa, false, [r])] }
  rw [fillBegun, e, closeEarly_alone (g := { g with fills := g.fills ++ [(segOf r.pa, false, [r])], hot := h }) (by rw [hf]; rfl) hr]

/-- Neither the rows being copied change nor the requests that wait for them. -/
theorem fillBegun_frame (g : Gu) : (fillBegun r g).copying = g.copying ∧ (fillBegun r g).rowWait = g.rowWait := by
  obtain ⟨h, e⟩ := activate_hot (keyOf r.pa) { g with fills := g.fills ++ [(segOf r.pa, false, [r])] }
  rw [fillBegun, e]
  exact ⟨rfl, rfl⟩

end

/-- Memory after a write at a home. -/
theorem wrote_wrPa {s t : State} (h : t.mem = s.mem) (pa n v : Nat) : Wrote s (wrPa pa n v t) (paKey pa) n v := fun x => by
  rw [← h]
  exact memByte_wrBytes ..

/-! ### A refused request of a running seat (17 R287) -/

/-- A seat once a request of its own has been refused: the fault is kept for its next hand boundary. -/
def refusedSeat (r : Req) (code : BitVec 8) (t : Seat) : Seat :=
  { t with splits := t.splits.filter (· != r.id), deferred := t.deferred ++ [refusalOf r code] }

section
variable {s : State} {r : Req}

theorem failReq_refuses (hasks : asksNothing r = false) (hf : r.far = none) (hspill : isSpillRead s r = false) (code : BitVec 8) :
    failReq r code s = refuseReq r code s := by
  simp only [failReq, hasks, hf, hspill, Option.isSome_none, Bool.false_eq_true, if_false]

variable (hst : (seatAt s r.fe r.seat).st = .running) (hctx : (seatAt s r.fe r.seat).ctx = r.ctx)
include hst hctx

theorem deferFault_running (f : FaultRec) (casc : Bool) : deferFault r.fe r.seat r.ctx f casc s =
    modSeat r.fe r.seat (fun t => { t with deferred := t.deferred ++ [{ flt := { f with slot := 0 }, casc := casc }] }) s := by
  simp [deferFault, hst, hctx]

variable (hk : r.seat < 4)
include hk

theorem refuseReq_running {code : BitVec 8} (hc : code ≠ Code.memoryUncorrectable) :
    refuseReq r code s = modSeat r.fe r.seat (refusedSeat r code) s := by
  have hcode : (code != Code.memoryUncorrectable) = true := bne_iff_ne.2 hc
  have e := seatAt_modSeat r.fe r.seat (fun t => { t with splits := t.splits.filter (· != r.id) }) s hk
  simp only [refuseReq, hcode, if_true]
  rw [deferFault_running (by rw [e]; exact hst) (by rw [e]; exact hctx), modSeat_modSeat _ _ _ _ _ hk]
  rfl

/-- An uncorrectable error is reported as well, and stops the context (13 R205). -/
theorem refuseReq_uncorrectable : refuseReq r Code.memoryUncorrectable s = stopCtx r.ctx
    (report (.fault r.ctx Code.memoryUncorrectable) (modSeat r.fe r.seat (refusedSeat r Code.memoryUncorrectable) s)) := by
  have e := seatAt_modSeat r.fe r.seat (fun t => { t with splits := t.splits.filter (· != r.id) }) s hk
  have hlive : ((seatAt s r.fe r.seat).st == .retired || (seatAt s r.fe r.seat).st == .free ||
      (seatAt s r.fe r.seat).ctx != r.ctx) = false := by
    rw [hst, hctx, bne_self_eq_false]
    rfl
  simp only [refuseReq, bne_self_eq_false, hlive, Bool.false_eq_true, if_false]
  rw [deferFault_running (by rw [e]; exact hst) (by rw [e]; exact hctx), modSeat_modSeat _ _ _ _ _ hk]
  rfl

end

end Sys2Proof
end

section
/-!
SUPPORT. Requests at their gather unit and requests of other modules (13 R200, R201, 26 R397, 10 R166, R406), and the statement about
them.
-/

namespace Sys2Proof
open Machine

/-! ### A request reaches its gather unit -/

section
variable {s : State} {n : Nat} {r : Req}

/-- A request that is neither a pile operation nor one that waits or holds meets its gather unit next. -/
theorem reqEvent_gu (ho : ownModule s r.pa = true) (hc : paClass r.pa = 0)
    (hop : (∃ b v, r.op = .write b v) ∨ ∃ b z, r.op = .read b z) : reqEvent s r = .gu := by
  rcases hop with ⟨b, v, e⟩ | ⟨b, z, e⟩ <;> simp [reqEvent, ho, meldLeft, e, hc]

/-- Over no link, a request in flight comes to its gather unit. -/
theorem exec_guRequest (h : InFlight s n r) (ho : ownModule s r.pa = true) (hc : paClass r.pa = 0) (hr : reqRoute s r = [])
    (hop : (∃ b v, r.op = .write b v) ∨ ∃ b z, r.op = .read b z) :
    exec (.guRequest n) s = .next (guAccept r (reqTaken n s)) := by
  have he := reqEvent_gu ho hc hop
  have hready : reqReady s r = true := by
    simp [reqReady, h.free, h.next, nextRoute_of_no_meld he fun _ => ReqEvent.noConfusion, hr, takesReq, routeClear]
  have hroute : reqRoute (reqTaken n s) r = [] := hr
  have hgo := reqGo_ready (ok := (· == .gu)) h.flight he rfl hready
  refine congrArg Host.Outcome.next (hgo.trans ?_)
  simp [reqStep, travel, hroute, routeDead, each, homeArrive, h.here, hc]

/-- An open channel that nobody waits for takes the request at once. -/
theorem guAccept_opened (ho : (trainAt s (chanOfPa r.pa)).opened = true) (hc : (trainAt s (chanOfPa r.pa)).closing = false)
    (ha : (trainAt s (chanOfPa r.pa)).accepted = []) : guAccept r s = guTake r s := by
  simp [guAccept, ho, hc, ha]

theorem guAccept_closed (h : (trainAt s (chanOfPa r.pa)).opened = false) :
    guAccept r s = modTrain (chanOfPa r.pa) (fun t => { t with waiting := t.waiting ++ [r] }) s := by
  simp [guAccept, h]

end

/-- The word of a read of four bytes. -/
theorem valueWords_four (v : Nat) (z : Bool) : valueWords 4 v z = [BitVec.ofNat 32 v] := by
  have h : w32 (extend v 32 32 z) = BitVec.ofNat 32 v := BitVec.eq_of_toNat_eq (by
    simp only [w32, BitVec.toNat_ofNat, extend]
    split <;> omega)
  simpa [valueWords] using h

/-! ### A request leaves the module (10 R406) -/

/-- The state with other requests in flight. -/
def withReqs (q : List Req) (s : State) : State := { s with reqs := q }

/-- What a link does with a packet depends on no request in flight. -/
theorem frameSent_withReqs (k : Nat) (q : List Req) (s : State) : frameSent k (withReqs q s) = withReqs q (frameSent k s) := by
  rw [frameSent, frameSent, apply_ite (withReqs q), apply_ite (withReqs q)]
  rfl

theorem sendFlit_withReqs (k : Nat) (q : List Req) (s : State) : sendFlit k (withReqs q s) = withReqs q (sendFlit k s) := by
  rw [sendFlit, sendFlit, apply_ite (withReqs q), apply_ite (withReqs q), ← frameSent_withReqs]
  rfl

theorem crossLink_withReqs (c k : Nat) (q : List Req) (s : State) :
    crossLink c k (withReqs q s) = withReqs q (crossLink c k s) := by
  have hpass : passFlit k (withReqs q s) = withReqs q (passFlit k s) := by
    rw [passFlit, passFlit, apply_ite (withReqs q), sendFlit_withReqs]
    rfl
  rw [crossLink, crossLink, hpass, noteJob, noteJob, apply_ite (withReqs q)]
  rfl

theorem crossAll_withReqs (c : Nat) (l : List Nat) (q : List Req) (s : State) :
    each l (crossLink c) (withReqs q s) = withReqs q (each l (crossLink c) s) := by
  induction l generalizing s with
  | nil => rfl
  | cons k l ih => exact (congrArg (each l (crossLink c)) (crossLink_withReqs c k q s)).trans (ih _)

section
variable {s t : State} {n : Nat} {r : Req}

/-- What another module refuses does not depend on this one. -/
theorem paBad_elsewhere {pa : Nat} (hs : ownModule s pa = false) (ht : ownModule t pa = false) : paBad t pa = paBad s pa := by
  simp only [paBad, hs, ht]
  rfl

theorem LinksOnly.ownModule (h : LinksOnly s t) (pa : Nat) : ownModule t pa = ownModule s pa := by
  obtain ⟨l, x, rfl⟩ := h
  rfl

theorem reqEvent_far (ho : ownModule s r.pa = false) : reqEvent s r = .rigging := by simp only [reqEvent, ho, Bool.not_false, if_true]

/-- A request in flight to another module goes to its port. -/
theorem exec_riggingRoute (h : InFlight s n r) (ho : ownModule s r.pa = false) (hready : reqReady s r = true) :
    exec (.riggingRoute n) s = .next (farRequest r (reqTaken n s)) :=
  congrArg Host.Outcome.next (reqGo_ready (ok := (· == .rigging)) h.flight (reqEvent_far ho) rfl hready)

/-- Links that take it make a request ready. -/
theorem reqReady_far (h : InFlight s n r) (ho : ownModule s r.pa = false) (ht : takesReq s r (reqRoute s r) = true) :
    reqReady s r = true := by
  simp [reqReady, h.free, h.next, nextRoute_of_no_meld (reqEvent_far ho) fun _ => ReqEvent.noConfusion, ht]

/-- Over links that carry it, a request that is no pile operation is answered and acknowledged. -/
theorem farRequest_goes {p : Nat} (hfar : r.far = none) (hpile : farRequest.isPile r = false)
    (hp : routePort s (paModule r.pa) = some p) (hb : paBad s r.pa = false) (ho : ownModule s r.pa = false)
    (hd : (linkAt s (riggingKey p)).st ≠ .down) (hf : (linkAt s (riggingKey p)).st ≠ .failed)
    (hl : routeDead s (reqRoute s r) = false) :
    farRequest r s = farAck r (farAnswer r (each (reqRoute s r) (crossLink r.ctx) s)) := by
  have ho' := ((LinksOnly.crossAll r.ctx (reqRoute s r) s).ownModule r.pa).trans ho
  have hb' : paBad (each (reqRoute s r) (crossLink r.ctx) s) r.pa = false := (paBad_elsewhere ho ho').trans hb
  have hlive : ((linkAt s (riggingKey p)).st == .down || (linkAt s (riggingKey p)).st == .failed) = false := by simp [hd, hf]
  simp only [farRequest, hfar, hpile, hp, hlive, travel, hl, hb', Option.isSome_none, Bool.false_eq_true, if_false]

theorem farRequest_pile {op : PileOp} (hfar : r.far = none) (hop : r.op = .pile op) : farRequest r s = pileAnswer r 0 pileBad s := by
  simp [farRequest, farRequest.isPile, hfar, hop]

/-- A packet for a module that no entry names is reported and fails. -/
theorem farRequest_unrouted (hfar : r.far = none) (hpile : farRequest.isPile r = false)
    (hp : routePort s (paModule r.pa) = none) : farRequest r s = failReq r Code.linkTimeout (report (.discarded r.ctx r.pa) s) := by
  simp only [farRequest, hfar, hpile, hp, Option.isSome_none, Bool.false_eq_true, if_false]

/-- With no entry for its module a request has no link before it. -/
theorem reqRoute_unrouted (ho : ownModule s r.pa = false) (hp : routePort s (paModule r.pa) = none) : reqRoute s r = [] := by
  simp [reqRoute, reqWay, homeRoute, ho, hp]

/-- LINK_TIMEOUT of a request in flight (10 R166). -/
theorem exec_linkTimeout (hr : s.reqs[n]? = some r) (hz : recvFrozen s r.ctx = false) : exec (.linkTimeout n) s =
    .next (failReq r Code.linkTimeout (takeBack r { s with replies := s.replies.filter fun x => !isReq r x.req })) := by
  have ha : (awaiting s)[n]? = some r := by
    obtain ⟨hn, -⟩ := List.getElem?_eq_some_iff.1 hr
    simp only [awaiting, unperformed, List.append_assoc, List.getElem?_append_left hn, hr]
  refine congrArg Host.Outcome.next ?_
  simp only [linkTimeout, ha, hz, Bool.false_eq_true, if_false]

/-- A write is acknowledged (12 R189), and a read is answered with what its home holds. -/
theorem farAnswer_write {b : Nat} {v : W64} (hop : r.op = .write b v) (hl : r.land = none) :
    farAck r (farAnswer r s) = sendReply r .ack s := by
  simp [farAck, farAnswer, hop, hl, isWriteOp]

theorem farAnswer_read {b off : Nat} {z : Bool} (hop : r.op = .read b z) (hl : r.land = some off) :
    ∃ ws, farAck r (farAnswer r s) = sendReply r (.land ws) { s with fresh := s.fresh + 1 } := by
  simp only [farAck, farAnswer, hop, hl, isWriteOp, Bool.false_and, Bool.false_eq_true, if_false]
  exact ⟨_, rfl⟩

theorem isSpillRead_congr (h : seatAt t r.fe r.seat = seatAt s r.fe r.seat) : isSpillRead t r = isSpillRead s r := by
  unfold isSpillRead
  rw [h]

/-- A request that asks for something, of a seat that runs and does not stall on it, fails at that seat. -/
theorem failReq_linkTimeout (hseat : seatAt t r.fe r.seat = seatAt s r.fe r.seat) (hfar : r.far = none) (hasks : asksNothing r = false)
    (hspill : isSpillRead s r = false) (hst : (seatAt s r.fe r.seat).st = .running) (hctx : (seatAt s r.fe r.seat).ctx = r.ctx)
    (hk : r.seat < 4) : failReq r Code.linkTimeout t = modSeat r.fe r.seat (refusedSeat r Code.linkTimeout) t ∧
      (seatAt (modSeat r.fe r.seat (refusedSeat r Code.linkTimeout) t) r.fe r.seat).deferred =
        (seatAt s r.fe r.seat).deferred ++ [refusalOf r Code.linkTimeout] := by
  rw [failReq_refuses hasks hfar ((isSpillRead_congr hseat).trans hspill),
    refuseReq_running (by rwa [hseat]) (by rwa [hseat]) hk (by decide), seatAt_modSeat _ _ _ _ hk, hseat]
  exact ⟨rfl, rfl⟩

end

/-! ### The obligation -/

/-- Settles O39: at its gather unit a request comes to its channel, which keeps it or lets the unit take it; one of another module
crosses its links, which no other request has a part in, and is answered; and one that no link takes fails at its seat. -/
theorem gatherUnitRequests : Obligations.GatherUnitRequests := by
  unfold Obligations.GatherUnitRequests
  intro s n r h out ch tr g
  refine ⟨fun ho hc hr => ⟨fun b v hop => ?_, fun b z off hop hl _ hopen hclosing hacc hcopy hfills hm => ?_⟩,
    fun ho => ⟨fun p hp hb hd hf hdead ht => ?_, fun v off hop hl hready => ?_,
      fun hp hpile hasks hspill hst hctx hk => ⟨?_, fun hz => ?_⟩⟩⟩
  · -- a write at its gather unit
    have hgo := exec_guRequest h ho hc hr (.inl ⟨b, v, hop⟩)
    refine ⟨fun hclosed => hgo.trans (congrArg Host.Outcome.next (guAccept_closed (s := reqTaken n s) hclosed)),
      fun hopen hclosing hacc hcopy hfills => ?_⟩
    rw [guAccept_opened (s := reqTaken n s) hopen hclosing hacc] at hgo
    have hcopy' : keyOf r.pa ∉ g.copying := hcopy ▸ List.not_mem_nil
    refine ⟨fun hm => ?_, fun hm hrow => ?_⟩
    · rw [guTake_hit (s := reqTaken n s) hcopy' hfills hm, guHit_write hop] at hgo
      refine ⟨_, hgo, wrote_wrPa (s := s) rfl r.pa b v.toNat, rfl, ?_⟩
      exact (congrArg (fun x : Gu => KV.get false (segOf r.pa) x.cached) (guAt_modGu ..)).trans (touchLine_dirty ..)
    · rw [guTake_miss (s := reqTaken n s) hcopy' hfills hm] at hgo
      exact ⟨_, hgo, rfl, (congrArg Gu.fills (guAt_modGu ..)).trans (fills_fillBegun hfills hrow)⟩
  · -- a read that hits
    have hcopy' : keyOf r.pa ∉ g.copying := hcopy ▸ List.not_mem_nil
    have hgo := exec_guRequest h ho hc hr (.inr ⟨b, z, hop⟩)
    rw [guAccept_opened (s := reqTaken n s) hopen hclosing hacc,
      guTake_hit (s := reqTaken n s) hcopy' hfills hm, guHit_read hop hl] at hgo
    refine ⟨_, _, hgo, rfl, rfl, ?_⟩
    rintro rfl
    exact valueWords_four ..
  · -- a packet that goes over its links
    intro there sent
    have hl : LinksOnly s there := .crossAll r.ctx _ s
    have hmem : there.mem = s.mem := by
      obtain ⟨l, x, e⟩ := hl
      rw [e]
    have hgo (hpile : farRequest.isPile r = false) : exec (.riggingRoute n) s =
        .next (farAck r (farAnswer r (withReqs (removeAt n s.reqs) there))) := by
      rw [exec_riggingRoute h ho (reqReady_far h ho ht),
        farRequest_goes (s := reqTaken n s) h.here hpile hp ((paBad_elsewhere (t := reqTaken n s) ho ho).trans hb) ho hd hf hdead]
      exact congrArg (fun u => Host.Outcome.next (farAck r (farAnswer r u))) (crossAll_withReqs r.ctx (reqRoute s r) _ s)
    refine ⟨fun b v hop hland => ?_, fun b z off hop hland => ?_⟩
    · have hex := hgo (by simp only [farRequest.isPile, hop])
      rw [farAnswer_write hop hland] at hex
      exact ⟨_, hex, rfl, congrArg (· ++ [replyTo r .ack]) hl.replies, hmem, rfl, rfl⟩
    · have hex := hgo (by simp only [farRequest.isPile, hop])
      obtain ⟨ws, e⟩ := farAnswer_read (s := withReqs (removeAt n s.reqs) there) hop hland
      rw [e] at hex
      exact ⟨_, ws, hex, rfl, congrArg (· ++ [replyTo r (.land ws)]) hl.replies, hmem, rfl, rfl⟩
  · -- a pile operation
    rw [exec_riggingRoute h ho hready, farRequest_pile h.here hop]
    simp only [pileAnswer, hop, landReply, hl]
    rfl
  · -- a packet for a module that no entry names
    have hroute := reqRoute_unrouted ho hp
    have hready : reqReady s r = true := reqReady_far h ho (by simp [hroute, takesReq, routeClear])
    have hnot : farRequest.isPile r = false := by
      unfold farRequest.isPile
      split
      · exact absurd ‹_› (hpile _)
      · rfl
    let u := report (.discarded r.ctx r.pa) (reqTaken n s)
    obtain ⟨e, hdef⟩ := failReq_linkTimeout (t := u) (s := s) rfl h.here hasks hspill hst hctx hk
    have hex := exec_riggingRoute h ho hready
    rw [farRequest_unrouted (s := reqTaken n s) h.here hnot hp, e] at hex
    exact ⟨_, hex, ⟨rfl, hdef⟩, rfl⟩
  · -- a request whose time runs out
    let u : State := { s with replies := s.replies.filter fun x => !isReq r x.req }
    obtain ⟨e, hdef⟩ := failReq_linkTimeout (t := takeBack r u) (s := s) (seatAt_takeBack r u ..) h.here hasks hspill hst hctx hk
    have hex := exec_linkTimeout h.flight hz
    rw [e] at hex
    exact ⟨_, hex, ⟨(reports_takeBack r u).trans (List.append_nil _).symm, hdef⟩, reqs_takeBack r u⟩

end Sys2Proof
end

section
/-!
SUPPORT. The ends of fills, row swaps and refresh at a gather unit (13 R201, R205, R206, R208, R209), and the statement about them.
-/

namespace Sys2Proof
open Machine

/-! ### Channels at which nothing waits for its turn -/

/-- No channel has requests that came to it before it opened (26 R397). -/
def Quiet (s : State) : Prop := ∀ e ∈ s.trains, e.2.accepted = []

/-- A gather unit then has nothing to take up when a fill or a copy ends. -/
theorem serveGu_of_quiet {s : State} (h : Quiet s) (n : Nat) : serveGu n s = s :=
  each_id fun e he => by rw [h e (List.mem_filter.1 he).1]; rfl

/-! ### What the stop of a context leaves alone (04 R54, R73) -/

/-- `t` differs from `s` neither in memory and the reports nor in the faults that seats still have to take, the states of
contexts and the lines that gather units hold; and a unit without fills, or channels with nobody in turn, stay so. -/
structure Settled (s t : State) : Prop where
  mem : t.mem = s.mem := by rfl
  reports : t.reports = s.reports := by rfl
  deferred : ∀ fe k, (seatAt t fe k).deferred = (seatAt s fe k).deferred := by exact fun _ _ => rfl
  state : ∀ c, (ctxAt t c).st = (ctxAt s c).st := by exact fun _ => rfl
  cached : ∀ n, (guAt t n).cached = (guAt s n).cached := by exact fun _ => rfl
  fills : ∀ n, (guAt s n).fills = [] → (guAt t n).fills = [] := by exact fun _ h => h
  quiet : Quiet s → Quiet t := by exact fun h => h

theorem Settled.trans {s t u : State} (h : Settled s t) (h' : Settled t u) : Settled s u where
  mem := h'.mem.trans h.mem
  reports := h'.reports.trans h.reports
  deferred fe k := (h'.deferred fe k).trans (h.deferred fe k)
  state c := (h'.state c).trans (h.state c)
  cached n := (h'.cached n).trans (h.cached n)
  fills n hn := h'.fills n (h.fills n hn)
  quiet hq := h'.quiet (h.quiet hq)

/-- An update of one seat that keeps its deferred faults keeps every seat's. -/
theorem deferred_modSeat {g : Seat → Seat} (hg : ∀ t, (g t).deferred = t.deferred) (fe k : Nat) (s : State) (e j : Nat) :
    (seatAt (modSeat fe k g s) e j).deferred = (seatAt s e j).deferred := by
  by_cases he : e = fe
  · subst he
    by_cases hj : j = k
    · subst hj
      by_cases h4 : j < 4
      · rw [seatAt_modSeat _ _ _ _ h4, hg]
      · have hout : ∀ v : Vector Seat 4, vget {} v j = ({} : Seat) := fun v => by simp [vget, Nat.le_of_not_lt h4]
        simp only [seatAt, seatOf, hout]
    · rw [seatAt_modSeat_seat _ _ _ _ _ hj]
  · rw [seatAt_modSeat_fe _ _ _ _ _ _ he]

section
variable {s t : State}

theorem Settled.modSeat (h : Settled s t) (fe k : Nat) {g : Seat → Seat} (hg : ∀ x, (g x).deferred = x.deferred) :
    Settled s (modSeat fe k g t) :=
  h.trans { deferred := deferred_modSeat hg fe k t }

theorem Settled.modFe (h : Settled s t) (fe : Nat) {g : FE → FE} (hg : ∀ f, (g f).seats = f.seats) : Settled s (modFe fe g t) :=
  h.trans { deferred := fun e k => congrArg Seat.deferred (seatAt_modFe_of_seats hg fe e k t) }

theorem Settled.grantSeat (h : Settled s t) (fe k : Nat) (v : W64) (st : Nat) : Settled s (grantSeat fe k v st t) :=
  h.modSeat _ _ fun _ => rfl

theorem Settled.sendReply (h : Settled s t) (r : Req) (b : ReplyBody) : Settled s (sendReply r b t) := h.trans {}

theorem Settled.sendNew (h : Settled s t) (r : Req) : Settled s (sendNew r t) := h.trans {}

/-- Bank service wakes seats and answers requests (08 R130). -/
theorem Settled.serveOne (h : Settled s t) (fe pa : Nat) (w : Waiter) : Settled s (serveOne fe pa w t).1 := by
  cases w with
  | bar _ _ _ => exact h
  | ldf k _ =>
    unfold Machine.serveOne
    dsimp only
    split
    · exact h.grantSeat ..
    · exact h
  | ldx k _ | stf k _ =>
    unfold Machine.serveOne
    dsimp only
    split
    · exact (h.grantSeat ..).modFe _ fun _ => rfl
    · exact h
  | remote r =>
    unfold Machine.serveOne
    dsimp only
    split
    · split
      · exact h.sendReply ..
      · exact h
    · split
      · exact (h.sendReply ..).modFe _ fun _ => rfl
      · exact h
    · split
      · exact (h.sendReply ..).modFe _ fun _ => rfl
      · exact h
    · exact h

theorem Settled.serveList (h : Settled s t) (fe pa : Nat) (l : List Waiter) : Settled s (serveList fe pa l t).1 := by
  induction l generalizing t with
  | nil => exact h
  | cons w l ih =>
    unfold Machine.serveList
    split
    · exact ih (h.serveOne fe pa w)
    · exact ih h

theorem Settled.dropHold (h : Settled s t) (home pa fe k : Nat) : Settled s (dropHold home pa fe k t) := by
  unfold Machine.dropHold
  extract_lets key t1
  have h1 : Settled s t1 := h.modFe home fun _ => rfl
  exact (h1.serveList home key _).modFe home fun _ => rfl

/-- A gather unit in which request `r` neither stands nor is parked. -/
def withoutReqGu (r : Req) (g : Gu) : Gu := { g with
  parked := g.parked.filter fun x => !isReq r x, rowWait := g.rowWait.filter fun x => !isReq r x
  fills := g.fills.map fun f => (f.1, f.2.1, f.2.2.filter fun x => !isReq r x) }

theorem guAt_takeBack (r : Req) (s : State) (n : Nat) : guAt (takeBack r s) n = withoutReqGu r (guAt s n) := by
  have hx := KV.get_map_at ({} : Gu) n (withoutReqGu r) rfl s.gus
  unfold takeBack
  extract_lets out s1
  split <;> exact hx

theorem accepted_takeBack {r : Req} {s : State} {e : Nat × Train} (he : e ∈ (takeBack r s).trains) :
    ∃ x ∈ s.trains, e.2.accepted = x.2.accepted.filter fun y => !isReq r y := by
  have hm : e ∈ s.trains.map fun x => (x.1, { x.2 with
      waiting := x.2.waiting.filter fun y => !isReq r y, accepted := x.2.accepted.filter fun y => !isReq r y }) := by
    unfold takeBack at he
    extract_lets out s1 at he
    split at he <;> exact he
  obtain ⟨x, hx, rfl⟩ := List.mem_map.1 hm
  exact ⟨x, hx, rfl⟩

theorem Settled.takeBack (h : Settled s t) (r : Req) : Settled s (takeBack r t) := h.trans {
  mem := mem_takeBack r t
  reports := reports_takeBack r t
  deferred := fun fe k => congrArg Seat.deferred (seatAt_takeBack r t fe k)
  state := fun c => (congrArg Ctx.st (ctxAt_takeBack r t c)).trans rfl
  cached := fun n => (congrArg Gu.cached (guAt_takeBack r t n)).trans rfl
  fills := fun n hn => by rw [guAt_takeBack, withoutReqGu, hn]; rfl
  quiet := fun hq e he => by
    obtain ⟨x, hx, hacc⟩ := accepted_takeBack he
    rw [hacc, hq x hx]
    rfl }

theorem Settled.withdraw (h : Settled s t) (r : Req) (granted : Option (W64 × Nat)) : Settled s (withdraw r granted t) := by
  have h1 := Settled.takeBack (t := { t with replies := t.replies.filter fun x => !isReq r x.req }) (h.trans {}) r
  unfold Machine.withdraw
  dsimp only
  generalize Machine.takeBack r { t with replies := t.replies.filter (fun x => !isReq r x.req) } = u at h1 ⊢
  repeat' split
  all_goals exact h1.trans {}

theorem Settled.abandon (h : Settled s t) (fe k : Nat) : Settled s (abandon fe k t) := by
  unfold Machine.abandon
  split
  · exact h
  · next hand _ =>
    extract_lets t1 t2 t3 t4 ends
    have h1 : Settled s t1 := h.modSeat fe k fun _ => rfl
    have h2 : Settled s t2 := h1.modFe fe fun _ => rfl
    have h3 : Settled s t3 := by
      refine each_keeps (fun x u hu => ?_) hand.holds h2
      split
      · split
        · exact hu.sendNew ..
        · exact hu.dropHold ..
      · exact hu
    have h4 : Settled s t4 := each_keeps (P := Settled s) (fun _ _ hu => hu.sendNew ..) hand.popws h3
    split
    · exact h4.withdraw ..
    · exact each_keeps (fun x u hu => hu.dropHold ..) _ h4

theorem Settled.freezeSeat (h : Settled s t) (fe k : Nat) : Settled s (freezeSeat fe k t) :=
  h.modSeat fe k fun x => by split <;> rfl

theorem Settled.stopWaiting (h : Settled s t) (fe k : Nat) : Settled s (stopWaiting fe k t) := by
  have h1 : Settled s (Machine.modSeat fe k (fun x => { x with st := .running }) (Machine.abandon fe k t)) :=
    (h.abandon fe k).modSeat fe k fun _ => rfl
  exact h1.freezeSeat fe k

/-- A RUNNING context is STOPPED and reported, and its seats settle. -/
theorem stopCtx_running {c : Nat} (h : (ctxAt s c).st = .running) :
    Settled (report (.contextStopped c) (modCtx c (fun x => { x with st := .stopped }) s)) (stopCtx c s) := by
  simp only [stopCtx, h]
  refine each_keeps (fun e u hu => ?_) _ {}
  split
  · exact hu.stopWaiting ..
  · exact hu

/-- A PREEMPTING one is stopped after its save. -/
theorem stopCtx_preempting {c : Nat} (h : (ctxAt s c).st = .preempting) :
    stopCtx c s = modCtx c (fun x => { x with stopAfter := true }) s := by
  simp only [stopCtx, h]

end

/-! ### The end of a fill (13 R201, R205) -/

/-- A unit whose one fill has ended; a corrected error is counted. -/
def fillEnded (ecc : EccResult) (g : Gu) : Gu :=
  { g with fills := [], corrected := g.corrected + if ecc = .corrected then 1 else 0 }

section
variable {s : State} {n seg : Nat} {w : Bool} {rs : List Req} (hf : (guAt s n).fills = [(seg, w, rs)])
include hf

theorem modGu_fillEnded (ecc : EccResult) : modGu n (fun g => closeEarly (if ecc == .corrected then
    { { g with fills := removeAt 0 g.fills } with corrected := g.corrected + 1 } else { g with fills := removeAt 0 g.fills })) s =
      modGu n (fillEnded ecc) s := by
  refine modGu_congr ?_
  cases ecc <;> simp only [hf, removeAt] <;> exact closeEarly_of_no_fills rfl

/-- A fill without an uncorrectable error installs its segment and serves its requests in order. -/
theorem fillDone_installs {ecc : EccResult} (he : ecc ≠ .uncorrectable) : fillDone n seg false ecc s =
    serveGu n (each rs guServe (modGu n (fun g => install seg (fillEnded ecc g)) s)) := by
  have he' : (ecc == .uncorrectable) = false := beq_eq_false_iff_ne.2 he
  have hu := modGu_fillEnded hf ecc
  simp only [fillDone, hf, findIdx, he', beq_self_eq_true, Bool.false_eq_true, if_false, if_true, List.getElem?_cons_zero,
    Option.map_some, Option.getD_some]
  rw [hu, modGu_modGu]

/-- One with an uncorrectable error is reported, and fails its requests. -/
theorem fillDone_uncorrectable : fillDone n seg false .uncorrectable s =
    serveGu n (each rs (fun r u => if segOf r.pa == seg then failReq r Code.memoryUncorrectable u else guServe r u)
      (guEvent 5 n (chanOfPa (segPa seg)) (bankHbm (segPa seg)) (rowOf (segPa seg)) 0 (modGu n (fillEnded .uncorrectable) s))) := by
  have hu := modGu_fillEnded hf .uncorrectable
  simp only [fillDone, hf, findIdx, beq_self_eq_true, Bool.false_eq_true, if_false, if_true, List.getElem?_cons_zero,
    Option.map_some, Option.getD_some]
  rw [hu]

end

/-- The merge window of the one fill closes (13 R201). -/
theorem exec_fillMergeWindow {s : State} {n seg : Nat} {rs : List Req} (hf : (guAt s n).fills = [(seg, false, rs)]) :
    exec (.fillMergeWindow n seg) s = .next { s with gus := KV.set n { guAt s n with fills := [(seg, true, rs)] } s.gus } := by
  refine congrArg Host.Outcome.next (modGu_eq ?_)
  simp only [hf, findIdx, beq_self_eq_true, Bool.not_false, Bool.and_self, if_true]
  rfl

/-- A unit that holds one segment. -/
def holding (seg : Nat) (dirty : Bool) (g : Gu) : Gu := { g with cached := [(seg, dirty)] }

theorem install_first {g : Gu} (h : g.cached = []) (seg : Nat) : install seg g = holding seg false g := by
  simp [install, holding, h, KV.upd, KV.get, KV.set, KV.drop, KV.insert]

theorem touchLine_only {g : Gu} {seg : Nat} {d : Bool} (h : g.cached = [(seg, d)]) : touchLine seg true g = holding seg true g := by
  simp [touchLine, holding, h, KV.upd, KV.set, KV.drop, KV.insert]

section
variable {s : State} {n seg : Nat} (hq : Quiet s)

/-- A write to the one segment that a unit without fills holds. -/
theorem guServe_write {r : Req} {b : Nat} {v : W64} {d : Bool} (hop : r.op = .write b v) (hn : guOfPa r.pa = n) (hs : segOf r.pa = seg)
    (hf : (guAt s n).fills = []) (hc : (guAt s n).cached = [(seg, d)]) :
    guServe r s = wrPa r.pa b v.toNat (modGu n (holding seg true) s) := by
  subst hn
  rw [guServe_of_no_fills hf, guHit_write hop, hs, modGu_congr (g := holding seg true) (touchLine_only hc)]

/-- The first write that a fill has waited for is performed as soon as its segment is installed. -/
theorem guServe_installed {ecc : EccResult} (hc : (guAt s n).cached = []) {r : Req} {b : Nat} {v : W64} (hop : r.op = .write b v)
    (hn : guOfPa r.pa = n) (hs : segOf r.pa = seg) :
    guServe r (modGu n (fun g => install seg (fillEnded ecc g)) s) =
      wrPa r.pa b v.toNat (modGu n (fun g => holding seg true (fillEnded ecc g)) s) := by
  have hi : modGu n (fun g => install seg (fillEnded ecc g)) s = modGu n (fun g => holding seg false (fillEnded ecc g)) s :=
    modGu_congr (f := fun g => install seg (fillEnded ecc g)) (install_first (g := fillEnded ecc (guAt s n)) hc seg)
  rw [hi, guServe_write (d := false) hop hn hs (by rw [guAt_modGu]; rfl) (by rw [guAt_modGu]; rfl), modGu_modGu]
  rfl

include hq

theorem exec_fillComplete_write {ecc : EccResult} {r : Req} {b : Nat} {v : W64} (hf : (guAt s n).fills = [(seg, false, [r])])
    (hc : (guAt s n).cached = []) (hop : r.op = .write b v) (hn : guOfPa r.pa = n) (hs : segOf r.pa = seg) (he : ecc ≠ .uncorrectable) :
    exec (.fillComplete n seg false ecc) s =
      .next (wrPa r.pa b v.toNat (modGu n (fun g => holding seg true (fillEnded ecc g)) s)) := by
  refine congrArg Host.Outcome.next ((fillDone_installs hf he).trans ?_)
  have h1 := guServe_installed (ecc := ecc) hc hop hn hs
  simp only [each, List.foldl_cons, List.foldl_nil, h1]
  exact serveGu_of_quiet (s := wrPa r.pa b v.toNat (modGu n (fun g => holding seg true (fillEnded ecc g)) s)) hq n

theorem exec_fillComplete_two {r1 r2 : Req} {b : Nat} {v1 v2 : W64} (hf : (guAt s n).fills = [(seg, false, [r1, r2])])
    (hc : (guAt s n).cached = []) (h1 : r1.op = .write b v1) (h2 : r2.op = .write b v2) (hp : r2.pa = r1.pa) (hn : guOfPa r1.pa = n)
    (hs : segOf r1.pa = seg) : ∃ t, exec (.fillComplete n seg false .clean) s = .next t ∧ (guAt t n).fills = [] ∧
      Wrote s t (paKey r1.pa) b v2.toNat := by
  let u := wrPa r1.pa b v1.toNat (modGu n (fun g => holding seg true (fillEnded .clean g)) s)
  have e1 : guServe r1 (modGu n (fun g => install seg (fillEnded .clean g)) s) = u := guServe_installed hc h1 hn hs
  have hu : guAt u n = holding seg true (fillEnded .clean (guAt s n)) :=
    guAt_modGu n (fun g => holding seg true (fillEnded .clean g)) s
  have e2 : guServe r2 u = wrPa r1.pa b v2.toNat (modGu n (holding seg true) u) := by
    rw [guServe_write (d := true) h2 (hp ▸ hn) (hp ▸ hs) (congrArg Gu.fills hu) (congrArg Gu.cached hu), hp]
  refine ⟨wrPa r1.pa b v2.toNat (modGu n (holding seg true) u),
    congrArg Host.Outcome.next ((fillDone_installs hf (by decide)).trans ?_), ?_, ?_⟩
  · simp only [each, List.foldl_cons, List.foldl_nil, e1, e2]
    exact serveGu_of_quiet (s := wrPa r1.pa b v2.toNat (modGu n (holding seg true) u)) hq n
  · exact congrArg Gu.fills ((guAt_modGu n (holding seg true) u).trans (congrArg _ hu))
  · intro x
    refine (wrote_wrPa (s := u) rfl r1.pa b v2.toNat x).trans ?_
    split
    · rfl
    · next hx => exact (wrote_wrPa (s := s) rfl r1.pa b v1.toNat x).trans (if_neg hx)

end

/-! ### A fill that cannot be corrected (13 R205) -/

/-- The write of a running seat whose segment cannot be corrected has failed; its context is still to be stopped. -/
def uncorrected (n seg : Nat) (r : Req) (s : State) : State :=
  report (.fault r.ctx Code.memoryUncorrectable) (modSeat r.fe r.seat (refusedSeat r Code.memoryUncorrectable)
    (guEvent 5 n (chanOfPa (segPa seg)) (bankHbm (segPa seg)) (rowOf (segPa seg)) 0 (modGu n (fillEnded .uncorrectable) s)))

section
variable {s : State} {n seg : Nat} {r : Req}

theorem guAt_uncorrected : guAt (uncorrected n seg r s) n = fillEnded .uncorrectable (guAt s n) :=
  guAt_modGu n (fillEnded .uncorrectable) s

/-- What is over once the context has been stopped. -/
theorem stopCtx_uncorrected (hk : r.seat < 4) (hc : (guAt s n).cached = [])
    (hx : (ctxAt s r.ctx).st = .preempting ∨ (ctxAt s r.ctx).st = .running) :
    let t := stopCtx r.ctx (uncorrected n seg r s)
    (Quiet s → Quiet t) ∧ t.mem = s.mem ∧ (guAt t n).fills = [] ∧ (guAt t n).cached = [] ∧ (seatAt t r.fe r.seat).deferred =
      (seatAt s r.fe r.seat).deferred ++ [refusalOf r Code.memoryUncorrectable] ∧ .fault r.ctx Code.memoryUncorrectable ∈ t.reports ∧
      if (ctxAt s r.ctx).st = .running then (ctxAt t r.ctx).st = .stopped ∧ .contextStopped r.ctx ∈ t.reports
      else (ctxAt t r.ctx).stopAfter = true := by
  intro t
  let u := uncorrected n seg r s
  have hfills : (guAt u n).fills = [] := congrArg Gu.fills guAt_uncorrected
  have hcached : (guAt u n).cached = [] := (congrArg Gu.cached guAt_uncorrected).trans hc
  have hdef : (seatAt u r.fe r.seat).deferred = (seatAt s r.fe r.seat).deferred ++ [refusalOf r Code.memoryUncorrectable] :=
    congrArg Seat.deferred (seatAt_modSeat _ _ _ _ hk)
  have hrep : .fault r.ctx Code.memoryUncorrectable ∈ u.reports := List.mem_append_right _ (List.mem_singleton_self _)
  rcases hx with hp | hr
  · have e : t = modCtx r.ctx (fun x => { x with stopAfter := true }) u := stopCtx_preempting (s := u) hp
    rw [e, hp, if_neg CtxState.noConfusion]
    exact ⟨id, rfl, hfills, hcached, hdef, hrep, congrArg Ctx.stopAfter (ctxAt_modCtx ..)⟩
  · have h := stopCtx_running (s := u) hr
    rw [if_pos hr]
    refine ⟨h.quiet, h.mem, h.fills n hfills, (h.cached n).trans hcached, (h.deferred _ _).trans hdef, ?_,
      (h.state r.ctx).trans (congrArg Ctx.st (ctxAt_report_modCtx ..)), ?_⟩
    · rw [h.reports]
      exact List.mem_append_left _ hrep
    · rw [h.reports]
      exact List.mem_append_right _ (List.mem_singleton_self _)

theorem exec_fillComplete_uncorrectable {b : Nat} {v : W64} (hf : (guAt s n).fills = [(seg, false, [r])])
    (hop : r.op = .write b v) (hs : segOf r.pa = seg) (hfar : r.far = none) (hk : r.seat < 4)
    (hst : (seatAt s r.fe r.seat).st = .running) (hctx : (seatAt s r.fe r.seat).ctx = r.ctx)
    (hq : Quiet (stopCtx r.ctx (uncorrected n seg r s))) :
    exec (.fillComplete n seg false .uncorrectable) s = .next (stopCtx r.ctx (uncorrected n seg r s)) := by
  refine congrArg Host.Outcome.next ((fillDone_uncorrectable hf).trans ?_)
  let u := guEvent 5 n (chanOfPa (segPa seg)) (bankHbm (segPa seg)) (rowOf (segPa seg)) 0 (modGu n (fillEnded .uncorrectable) s)
  have hfail : failReq r Code.memoryUncorrectable u = stopCtx r.ctx (uncorrected n seg r s) := by
    rw [failReq_refuses (by simp only [asksNothing, hop]) hfar (by simp only [isSpillRead, hop]),
      refuseReq_uncorrectable (s := u) hst hctx hk]
    rfl
  simp only [each, List.foldl_cons, List.foldl_nil, hs, beq_self_eq_true, if_true]
  rw [hfail]
  exact serveGu_of_quiet hq n

end

/-! ### Row swaps (13 R206) -/

section
variable {s : State} {n ch bank row : Nat}

/-- A unit whose row `key` is being copied to the spare `sp`; the row's count begins again. -/
def swapped (key sp : Nat) (g : Gu) : Gu := { g with
  hot := KV.drop (rowAt g key) g.hot, indir := KV.set key sp g.indir, copying := key :: g.copying }

/-- A hot row goes to a spare that no row of its bank is on. -/
theorem exec_rowSwap (he : (guAt s n).swapen = true) (hh : rowHot (guAt s n) (rowKey ch bank row) = true)
    (hc : rowKey ch bank row ∉ (guAt s n).copying) (hs : freeSpares (guAt s n) ch bank ≠ []) :
    ∃ sp ∈ freeSpares (guAt s n) ch bank, exec (.rowSwap n ch bank row) s = .next (guEvent 1 n ch bank row sp
      { modGu n (swapped (rowKey ch bank row) sp) s with fresh := s.fresh + 1 }) := by
  obtain ⟨x, rest, hl⟩ := List.exists_cons_of_ne_nil hs
  have hlt : Config.spareDraw s.fresh % (x :: rest).length < (x :: rest).length := Nat.mod_lt _ (Nat.succ_pos _)
  have hsp : (x :: rest).getD (Config.spareDraw s.fresh % (x :: rest).length) x ∈ x :: rest := by
    rw [List.getD_eq_getElem?_getD, List.getElem?_eq_getElem hlt, Option.getD_some]
    exact List.getElem_mem hlt
  have hgo : (!(guAt s n).swapen || !rowHot (guAt s n) (rowKey ch bank row) ||
      (guAt s n).copying.contains (rowKey ch bank row)) = false := by simp [he, hh, hc]
  refine ⟨_, hl ▸ hsp, congrArg Host.Outcome.next ?_⟩
  simp only [rowSwap, hgo, hl, Bool.false_eq_true, if_false]
  rfl

theorem exec_rowSwap_disabled (h : (guAt s n).swapen = false) : exec (.rowSwap n ch bank row) s = .next s := by
  refine congrArg Host.Outcome.next ?_
  simp only [rowSwap, h, Bool.not_false, Bool.true_or, if_true]

/-- A unit whose copy of the row `key` has ended. -/
def copied (key : Nat) (g : Gu) : Gu := { g with
  copying := g.copying.filter (· != key), rowWait := g.rowWait.filter fun r => keyOf r.pa != key }

variable (hq : Quiet s) (hc : rowKey ch bank row ∈ (guAt s n).copying)
include hq hc

theorem exec_rowCopyComplete_none (hw : (guAt s n).rowWait = []) (hf : (guAt s n).fills = []) :
    exec (.rowCopyComplete n ch bank row) s = .next { s with
      gus := KV.set n { guAt s n with copying := (guAt s n).copying.filter (· != rowKey ch bank row) } s.gus } := by
  have hend : closeEarly (copied (rowKey ch bank row) (guAt s n)) =
      { guAt s n with copying := (guAt s n).copying.filter (· != rowKey ch bank row) } := by
    rw [closeEarly_of_no_fills (g := copied _ (guAt s n)) hf]
    simp [copied, hw]
  have hgo : rowCopied n ch bank row s =
      serveGu n (modGu n closeEarly (modGu n (copied (rowKey ch bank row)) s)) := by
    simp [rowCopied, hc, hw, each]
    rfl
  rw [modGu_modGu, serveGu_of_quiet (s := modGu n _ s) hq n] at hgo
  exact congrArg Host.Outcome.next (hgo.trans (modGu_eq hend))

theorem exec_rowCopyComplete_one {r : Req} (hw : (guAt s n).rowWait = [r]) (hf : (guAt s n).fills = [])
    (hm : (guAt s n).cached = []) (hk : keyOf r.pa = rowKey ch bank row) (hn : guOfPa r.pa = n) :
    ∃ t, exec (.rowCopyComplete n ch bank row) s = .next t ∧ t.mem = s.mem ∧ rowKey ch bank row ∉ (guAt t n).copying ∧
      (guAt t n).rowWait = [] ∧ (guAt t n).fills.map (fun f => (f.1, f.2.2)) = [(segOf r.pa, [r])] := by
  let u := modGu n (copied (rowKey ch bank row)) s
  have hu : guAt u n = copied (rowKey ch bank row) (guAt s n) := guAt_modGu ..
  have hnone : rowKey ch bank row ∉ (guAt u n).copying := by simp [hu, copied]
  have htake : guTake r u = modGu n (fillBegun r) u := by
    subst hn
    exact guTake_miss (hk ▸ hnone) (by rw [hu]; exact hf) (by rw [hu, copied, hm]; rfl)
  have hgo : rowCopied n ch bank row s = serveGu n (modGu n closeEarly (guTake r u)) := by
    simp [rowCopied, hc, hw, hk, each]
    rfl
  rw [htake, modGu_modGu] at hgo
  have ht := guAt_modGu n (fun g => closeEarly (fillBegun r g)) u
  obtain ⟨hcopy, hwait⟩ := fillBegun_frame (r := r) (guAt u n)
  refine ⟨_, congrArg Host.Outcome.next (hgo.trans (serveGu_of_quiet (s := modGu n _ u) hq n)), rfl, ?_, ?_, ?_⟩
  · rw [ht]
    exact hcopy.symm ▸ hnone
  · rw [ht]
    refine hwait.trans ?_
    simp [hu, copied, hw, hk]
  · rw [ht, requests_closeEarly, requests_fillBegun (hu ▸ hf)]

end

/-! ### Refresh takeover (13 R209) -/

section
variable {s : State} {n : Nat}

/-- The second heartbeat missed in a row is reported, and a unit that may take refresh over does. -/
def secondMissed (g : Gu) : Gu := { g with missed := 2, rfown := g.takeen }

theorem exec_heartbeatMissed_second (ho : (guAt s n).rfown = false) (hm : (guAt s n).missed = 1) :
    exec (.heartbeatMissed n) s = .next (guEvent 3 n 0 0 0 0 (modGu n secondMissed s)) := by
  have hgo : ((guAt s n).missed + 1 == 2 && !(guAt s n).rfown) = true := by rw [hm, ho]; rfl
  refine congrArg Host.Outcome.next ?_
  simp only [heartMiss, hgo, if_true, modGu_modGu]
  refine congrArg (guEvent 3 n 0 0 0 0) ?_
  cases ht : (guAt s n).takeen
  · exact modGu_congr (by simp [secondMissed, ho, hm, ht])
  · exact modGu_congr (by simp [secondMissed, hm, ht])

theorem exec_heartbeatMissed_first (hm : (guAt s n).missed = 0) : exec (.heartbeatMissed n) s =
    .next { s with gus := KV.set n { guAt s n with missed := 1 } s.gus } := by
  have hgo : ((guAt s n).missed + 1 == 2 && !(guAt s n).rfown) = false := by rw [hm]; rfl
  refine congrArg Host.Outcome.next ?_
  simp only [heartMiss, hgo, Bool.false_eq_true, if_false]
  exact modGu_eq (by rw [hm])

/-- A unit with HANDBACK armed gives refresh back at the next heartbeat. -/
def handedBack (g : Gu) : Gu := { g with missed := 0, rfown := false, handback := false }

theorem exec_heartbeatReceived_hands (ho : (guAt s n).rfown = true) (hb : (guAt s n).handback = true) :
    exec (.heartbeatReceived n) s = .next (guEvent 4 n 0 0 0 0 (modGu n handedBack s)) := by
  refine congrArg Host.Outcome.next ?_
  simp only [heartbeat, ho, hb, Bool.and_self, if_true, modGu_modGu]
  rfl

theorem exec_heartbeatReceived_keeps (hb : (guAt s n).handback = false) : exec (.heartbeatReceived n) s =
    .next { s with gus := KV.set n { guAt s n with missed := 0 } s.gus } := by
  have hgo : ((guAt s n).handback && (guAt s n).rfown) = false := by rw [hb]; rfl
  refine congrArg Host.Outcome.next ?_
  simp only [heartbeat, hgo, Bool.false_eq_true, if_false]
  rfl

theorem exec_handback_arms (ho : (guAt s n).rfown = true) (hm : (guAt s n).missed = 0) : exec (.handback n) s =
    .next { s with gus := KV.set n { guAt s n with handback := true } s.gus } :=
  congrArg Host.Outcome.next (modGu_eq (by simp [ho, hm]))

theorem exec_handback_ignored (hm : (guAt s n).missed ≠ 0) : exec (.handback n) s =
    .next { s with gus := KV.set n (guAt s n) s.gus } :=
  congrArg Host.Outcome.next (modGu_eq (by simp [hm]))

end

/-! ### The obligation -/

/-- Settles O59: the end of a fill comes to its requests in their order, or to the stop of a context, which leaves what the units
hold as it is; swaps and refresh are one update of the unit each, and where a copy ends its request goes on as any other. -/
theorem gatherUnitsFillSwapAndRefresh : Obligations.GatherUnitsFillSwapAndRefresh := by
  unfold Obligations.GatherUnitsFillSwapAndRefresh
  intro s n seg g set quiet
  refine ⟨fun r b v hq hf hc hop hn hs hfar => ⟨fun ecc he => ?_, fun hk hst hctx hx => ?_⟩,
    fun r1 r2 b v1 v2 hq hf hc h1 h2 hp hn hs => exec_fillComplete_two hq hf hc h1 h2 hp hn hs, exec_fillMergeWindow,
    fun ch bank row => ⟨fun he hh hc hs => ?_, exec_rowSwap_disabled, exec_rowCopyComplete_none,
      fun r hq hc hw hf hm hk hn => exec_rowCopyComplete_one hq hc hw hf hm hk hn⟩, rfl, fun ho hm => ?_, exec_heartbeatMissed_first,
    exec_handback_arms, exec_handback_ignored, fun ho hb => ?_, exec_heartbeatReceived_keeps, rfl⟩
  · -- a fill that is installed
    have hgu := guAt_modGu n (fun g => holding seg true (fillEnded ecc g)) s
    exact ⟨_, exec_fillComplete_write hq hf hc hop hn hs he, wrote_wrPa (s := s) rfl r.pa b v.toNat,
      congrArg Gu.fills hgu, congrArg Gu.cached hgu, congrArg Gu.corrected hgu⟩
  · -- one that cannot be corrected
    obtain ⟨hquiet, h⟩ := stopCtx_uncorrected (n := n) (seg := seg) hk hc hx
    exact ⟨_, exec_fillComplete_uncorrectable hf hop hs hfar hk hst hctx (hquiet hq), h⟩
  · -- a row that is swapped
    obtain ⟨sp, hsp, hex⟩ := exec_rowSwap he hh hc hs
    have hgu := guAt_modGu n (swapped (rowKey ch bank row) sp) s
    exact ⟨_, sp, hex, hsp, (congrArg (fun g : Gu => KV.find (rowKey ch bank row) g.indir) hgu).trans (KV.find_set_same ..),
      congrArg Gu.copying hgu, rfl⟩
  · -- the takeover of refresh
    have hgu := guAt_modGu n secondMissed s
    exact ⟨_, exec_heartbeatMissed_second ho hm, congrArg Gu.rfown hgu, congrArg Gu.missed hgu, List.length_append⟩
  · -- its end
    have hgu := guAt_modGu n handedBack s
    exact ⟨_, exec_heartbeatReceived_hands ho hb, congrArg Gu.rfown hgu, congrArg Gu.handback hgu, congrArg Gu.missed hgu,
      List.length_append⟩

end Sys2Proof
end
